-- ==== Sys2Proof/Word.lean ====
section
/-!
DEFINITION. The words of the machine and the sparse map that holds every indexed part of the state
(spec 02 R24, spec 12 R182).
-/

namespace Sys2Proof

/-- One byte of memory (spec 12 R182). -/
abbrev Byte := BitVec 8

/-- One 32-bit lane value of a vector register (spec 02 R24). -/
abbrev Word := BitVec 32

/-- One 64-bit instruction word, register pair or address (spec 03 R39). -/
abbrev DWord := BitVec 64

/-- One bit for each of a wave's 32 lanes: a k register, x or o (spec 06 R99). -/
abbrev Mask := BitVec 32

/-- A finite map from numbers. In canonical form the keys rise strictly and no entry equals the
value that an unlisted key reads as. -/
abbrev AMap (β : Type) := List (Nat × β)

/-- The mask that holds every lane (spec 06 R99). -/
def allLanes : Mask := 0xFFFF_FFFF#32

/-- The number of lanes of a wave, %gw (spec 02 R24). -/
abbrev gw : Nat := 32

end Sys2Proof
end

