-- ==== Sys2Proof/Syntax.lean ====
section
/-!
DEFINITION. The syntax of the DZ9: one constructor of `Instr` for each row of the opcode table.
Wave instructions bear their head (spec 03 R39) and the fields of their format (R14, R49 to R59);
matrix-sequencer words the fields of R65; device events the parameters that say what took place.
-/

namespace Sys2Proof

/-- The eight rates (spec 03 R39). -/
inductive Rate | K | F | O | C | V | P | S | Y
  deriving DecidableEq, Repr

/-- The type codes (spec 03 R47). -/
inductive Ty | n32 | i32 | n64 | i64 | f16 | bf16 | f32 | f64 | e4m3 | e5m2 | e2m1
  deriving DecidableEq, Repr

/-- Bits 63:44 of a first word, without the major opcode and the ext bit (spec 03 R39). -/
structure Head where
  gate  : Bool
  rate  : Rate
  guard : BitVec 4
  gneg  : Bool
  hints : BitVec 4
  deriving DecidableEq, Repr

/-- The ALU format (spec 03 R49); `ext` is the extension word where bit 48 is set. -/
structure AluF where
  d   : BitVec 8
  a   : BitVec 8
  b   : BitVec 8
  c   : BitVec 8
  ty  : Ty
  imm : Bool
  mod : BitVec 3
  ext : Option DWord
  deriving DecidableEq, Repr

/-- The access sizes (spec 01 R14). -/
inductive Size | b8 | b16 | b32 | b64 | b128
  deriving DecidableEq, Repr

/-- The ordering field (spec 01 R14). -/
inductive Order | weak | acq | rel | acqrel
  deriving DecidableEq, Repr

/-- The address fields of the memory format (spec 01 R14). -/
structure AddrF where
  base  : BitVec 7
  idx   : Bool
  index : BitVec 8
  scl   : Bool
  disp  : BitVec 8
  deriving DecidableEq, Repr

/-- The memory format (spec 01 R14); `obs` is the observer mask, bit 0 C, 1 E, 2 M, 3 P, 4 H. -/
structure MemF where
  data  : BitVec 8
  addr  : AddrF
  size  : Size
  order : Order
  obs   : BitVec 5
  deriving DecidableEq, Repr

/-- The atomic operations in the order of their codes (spec 03 R52). -/
inductive AtomOp | add | sub | min | max | and | or | xor | exch | cas | inc | dec
  deriving DecidableEq, Repr

/-- The kind of an atomic (spec 03 R52). -/
inductive Kind | unsigned | signed | float
  deriving DecidableEq, Repr

/-- The extension word of an atomic (spec 03 R52), without its operation. -/
structure AtomF where
  a     : BitVec 8
  b     : BitVec 8
  kind  : Kind
  imm   : Bool
  ret   : Bool
  value : BitVec 32
  deriving DecidableEq, Repr

/-- The special registers (spec 03 R57). -/
inductive Special
  | lane | wave | grp | ngrp | gsize | gw | elem | core | die | cyc | fflags | tcause | tpc | tinst
  | ncores | nslices | nchans | nports | rev | feat
  deriving DecidableEq, Repr

/-- The comparisons of waitu (spec 03 R58). -/
inductive WCmp | eq | ne | ge | lt | any | none
  deriving DecidableEq, Repr

/-- The waitu format (spec 03 R58); `ext` is the limit in the extension word. -/
structure WaituF where
  d       : BitVec 8
  base    : BitVec 7
  operand : BitVec 8
  limit   : BitVec 8
  cmp     : WCmp
  signed  : Bool
  wide    : Bool
  disp    : BitVec 8
  ext     : Option (BitVec 32)
  deriving DecidableEq, Repr

/-- The sweep format with its extension word (spec 03 R59). -/
structure SweepF where
  d     : BitVec 8
  a     : BitVec 8
  b     : BitVec 8
  count : BitVec 12
  ty    : Ty
  stepD : BitVec 16
  stepA : BitVec 16
  stepB : BitVec 16
  deriving DecidableEq, Repr

/-- The matrix types (spec 03 R65). -/
inductive MTy | e2m1 | e4m3 | e5m2 | bf16 | int8
  deriving DecidableEq, Repr

/-- The scalar layout of an MSQ word (spec 03 R65). -/
structure MsqS where
  d     : BitVec 5
  a     : BitVec 5
  b     : BitVec 5
  imm   : Bool
  value : BitVec 32
  deriving DecidableEq, Repr

/-- The branch layout of an MSQ word (spec 03 R65). -/
structure MsqB where
  a   : BitVec 5
  b   : BitVec 5
  off : BitVec 32
  deriving DecidableEq, Repr

/-- An entry of the export table (spec 16 R254): a source node and a fabric key, and the ASID and the
permissions that they give. -/
structure Export where
  node : BitVec 22
  key  : Nat
  asid : Nat
  r    : Bool
  w    : Bool
  x    : Bool
  deriving DecidableEq, Repr

/-- The outcome of training (spec 16 R249): the failure cause, 0 for success, and the surviving
counts of cores, slices and channels of each die and of ports (spec 00 R9); beside it what the management
firmware sets at bring-up: the node identifier and the route table, as nodes with their ports (spec 16
R253), the export table (R254), the page-table and region-home-map roots of ASID 0 (spec 15 R227, spec 11
R177), the starvation limit (spec 15 R240) and the low-water mark of each frame pool (R239). -/
structure TrainResult where
  cause  : BitVec 8
  cores0 : Nat
  cores1 : Nat
  slices0 : Nat
  slices1 : Nat
  chans0 : Nat
  chans1 : Nat
  ports  : Nat
  node   : BitVec 22
  routes : List (BitVec 22 × Nat)
  exports : List Export
  root0  : Nat
  homeRoot0 : Nat
  starvation : Nat
  lowWater0 : Nat
  lowWater1 : Nat
  deriving DecidableEq, Repr

/-- What the firmware has assigned to a context before its enable bit is set (spec 16 R250): its ASID, the
roots of its page table (spec 15 R227) and region home map (spec 11 R177), its fabric key (R254) and its
signature policy (spec 04 R86), which it gives the context where `created` says that it has created it anew
since the number was last enabled; and at each enabling the park threshold in core cycles and the ranks of the
context and of its queues, by number (spec 07 R118). -/
structure FwContext where
  created  : Bool
  asid     : BitVec 16
  root     : Nat
  homeRoot : Nat
  key      : BitVec 16
  unsigned_ : Bool
  signers  : List (List Byte)
  park     : BitVec 32
  rank     : BitVec 32
  ranks    : List (BitVec 4 × BitVec 32)
  deriving DecidableEq, Repr

/-- Where a load maps its object (spec 04 R71): the base that the driver chooses; and what the driver gives the
mapping: 4 KiB-aligned addresses of memory for page-table levels that the ASID lacks, and the numbers of the
64 KiB frames of the object's pages, each in order of use (log entry 107). -/
structure LoadPlace where
  base   : Nat
  tables : List Nat
  frames : List Nat
  deriving DecidableEq, Repr

/-- A write of a context's enable register (spec 16 R251), and what the firmware sets with it. -/
structure EnableWrite where
  value : BitVec 32
  fw    : FwContext
  deriving DecidableEq, Repr

/-- What an access from outside the device does (spec 16 R247): the bytes it writes, or the number of
bytes it reads. -/
inductive OutAcc
  | read  (size : Nat)
  | write (bytes : List Byte)
  deriving DecidableEq, Repr

/-- What the serving device answers to an access over the Ibene link (spec 14 R224, spec 16 R254): the
bytes read or an acknowledgement, a status of a waitu that has ended, a wait that stands, or a fault. -/
inductive PeerReply
  | data (bytes : List Byte)
  | status (n : Nat)
  | parked
  | perm
  | notPresent
  | ecc
  deriving DecidableEq, Repr

/-- What travels over the Ibene link to the memory of another device (spec 13 R213, spec 14 R214,
spec 16 R254): a load, a store, an atomic with its operation and its operands a and b, an instruction
fetch, a registration of a waitu with its class, or the cancel of the wait that a request of the same device
has registered, by that request's number (R222). -/
inductive PeerAcc
  | read  (size : Nat)
  | write (bytes : List Byte)
  | atomic (op : AtomOp) (kind : Kind) (wide : Bool) (a b : Nat)
  | fetch (size : Nat)
  | wait (cmp : WCmp) (signed wide : Bool) (operand limit cls : Nat)
  | cancel (id : Nat)
  deriving DecidableEq, Repr

/-- What arrives over the Ibene link beside a request's number and a fabric key: an access of another device,
with its address and observer set; or the answer to one of the device's own requests, whose key says nothing. -/
inductive PeerMsgIn
  | access (va : Nat) (obs : BitVec 5) (acc : PeerAcc)
  | answer (r : PeerReply)
  deriving DecidableEq, Repr

/-- A voltage and frequency island (spec 00 R8), by its number in its row of the table. -/
inductive Island
  | coreVector (core : Nat)
  | coreMatrix (core : Nat)
  | slice (slice : Nat)
  | channel (channel : Nat)
  | port (port : Nat)
  | dispatch (core : Nat)
  | collective (engine : Nat)
  | hostModule (module_ : Nat)
  | bridge (die : Nat)
  | security (n : Nat)
  deriving DecidableEq, Repr

/-- One access of a collective engine's firmware (spec 16 R255): a read of bytes or a write. -/
structure EngineAcc where
  va  : Nat
  acc : OutAcc
  deriving DecidableEq, Repr

/-- What an engine makes of a command (spec 04 R84, spec 16 R255): the firmware image that it runs for it, and
the accesses that the image makes. -/
structure EngineRun where
  image    : List Byte
  accesses : List EngineAcc
  deriving DecidableEq, Repr

/-- Where an uncorrected soft error lies (spec 15 R245, spec 22 R329), or a corrected one. -/
inductive SoftSite
  | corrected (island : Island)
  | l1Line (core : Nat) (asid : Nat) (line : Nat)
  | l2Line (asid : Nat) (line : Nat)
  | tlbEntry (unit : Nat) (asid : Nat) (va : Nat)
  | frameLine (pa : Nat)
  | registerFile (group : Nat)
  | scratchpad (group : Nat)
  | fetched (unit : Nat)
  | msqRegister (core : Nat)
  | msqFetched (core : Nat)
  | accumulator (core : Nat) (kib : Nat)
  | bank (core : Nat) (bank : Nat)
  | sideMemory (core : Nat) (region : Nat)
  deriving DecidableEq, Repr

/-- One constructor for each row of spec/opcode_table.json. -/
inductive Instr
  /-- Does nothing; when gated it drains every outstanding result. (R139) -/
  | NOP (h : Head)
  /-- Waits as though gated, then every lane of the unit's own-mask exits and its allocation is freed for the group. (R139) -/
  | EXIT (h : Head)
  /-- Raises the precise TRAP cause with a 16-bit software code in %tcause. (R139) -/
  | TRAP (h : Head) (code : BitVec 16)
  /-- Raises the precise BRK cause; the handler reads the code from %tinst. (R139) -/
  | BRK (h : Head) (code : BitVec 16)
  /-- Ends the trap handler and resumes the wave at %tpc. (R20) -/
  | TRET (h : Head)
  /-- Stops the unit for a pending pre-emption, retires it if its launch is cancelled, and otherwise does nothing. (R140) -/
  | SAFEPT (h : Head) (idx : BitVec 12)
  /-- Sets the wave's idempotent-region bit. (R126) -/
  | IDEM_BEGIN (h : Head)
  /-- Clears the wave's idempotent-region bit. (R126) -/
  | IDEM_END (h : Head)
  /-- Lanes that are open under the token arrive and are written to spawn memory as a waiting record; other lanes pass through. (R106) -/
  | MEET (h : Head) (token : BitVec 12)
  /-- Drops the lines of a range from every core's instruction caches and MSQ program caches, ordered as a store to the range. (R142) -/
  | ICINV (h : Head) (base : BitVec 7) (len : BitVec 8)
  /-- Waits for the wave's earlier icinv operations to complete, then discards the fetch run-ahead. (R143) -/
  | IFENCE (h : Head)
  /-- Moves the whole wave to a PC-relative target when the guard passes. (R134) -/
  | BRA (h : Head) (off : BitVec 32)
  /-- Writes PC+8 to the link pair and branches to a PC-relative target. (R134) -/
  | CALL (h : Head) (link : BitVec 8) (off : BitVec 32)
  /-- Branches to the address in the leader's target pair. (R134) -/
  | JMP (h : Head) (target : BitVec 8)
  /-- Branches to the address in the leader's return pair. (R134) -/
  | RET (h : Head) (link : BitVec 8)
  /-- Branches through a table indexed by the leader's index register. (R134) -/
  | BRX (h : Head) (index : BitVec 8) (off : BitVec 32)
  /-- Detaches the lanes in kN and x as a fragment record at the target, opening the lanes of x under the join token. (R135) -/
  | FORK (h : Head) (k : BitVec 4) (live : BitVec 12) (join : BitVec 12) (off : BitVec 32)
  /-- Reads a special register into the lanes of the acting set. (R141) -/
  | SYSR (h : Head) (d : BitVec 8) (sp : Special)
  /-- Writes the leader's value to a writable special register (%fflags, or %tpc inside a handler). (R141) -/
  | SYSW (h : Head) (sp : Special) (s : BitVec 8)
  /-- Writes kA AND kB to a k register. (R136) -/
  | KAND (h : Head) (f : AluF)
  /-- Writes kA OR kB to a k register. (R136) -/
  | KOR (h : Head) (f : AluF)
  /-- Writes kA XOR kB to a k register. (R136) -/
  | KXOR (h : Head) (f : AluF)
  /-- Writes NOT kA to a k register. (R136) -/
  | KNOT (h : Head) (f : AluF)
  /-- With mod 0, copies one k register to another. (R136) -/
  | KMOV_K_K (h : Head) (f : AluF)
  /-- With mod 1, copies the leader's v value to a k register. (R136) -/
  | KMOV_K_V (h : Head) (f : AluF)
  /-- With mod 2, copies a k mask into the lanes of the acting set of a v register. (R136) -/
  | KMOV_V_K (h : Head) (f : AluF)
  /-- Writes the population count of a k register to the lanes of the acting set. (R136) -/
  | KPOP (h : Head) (f : AluF)
  /-- Writes the lowest set lane of a k register, or 32 when it is empty. (R136) -/
  | KFFS (h : Head) (f : AluF)
  /-- Copies the execution mask x to a k register. (R137) -/
  | XGET (h : Head) (f : AluF)
  /-- Sets x to kA AND the own-mask. (R137) -/
  | XSET (h : Head) (f : AluF)
  /-- Narrows x to x AND kA. (R137) -/
  | XAND (h : Head) (f : AluF)
  /-- Integer add, wrapping or saturating, per lane. (R151) -/
  | ADD (h : Head) (f : AluF)
  /-- Integer subtract, wrapping or saturating, per lane. (R151) -/
  | SUB (h : Head) (f : AluF)
  /-- Add with carry in and carry out through a lane mask. (R152) -/
  | ADDC (h : Head) (f : AluF)
  /-- Subtract with borrow in and borrow out through a lane mask. (R152) -/
  | SUBB (h : Head) (f : AluF)
  /-- Integer negate modulo 2^W. (R151) -/
  | NEG (h : Head) (f : AluF)
  /-- Integer absolute value modulo 2^W. (R151) -/
  | ABS (h : Head) (f : AluF)
  /-- Integer minimum, signed or unsigned by type. (R151) -/
  | MIN (h : Head) (f : AluF)
  /-- Integer maximum, signed or unsigned by type. (R151) -/
  | MAX (h : Head) (f : AluF)
  /-- Low W bits of the product. (R151) -/
  | MUL_LO (h : Head) (f : AluF)
  /-- High W bits of the exact product. (R151) -/
  | MUL_HI (h : Head) (f : AluF)
  /-- (a × b + c) modulo 2^W. (R151) -/
  | MAD (h : Head) (f : AluF)
  /-- Bitwise AND. (R153) -/
  | AND (h : Head) (f : AluF)
  /-- Bitwise OR. (R153) -/
  | OR (h : Head) (f : AluF)
  /-- Bitwise XOR. (R153) -/
  | XOR (h : Head) (f : AluF)
  /-- Bitwise NOT. (R153) -/
  | NOT (h : Head) (f : AluF)
  /-- Shift left; a count of W or more gives 0. (R153) -/
  | SHL (h : Head) (f : AluF)
  /-- Logical shift right; a count of W or more gives 0. (R153) -/
  | SHR (h : Head) (f : AluF)
  /-- Arithmetic shift right, with the count clamped. (R153) -/
  | SRA (h : Head) (f : AluF)
  /-- Extracts a bit field, with offset and width clamped. (R154) -/
  | BFE (h : Head) (f : AluF)
  /-- Inserts a bit field into the destination. (R154) -/
  | BFI (h : Head) (f : AluF)
  /-- Counts the set bits. (R153) -/
  | POPC (h : Head) (f : AluF)
  /-- Counts the leading zero bits. (R153) -/
  | CLZ (h : Head) (f : AluF)
  /-- Counts the trailing zero bits. (R153) -/
  | CTZ (h : Head) (f : AluF)
  /-- Reverses the bit order. (R153) -/
  | BREV (h : Head) (f : AluF)
  /-- Copies a register or pair. (R155) -/
  | MOV (h : Head) (f : AluF)
  /-- Loads an immediate. (R155) -/
  | MOVI (h : Head) (f : AluF)
  /-- Selects a or b per lane by a k mask. (R155) -/
  | SEL (h : Head) (f : AluF)
  /-- Forms a + (b << s) as a 64-bit pair. (R155) -/
  | LEA (h : Head) (f : AluF)
  /-- Writes the relocated 64-bit symbol address from the extension word. (R155) -/
  | LEA_SYMBOL (h : Head) (f : AluF)
  /-- Sets kD lanes where a equals b. (R138) -/
  | CMP_EQ (h : Head) (f : AluF)
  /-- Sets kD lanes where a differs from b. (R138) -/
  | CMP_NE (h : Head) (f : AluF)
  /-- Sets kD lanes where a is less than b. (R138) -/
  | CMP_LT (h : Head) (f : AluF)
  /-- Sets kD lanes where a is at most b. (R138) -/
  | CMP_LE (h : Head) (f : AluF)
  /-- Sets kD lanes where a is greater than b. (R138) -/
  | CMP_GT (h : Head) (f : AluF)
  /-- Sets kD lanes where a is at least b. (R138) -/
  | CMP_GE (h : Head) (f : AluF)
  /-- Sets kD lanes where neither float operand is a NaN. (R138) -/
  | CMP_NUM (h : Head) (f : AluF)
  /-- Sets kD lanes where either float operand is a NaN. (R138) -/
  | CMP_NAN (h : Head) (f : AluF)
  /-- FP32 add, rounded once. (R159) -/
  | FADD (h : Head) (f : AluF)
  /-- FP32 subtract, rounded once. (R159) -/
  | FSUB (h : Head) (f : AluF)
  /-- FP32 multiply, rounded once. (R159) -/
  | FMUL (h : Head) (f : AluF)
  /-- FP32 fused multiply-add. (R159) -/
  | FFMA (h : Head) (f : AluF)
  /-- minimumNumber of two floats. (R159) -/
  | FMIN (h : Head) (f : AluF)
  /-- maximumNumber of two floats. (R159) -/
  | FMAX (h : Head) (f : AluF)
  /-- Clears the sign bit. (R159) -/
  | FABS (h : Head) (f : AluF)
  /-- Inverts the sign bit. (R159) -/
  | FNEG (h : Head) (f : AluF)
  /-- Rounds to an integral value in the mod direction. (R159) -/
  | FRND (h : Head) (f : AluF)
  /-- Writes a 32-bit ordering code of two floats. (R159) -/
  | FCMP (h : Head) (f : AluF)
  /-- Converts between types, rounding and then saturating. (R160) -/
  | FCVT (h : Head) (f : AluF)
  /-- FP64 add. (R159) -/
  | DADD (h : Head) (f : AluF)
  /-- FP64 subtract. (R159) -/
  | DSUB (h : Head) (f : AluF)
  /-- FP64 multiply. (R159) -/
  | DMUL (h : Head) (f : AluF)
  /-- FP64 fused multiply-add. (R159) -/
  | DFMA (h : Head) (f : AluF)
  /-- Two independent half-precision fused multiply-adds per register. (R159) -/
  | HFMA2 (h : Head) (f : AluF)
  /-- Each lane reads the lane given by b. (R163) -/
  | SHFL_IDX (h : Head) (f : AluF)
  /-- Each lane reads the lane b positions below it. (R163) -/
  | SHFL_UP (h : Head) (f : AluF)
  /-- Each lane reads the lane b positions above it. (R163) -/
  | SHFL_DOWN (h : Head) (f : AluF)
  /-- Each lane reads the lane at its position XOR b. (R163) -/
  | SHFL_XOR (h : Head) (f : AluF)
  /-- Broadcasts the value of the lane that the leader names. (R163) -/
  | BCAST (h : Head) (f : AluF)
  /-- Tests whether any active lane is set in kA. (R164) -/
  | VOTE_ANY (h : Head) (f : AluF)
  /-- Tests whether every active lane is set in kA. (R164) -/
  | VOTE_ALL (h : Head) (f : AluF)
  /-- Tests whether every active lane holds an equal value. (R164) -/
  | VOTE_EQ (h : Head) (f : AluF)
  /-- Writes the mask of active lanes that hold an equal value. (R164) -/
  | MATCH (h : Head) (f : AluF)
  /-- Sum over the active lanes, folded in lane order. (R165) -/
  | RED_ADD (h : Head) (f : AluF)
  /-- Minimum over the active lanes. (R165) -/
  | RED_MIN (h : Head) (f : AluF)
  /-- Maximum over the active lanes. (R165) -/
  | RED_MAX (h : Head) (f : AluF)
  /-- AND over the active lanes. (R165) -/
  | RED_AND (h : Head) (f : AluF)
  /-- OR over the active lanes. (R165) -/
  | RED_OR (h : Head) (f : AluF)
  /-- XOR over the active lanes. (R165) -/
  | RED_XOR (h : Head) (f : AluF)
  /-- Inclusive or exclusive prefix sum over the active lanes. (R165) -/
  | SCAN_ADD (h : Head) (f : AluF)
  /-- Prefix minimum over the active lanes. (R165) -/
  | SCAN_MIN (h : Head) (f : AluF)
  /-- Prefix maximum over the active lanes. (R165) -/
  | SCAN_MAX (h : Head) (f : AluF)
  /-- Prefix AND over the active lanes. (R165) -/
  | SCAN_AND (h : Head) (f : AluF)
  /-- Prefix OR over the active lanes. (R165) -/
  | SCAN_OR (h : Head) (f : AluF)
  /-- Prefix XOR over the active lanes. (R165) -/
  | SCAN_XOR (h : Head) (f : AluF)
  /-- Loads memory into registers per lane, weak or acquire, as a long-latency result. (R183) -/
  | LD (h : Head) (f : MemF)
  /-- Stores registers to memory per lane, writing through to the home slice. (R185) -/
  | ST (h : Head) (f : MemF)
  /-- Loads from the group's scratchpad. (R186) -/
  | LDS (h : Head) (f : MemF)
  /-- Stores to the group's scratchpad. (R186) -/
  | STS (h : Head) (f : MemF)
  /-- Atomic add per lane, integer or float. (R187) -/
  | ATOM_ADD (h : Head) (f : MemF) (x : AtomF)
  /-- Atomic subtract per lane. (R187) -/
  | ATOM_SUB (h : Head) (f : MemF) (x : AtomF)
  /-- Atomic minimum per lane. (R187) -/
  | ATOM_MIN (h : Head) (f : MemF) (x : AtomF)
  /-- Atomic maximum per lane. (R187) -/
  | ATOM_MAX (h : Head) (f : MemF) (x : AtomF)
  /-- Atomic AND per lane. (R187) -/
  | ATOM_AND (h : Head) (f : MemF) (x : AtomF)
  /-- Atomic OR per lane. (R187) -/
  | ATOM_OR (h : Head) (f : MemF) (x : AtomF)
  /-- Atomic XOR per lane. (R187) -/
  | ATOM_XOR (h : Head) (f : MemF) (x : AtomF)
  /-- Atomic exchange per lane. (R187) -/
  | ATOM_EXCH (h : Head) (f : MemF) (x : AtomF)
  /-- Atomic compare-and-swap per lane; a failure demotes the issuing unit. (R187) -/
  | ATOM_CAS (h : Head) (f : MemF) (x : AtomF)
  /-- Atomic increment that wraps at a limit. (R187) -/
  | ATOM_INC (h : Head) (f : MemF) (x : AtomF)
  /-- Atomic decrement that wraps at a limit. (R187) -/
  | ATOM_DEC (h : Head) (f : MemF) (x : AtomF)
  /-- Holds the wave's later accesses until its earlier loads and atomics have fixed their values. (R192) -/
  | FENCE_ACQ (h : Head) (obs : BitVec 5)
  /-- Orders the wave's earlier accesses before its later stores for the named observers. (R192) -/
  | FENCE_REL (h : Head) (obs : BitVec 5)
  /-- Drops every line of a range from the caches without writeback. (R193) -/
  | DISCARD (h : Head) (base : BitVec 7) (len : BitVec 8)
  /-- Warms L2 and L1 with a line per lane, with no other effect. (R194) -/
  | PREF (h : Head) (f : AddrF)
  /-- A load performed at the home slice that bypasses L1 and demotes the issuing unit. (R184) -/
  | LD_POLL (h : Head) (f : MemF)
  /-- Registers a condition on a word at its home slice and parks the wave until a status returns. (R223) -/
  | WAITU (h : Head) (f : WaituF)
  /-- Parks the wave for a count of core cycles. (R225) -/
  | SLEEP (h : Head) (f : AluF)
  /-- Appends groups of a spawn entry to the core's spawn pool and writes a status. (R145) -/
  | SPAWN (h : Head) (f : AluF)
  /-- Reads a launch record and queues it in the device launch queue or its overflow ring. (R146) -/
  | LAUNCH (h : Head) (f : AluF)
  /-- Triggers the wave for the dependants of its launch, with release. (R120) -/
  | TRIG (h : Head) (f : AluF)
  /-- Parks the wave until every producer of its EARLY launch has triggered or completed. (R120) -/
  | WAITP (h : Head) (f : AluF)
  /-- Cancels the launch, graph, phase or job named by its completion-counter address. (R111) -/
  | CANCEL (h : Head) (f : AluF)
  /-- Reads the hardware completion count of a unit, or loads it from memory. (R147) -/
  | CCNT (h : Head) (f : AluF)
  /-- Arrives at the group barrier. (R109) -/
  | GBAR (h : Head) (f : AluF)
  /-- Writes a value into a slot of the element's rate-store record. (R281) -/
  | HOLD (h : Head) (f : AluF)
  /-- Reads a slot from the record of the lane's ancestor at the slot's rate. (R282) -/
  | TAKE (h : Head) (f : AluF)
  /-- Interpolates a vertex slot across the primitive's three vertices. (R283) -/
  | IPL (h : Head) (f : AluF)
  /-- Creates clusters of the object up to the allowance. (R285) -/
  | AMP (h : Head) (f : AluF)
  /-- Creates vertices of the cluster and reserves their V records. (R286) -/
  | EMIT_VTX (h : Head) (f : AluF)
  /-- Creates a primitive that names three vertex indices. (R286) -/
  | EMIT_PRIM (h : Head) (f : AluF)
  /-- Writes the element's coverage mask. (R287) -/
  | COV (h : Head) (f : AluF)
  /-- Tests a screen box against the depth pyramid and writes visibility bits. (R288) -/
  | ZTEST (h : Head) (f : AluF)
  /-- Sets the depth that the depth test uses for the sample or coarse pixel. (R289) -/
  | ZWR (h : Head) (f : AluF)
  /-- Writes a colour to a render target for the element's samples. (R290) -/
  | FBW (h : Head) (f : AluF)
  /-- Reserves a Y record, writes the ray and payload, and creates a ray element. (R292) -/
  | SPAWNY (h : Head) (f : AluF)
  /-- Sets the ray's return value. (R293) -/
  | RAYRET (h : Head) (f : AluF)
  /-- Tests a ray against one box or triangle node read from memory. (R294) -/
  | BVHT (h : Head) (f : AluF)
  /-- Arms an EMPTY tile slot with a base and an expected byte count and makes it FILLING. (R336) -/
  | TARM (h : Head) (f : AluF)
  /-- Parks the wave until the slot is READY and acquires its bytes. (R338) -/
  | TWAIT (h : Head) (f : AluF)
  /-- Makes a READY slot, or a failed FILLING slot, EMPTY. (R339) -/
  | TREL (h : Head) (f : AluF)
  /-- Writes a snapshot of the slot's status word. (R340) -/
  | TSTAT (h : Head) (f : AluF)
  /-- Reads and checks a shape record and hands a copy to the TCE with release. (R341) -/
  | TCOPY (h : Head) (f : AluF)
  /-- Queues a matrix-program start on the core's MSQ with release. (R346) -/
  | MSTART (h : Head) (f : AluF)
  /-- Reads a command descriptor and queues it for the die's collective engines. (R256) -/
  | COLL (h : Head) (f : AluF)
  /-- Reciprocal, rounded once. (R348) -/
  | TRCP (h : Head) (f : AluF)
  /-- Reciprocal square root, rounded once. (R348) -/
  | TRSQ (h : Head) (f : AluF)
  /-- Square root, rounded once. (R348) -/
  | TSQRT (h : Head) (f : AluF)
  /-- Division, rounded once. (R348) -/
  | TDIV (h : Head) (f : AluF)
  /-- Base-2 exponential, rounded once. (R348) -/
  | TEXP2 (h : Head) (f : AluF)
  /-- Base-2 logarithm, rounded once. (R348) -/
  | TLOG2 (h : Head) (f : AluF)
  /-- Sine, rounded once. (R348) -/
  | TSIN (h : Head) (f : AluF)
  /-- Cosine, rounded once. (R348) -/
  | TCOS (h : Head) (f : AluF)
  /-- Integer division truncated toward zero. (R349) -/
  | IDIV (h : Head) (f : AluF)
  /-- Expands run-length pairs into 32 output bytes per lane. (R351) -/
  | DEC_RLE (h : Head) (f : AluF)
  /-- Unpacks eight bit fields from a 64-bit stream per lane. (R351) -/
  | DEC_BITS (h : Head) (f : AluF)
  /-- Decodes eight scaled E2M1 codes to FP32 per lane. (R351) -/
  | DEC_FP4 (h : Head) (f : AluF)
  /-- Sweep add over scratchpad segments. (R167) -/
  | SWP_ADD (h : Head) (f : SweepF)
  /-- Sweep subtract over scratchpad segments. (R167) -/
  | SWP_SUB (h : Head) (f : SweepF)
  /-- Sweep multiply over scratchpad segments. (R167) -/
  | SWP_MUL (h : Head) (f : SweepF)
  /-- Sweep fused multiply-add over scratchpad segments. (R167) -/
  | SWP_FMA (h : Head) (f : SweepF)
  /-- Sweep minimum over scratchpad segments. (R167) -/
  | SWP_MIN (h : Head) (f : SweepF)
  /-- Sweep maximum over scratchpad segments. (R167) -/
  | SWP_MAX (h : Head) (f : SweepF)
  /-- Sweep copy over scratchpad segments. (R167) -/
  | SWP_MOV (h : Head) (f : SweepF)
  /-- Waits for every earlier word to complete, then ends the MSQ program. (R313) -/
  | MEND
  /-- MSQ no-operation. (R66) -/
  | MNOP
  /-- Moves a register or an immediate into an MSQ register. (R315) -/
  | MMOV (f : MsqS)
  /-- 64-bit add on MSQ registers. (R315) -/
  | MADD (f : MsqS)
  /-- 64-bit subtract on MSQ registers. (R315) -/
  | MSUB (f : MsqS)
  /-- Low 64 bits of a product. (R315) -/
  | MMUL (f : MsqS)
  /-- Bitwise AND on MSQ registers. (R315) -/
  | MAND (f : MsqS)
  /-- Bitwise OR on MSQ registers. (R315) -/
  | MOR (f : MsqS)
  /-- Bitwise XOR on MSQ registers. (R315) -/
  | MXOR (f : MsqS)
  /-- Shift left on MSQ registers. (R315) -/
  | MSHL (f : MsqS)
  /-- Logical shift right on MSQ registers. (R315) -/
  | MSHR (f : MsqS)
  /-- MSQ branch if equal. (R315) -/
  | MBEQ (f : MsqB)
  /-- MSQ branch if not equal. (R315) -/
  | MBNE (f : MsqB)
  /-- MSQ branch if unsigned less than. (R315) -/
  | MBLT (f : MsqB)
  /-- MSQ branch if unsigned greater than or equal. (R315) -/
  | MBGE (f : MsqB)
  /-- MSQ unconditional branch. (R315) -/
  | MJMP (f : MsqB)
  /-- MSQ 64-bit load, class M. (R316) -/
  | MLD (f : MsqS)
  /-- MSQ 64-bit store, class M. (R316) -/
  | MST (f : MsqS)
  /-- Loads a B set from a READY tile into a bank. (R317) -/
  | BLD (bank : BitVec 2) (tile : BitVec 6) (ty : MTy) (variant : Bool) (scl : Bool)
  /-- Copies 2:4 sparsity metadata into a bank's side memory. (R319) -/
  | SBLD (bank : BitVec 2) (tile : BitVec 6)
  /-- Streams A rows through a bank and accumulates into an accumulator region. (R321) -/
  | MMA (bank : BitVec 2) (tile : BitVec 6) (m : BitVec 4) (variant : Bool) (ty : MTy) (sparse : Bool) (base : BitVec 8)
  /-- Writes +0 to a range of accumulator memory. (R323) -/
  | ACC_CLR (base : BitVec 8) (count : BitVec 9)
  /-- Converts an accumulator region and writes it into a FILLING tile, counting arrivals. (R324) -/
  | ACC_ST (tile : BitVec 6) (base : BitVec 8) (ty : Ty) (rows : BitVec 4) (cols : BitVec 2)
  /-- Waits until a slot is READY with the given phase and acquires its bytes. (R325) -/
  | TW (tile : BitVec 6) (phase : Bool)
  /-- After earlier words complete, writes the flag word and then c0+j to the timeline counter with release. (R326) -/
  | TINC (obs : BitVec 5)
  /-- A lane's long-latency result arrives in its register; the outstanding counter falls when the last lane arrives. (R102) -/
  | LOAD_VALUE_ARRIVAL (unit : Nat) (seq : Nat) (lane : Nat)
  /-- Every core has dropped the icinv range. (R142) -/
  | ICINV_COMPLETE (id : Nat)
  /-- A matrix word running in the background completes, releasing the words that wait on it. (R327) -/
  | MATRIX_WORD_COMPLETE (core : Nat) (seq : Nat)
  /-- A queued start begins once the previous program has ended, reading c0 from its counter. (R299) -/
  | MSQ_PROGRAM_START (core : Nat)
  /-- After in-flight words drain under pre-emption, the MSQ saves its matrix state. (R331) -/
  | MSQ_STATE_SAVE (core : Nat)
  /-- The loader checks a code object in order and, on success, commits it at once. (R81) -/
  | LOAD_OBJECT (ctx : Nat) (file : List Byte) (place : LoadPlace) (replaceTrap : Bool)
  /-- Removes an object's bindings and mappings unless it is busy. (R83) -/
  | UNLOAD_OBJECT (ctx : Nat) (obj : Nat)
  /-- The security islands return a signed report of a context's measurement log for a nonce. (R89) -/
  | ATTESTATION_REPORT (ctx : Nat) (nonce : List Byte)
  /-- The device leaves reset and starts secure boot. (R249) -/
  | DEVICE_RESET
  /-- The security firmware is loaded and verified; the device goes to FW_WAIT or FAILED. (R249) -/
  | SECURE_BOOT (image : List Byte) (signature : List Byte)
  /-- Writing 1 in FW_WAIT starts verification and load of the dispatch-firmware image; the two halves of its
  signature are a point and a number. (R251) -/
  | FIRMWARE_LOAD (value : BitVec 32) (point number : List Byte)
  /-- The device trains LPDDR-6 and the Ibene ports, tests SRAM and sets the fused counts, then becomes READY. (R249) -/
  | TRAINING (r : TrainResult)
  /-- A write of a queue number rings that host queue; the descriptor is read afresh and new jobs are read. (R115) -/
  | DOORBELL (ctx : Nat) (off : Nat) (q : BitVec 32)
  /-- Sets a context's context-block address while the context is disabled. (R251) -/
  | CONTEXT_BLOCK_ADDRESS (ctx : Nat) (value : DWord)
  /-- Setting the enable bit makes the dispatch complex read the context block. (R251) -/
  | CONTEXT_ENABLE (ctx : Nat) (write : EnableWrite)
  /-- A write to a BAR register with no behaviour of its own, or to a reserved offset. (R251) -/
  | REGISTER_WRITE (off : Nat) (value : DWord)
  /-- The dispatch complex reads and checks a job's entry, phases, graphs and edges, or refuses the job. (R116) -/
  | JOB_ACCEPT (ctx : Nat) (q : Nat)
  /-- A launch becomes eligible; its predicate, if any, is read and may skip it. (R119) -/
  | LAUNCH_ELIGIBLE (launch : Nat)
  /-- The distributor reads and checks the record, sets bank maps, and places the first round of groups. (R95) -/
  | LAUNCH_START (launch : Nat)
  /-- A core SRAM bank changes mode once it holds no resident data. (R172) -/
  | BANK_MODE_CHANGE (core : Nat) (bank : Nat) (mode : BitVec 2)
  /-- The firmware moves overflow-ring records into hardware entries of the device launch queue, oldest first. (R121) -/
  | LAUNCH_RING_DRAIN (ctx : Nat) (count : Nat)
  /-- A group retires; its resources are freed and offered to the spawn pool, the refill and other pending work. (R96) -/
  | GROUP_RETIRE (groups : List Nat)
  /-- The solder unit packs waiting fragment records into a wave and runs it in a free allocation. (R107) -/
  | SOLDER (group : Nat) (target : DWord)
  /-- A home wave rejoins once none of its lanes is open under the token. (R106) -/
  | REJOIN (group : Nat) (wave : Nat)
  /-- Every live lane of the group has arrived; the barrier completes and scratchpad accesses are ordered. (R109) -/
  | GBAR_COMPLETE (group : Nat)
  /-- Every producer has triggered or completed; parked waitp waves write status 0. (R120) -/
  | WAITP_RELEASE (launch : Nat)
  /-- A pre-emption request stops placement, discards discardable groups and stops the other waves. (R125) -/
  | PREEMPT_REQUEST (cores : List Nat) (ctxs : List Nat)
  /-- Once every wave of the group has stopped and drained, the group's state is saved and its resources freed. (R127) -/
  | GROUP_SAVE (group : Nat)
  /-- A group whose waves have all been parked for the park threshold is saved and swapped out. (R129) -/
  | SWAP_OUT (group : Nat)
  /-- A saved group returns to a granted core with its visible state. (R128) -/
  | GROUP_RESTORE (group : Nat) (core : Nat)
  /-- An instruction fetch faults; the whole group drains and is saved. (R130) -/
  | FETCH_FAULT (unit : Nat)
  /-- The firmware resolves a fault and the faulted lanes or accesses replay from the operand log. (R197) -/
  | FAULT_RESOLVE (id : Nat)
  /-- An unresolved fault is delivered to the trap entry, or terminates the group with FAULT_FATAL. (R198) -/
  | FAULT_DELIVER (id : Nat)
  /-- A wake reaches the waiting wave's core, or the dispatch complex, and is delivered or appended to the wake list. (R217) -/
  | WAKE_DELIVERY (id : Nat)
  /-- A monitor entry's deadline passes; it is removed and sends a wake with status 1. (R218) -/
  | WAITU_EXPIRY (slice : Nat) (token : Nat)
  /-- A sleeping wave's count runs out and it becomes eligible. (R225) -/
  | SLEEP_EXPIRY (unit : Nat)
  /-- The walker re-evaluates spilled records after a write or deadline and moves records into freed table entries. (R220) -/
  | SPILL_WALK (slice : Nat)
  /-- The slice retries appending a fired entry's wake after the firmware takes records. (R221) -/
  | WAKE_LIST_RETRY (slice : Nat)
  /-- The firmware clears a slice's monitor counters. (R226) -/
  | MONITOR_COUNTER_CLEAR (slice : Nat)
  /-- Drops translations, lines and L1 copies of a range after a leaf change. (R232) -/
  | RETRANSLATE (asid : Nat) (lo : Nat) (hi : Nat)
  /-- Sets a context's gilt quota on a die, or refuses the grant. (R234) -/
  | GILT_GRANT (ctx : Nat) (die : Nat) (units : Nat)
  /-- The firmware pushes frame numbers into a die's frame pool. (R239) -/
  | FRAME_POOL_PUSH (die : Nat) (frames : List Nat)
  /-- When frames arrive, stashed lines take frames oldest first and are written back. (R240) -/
  | STASH_DRAIN (slice : Nat)
  /-- A fill stalled for the starvation limit fails its waiters with GILT_STARVED. (R240) -/
  | GILT_STARVATION (slice : Nat)
  /-- Moves a 2 MiB region's lines and monitor entries to the other die. (R242) -/
  | MIGRATE (asid : Nat) (region : Nat)
  /-- A host CXL.mem access is performed at its home slice as class H. (R247) -/
  | HOST_ACCESS (off : Nat) (acc : OutAcc)
  /-- An access arriving over Ibene is checked against the export table and performed as class P. (R254) -/
  | PEER_ACCESS (node : BitVec 22) (id key : Nat) (msg : PeerMsgIn)
  /-- A peer request unanswered for 4,194,304 slice cycles takes PEER_UNREACHABLE. (R243) -/
  | PEER_TIMEOUT (id : Nat)
  /-- Loss of the Ibene path to a waitu's serving device gives the wave status 1. (R224) -/
  | PEER_PATH_LOSS (node : BitVec 22)
  /-- An SRAM error is corrected and counted, or handled as uncorrected according to where it lies. (R245) -/
  | SOFT_ERROR (site : SoftSite)
  /-- The TCE commits a copy element in canonical order, counting its bytes into the slot. (R343) -/
  | COPY_ELEMENT_COMMIT (core : Nat)
  /-- A collective engine runs a queued command under the context's firmware and writes the counter or the error word. (R255) -/
  | COLL_OPERATION (ctx : Nat) (die : Nat) (q : Nat) (run : EngineRun) (failed : Option (BitVec 8))
  /-- The oldest waiting rate-store reservation is met and its element creation proceeds. (R271) -/
  | RESERVATION_GRANT (launch : Nat)
  /-- The rate sequencer starts a wave of ready elements of one rate and path. (R263) -/
  | RATE_WAVE_START (launch : Nat) (rate : Rate) (core : Nat)
  /-- A raster unit tests samples against a primitive, makes the early depth test and creates P and S elements. (R273) -/
  | RASTERISE_PRIMITIVE (launch : Nat) (prim : Nat)
  /-- An element's count reaches 0; its record is discarded and its parent's count is lowered. (R259) -/
  | ELEMENT_RETIRE (elem : Nat)
  /-- The firmware drops a depth buffer's pyramid. (R277) -/
  | PYRAMID_DROP (die : Nat) (addr : Nat)
  /-- An island's voltage and frequency change, changing speed only. (R8) -/
  | ISLAND_OPERATING_POINT (island : Island) (point : Nat)
  /-- A host write to host memory invalidates the device's copy of that line at its home slice over CXL.cache; the slice refetches the line and re-evaluates its monitor entries. (R180) -/
  | HOST_WRITE_INVALIDATE (pa : Nat) (bytes : List Byte)
  /-- The dispatch firmware grows a context's spawn area after being interrupted, letting a fork or meet that waits for spawn memory issue. (R108) -/
  | SPAWN_AREA_GROW (ctx : Nat) (bytes : Nat)
  deriving DecidableEq, Repr

end Sys2Proof
end

