-- ==== Sys2Proof/Machine/Encoding.lean ====
section
/-!
DEFINITION. The encoding tables of spec 03: the codes of every field, the row of each ALU-format
instruction (R61 to R64), and the conditions under which a word raises RSV_FIELD, each with its
offending bit (R15, R42, R44, R46, R50, R52, R53 and the rules of single instructions).
-/

namespace Sys2Proof

/-- An RSV_FIELD condition: whether its offending bit lies in the extension word, and the bit
(spec 01 R19). -/
abbrev Cond := Bool × Nat

/-- The position of the lowest set bit of `n`, looking at most at the given number of bits. -/
def lowestSet (n : Nat) : Nat → Nat
  | 0 => 0
  | k + 1 => if n % 2 = 1 then 0 else 1 + lowestSet (n / 2) k

/-- A condition that holds when `p` does. -/
def condIf (p : Bool) (c : Cond) : List Cond := if p then [c] else []

/-- A field that must be zero, reported at its lowest set bit (spec 03 R46). -/
def mustZero (ext : Bool) (lo : Nat) (n : Nat) : List Cond :=
  if n = 0 then [] else [(ext, lo + lowestSet n 64)]

/-- The code of a rate (spec 03 R39). -/
def Rate.code : Rate → Nat
  | .K => 0 | .F => 1 | .O => 2 | .C => 3 | .V => 4 | .P => 5 | .S => 6 | .Y => 7

/-- The rate of a code (spec 03 R39). -/
def Rate.ofCode : Nat → Rate
  | 0 => .K | 1 => .F | 2 => .O | 3 => .C | 4 => .V | 5 => .P | 6 => .S | _ => .Y

/-- The code of a type (spec 03 R47). -/
def Ty.code : Ty → Nat
  | .n32 => 0 | .i32 => 1 | .n64 => 2 | .i64 => 3 | .f16 => 4 | .bf16 => 5 | .f32 => 6 | .f64 => 7
  | .e4m3 => 8 | .e5m2 => 9 | .e2m1 => 10

/-- The type of a code; codes 0xB to 0xF are reserved (spec 03 R47). -/
def Ty.ofCode : Nat → Option Ty
  | 0 => some .n32 | 1 => some .i32 | 2 => some .n64 | 3 => some .i64 | 4 => some .f16
  | 5 => some .bf16 | 6 => some .f32 | 7 => some .f64 | 8 => some .e4m3 | 9 => some .e5m2
  | 10 => some .e2m1 | _ => none

/-- Whether a value of the type is a register pair (spec 10 R149). -/
def Ty.wide : Ty → Bool
  | .n64 | .i64 | .f64 => true
  | .n32 | .i32 | .f16 | .bf16 | .f32 | .e4m3 | .e5m2 | .e2m1 => false

/-- Every type, in the order of the codes (spec 03 R47). -/
def allTys : List Ty :=
  [.n32, .i32, .n64, .i64, .f16, .bf16, .f32, .f64, .e4m3, .e5m2, .e2m1]

/-- The code of an access size (spec 01 R14). -/
def Size.code : Size → Nat
  | .b8 => 0 | .b16 => 1 | .b32 => 2 | .b64 => 3 | .b128 => 4

/-- The size of a code (spec 01 R14). -/
def Size.ofCode : Nat → Option Size
  | 0 => some .b8 | 1 => some .b16 | 2 => some .b32 | 3 => some .b64 | 4 => some .b128 | _ => none

/-- The bytes of an access size (spec 01 R14). -/
def Size.bytes : Size → Nat
  | .b8 => 1 | .b16 => 2 | .b32 => 4 | .b64 => 8 | .b128 => 16

/-- The v registers that one lane's value of the size occupies (spec 12 R182). -/
def Size.regs : Size → Nat
  | .b8 | .b16 | .b32 => 1 | .b64 => 2 | .b128 => 4

/-- The code of an order (spec 01 R14). -/
def Order.code : Order → Nat
  | .weak => 0 | .acq => 1 | .rel => 2 | .acqrel => 3

/-- The order of a code (spec 01 R14). -/
def Order.ofCode : Nat → Order
  | 0 => .weak | 1 => .acq | 2 => .rel | _ => .acqrel

/-- The code of an atomic's kind (spec 03 R52). -/
def Kind.code : Kind → Nat
  | .unsigned => 0 | .signed => 1 | .float => 2

/-- The kind of a code; 0b11 is reserved (spec 03 R52). -/
def Kind.ofCode : Nat → Option Kind
  | 0 => some .unsigned | 1 => some .signed | 2 => some .float | _ => none

/-- The number of a special register (spec 03 R57). -/
def Special.code : Special → Nat
  | .lane => 0 | .wave => 1 | .grp => 2 | .ngrp => 3 | .gsize => 4 | .gw => 5 | .elem => 6
  | .core => 7 | .die => 8 | .cyc => 9 | .fflags => 10 | .tcause => 11 | .tpc => 12 | .tinst => 13
  | .ncores => 16 | .nslices => 17 | .nchans => 18 | .nports => 19 | .rev => 20 | .feat => 21

/-- The special register of a number; the others are reserved (spec 03 R57). -/
def Special.ofCode : Nat → Option Special
  | 0 => some .lane | 1 => some .wave | 2 => some .grp | 3 => some .ngrp | 4 => some .gsize
  | 5 => some .gw | 6 => some .elem | 7 => some .core | 8 => some .die | 9 => some .cyc
  | 10 => some .fflags | 11 => some .tcause | 12 => some .tpc | 13 => some .tinst
  | 16 => some .ncores | 17 => some .nslices | 18 => some .nchans | 19 => some .nports
  | 20 => some .rev | 21 => some .feat | _ => none

/-- Whether the special is 64 bits wide (spec 03 R57). -/
def Special.wide : Special → Bool
  | .cyc | .tpc | .tinst => true
  | .lane | .wave | .grp | .ngrp | .gsize | .gw | .elem | .core | .die | .fflags | .tcause
  | .ncores | .nslices | .nchans | .nports | .rev | .feat => false

/-- Whether sysw may name the special (spec 03 R57); %tpc only inside a handler (R20). -/
def Special.writable : Special → Bool
  | .fflags | .tpc => true
  | .lane | .wave | .grp | .ngrp | .gsize | .gw | .elem | .core | .die | .cyc | .tcause | .tinst
  | .ncores | .nslices | .nchans | .nports | .rev | .feat => false

/-- The code of a waitu comparison (spec 03 R58). -/
def WCmp.code : WCmp → Nat
  | .eq => 0 | .ne => 1 | .ge => 2 | .lt => 3 | .any => 4 | .none => 5

/-- The waitu comparison of a code; 6 and 7 are reserved (spec 03 R58). -/
def WCmp.ofCode : Nat → Option WCmp
  | 0 => some .eq | 1 => some .ne | 2 => some .ge | 3 => some .lt | 4 => some .any
  | 5 => some .none | _ => Option.none

/-- The code of a matrix type (spec 03 R65). -/
def MTy.code : MTy → Nat
  | .e2m1 => 0 | .e4m3 => 1 | .e5m2 => 2 | .bf16 => 3 | .int8 => 4

/-- The matrix type of a code; 5 to 7 are reserved (spec 03 R65). -/
def MTy.ofCode : Nat → Option MTy
  | 0 => some .e2m1 | 1 => some .e4m3 | 2 => some .e5m2 | 3 => some .bf16 | 4 => some .int8
  | _ => none

/-- What a field of the ALU format holds for a minor (spec 03 R44, R61 to R64, spec 10 R149). -/
inductive Opnd
  /-- not listed: must be zero, reported at its lowest set bit -/
  | no
  /-- not listed: must be zero, reported at the field's lowest bit (spec 14 R225) -/
  | noAt0
  /-- a value of the instruction's type: one register or an even pair -/
  | v
  /-- one 32-bit register whatever the type -/
  | w
  /-- an even pair whatever the type -/
  | pair
  /-- four registers -/
  | quad
  /-- eight registers -/
  | oct
  /-- nine registers from a multiple of 8, at most 240 (spec 23 R350) -/
  | nine
  /-- a k register in the low four bits -/
  | k
  /-- a tile slot in the low six bits -/
  | tile
  /-- a hold slot in the low six bits -/
  | hold
  /-- fcvt's source, as wide as its source type -/
  | srcV
  /-- fcvt's source type code -/
  | srcTy
  /-- a spawn entry number -/
  | entry
  /-- a render target in the low three bits -/
  | target
  /-- fbw's colour: four registers for .f32, one for .n32 -/
  | fbwSrc
  deriving DecidableEq, Repr

/-- How a minor reads mod (spec 03 R48, R61 to R64). -/
inductive ModRule
  | zeroAt0 | zeroLow | exact (n : Nat) | sat | round | lea | level | red | scan
  deriving DecidableEq, Repr

/-- The four register fields of the ALU format. -/
inductive Pos | d | a | b | c
  deriving DecidableEq, Repr

/-- How a minor takes an immediate (spec 03 R50). -/
inductive ImmRule
  | never
  /-- the last source, in the named field, may be an immediate -/
  | opt (p : Pos)
  /-- movi: the immediate is required, in the named field -/
  | req (p : Pos)
  /-- lea with a symbol: imm and the extension word are both required -/
  | reqExt
  /-- mstart: imm and the extension word, a 32-bit multiple of 8, are both required -/
  | reqEntry
  deriving DecidableEq, Repr

/-- One row of the tables of R61 to R64. -/
structure AluRow where
  major : Nat
  minor : Nat
  d     : Opnd
  a     : Opnd
  b     : Opnd
  c     : Opnd
  tys   : List Ty
  mod   : ModRule
  imm   : ImmRule
  deriving DecidableEq, Repr

/-- The fields of an ALU word as numbers, the type as its code: what the checks of spec 03 read. -/
structure AluRaw where
  d   : Nat
  a   : Nat
  b   : Nat
  c   : Nat
  ty  : Nat
  imm : Bool
  mod : Nat
  ext : Option Nat
  deriving DecidableEq, Repr

/-- The fields of an ALU instruction as numbers. -/
def AluF.raw (f : AluF) : AluRaw :=
  { d := f.d.toNat, a := f.a.toNat, b := f.b.toNat, c := f.c.toNat, ty := f.ty.code
    imm := f.imm, mod := f.mod.toNat, ext := f.ext.map BitVec.toNat }

/-- The lowest bit of a field of the ALU format (spec 03 R49). -/
def Pos.lo : Pos → Nat
  | .d => 36 | .a => 28 | .b => 20 | .c => 12

/-- The number in a field. -/
def AluRaw.get (f : AluRaw) : Pos → Nat
  | .d => f.d | .a => f.a | .b => f.b | .c => f.c

/-- Whether a type code names a 64-bit type (spec 10 R149). -/
def wideCode (ty : Nat) : Bool := ty = 2 || ty = 3 || ty = 7

/-- The conditions of one register field (spec 03 R44, R46, R62, R64, spec 23 R350). -/
def opndConds (o : Opnd) (lo n : Nat) (f : AluRaw) : List Cond :=
  match o with
  | .no => mustZero false lo n
  | .noAt0 => condIf (n ≠ 0) (false, lo)
  | .v => condIf (wideCode f.ty && n % 2 = 1) (false, lo)
  | .w => []
  | .pair => condIf (n % 2 = 1) (false, lo)
  | .quad => condIf (n % 4 ≠ 0) (false, lo)
  | .oct => condIf (n % 8 ≠ 0) (false, lo)
  | .nine => condIf (n % 8 ≠ 0 || n > 240) (false, lo)
  | .k => condIf (n / 16 ≠ 0) (false, lo + 4)
  | .tile => condIf (n / 64 ≠ 0) (false, lo + 6)
  | .hold =>
    condIf (n / 64 ≠ 0) (false, lo + 6) ++ condIf (wideCode f.ty && n % 2 = 1) (false, lo)
  | .srcV => condIf (wideCode (f.c % 16) && n % 2 = 1) (false, lo)
  | .srcTy =>
    condIf (n % 16 = f.ty || n % 16 > 10) (false, lo) ++ mustZero false (lo + 4) (n / 16)
  | .entry => []
  | .target => mustZero false (lo + 3) (n / 8)
  | .fbwSrc => condIf (f.ty = 6 && n % 4 ≠ 0) (false, lo)

/-- The field that the immediate replaces, where imm is set on a minor that takes one. -/
def immField (r : ImmRule) (f : AluRaw) : Option Pos :=
  match r with
  | .opt p => if f.imm then some p else none
  | .req p => if f.imm then some p else none
  | .never | .reqExt | .reqEntry => none

/-- The conditions of the field at `p`: as an immediate's field it must be zero when the extension
word holds the value (spec 03 R50), else it names what the row says. -/
def fieldConds (r : AluRow) (p : Pos) (o : Opnd) (f : AluRaw) : List Cond :=
  if immField r.imm f = some p then
    if f.ext.isSome then mustZero false p.lo (f.get p) else []
  else opndConds o p.lo (f.get p) f

/-- The conditions of mod (spec 03 R48, R61 to R64, spec 10 R151, R155). -/
def modConds (m : ModRule) (n : Nat) : List Cond :=
  match m with
  | .zeroAt0 => condIf (n ≠ 0) (false, 0)
  | .zeroLow => mustZero false 0 n
  | .exact k => condIf (n ≠ k) (false, 0)
  | .sat => condIf (n / 2 ≠ 0) (false, 1)
  | .round => condIf (n > 3) (false, 0)
  | .lea => condIf (n > 3) (false, 2)
  | .level => condIf (n > 3) (false, 0)
  | .red => condIf (n % 2 ≠ 0) (false, 0) ++ condIf (n / 2 % 2 ≠ 0) (false, 1)
      ++ condIf (n / 4 ≠ 0) (false, 2)
  | .scan => condIf (n % 2 ≠ 1) (false, 0) ++ condIf (n / 4 ≠ 0) (false, 2)

/-- The bits that an immediate in the extension word may use, by the type code (spec 03 R50). -/
def immBits (ty : Nat) : Nat :=
  if wideCode ty then 64 else if ty = 4 || ty = 5 then 16 else 32

/-- The conditions of imm, bit 48 and the extension word (spec 03 R42, R50, spec 23 R346). On a minor that
takes no immediate imm is bit 3, of the majors 0x22 and 0x23 too (log entry 100). -/
def immConds (r : ImmRule) (f : AluRaw) : List Cond :=
  match r with
  | .never => condIf f.imm (false, 3) ++ condIf f.ext.isSome (false, 48)
  | .opt _ | .req _ =>
    condIf (!f.imm && f.ext.isSome) (false, 48)
      ++ condIf (match r with | .req _ => !f.imm | _ => false) (false, 3)
      ++ (match f.ext with
          | some e =>
            condIf (f.imm && e / 2 ^ immBits f.ty ≠ 0) (true, immBits f.ty)
          | none => [])
  | .reqExt => condIf (!f.imm) (false, 3) ++ condIf f.ext.isNone (false, 48)
  | .reqEntry =>
    condIf (!f.imm) (false, 3) ++ condIf f.ext.isNone (false, 48)
      ++ (match f.ext with
          | some e => condIf (e / 2 ^ 32 ≠ 0) (true, 32) ++ condIf (e % 8 ≠ 0) (true, 0)
          | none => [])

/-- The type condition: a code that the row does not list, at bit 4 (spec 03 R47). -/
def tyConds (tys : List Ty) (ty : Nat) : List Cond :=
  condIf (!tys.any fun t => t.code = ty) (false, 4)

/-- Every RSV_FIELD condition of an ALU word under its row (spec 03 R46). -/
def aluConds (r : AluRow) (f : AluRaw) : List Cond :=
  fieldConds r .d r.d f ++ fieldConds r .a r.a f ++ fieldConds r .b r.b f ++ fieldConds r .c r.c f
    ++ tyConds r.tys f.ty ++ modConds r.mod f.mod ++ immConds r.imm f

/-- The fields of a memory word as numbers; `mbz` is bit 8 (spec 01 R14). -/
structure MemRaw where
  data  : Nat
  base  : Nat
  idx   : Bool
  index : Nat
  scl   : Bool
  size  : Nat
  order : Nat
  obs   : Nat
  mbz   : Bool
  disp  : Nat
  ext   : Option Nat
  deriving DecidableEq, Repr

/-- The fields of a memory instruction as numbers. -/
def MemF.raw (f : MemF) (ext : Option Nat) : MemRaw :=
  { data := f.data.toNat, base := f.addr.base.toNat, idx := f.addr.idx
    index := f.addr.index.toNat, scl := f.addr.scl, size := f.size.code, order := f.order.code
    obs := f.obs.toNat, mbz := false, disp := f.addr.disp.toNat, ext := ext }

/-- The memory words of majors 0x26 to 0x2A and 0x2C. -/
inductive MemOp | ld | st | lds | sts | atom | poll
  deriving DecidableEq, Repr

/-- idx clear while index or scl is nonzero (spec 01 R15). -/
def idxConds (f : MemRaw) : List Cond :=
  if f.idx then [] else mustZero false 19 (f.index * 2 + f.scl.toNat)

/-- The conditions of R15 with the uses of R51, R52 and R186. -/
def memConds (op : MemOp) (f : MemRaw) : List Cond :=
  condIf f.mbz (false, 8) ++ idxConds f
    ++ (match op with
        | .atom => condIf (f.size ≠ 2 && f.size ≠ 3) (false, 16)
        | .ld | .st | .lds | .sts | .poll => condIf (f.size > 4) (false, 16))
    ++ (match op with
        | .ld | .poll => condIf (f.order > 1) (false, 14)
        | .st => condIf (f.order = 1 || f.order = 3) (false, 14)
        | .lds | .sts => mustZero false 14 f.order
        | .atom => [])
    ++ condIf (f.size = 4 && f.data = 254) (false, 36)
    ++ condIf ((f.size = 3 || f.size = 4) && f.data % 2 = 1) (false, 36)
    ++ (if f.order = 0 then mustZero false 9 f.obs
        else match op with
          | .lds | .sts => mustZero false 9 f.obs
          | .ld | .st | .atom | .poll => [])
    ++ (match op with
        | .atom => condIf f.ext.isNone (false, 48)
        | .ld | .st | .lds | .sts | .poll => condIf f.ext.isSome (false, 48))

/-- The code of an atomic operation (spec 03 R52). -/
def AtomOp.code : AtomOp → Nat
  | .add => 0 | .sub => 1 | .min => 2 | .max => 3 | .and => 4 | .or => 5 | .xor => 6 | .exch => 7
  | .cas => 8 | .inc => 9 | .dec => 10

/-- The atomic operation of a code; 11 to 15 are reserved (spec 03 R52). -/
def AtomOp.ofCode : Nat → Option AtomOp
  | 0 => some .add | 1 => some .sub | 2 => some .min | 3 => some .max | 4 => some .and
  | 5 => some .or | 6 => some .xor | 7 => some .exch | 8 => some .cas | 9 => some .inc
  | 10 => some .dec | _ => none

/-- The fields of an atomic's extension word as numbers (spec 03 R52). -/
structure AtomRaw where
  a     : Nat
  b     : Nat
  op    : Nat
  kind  : Nat
  imm   : Bool
  ret   : Bool
  mbz   : Nat
  value : Nat
  deriving DecidableEq, Repr

/-- The fields of an atomic's extension as numbers. -/
def AtomF.raw (x : AtomF) (op : AtomOp) : AtomRaw :=
  { a := x.a.toNat, b := x.b.toNat, op := op.code, kind := x.kind.code, imm := x.imm, ret := x.ret
    mbz := 0, value := x.value.toNat }

/-- The extension conditions of an atomic (spec 03 R52, spec 12 R187). -/
def atomConds (f : MemRaw) (x : AtomRaw) : List Cond :=
  condIf (x.op > 10) (true, 44)
    ++ condIf (x.kind = 3) (true, 42)
    ++ condIf (x.kind = 2 && x.op ≠ 0 && x.op ≠ 2 && x.op ≠ 3) (true, 42)
    ++ condIf ((x.op = 7 || x.op = 8) && x.kind ≠ 0) (true, 42)
    ++ (if x.mbz = 0 then [] else [(true, 32)])
    ++ (if x.ret then [] else mustZero false 36 f.data)
    ++ (if x.op = 8 then
          (if x.imm then mustZero true 48 x.b
           else condIf (f.size = 3 && x.b % 2 = 1) (true, 48))
            ++ condIf (f.size = 3 && x.a % 2 = 1) (true, 56)
        else
          mustZero true 48 x.b
            ++ (if x.imm then mustZero true 56 x.a
                else condIf (f.size = 3 && x.a % 2 = 1) (true, 56)))
    ++ (if x.imm then [] else mustZero true 0 x.value)

/-- The conditions of a word of major 0x2B whose data field is reserved (spec 03 R46, R53): those of
R15, which hold for every memory-format word, with the reserved operation code at bit 36. -/
def reservedCacheConds (f : MemRaw) : List Cond :=
  condIf f.mbz (false, 8) ++ idxConds f ++ condIf (f.size > 4) (false, 16)
    ++ condIf (f.order = 3) (false, 14) ++ (if f.order = 0 then mustZero false 9 f.obs else [])
    ++ [(false, 36)]

/-- A size that must be zero: a reserved code is reported at the field's lowest bit, as everywhere in the
memory format (spec 01 R15), any other at its lowest set bit (spec 03 R46). -/
def sizeZero (size : Nat) : List Cond := condIf (size > 4) (false, 16) ++ mustZero false 16 size

/-- The conditions of fence (spec 03 R53, spec 12 R192). -/
def fenceConds (f : MemRaw) : List Cond :=
  condIf f.mbz (false, 8) ++ mustZero false 29 f.base
    ++ mustZero false 19 (f.idx.toNat * 512 + f.index * 2 + f.scl.toNat)
    ++ sizeZero f.size ++ condIf (f.order = 0 || f.order = 3) (false, 14)
    ++ (if f.order = 0 then mustZero false 9 f.obs else [])
    ++ mustZero false 0 f.disp ++ condIf f.ext.isSome (false, 48)

/-- The conditions of discard (spec 03 R53, spec 12 R193). -/
def discardConds (f : MemRaw) : List Cond :=
  condIf f.mbz (false, 8) ++ condIf (!f.idx) (false, 28) ++ condIf f.scl (false, 19)
    ++ sizeZero f.size ++ mustZero false 14 f.order ++ mustZero false 9 f.obs
    ++ mustZero false 0 f.disp ++ condIf f.ext.isSome (false, 48)

/-- The conditions of pref (spec 03 R53, spec 12 R194). -/
def prefConds (f : MemRaw) : List Cond :=
  condIf f.mbz (false, 8) ++ idxConds f ++ sizeZero f.size ++ mustZero false 14 f.order
    ++ mustZero false 9 f.obs ++ condIf f.ext.isSome (false, 48)

/-- The conditions of an ALU-format word whose minor is unused: no field is listed for it, so each must be
zero, its type code may be reserved, and imm is set on a minor that takes none (spec 03 R46, R50; log entry
99). -/
def unusedMinorConds (f : AluRaw) : List Cond :=
  mustZero false 0 f.mod ++ condIf f.imm (false, 3) ++ condIf (f.ty > 10) (false, 4)
    ++ mustZero false 4 f.ty ++ [(false, 8)]

/-- A guard that must be absent: bits 53:49 zero (spec 08 R133). -/
def noGuardConds (h : Head) : List Cond :=
  mustZero false 49 (h.guard.toNat * 2 + h.gneg.toNat)

/-- The conditions of waitu on its fields as numbers (spec 14 R223). -/
def waituConds (operand limit cmp : Nat) (signed wide : Bool) (ext : Option Nat) : List Cond :=
  condIf (cmp > 5) (false, 10)
    ++ condIf (signed && (cmp = 0 || cmp = 1 || cmp = 4 || cmp = 5)) (false, 9)
    ++ condIf (wide && operand % 2 = 1) (false, 21)
    ++ (match ext with
        | some e => condIf (limit ≠ 0) (false, 13) ++ condIf (e / 2 ^ 32 ≠ 0) (true, 32)
        | none => [])

/-- The operations of a sweep in the order of their codes (spec 03 R59). -/
inductive SweepOp | add | sub | mul | fma | min | max | mov
  deriving DecidableEq, Repr

/-- The code of a sweep operation (spec 03 R59). -/
def SweepOp.code : SweepOp → Nat
  | .add => 0 | .sub => 1 | .mul => 2 | .fma => 3 | .min => 4 | .max => 5 | .mov => 6

/-- The conditions of a sweep on its fields as numbers (spec 03 R59, spec 10 R166); `extLow` is
bits 15:0 of the extension word. -/
def sweepConds (b count op ty stepB extLow : Nat) (hasExt : Bool) : List Cond :=
  condIf (count = 0) (false, 8) ++ condIf (op > 6) (false, 4)
    ++ condIf (ty ≠ 0 && ty ≠ 1 && ty ≠ 4 && ty ≠ 5 && ty ≠ 6) (false, 0)
    ++ condIf (!hasExt) (false, 48) ++ condIf (extLow ≠ 0) (true, 0)
    ++ (if op = 6 then mustZero false 20 b ++ mustZero true 16 stepB else [])


/-- The conditions of an MSQ scalar word on its fields as numbers (spec 03 R65, spec 22 R314);
`useA` and `useB` say which source fields the word reads. -/
def msqScalarConds (useA useB : Bool) (a b : Nat) (imm : Bool) (mbz value : Nat) : List Cond :=
  mustZero false 32 mbz ++ (if imm then mustZero false 43 b else mustZero false 0 value)
    ++ (if useA then [] else mustZero false 48 a)
    ++ (if useB || imm then [] else mustZero false 43 b)

/-- mld and mst need imm set (spec 22 R316). -/
def msqMemConds (imm : Bool) : List Cond := condIf (!imm) (false, 42)

/-- The row of an ALU-format instruction, with its head and its fields (spec 03 R61 to R64). -/
def Instr.alu? : Instr → Option (AluRow × Head × AluF)
  | .KAND h f => some (⟨0x08, 0, .k, .k, .k, .no, [.n32], .zeroAt0, .never⟩, h, f)
  | .KOR h f => some (⟨0x08, 1, .k, .k, .k, .no, [.n32], .zeroAt0, .never⟩, h, f)
  | .KXOR h f => some (⟨0x08, 2, .k, .k, .k, .no, [.n32], .zeroAt0, .never⟩, h, f)
  | .KNOT h f => some (⟨0x08, 3, .k, .k, .no, .no, [.n32], .zeroAt0, .never⟩, h, f)
  | .KMOV_K_K h f => some (⟨0x08, 4, .k, .k, .no, .no, [.n32], (.exact 0), .never⟩, h, f)
  | .KMOV_K_V h f => some (⟨0x08, 4, .k, .w, .no, .no, [.n32], (.exact 1), .never⟩, h, f)
  | .KMOV_V_K h f => some (⟨0x08, 4, .w, .k, .no, .no, [.n32], (.exact 2), .never⟩, h, f)
  | .KPOP h f => some (⟨0x08, 5, .w, .k, .no, .no, [.n32], .zeroAt0, .never⟩, h, f)
  | .KFFS h f => some (⟨0x08, 6, .w, .k, .no, .no, [.n32], .zeroAt0, .never⟩, h, f)
  | .XGET h f => some (⟨0x08, 7, .k, .no, .no, .no, [.n32], .zeroAt0, .never⟩, h, f)
  | .XSET h f => some (⟨0x08, 8, .no, .k, .no, .no, [.n32], .zeroAt0, .never⟩, h, f)
  | .XAND h f => some (⟨0x08, 9, .no, .k, .no, .no, [.n32], .zeroAt0, .never⟩, h, f)
  | .ADD h f => some (⟨0x0C, 0, .v, .v, .v, .no, [.n32, .i32, .n64, .i64], .sat, (.opt .b)⟩, h, f)
  | .SUB h f => some (⟨0x0C, 1, .v, .v, .v, .no, [.n32, .i32, .n64, .i64], .sat, (.opt .b)⟩, h, f)
  | .ADDC h f => some (⟨0x0C, 2, .v, .v, .v, .k, [.n32, .n64], .zeroAt0, .never⟩, h, f)
  | .SUBB h f => some (⟨0x0C, 3, .v, .v, .v, .k, [.n32, .n64], .zeroAt0, .never⟩, h, f)
  | .NEG h f => some (⟨0x0C, 4, .v, .v, .no, .no, [.i32, .i64], .zeroAt0, .never⟩, h, f)
  | .ABS h f => some (⟨0x0C, 5, .v, .v, .no, .no, [.i32, .i64], .zeroAt0, .never⟩, h, f)
  | .MIN h f => some (⟨0x0C, 6, .v, .v, .v, .no, [.n32, .i32, .n64, .i64], .zeroAt0, (.opt .b)⟩, h, f)
  | .MAX h f => some (⟨0x0C, 7, .v, .v, .v, .no, [.n32, .i32, .n64, .i64], .zeroAt0, (.opt .b)⟩, h, f)
  | .MUL_LO h f => some (⟨0x0C, 8, .v, .v, .v, .no, [.n32, .i32, .n64, .i64], .zeroAt0, (.opt .b)⟩, h, f)
  | .MUL_HI h f => some (⟨0x0C, 9, .v, .v, .v, .no, [.n32, .i32, .n64, .i64], .zeroAt0, (.opt .b)⟩, h, f)
  | .MAD h f => some (⟨0x0C, 10, .v, .v, .v, .v, [.n32, .i32, .n64, .i64], .zeroAt0, (.opt .c)⟩, h, f)
  | .AND h f => some (⟨0x0D, 0, .v, .v, .v, .no, [.n32, .n64], .zeroAt0, (.opt .b)⟩, h, f)
  | .OR h f => some (⟨0x0D, 1, .v, .v, .v, .no, [.n32, .n64], .zeroAt0, (.opt .b)⟩, h, f)
  | .XOR h f => some (⟨0x0D, 2, .v, .v, .v, .no, [.n32, .n64], .zeroAt0, (.opt .b)⟩, h, f)
  | .NOT h f => some (⟨0x0D, 3, .v, .v, .no, .no, [.n32, .n64], .zeroAt0, .never⟩, h, f)
  | .SHL h f => some (⟨0x0D, 4, .v, .v, .w, .no, [.n32, .n64], .zeroAt0, (.opt .b)⟩, h, f)
  | .SHR h f => some (⟨0x0D, 5, .v, .v, .w, .no, [.n32, .n64], .zeroAt0, (.opt .b)⟩, h, f)
  | .SRA h f => some (⟨0x0D, 6, .v, .v, .w, .no, [.n32, .n64], .zeroAt0, (.opt .b)⟩, h, f)
  | .BFE h f => some (⟨0x0D, 7, .v, .v, .w, .w, [.n32, .i32, .n64, .i64], .zeroAt0, (.opt .c)⟩, h, f)
  | .BFI h f => some (⟨0x0D, 8, .v, .v, .w, .w, [.n32, .n64], .zeroAt0, (.opt .c)⟩, h, f)
  | .POPC h f => some (⟨0x0D, 9, .w, .v, .no, .no, [.n32, .n64], .zeroAt0, .never⟩, h, f)
  | .CLZ h f => some (⟨0x0D, 10, .w, .v, .no, .no, [.n32, .n64], .zeroAt0, .never⟩, h, f)
  | .CTZ h f => some (⟨0x0D, 11, .w, .v, .no, .no, [.n32, .n64], .zeroAt0, .never⟩, h, f)
  | .BREV h f => some (⟨0x0D, 12, .v, .v, .no, .no, [.n32, .n64], .zeroAt0, .never⟩, h, f)
  | .MOV h f => some (⟨0x0E, 0, .v, .v, .no, .no, [.n32, .n64], .zeroAt0, .never⟩, h, f)
  | .MOVI h f => some (⟨0x0E, 1, .v, .no, .no, .no, [.n32, .n64, .f32, .f64], .zeroAt0, (.req .a)⟩, h, f)
  | .SEL h f => some (⟨0x0E, 2, .v, .v, .v, .k, [.n32, .n64], .zeroAt0, .never⟩, h, f)
  | .LEA h f => some (⟨0x0E, 3, .v, .v, .w, .no, [.n64], .lea, .never⟩, h, f)
  | .LEA_SYMBOL h f => some (⟨0x0E, 4, .v, .no, .no, .no, [.n64], .zeroAt0, .reqExt⟩, h, f)
  | .CMP_EQ h f => some (⟨0x0F, 0, .k, .v, .v, .no, [.n32, .i32, .n64, .i64, .f32, .f64], .zeroAt0, (.opt .b)⟩, h, f)
  | .CMP_NE h f => some (⟨0x0F, 1, .k, .v, .v, .no, [.n32, .i32, .n64, .i64, .f32, .f64], .zeroAt0, (.opt .b)⟩, h, f)
  | .CMP_LT h f => some (⟨0x0F, 2, .k, .v, .v, .no, [.n32, .i32, .n64, .i64, .f32, .f64], .zeroAt0, (.opt .b)⟩, h, f)
  | .CMP_LE h f => some (⟨0x0F, 3, .k, .v, .v, .no, [.n32, .i32, .n64, .i64, .f32, .f64], .zeroAt0, (.opt .b)⟩, h, f)
  | .CMP_GT h f => some (⟨0x0F, 4, .k, .v, .v, .no, [.n32, .i32, .n64, .i64, .f32, .f64], .zeroAt0, (.opt .b)⟩, h, f)
  | .CMP_GE h f => some (⟨0x0F, 5, .k, .v, .v, .no, [.n32, .i32, .n64, .i64, .f32, .f64], .zeroAt0, (.opt .b)⟩, h, f)
  | .CMP_NUM h f => some (⟨0x0F, 6, .k, .v, .v, .no, [.f32, .f64], .zeroAt0, (.opt .b)⟩, h, f)
  | .CMP_NAN h f => some (⟨0x0F, 7, .k, .v, .v, .no, [.f32, .f64], .zeroAt0, (.opt .b)⟩, h, f)
  | .FADD h f => some (⟨0x18, 0, .v, .v, .v, .no, [.f32], .round, (.opt .b)⟩, h, f)
  | .FSUB h f => some (⟨0x18, 1, .v, .v, .v, .no, [.f32], .round, (.opt .b)⟩, h, f)
  | .FMUL h f => some (⟨0x18, 2, .v, .v, .v, .no, [.f32], .round, (.opt .b)⟩, h, f)
  | .FFMA h f => some (⟨0x18, 3, .v, .v, .v, .v, [.f32], .round, (.opt .c)⟩, h, f)
  | .FMIN h f => some (⟨0x18, 4, .v, .v, .v, .no, [.f32, .f64], .zeroAt0, (.opt .b)⟩, h, f)
  | .FMAX h f => some (⟨0x18, 5, .v, .v, .v, .no, [.f32, .f64], .zeroAt0, (.opt .b)⟩, h, f)
  | .FABS h f => some (⟨0x18, 6, .v, .v, .no, .no, [.f32, .f64], .zeroAt0, .never⟩, h, f)
  | .FNEG h f => some (⟨0x18, 7, .v, .v, .no, .no, [.f32, .f64], .zeroAt0, .never⟩, h, f)
  | .FRND h f => some (⟨0x18, 8, .v, .v, .no, .no, [.f32, .f64], .round, .never⟩, h, f)
  | .FCMP h f => some (⟨0x18, 9, .w, .v, .v, .no, [.f32, .f64], .zeroAt0, (.opt .b)⟩, h, f)
  | .FCVT h f => some (⟨0x19, 0, .v, .srcV, .no, .srcTy, allTys, .round, .never⟩, h, f)
  | .DADD h f => some (⟨0x1A, 0, .v, .v, .v, .no, [.f64], .round, (.opt .b)⟩, h, f)
  | .DSUB h f => some (⟨0x1A, 1, .v, .v, .v, .no, [.f64], .round, (.opt .b)⟩, h, f)
  | .DMUL h f => some (⟨0x1A, 2, .v, .v, .v, .no, [.f64], .round, (.opt .b)⟩, h, f)
  | .DFMA h f => some (⟨0x1A, 3, .v, .v, .v, .v, [.f64], .round, (.opt .c)⟩, h, f)
  | .HFMA2 h f => some (⟨0x1B, 0, .v, .v, .v, .v, [.f16, .bf16], .round, (.opt .c)⟩, h, f)
  | .SHFL_IDX h f => some (⟨0x22, 0, .v, .v, .w, .no, [.n32, .n64], .zeroAt0, (.opt .b)⟩, h, f)
  | .SHFL_UP h f => some (⟨0x22, 1, .v, .v, .w, .no, [.n32, .n64], .zeroAt0, (.opt .b)⟩, h, f)
  | .SHFL_DOWN h f => some (⟨0x22, 2, .v, .v, .w, .no, [.n32, .n64], .zeroAt0, (.opt .b)⟩, h, f)
  | .SHFL_XOR h f => some (⟨0x22, 3, .v, .v, .w, .no, [.n32, .n64], .zeroAt0, (.opt .b)⟩, h, f)
  | .BCAST h f => some (⟨0x22, 4, .v, .v, .w, .no, [.n32, .n64], .zeroAt0, (.opt .b)⟩, h, f)
  | .VOTE_ANY h f => some (⟨0x22, 5, .k, .k, .no, .no, [.n32], .zeroAt0, .never⟩, h, f)
  | .VOTE_ALL h f => some (⟨0x22, 6, .k, .k, .no, .no, [.n32], .zeroAt0, .never⟩, h, f)
  | .VOTE_EQ h f => some (⟨0x22, 7, .k, .v, .no, .no, [.n32, .n64], .zeroAt0, .never⟩, h, f)
  | .MATCH h f => some (⟨0x22, 8, .w, .v, .no, .no, [.n32, .n64], .zeroAt0, .never⟩, h, f)
  | .RED_ADD h f => some (⟨0x23, 0, .v, .v, .no, .no, [.n32, .i32, .n64, .i64, .f32], .red, .never⟩, h, f)
  | .RED_MIN h f => some (⟨0x23, 1, .v, .v, .no, .no, [.n32, .i32, .n64, .i64, .f32], .red, .never⟩, h, f)
  | .RED_MAX h f => some (⟨0x23, 2, .v, .v, .no, .no, [.n32, .i32, .n64, .i64, .f32], .red, .never⟩, h, f)
  | .RED_AND h f => some (⟨0x23, 3, .v, .v, .no, .no, [.n32, .i32, .n64, .i64], .red, .never⟩, h, f)
  | .RED_OR h f => some (⟨0x23, 4, .v, .v, .no, .no, [.n32, .i32, .n64, .i64], .red, .never⟩, h, f)
  | .RED_XOR h f => some (⟨0x23, 5, .v, .v, .no, .no, [.n32, .i32, .n64, .i64], .red, .never⟩, h, f)
  | .SCAN_ADD h f => some (⟨0x23, 0, .v, .v, .no, .no, [.n32, .i32, .n64, .i64, .f32], .scan, .never⟩, h, f)
  | .SCAN_MIN h f => some (⟨0x23, 1, .v, .v, .no, .no, [.n32, .i32, .n64, .i64, .f32], .scan, .never⟩, h, f)
  | .SCAN_MAX h f => some (⟨0x23, 2, .v, .v, .no, .no, [.n32, .i32, .n64, .i64, .f32], .scan, .never⟩, h, f)
  | .SCAN_AND h f => some (⟨0x23, 3, .v, .v, .no, .no, [.n32, .i32, .n64, .i64], .scan, .never⟩, h, f)
  | .SCAN_OR h f => some (⟨0x23, 4, .v, .v, .no, .no, [.n32, .i32, .n64, .i64], .scan, .never⟩, h, f)
  | .SCAN_XOR h f => some (⟨0x23, 5, .v, .v, .no, .no, [.n32, .i32, .n64, .i64], .scan, .never⟩, h, f)
  | .SLEEP h f => some (⟨0x2F, 0, .noAt0, .w, .noAt0, .noAt0, [.n32], .zeroAt0, (.opt .a)⟩, h, f)
  | .SPAWN h f => some (⟨0x2F, 1, .w, .w, .no, .entry, [.n32], .zeroLow, (.opt .a)⟩, h, f)
  | .LAUNCH h f => some (⟨0x2F, 2, .w, .pair, .no, .no, [.n32], .zeroLow, .never⟩, h, f)
  | .TRIG h f => some (⟨0x2F, 3, .no, .no, .no, .no, [.n32], .zeroLow, .never⟩, h, f)
  | .WAITP h f => some (⟨0x2F, 4, .w, .no, .no, .no, [.n32], .zeroLow, .never⟩, h, f)
  | .CANCEL h f => some (⟨0x2F, 5, .no, .pair, .no, .no, [.n32], .level, .never⟩, h, f)
  | .CCNT h f => some (⟨0x2F, 6, .pair, .pair, .no, .no, [.n32], .level, .never⟩, h, f)
  | .GBAR h f => some (⟨0x2F, 7, .no, .no, .no, .no, [.n32], .zeroLow, .never⟩, h, f)
  | .HOLD h f => some (⟨0x30, 0, .no, .v, .no, .hold, [.n32, .n64], .zeroAt0, .never⟩, h, f)
  | .TAKE h f => some (⟨0x30, 1, .v, .no, .no, .hold, [.n32, .n64], .zeroAt0, .never⟩, h, f)
  | .IPL h f => some (⟨0x30, 2, .v, .no, .no, .hold, [.f32], .zeroAt0, .never⟩, h, f)
  | .AMP h f => some (⟨0x31, 0, .w, .w, .no, .no, [.n32], .zeroAt0, (.opt .a)⟩, h, f)
  | .EMIT_VTX h f => some (⟨0x31, 1, .no, .w, .no, .no, [.n32], (.exact 0), .never⟩, h, f)
  | .EMIT_PRIM h f => some (⟨0x31, 1, .no, .w, .no, .no, [.n32], (.exact 1), .never⟩, h, f)
  | .COV h f => some (⟨0x32, 0, .w, .no, .no, .no, [.n32], .zeroAt0, .never⟩, h, f)
  | .ZTEST h f => some (⟨0x32, 1, .k, .quad, .w, .no, [.f32], .zeroAt0, .never⟩, h, f)
  | .ZWR h f => some (⟨0x32, 2, .no, .w, .no, .no, [.f32], .zeroAt0, .never⟩, h, f)
  | .FBW h f => some (⟨0x32, 3, .no, .fbwSrc, .no, .target, [.f32, .n32], .zeroAt0, .never⟩, h, f)
  | .SPAWNY h f => some (⟨0x33, 0, .w, .oct, .w, .no, [.n32], .zeroAt0, .never⟩, h, f)
  | .RAYRET h f => some (⟨0x33, 1, .no, .w, .no, .no, [.n32], .zeroAt0, .never⟩, h, f)
  | .BVHT h f => some (⟨0x33, 2, .w, .pair, .oct, .no, [.n32], .zeroAt0, .never⟩, h, f)
  | .TARM h f => some (⟨0x34, 0, .no, .w, .w, .tile, [.n32], .zeroAt0, (.opt .b)⟩, h, f)
  | .TWAIT h f => some (⟨0x34, 1, .no, .no, .no, .tile, [.n32], .zeroAt0, .never⟩, h, f)
  | .TREL h f => some (⟨0x34, 2, .no, .no, .no, .tile, [.n32], .zeroAt0, .never⟩, h, f)
  | .TSTAT h f => some (⟨0x34, 3, .w, .no, .no, .tile, [.n32], .zeroAt0, .never⟩, h, f)
  | .TCOPY h f => some (⟨0x34, 4, .no, .pair, .no, .tile, [.n32], .zeroAt0, .never⟩, h, f)
  | .MSTART h f => some (⟨0x35, 0, .no, .pair, .no, .no, [.n32], .zeroAt0, .reqEntry⟩, h, f)
  | .COLL h f => some (⟨0x35, 1, .w, .pair, .no, .no, [.n32], .zeroLow, .never⟩, h, f)
  | .TRCP h f => some (⟨0x36, 0, .v, .v, .no, .no, [.f32], .zeroAt0, .never⟩, h, f)
  | .TRSQ h f => some (⟨0x36, 1, .v, .v, .no, .no, [.f32], .zeroAt0, .never⟩, h, f)
  | .TSQRT h f => some (⟨0x36, 2, .v, .v, .no, .no, [.f32], .zeroAt0, .never⟩, h, f)
  | .TDIV h f => some (⟨0x36, 3, .v, .v, .v, .no, [.f32], .zeroAt0, (.opt .b)⟩, h, f)
  | .TEXP2 h f => some (⟨0x36, 4, .v, .v, .no, .no, [.f32], .zeroAt0, .never⟩, h, f)
  | .TLOG2 h f => some (⟨0x36, 5, .v, .v, .no, .no, [.f32], .zeroAt0, .never⟩, h, f)
  | .TSIN h f => some (⟨0x36, 6, .v, .v, .no, .no, [.f32], .zeroAt0, .never⟩, h, f)
  | .TCOS h f => some (⟨0x36, 7, .v, .v, .no, .no, [.f32], .zeroAt0, .never⟩, h, f)
  | .IDIV h f => some (⟨0x36, 8, .v, .v, .v, .no, [.n32, .i32], .zeroAt0, (.opt .b)⟩, h, f)
  | .DEC_RLE h f => some (⟨0x36, 9, .nine, .quad, .w, .no, [.n32], .zeroAt0, .never⟩, h, f)
  | .DEC_BITS h f => some (⟨0x36, 10, .nine, .pair, .w, .no, [.n32], .zeroAt0, .never⟩, h, f)
  | .DEC_FP4 h f => some (⟨0x36, 11, .nine, .w, .w, .no, [.n32], .zeroAt0, .never⟩, h, f)
  | .NOP _ => none
  | .EXIT _ => none
  | .TRAP _ _ => none
  | .BRK _ _ => none
  | .TRET _ => none
  | .SAFEPT _ _ => none
  | .IDEM_BEGIN _ => none
  | .IDEM_END _ => none
  | .MEET _ _ => none
  | .ICINV _ _ _ => none
  | .IFENCE _ => none
  | .BRA _ _ => none
  | .CALL _ _ _ => none
  | .JMP _ _ => none
  | .RET _ _ => none
  | .BRX _ _ _ => none
  | .FORK _ _ _ _ _ => none
  | .SYSR _ _ _ => none
  | .SYSW _ _ _ => none
  | .LD _ _ => none
  | .ST _ _ => none
  | .LDS _ _ => none
  | .STS _ _ => none
  | .ATOM_ADD _ _ _ => none
  | .ATOM_SUB _ _ _ => none
  | .ATOM_MIN _ _ _ => none
  | .ATOM_MAX _ _ _ => none
  | .ATOM_AND _ _ _ => none
  | .ATOM_OR _ _ _ => none
  | .ATOM_XOR _ _ _ => none
  | .ATOM_EXCH _ _ _ => none
  | .ATOM_CAS _ _ _ => none
  | .ATOM_INC _ _ _ => none
  | .ATOM_DEC _ _ _ => none
  | .FENCE_ACQ _ _ => none
  | .FENCE_REL _ _ => none
  | .DISCARD _ _ _ => none
  | .PREF _ _ => none
  | .LD_POLL _ _ => none
  | .WAITU _ _ => none
  | .SWP_ADD _ _ => none
  | .SWP_SUB _ _ => none
  | .SWP_MUL _ _ => none
  | .SWP_FMA _ _ => none
  | .SWP_MIN _ _ => none
  | .SWP_MAX _ _ => none
  | .SWP_MOV _ _ => none
  | .MEND => none
  | .MNOP => none
  | .MMOV _ => none
  | .MADD _ => none
  | .MSUB _ => none
  | .MMUL _ => none
  | .MAND _ => none
  | .MOR _ => none
  | .MXOR _ => none
  | .MSHL _ => none
  | .MSHR _ => none
  | .MBEQ _ => none
  | .MBNE _ => none
  | .MBLT _ => none
  | .MBGE _ => none
  | .MJMP _ => none
  | .MLD _ => none
  | .MST _ => none
  | .BLD _ _ _ _ _ => none
  | .SBLD _ _ => none
  | .MMA _ _ _ _ _ _ _ => none
  | .ACC_CLR _ _ => none
  | .ACC_ST _ _ _ _ _ => none
  | .TW _ _ => none
  | .TINC _ => none
  | .LOAD_VALUE_ARRIVAL _ _ _ => none
  | .ICINV_COMPLETE _ => none
  | .MATRIX_WORD_COMPLETE _ _ => none
  | .MSQ_PROGRAM_START _ => none
  | .MSQ_STATE_SAVE _ => none
  | .LOAD_OBJECT _ _ _ _ => none
  | .UNLOAD_OBJECT _ _ => none
  | .ATTESTATION_REPORT _ _ => none
  | .DEVICE_RESET => none
  | .SECURE_BOOT _ _ => none
  | .FIRMWARE_LOAD _ _ _ => none
  | .TRAINING _ => none
  | .DOORBELL _ _ _ => none
  | .CONTEXT_BLOCK_ADDRESS _ _ => none
  | .CONTEXT_ENABLE _ _ => none
  | .REGISTER_WRITE _ _ => none
  | .JOB_ACCEPT _ _ => none
  | .LAUNCH_ELIGIBLE _ => none
  | .LAUNCH_START _ => none
  | .BANK_MODE_CHANGE _ _ _ => none
  | .LAUNCH_RING_DRAIN _ _ => none
  | .GROUP_RETIRE _ => none
  | .SOLDER _ _ => none
  | .REJOIN _ _ => none
  | .GBAR_COMPLETE _ => none
  | .WAITP_RELEASE _ => none
  | .PREEMPT_REQUEST _ _ => none
  | .GROUP_SAVE _ => none
  | .SWAP_OUT _ => none
  | .GROUP_RESTORE _ _ => none
  | .FETCH_FAULT _ => none
  | .FAULT_RESOLVE _ => none
  | .FAULT_DELIVER _ => none
  | .WAKE_DELIVERY _ => none
  | .WAITU_EXPIRY _ _ => none
  | .SLEEP_EXPIRY _ => none
  | .SPILL_WALK _ => none
  | .WAKE_LIST_RETRY _ => none
  | .MONITOR_COUNTER_CLEAR _ => none
  | .RETRANSLATE _ _ _ => none
  | .GILT_GRANT _ _ _ => none
  | .FRAME_POOL_PUSH _ _ => none
  | .STASH_DRAIN _ => none
  | .GILT_STARVATION _ => none
  | .MIGRATE _ _ => none
  | .HOST_ACCESS _ _ => none
  | .PEER_ACCESS _ _ _ _ => none
  | .PEER_TIMEOUT _ => none
  | .PEER_PATH_LOSS _ => none
  | .SOFT_ERROR _ => none
  | .COPY_ELEMENT_COMMIT _ => none
  | .COLL_OPERATION _ _ _ _ _ => none
  | .RESERVATION_GRANT _ => none
  | .RATE_WAVE_START _ _ _ => none
  | .RASTERISE_PRIMITIVE _ _ => none
  | .ELEMENT_RETIRE _ => none
  | .PYRAMID_DROP _ _ => none
  | .ISLAND_OPERATING_POINT _ _ => none
  | .HOST_WRITE_INVALIDATE _ _ => none
  | .SPAWN_AREA_GROW _ _ => none

/-- The constructor of a major, minor and mod of the ALU format; none where the minor or the major
is not in the tables of spec 03 R61 to R64. -/
def aluMk (major minor mod : Nat) : Option (Head → AluF → Instr) :=
  match major, minor with
  | 0x08, 0 => some .KAND
  | 0x08, 1 => some .KOR
  | 0x08, 2 => some .KXOR
  | 0x08, 3 => some .KNOT
  | 0x08, 4 => some (if mod = 1 then .KMOV_K_V else if mod = 2 then .KMOV_V_K else .KMOV_K_K)
  | 0x08, 5 => some .KPOP
  | 0x08, 6 => some .KFFS
  | 0x08, 7 => some .XGET
  | 0x08, 8 => some .XSET
  | 0x08, 9 => some .XAND
  | 0x0C, 0 => some .ADD
  | 0x0C, 1 => some .SUB
  | 0x0C, 2 => some .ADDC
  | 0x0C, 3 => some .SUBB
  | 0x0C, 4 => some .NEG
  | 0x0C, 5 => some .ABS
  | 0x0C, 6 => some .MIN
  | 0x0C, 7 => some .MAX
  | 0x0C, 8 => some .MUL_LO
  | 0x0C, 9 => some .MUL_HI
  | 0x0C, 10 => some .MAD
  | 0x0D, 0 => some .AND
  | 0x0D, 1 => some .OR
  | 0x0D, 2 => some .XOR
  | 0x0D, 3 => some .NOT
  | 0x0D, 4 => some .SHL
  | 0x0D, 5 => some .SHR
  | 0x0D, 6 => some .SRA
  | 0x0D, 7 => some .BFE
  | 0x0D, 8 => some .BFI
  | 0x0D, 9 => some .POPC
  | 0x0D, 10 => some .CLZ
  | 0x0D, 11 => some .CTZ
  | 0x0D, 12 => some .BREV
  | 0x0E, 0 => some .MOV
  | 0x0E, 1 => some .MOVI
  | 0x0E, 2 => some .SEL
  | 0x0E, 3 => some .LEA
  | 0x0E, 4 => some .LEA_SYMBOL
  | 0x0F, 0 => some .CMP_EQ
  | 0x0F, 1 => some .CMP_NE
  | 0x0F, 2 => some .CMP_LT
  | 0x0F, 3 => some .CMP_LE
  | 0x0F, 4 => some .CMP_GT
  | 0x0F, 5 => some .CMP_GE
  | 0x0F, 6 => some .CMP_NUM
  | 0x0F, 7 => some .CMP_NAN
  | 0x18, 0 => some .FADD
  | 0x18, 1 => some .FSUB
  | 0x18, 2 => some .FMUL
  | 0x18, 3 => some .FFMA
  | 0x18, 4 => some .FMIN
  | 0x18, 5 => some .FMAX
  | 0x18, 6 => some .FABS
  | 0x18, 7 => some .FNEG
  | 0x18, 8 => some .FRND
  | 0x18, 9 => some .FCMP
  | 0x19, 0 => some .FCVT
  | 0x1A, 0 => some .DADD
  | 0x1A, 1 => some .DSUB
  | 0x1A, 2 => some .DMUL
  | 0x1A, 3 => some .DFMA
  | 0x1B, 0 => some .HFMA2
  | 0x22, 0 => some .SHFL_IDX
  | 0x22, 1 => some .SHFL_UP
  | 0x22, 2 => some .SHFL_DOWN
  | 0x22, 3 => some .SHFL_XOR
  | 0x22, 4 => some .BCAST
  | 0x22, 5 => some .VOTE_ANY
  | 0x22, 6 => some .VOTE_ALL
  | 0x22, 7 => some .VOTE_EQ
  | 0x22, 8 => some .MATCH
  | 0x23, 0 => some (if mod % 2 = 1 then .SCAN_ADD else .RED_ADD)
  | 0x23, 1 => some (if mod % 2 = 1 then .SCAN_MIN else .RED_MIN)
  | 0x23, 2 => some (if mod % 2 = 1 then .SCAN_MAX else .RED_MAX)
  | 0x23, 3 => some (if mod % 2 = 1 then .SCAN_AND else .RED_AND)
  | 0x23, 4 => some (if mod % 2 = 1 then .SCAN_OR else .RED_OR)
  | 0x23, 5 => some (if mod % 2 = 1 then .SCAN_XOR else .RED_XOR)
  | 0x2F, 0 => some .SLEEP
  | 0x2F, 1 => some .SPAWN
  | 0x2F, 2 => some .LAUNCH
  | 0x2F, 3 => some .TRIG
  | 0x2F, 4 => some .WAITP
  | 0x2F, 5 => some .CANCEL
  | 0x2F, 6 => some .CCNT
  | 0x2F, 7 => some .GBAR
  | 0x30, 0 => some .HOLD
  | 0x30, 1 => some .TAKE
  | 0x30, 2 => some .IPL
  | 0x31, 0 => some .AMP
  | 0x31, 1 => some (if mod = 1 then .EMIT_PRIM else .EMIT_VTX)
  | 0x32, 0 => some .COV
  | 0x32, 1 => some .ZTEST
  | 0x32, 2 => some .ZWR
  | 0x32, 3 => some .FBW
  | 0x33, 0 => some .SPAWNY
  | 0x33, 1 => some .RAYRET
  | 0x33, 2 => some .BVHT
  | 0x34, 0 => some .TARM
  | 0x34, 1 => some .TWAIT
  | 0x34, 2 => some .TREL
  | 0x34, 3 => some .TSTAT
  | 0x34, 4 => some .TCOPY
  | 0x35, 0 => some .MSTART
  | 0x35, 1 => some .COLL
  | 0x36, 0 => some .TRCP
  | 0x36, 1 => some .TRSQ
  | 0x36, 2 => some .TSQRT
  | 0x36, 3 => some .TDIV
  | 0x36, 4 => some .TEXP2
  | 0x36, 5 => some .TLOG2
  | 0x36, 6 => some .TSIN
  | 0x36, 7 => some .TCOS
  | 0x36, 8 => some .IDIV
  | 0x36, 9 => some .DEC_RLE
  | 0x36, 10 => some .DEC_BITS
  | 0x36, 11 => some .DEC_FP4
  | _, _ => none

/-- The operation of an atomic instruction, with its head and fields (spec 03 R52). -/
def Instr.atom? : Instr → Option (AtomOp × Head × MemF × AtomF)
  | .ATOM_ADD h f x => some (.add, h, f, x)
  | .ATOM_SUB h f x => some (.sub, h, f, x)
  | .ATOM_MIN h f x => some (.min, h, f, x)
  | .ATOM_MAX h f x => some (.max, h, f, x)
  | .ATOM_AND h f x => some (.and, h, f, x)
  | .ATOM_OR h f x => some (.or, h, f, x)
  | .ATOM_XOR h f x => some (.xor, h, f, x)
  | .ATOM_EXCH h f x => some (.exch, h, f, x)
  | .ATOM_CAS h f x => some (.cas, h, f, x)
  | .ATOM_INC h f x => some (.inc, h, f, x)
  | .ATOM_DEC h f x => some (.dec, h, f, x)
  | _ => none

/-- The constructor of an atomic operation. -/
def AtomOp.mk : AtomOp → Head → MemF → AtomF → Instr
  | .add => .ATOM_ADD
  | .sub => .ATOM_SUB
  | .min => .ATOM_MIN
  | .max => .ATOM_MAX
  | .and => .ATOM_AND
  | .or => .ATOM_OR
  | .xor => .ATOM_XOR
  | .exch => .ATOM_EXCH
  | .cas => .ATOM_CAS
  | .inc => .ATOM_INC
  | .dec => .ATOM_DEC

/-- The operation of a sweep, with its head and fields (spec 03 R59). -/
def Instr.sweep? : Instr → Option (SweepOp × Head × SweepF)
  | .SWP_ADD h f => some (.add, h, f)
  | .SWP_SUB h f => some (.sub, h, f)
  | .SWP_MUL h f => some (.mul, h, f)
  | .SWP_FMA h f => some (.fma, h, f)
  | .SWP_MIN h f => some (.min, h, f)
  | .SWP_MAX h f => some (.max, h, f)
  | .SWP_MOV h f => some (.mov, h, f)
  | _ => none

/-- The constructor of a sweep operation. -/
def SweepOp.mk : SweepOp → Head → SweepF → Instr
  | .add => .SWP_ADD
  | .sub => .SWP_SUB
  | .mul => .SWP_MUL
  | .fma => .SWP_FMA
  | .min => .SWP_MIN
  | .max => .SWP_MAX
  | .mov => .SWP_MOV

/-- Every RSV_FIELD condition that an instruction's own fields can meet. A device event has none. -/
def Instr.conds (i : Instr) : List Cond :=
  match i with
  | .NOP _ => []
  | .EXIT _ => []
  | .TRAP _ _ => []
  | .BRK _ _ => []
  | .TRET h => noGuardConds h
  | .SAFEPT h _ => noGuardConds h
  | .IDEM_BEGIN h => noGuardConds h
  | .IDEM_END h => noGuardConds h
  | .MEET h _ => noGuardConds h
  | .ICINV _ _ _ => []
  | .IFENCE h => noGuardConds h
  | .BRA _ _ => []
  | .CALL _ link _ => condIf (link.toNat % 2 = 1) (false, 32)
  | .JMP _ target => condIf (target.toNat % 2 = 1) (false, 32)
  | .RET _ link => condIf (link.toNat % 2 = 1) (false, 32)
  | .BRX _ _ _ => []
  | .FORK h _ _ _ _ => noGuardConds h
  | .SYSR _ d sp => condIf (sp.wide && d.toNat % 2 = 1) (false, 36)
  | .SYSW _ sp s => condIf (!sp.writable) (false, 27) ++ condIf (sp.wide && s.toNat % 2 = 1) (false, 36)
  | .KAND _ f => aluConds ⟨0x08, 0, .k, .k, .k, .no, [.n32], .zeroAt0, .never⟩ f.raw
  | .KOR _ f => aluConds ⟨0x08, 1, .k, .k, .k, .no, [.n32], .zeroAt0, .never⟩ f.raw
  | .KXOR _ f => aluConds ⟨0x08, 2, .k, .k, .k, .no, [.n32], .zeroAt0, .never⟩ f.raw
  | .KNOT _ f => aluConds ⟨0x08, 3, .k, .k, .no, .no, [.n32], .zeroAt0, .never⟩ f.raw
  | .KMOV_K_K _ f => aluConds ⟨0x08, 4, .k, .k, .no, .no, [.n32], (.exact 0), .never⟩ f.raw
  | .KMOV_K_V _ f => aluConds ⟨0x08, 4, .k, .w, .no, .no, [.n32], (.exact 1), .never⟩ f.raw
  | .KMOV_V_K _ f => aluConds ⟨0x08, 4, .w, .k, .no, .no, [.n32], (.exact 2), .never⟩ f.raw
  | .KPOP _ f => aluConds ⟨0x08, 5, .w, .k, .no, .no, [.n32], .zeroAt0, .never⟩ f.raw
  | .KFFS _ f => aluConds ⟨0x08, 6, .w, .k, .no, .no, [.n32], .zeroAt0, .never⟩ f.raw
  | .XGET _ f => aluConds ⟨0x08, 7, .k, .no, .no, .no, [.n32], .zeroAt0, .never⟩ f.raw
  | .XSET _ f => aluConds ⟨0x08, 8, .no, .k, .no, .no, [.n32], .zeroAt0, .never⟩ f.raw
  | .XAND _ f => aluConds ⟨0x08, 9, .no, .k, .no, .no, [.n32], .zeroAt0, .never⟩ f.raw
  | .ADD _ f => aluConds ⟨0x0C, 0, .v, .v, .v, .no, [.n32, .i32, .n64, .i64], .sat, (.opt .b)⟩ f.raw
  | .SUB _ f => aluConds ⟨0x0C, 1, .v, .v, .v, .no, [.n32, .i32, .n64, .i64], .sat, (.opt .b)⟩ f.raw
  | .ADDC _ f => aluConds ⟨0x0C, 2, .v, .v, .v, .k, [.n32, .n64], .zeroAt0, .never⟩ f.raw
  | .SUBB _ f => aluConds ⟨0x0C, 3, .v, .v, .v, .k, [.n32, .n64], .zeroAt0, .never⟩ f.raw
  | .NEG _ f => aluConds ⟨0x0C, 4, .v, .v, .no, .no, [.i32, .i64], .zeroAt0, .never⟩ f.raw
  | .ABS _ f => aluConds ⟨0x0C, 5, .v, .v, .no, .no, [.i32, .i64], .zeroAt0, .never⟩ f.raw
  | .MIN _ f => aluConds ⟨0x0C, 6, .v, .v, .v, .no, [.n32, .i32, .n64, .i64], .zeroAt0, (.opt .b)⟩ f.raw
  | .MAX _ f => aluConds ⟨0x0C, 7, .v, .v, .v, .no, [.n32, .i32, .n64, .i64], .zeroAt0, (.opt .b)⟩ f.raw
  | .MUL_LO _ f => aluConds ⟨0x0C, 8, .v, .v, .v, .no, [.n32, .i32, .n64, .i64], .zeroAt0, (.opt .b)⟩ f.raw
  | .MUL_HI _ f => aluConds ⟨0x0C, 9, .v, .v, .v, .no, [.n32, .i32, .n64, .i64], .zeroAt0, (.opt .b)⟩ f.raw
  | .MAD _ f => aluConds ⟨0x0C, 10, .v, .v, .v, .v, [.n32, .i32, .n64, .i64], .zeroAt0, (.opt .c)⟩ f.raw
  | .AND _ f => aluConds ⟨0x0D, 0, .v, .v, .v, .no, [.n32, .n64], .zeroAt0, (.opt .b)⟩ f.raw
  | .OR _ f => aluConds ⟨0x0D, 1, .v, .v, .v, .no, [.n32, .n64], .zeroAt0, (.opt .b)⟩ f.raw
  | .XOR _ f => aluConds ⟨0x0D, 2, .v, .v, .v, .no, [.n32, .n64], .zeroAt0, (.opt .b)⟩ f.raw
  | .NOT _ f => aluConds ⟨0x0D, 3, .v, .v, .no, .no, [.n32, .n64], .zeroAt0, .never⟩ f.raw
  | .SHL _ f => aluConds ⟨0x0D, 4, .v, .v, .w, .no, [.n32, .n64], .zeroAt0, (.opt .b)⟩ f.raw
  | .SHR _ f => aluConds ⟨0x0D, 5, .v, .v, .w, .no, [.n32, .n64], .zeroAt0, (.opt .b)⟩ f.raw
  | .SRA _ f => aluConds ⟨0x0D, 6, .v, .v, .w, .no, [.n32, .n64], .zeroAt0, (.opt .b)⟩ f.raw
  | .BFE _ f => aluConds ⟨0x0D, 7, .v, .v, .w, .w, [.n32, .i32, .n64, .i64], .zeroAt0, (.opt .c)⟩ f.raw
  | .BFI _ f => aluConds ⟨0x0D, 8, .v, .v, .w, .w, [.n32, .n64], .zeroAt0, (.opt .c)⟩ f.raw
  | .POPC _ f => aluConds ⟨0x0D, 9, .w, .v, .no, .no, [.n32, .n64], .zeroAt0, .never⟩ f.raw
  | .CLZ _ f => aluConds ⟨0x0D, 10, .w, .v, .no, .no, [.n32, .n64], .zeroAt0, .never⟩ f.raw
  | .CTZ _ f => aluConds ⟨0x0D, 11, .w, .v, .no, .no, [.n32, .n64], .zeroAt0, .never⟩ f.raw
  | .BREV _ f => aluConds ⟨0x0D, 12, .v, .v, .no, .no, [.n32, .n64], .zeroAt0, .never⟩ f.raw
  | .MOV _ f => aluConds ⟨0x0E, 0, .v, .v, .no, .no, [.n32, .n64], .zeroAt0, .never⟩ f.raw
  | .MOVI _ f => aluConds ⟨0x0E, 1, .v, .no, .no, .no, [.n32, .n64, .f32, .f64], .zeroAt0, (.req .a)⟩ f.raw
  | .SEL _ f => aluConds ⟨0x0E, 2, .v, .v, .v, .k, [.n32, .n64], .zeroAt0, .never⟩ f.raw
  | .LEA _ f => aluConds ⟨0x0E, 3, .v, .v, .w, .no, [.n64], .lea, .never⟩ f.raw
  | .LEA_SYMBOL _ f => aluConds ⟨0x0E, 4, .v, .no, .no, .no, [.n64], .zeroAt0, .reqExt⟩ f.raw
  | .CMP_EQ _ f => aluConds ⟨0x0F, 0, .k, .v, .v, .no, [.n32, .i32, .n64, .i64, .f32, .f64], .zeroAt0, (.opt .b)⟩ f.raw
  | .CMP_NE _ f => aluConds ⟨0x0F, 1, .k, .v, .v, .no, [.n32, .i32, .n64, .i64, .f32, .f64], .zeroAt0, (.opt .b)⟩ f.raw
  | .CMP_LT _ f => aluConds ⟨0x0F, 2, .k, .v, .v, .no, [.n32, .i32, .n64, .i64, .f32, .f64], .zeroAt0, (.opt .b)⟩ f.raw
  | .CMP_LE _ f => aluConds ⟨0x0F, 3, .k, .v, .v, .no, [.n32, .i32, .n64, .i64, .f32, .f64], .zeroAt0, (.opt .b)⟩ f.raw
  | .CMP_GT _ f => aluConds ⟨0x0F, 4, .k, .v, .v, .no, [.n32, .i32, .n64, .i64, .f32, .f64], .zeroAt0, (.opt .b)⟩ f.raw
  | .CMP_GE _ f => aluConds ⟨0x0F, 5, .k, .v, .v, .no, [.n32, .i32, .n64, .i64, .f32, .f64], .zeroAt0, (.opt .b)⟩ f.raw
  | .CMP_NUM _ f => aluConds ⟨0x0F, 6, .k, .v, .v, .no, [.f32, .f64], .zeroAt0, (.opt .b)⟩ f.raw
  | .CMP_NAN _ f => aluConds ⟨0x0F, 7, .k, .v, .v, .no, [.f32, .f64], .zeroAt0, (.opt .b)⟩ f.raw
  | .FADD _ f => aluConds ⟨0x18, 0, .v, .v, .v, .no, [.f32], .round, (.opt .b)⟩ f.raw
  | .FSUB _ f => aluConds ⟨0x18, 1, .v, .v, .v, .no, [.f32], .round, (.opt .b)⟩ f.raw
  | .FMUL _ f => aluConds ⟨0x18, 2, .v, .v, .v, .no, [.f32], .round, (.opt .b)⟩ f.raw
  | .FFMA _ f => aluConds ⟨0x18, 3, .v, .v, .v, .v, [.f32], .round, (.opt .c)⟩ f.raw
  | .FMIN _ f => aluConds ⟨0x18, 4, .v, .v, .v, .no, [.f32, .f64], .zeroAt0, (.opt .b)⟩ f.raw
  | .FMAX _ f => aluConds ⟨0x18, 5, .v, .v, .v, .no, [.f32, .f64], .zeroAt0, (.opt .b)⟩ f.raw
  | .FABS _ f => aluConds ⟨0x18, 6, .v, .v, .no, .no, [.f32, .f64], .zeroAt0, .never⟩ f.raw
  | .FNEG _ f => aluConds ⟨0x18, 7, .v, .v, .no, .no, [.f32, .f64], .zeroAt0, .never⟩ f.raw
  | .FRND _ f => aluConds ⟨0x18, 8, .v, .v, .no, .no, [.f32, .f64], .round, .never⟩ f.raw
  | .FCMP _ f => aluConds ⟨0x18, 9, .w, .v, .v, .no, [.f32, .f64], .zeroAt0, (.opt .b)⟩ f.raw
  | .FCVT _ f => aluConds ⟨0x19, 0, .v, .srcV, .no, .srcTy, allTys, .round, .never⟩ f.raw
  | .DADD _ f => aluConds ⟨0x1A, 0, .v, .v, .v, .no, [.f64], .round, (.opt .b)⟩ f.raw
  | .DSUB _ f => aluConds ⟨0x1A, 1, .v, .v, .v, .no, [.f64], .round, (.opt .b)⟩ f.raw
  | .DMUL _ f => aluConds ⟨0x1A, 2, .v, .v, .v, .no, [.f64], .round, (.opt .b)⟩ f.raw
  | .DFMA _ f => aluConds ⟨0x1A, 3, .v, .v, .v, .v, [.f64], .round, (.opt .c)⟩ f.raw
  | .HFMA2 _ f => aluConds ⟨0x1B, 0, .v, .v, .v, .v, [.f16, .bf16], .round, (.opt .c)⟩ f.raw
  | .SHFL_IDX _ f => aluConds ⟨0x22, 0, .v, .v, .w, .no, [.n32, .n64], .zeroAt0, (.opt .b)⟩ f.raw
  | .SHFL_UP _ f => aluConds ⟨0x22, 1, .v, .v, .w, .no, [.n32, .n64], .zeroAt0, (.opt .b)⟩ f.raw
  | .SHFL_DOWN _ f => aluConds ⟨0x22, 2, .v, .v, .w, .no, [.n32, .n64], .zeroAt0, (.opt .b)⟩ f.raw
  | .SHFL_XOR _ f => aluConds ⟨0x22, 3, .v, .v, .w, .no, [.n32, .n64], .zeroAt0, (.opt .b)⟩ f.raw
  | .BCAST _ f => aluConds ⟨0x22, 4, .v, .v, .w, .no, [.n32, .n64], .zeroAt0, (.opt .b)⟩ f.raw
  | .VOTE_ANY _ f => aluConds ⟨0x22, 5, .k, .k, .no, .no, [.n32], .zeroAt0, .never⟩ f.raw
  | .VOTE_ALL _ f => aluConds ⟨0x22, 6, .k, .k, .no, .no, [.n32], .zeroAt0, .never⟩ f.raw
  | .VOTE_EQ _ f => aluConds ⟨0x22, 7, .k, .v, .no, .no, [.n32, .n64], .zeroAt0, .never⟩ f.raw
  | .MATCH _ f => aluConds ⟨0x22, 8, .w, .v, .no, .no, [.n32, .n64], .zeroAt0, .never⟩ f.raw
  | .RED_ADD _ f => aluConds ⟨0x23, 0, .v, .v, .no, .no, [.n32, .i32, .n64, .i64, .f32], .red, .never⟩ f.raw
  | .RED_MIN _ f => aluConds ⟨0x23, 1, .v, .v, .no, .no, [.n32, .i32, .n64, .i64, .f32], .red, .never⟩ f.raw
  | .RED_MAX _ f => aluConds ⟨0x23, 2, .v, .v, .no, .no, [.n32, .i32, .n64, .i64, .f32], .red, .never⟩ f.raw
  | .RED_AND _ f => aluConds ⟨0x23, 3, .v, .v, .no, .no, [.n32, .i32, .n64, .i64], .red, .never⟩ f.raw
  | .RED_OR _ f => aluConds ⟨0x23, 4, .v, .v, .no, .no, [.n32, .i32, .n64, .i64], .red, .never⟩ f.raw
  | .RED_XOR _ f => aluConds ⟨0x23, 5, .v, .v, .no, .no, [.n32, .i32, .n64, .i64], .red, .never⟩ f.raw
  | .SCAN_ADD _ f => aluConds ⟨0x23, 0, .v, .v, .no, .no, [.n32, .i32, .n64, .i64, .f32], .scan, .never⟩ f.raw
  | .SCAN_MIN _ f => aluConds ⟨0x23, 1, .v, .v, .no, .no, [.n32, .i32, .n64, .i64, .f32], .scan, .never⟩ f.raw
  | .SCAN_MAX _ f => aluConds ⟨0x23, 2, .v, .v, .no, .no, [.n32, .i32, .n64, .i64, .f32], .scan, .never⟩ f.raw
  | .SCAN_AND _ f => aluConds ⟨0x23, 3, .v, .v, .no, .no, [.n32, .i32, .n64, .i64], .scan, .never⟩ f.raw
  | .SCAN_OR _ f => aluConds ⟨0x23, 4, .v, .v, .no, .no, [.n32, .i32, .n64, .i64], .scan, .never⟩ f.raw
  | .SCAN_XOR _ f => aluConds ⟨0x23, 5, .v, .v, .no, .no, [.n32, .i32, .n64, .i64], .scan, .never⟩ f.raw
  | .LD _ f => memConds .ld (f.raw none)
  | .ST _ f => memConds .st (f.raw none)
  | .LDS _ f => memConds .lds (f.raw none)
  | .STS _ f => memConds .sts (f.raw none)
  | .ATOM_ADD _ f x => memConds .atom (f.raw (some 0)) ++ atomConds (f.raw (some 0)) (x.raw .add)
  | .ATOM_SUB _ f x => memConds .atom (f.raw (some 0)) ++ atomConds (f.raw (some 0)) (x.raw .sub)
  | .ATOM_MIN _ f x => memConds .atom (f.raw (some 0)) ++ atomConds (f.raw (some 0)) (x.raw .min)
  | .ATOM_MAX _ f x => memConds .atom (f.raw (some 0)) ++ atomConds (f.raw (some 0)) (x.raw .max)
  | .ATOM_AND _ f x => memConds .atom (f.raw (some 0)) ++ atomConds (f.raw (some 0)) (x.raw .and)
  | .ATOM_OR _ f x => memConds .atom (f.raw (some 0)) ++ atomConds (f.raw (some 0)) (x.raw .or)
  | .ATOM_XOR _ f x => memConds .atom (f.raw (some 0)) ++ atomConds (f.raw (some 0)) (x.raw .xor)
  | .ATOM_EXCH _ f x => memConds .atom (f.raw (some 0)) ++ atomConds (f.raw (some 0)) (x.raw .exch)
  | .ATOM_CAS _ f x => memConds .atom (f.raw (some 0)) ++ atomConds (f.raw (some 0)) (x.raw .cas)
  | .ATOM_INC _ f x => memConds .atom (f.raw (some 0)) ++ atomConds (f.raw (some 0)) (x.raw .inc)
  | .ATOM_DEC _ f x => memConds .atom (f.raw (some 0)) ++ atomConds (f.raw (some 0)) (x.raw .dec)
  | .FENCE_ACQ _ _ => []
  | .FENCE_REL _ _ => []
  | .DISCARD _ _ _ => []
  | .PREF _ f => prefConds { data := 2, base := f.base.toNat, idx := f.idx, index := f.index.toNat
                             scl := f.scl, size := 0, order := 0, obs := 0, mbz := false
                             disp := f.disp.toNat, ext := none }
  | .LD_POLL _ f => memConds .poll (f.raw none)
  | .WAITU _ f => waituConds f.operand.toNat f.limit.toNat f.cmp.code f.signed f.wide
      (f.ext.map BitVec.toNat)
  | .SLEEP _ f => aluConds ⟨0x2F, 0, .noAt0, .w, .noAt0, .noAt0, [.n32], .zeroAt0, (.opt .a)⟩ f.raw
  | .SPAWN _ f => aluConds ⟨0x2F, 1, .w, .w, .no, .entry, [.n32], .zeroLow, (.opt .a)⟩ f.raw
  | .LAUNCH _ f => aluConds ⟨0x2F, 2, .w, .pair, .no, .no, [.n32], .zeroLow, .never⟩ f.raw
  | .TRIG _ f => aluConds ⟨0x2F, 3, .no, .no, .no, .no, [.n32], .zeroLow, .never⟩ f.raw
  | .WAITP _ f => aluConds ⟨0x2F, 4, .w, .no, .no, .no, [.n32], .zeroLow, .never⟩ f.raw
  | .CANCEL _ f => aluConds ⟨0x2F, 5, .no, .pair, .no, .no, [.n32], .level, .never⟩ f.raw
  | .CCNT _ f => aluConds ⟨0x2F, 6, .pair, .pair, .no, .no, [.n32], .level, .never⟩ f.raw
  | .GBAR h f => noGuardConds h ++ aluConds ⟨0x2F, 7, .no, .no, .no, .no, [.n32], .zeroLow, .never⟩ f.raw
  | .HOLD _ f => aluConds ⟨0x30, 0, .no, .v, .no, .hold, [.n32, .n64], .zeroAt0, .never⟩ f.raw
  | .TAKE _ f => aluConds ⟨0x30, 1, .v, .no, .no, .hold, [.n32, .n64], .zeroAt0, .never⟩ f.raw
  | .IPL _ f => aluConds ⟨0x30, 2, .v, .no, .no, .hold, [.f32], .zeroAt0, .never⟩ f.raw
  | .AMP _ f => aluConds ⟨0x31, 0, .w, .w, .no, .no, [.n32], .zeroAt0, (.opt .a)⟩ f.raw
  | .EMIT_VTX _ f => aluConds ⟨0x31, 1, .no, .w, .no, .no, [.n32], (.exact 0), .never⟩ f.raw
  | .EMIT_PRIM _ f => aluConds ⟨0x31, 1, .no, .w, .no, .no, [.n32], (.exact 1), .never⟩ f.raw
  | .COV _ f => aluConds ⟨0x32, 0, .w, .no, .no, .no, [.n32], .zeroAt0, .never⟩ f.raw
  | .ZTEST _ f => aluConds ⟨0x32, 1, .k, .quad, .w, .no, [.f32], .zeroAt0, .never⟩ f.raw
  | .ZWR _ f => aluConds ⟨0x32, 2, .no, .w, .no, .no, [.f32], .zeroAt0, .never⟩ f.raw
  | .FBW _ f => aluConds ⟨0x32, 3, .no, .fbwSrc, .no, .target, [.f32, .n32], .zeroAt0, .never⟩ f.raw
  | .SPAWNY _ f => aluConds ⟨0x33, 0, .w, .oct, .w, .no, [.n32], .zeroAt0, .never⟩ f.raw
  | .RAYRET _ f => aluConds ⟨0x33, 1, .no, .w, .no, .no, [.n32], .zeroAt0, .never⟩ f.raw
  | .BVHT _ f => aluConds ⟨0x33, 2, .w, .pair, .oct, .no, [.n32], .zeroAt0, .never⟩ f.raw
  | .TARM _ f => aluConds ⟨0x34, 0, .no, .w, .w, .tile, [.n32], .zeroAt0, (.opt .b)⟩ f.raw
  | .TWAIT _ f => aluConds ⟨0x34, 1, .no, .no, .no, .tile, [.n32], .zeroAt0, .never⟩ f.raw
  | .TREL _ f => aluConds ⟨0x34, 2, .no, .no, .no, .tile, [.n32], .zeroAt0, .never⟩ f.raw
  | .TSTAT _ f => aluConds ⟨0x34, 3, .w, .no, .no, .tile, [.n32], .zeroAt0, .never⟩ f.raw
  | .TCOPY _ f => aluConds ⟨0x34, 4, .no, .pair, .no, .tile, [.n32], .zeroAt0, .never⟩ f.raw
  | .MSTART _ f => aluConds ⟨0x35, 0, .no, .pair, .no, .no, [.n32], .zeroAt0, .reqEntry⟩ f.raw
  | .COLL _ f => aluConds ⟨0x35, 1, .w, .pair, .no, .no, [.n32], .zeroLow, .never⟩ f.raw
  | .TRCP _ f => aluConds ⟨0x36, 0, .v, .v, .no, .no, [.f32], .zeroAt0, .never⟩ f.raw
  | .TRSQ _ f => aluConds ⟨0x36, 1, .v, .v, .no, .no, [.f32], .zeroAt0, .never⟩ f.raw
  | .TSQRT _ f => aluConds ⟨0x36, 2, .v, .v, .no, .no, [.f32], .zeroAt0, .never⟩ f.raw
  | .TDIV _ f => aluConds ⟨0x36, 3, .v, .v, .v, .no, [.f32], .zeroAt0, (.opt .b)⟩ f.raw
  | .TEXP2 _ f => aluConds ⟨0x36, 4, .v, .v, .no, .no, [.f32], .zeroAt0, .never⟩ f.raw
  | .TLOG2 _ f => aluConds ⟨0x36, 5, .v, .v, .no, .no, [.f32], .zeroAt0, .never⟩ f.raw
  | .TSIN _ f => aluConds ⟨0x36, 6, .v, .v, .no, .no, [.f32], .zeroAt0, .never⟩ f.raw
  | .TCOS _ f => aluConds ⟨0x36, 7, .v, .v, .no, .no, [.f32], .zeroAt0, .never⟩ f.raw
  | .IDIV _ f => aluConds ⟨0x36, 8, .v, .v, .v, .no, [.n32, .i32], .zeroAt0, (.opt .b)⟩ f.raw
  | .DEC_RLE _ f => aluConds ⟨0x36, 9, .nine, .quad, .w, .no, [.n32], .zeroAt0, .never⟩ f.raw
  | .DEC_BITS _ f => aluConds ⟨0x36, 10, .nine, .pair, .w, .no, [.n32], .zeroAt0, .never⟩ f.raw
  | .DEC_FP4 _ f => aluConds ⟨0x36, 11, .nine, .w, .w, .no, [.n32], .zeroAt0, .never⟩ f.raw
  | .SWP_ADD _ f => sweepConds f.b.toNat f.count.toNat 0 f.ty.code f.stepB.toNat 0 true
  | .SWP_SUB _ f => sweepConds f.b.toNat f.count.toNat 1 f.ty.code f.stepB.toNat 0 true
  | .SWP_MUL _ f => sweepConds f.b.toNat f.count.toNat 2 f.ty.code f.stepB.toNat 0 true
  | .SWP_FMA _ f => sweepConds f.b.toNat f.count.toNat 3 f.ty.code f.stepB.toNat 0 true
  | .SWP_MIN _ f => sweepConds f.b.toNat f.count.toNat 4 f.ty.code f.stepB.toNat 0 true
  | .SWP_MAX _ f => sweepConds f.b.toNat f.count.toNat 5 f.ty.code f.stepB.toNat 0 true
  | .SWP_MOV _ f => sweepConds f.b.toNat f.count.toNat 6 f.ty.code f.stepB.toNat 0 true
  | .MEND => []
  | .MNOP => []
  | .MMOV f => msqScalarConds (!f.imm) false f.a.toNat f.b.toNat f.imm 0 f.value.toNat
  | .MADD f => msqScalarConds true true f.a.toNat f.b.toNat f.imm 0 f.value.toNat
  | .MSUB f => msqScalarConds true true f.a.toNat f.b.toNat f.imm 0 f.value.toNat
  | .MMUL f => msqScalarConds true true f.a.toNat f.b.toNat f.imm 0 f.value.toNat
  | .MAND f => msqScalarConds true true f.a.toNat f.b.toNat f.imm 0 f.value.toNat
  | .MOR f => msqScalarConds true true f.a.toNat f.b.toNat f.imm 0 f.value.toNat
  | .MXOR f => msqScalarConds true true f.a.toNat f.b.toNat f.imm 0 f.value.toNat
  | .MSHL f => msqScalarConds true true f.a.toNat f.b.toNat f.imm 0 f.value.toNat
  | .MSHR f => msqScalarConds true true f.a.toNat f.b.toNat f.imm 0 f.value.toNat
  | .MBEQ _ => []
  | .MBNE _ => []
  | .MBLT _ => []
  | .MBGE _ => []
  | .MJMP f => mustZero false 53 f.a.toNat ++ mustZero false 48 f.b.toNat
  | .MLD f => msqScalarConds true false f.a.toNat f.b.toNat f.imm 0 f.value.toNat ++ msqMemConds f.imm
  | .MST f => msqScalarConds true false f.a.toNat f.b.toNat f.imm 0 f.value.toNat ++ msqMemConds f.imm
  | .BLD _ _ ty _ scl => condIf (scl && ty ≠ .e2m1) (false, 45)
  | .SBLD _ _ => []
  | .MMA _ _ _ _ _ _ _ => []
  | .ACC_CLR _ count => condIf (count.toNat = 0 || count.toNat > 256) (false, 24)
  | .ACC_ST _ _ ty _ _ => condIf (!([Ty.f16, .bf16, .f32, .e4m3, .e5m2, .e2m1].any fun t => t = ty)) (false, 38)
  | .TW _ _ => []
  | .TINC _ => []
  | .LOAD_VALUE_ARRIVAL _ _ _ => []
  | .ICINV_COMPLETE _ => []
  | .MATRIX_WORD_COMPLETE _ _ => []
  | .MSQ_PROGRAM_START _ => []
  | .MSQ_STATE_SAVE _ => []
  | .LOAD_OBJECT _ _ _ _ => []
  | .UNLOAD_OBJECT _ _ => []
  | .ATTESTATION_REPORT _ _ => []
  | .DEVICE_RESET => []
  | .SECURE_BOOT _ _ => []
  | .FIRMWARE_LOAD _ _ _ => []
  | .TRAINING _ => []
  | .DOORBELL _ _ _ => []
  | .CONTEXT_BLOCK_ADDRESS _ _ => []
  | .CONTEXT_ENABLE _ _ => []
  | .REGISTER_WRITE _ _ => []
  | .JOB_ACCEPT _ _ => []
  | .LAUNCH_ELIGIBLE _ => []
  | .LAUNCH_START _ => []
  | .BANK_MODE_CHANGE _ _ _ => []
  | .LAUNCH_RING_DRAIN _ _ => []
  | .GROUP_RETIRE _ => []
  | .SOLDER _ _ => []
  | .REJOIN _ _ => []
  | .GBAR_COMPLETE _ => []
  | .WAITP_RELEASE _ => []
  | .PREEMPT_REQUEST _ _ => []
  | .GROUP_SAVE _ => []
  | .SWAP_OUT _ => []
  | .GROUP_RESTORE _ _ => []
  | .FETCH_FAULT _ => []
  | .FAULT_RESOLVE _ => []
  | .FAULT_DELIVER _ => []
  | .WAKE_DELIVERY _ => []
  | .WAITU_EXPIRY _ _ => []
  | .SLEEP_EXPIRY _ => []
  | .SPILL_WALK _ => []
  | .WAKE_LIST_RETRY _ => []
  | .MONITOR_COUNTER_CLEAR _ => []
  | .RETRANSLATE _ _ _ => []
  | .GILT_GRANT _ _ _ => []
  | .FRAME_POOL_PUSH _ _ => []
  | .STASH_DRAIN _ => []
  | .GILT_STARVATION _ => []
  | .MIGRATE _ _ => []
  | .HOST_ACCESS _ _ => []
  | .PEER_ACCESS _ _ _ _ => []
  | .PEER_TIMEOUT _ => []
  | .PEER_PATH_LOSS _ => []
  | .SOFT_ERROR _ => []
  | .COPY_ELEMENT_COMMIT _ => []
  | .COLL_OPERATION _ _ _ _ _ => []
  | .RESERVATION_GRANT _ => []
  | .RATE_WAVE_START _ _ _ => []
  | .RASTERISE_PRIMITIVE _ _ => []
  | .ELEMENT_RETIRE _ => []
  | .PYRAMID_DROP _ _ => []
  | .ISLAND_OPERATING_POINT _ _ => []
  | .HOST_WRITE_INVALIDATE _ _ => []
  | .SPAWN_AREA_GROW _ _ => []

end Sys2Proof
end

