-- ==== Sys2Proof/WellFormed.lean ====
section
/-!
DEFINITION. Well-formed instructions: those whose fields meet no RSV_FIELD condition
(spec 01 R15, R16, spec 03 R42, R44, R46, R50, R52, R53).
-/

namespace Sys2Proof

/-- No field of the instruction raises RSV_FIELD, whatever the state. -/
def WellFormed (i : Instr) : Prop := i.conds = []

/-- The check of `WellFormed` as a Bool. -/
def wellFormed (i : Instr) : Bool := i.conds.isEmpty

end Sys2Proof
end

