-- ==== Sys2Proof/Decode.lean ====
section
/-!
DEFINITION. The decoder of wave words (spec 03 R39 to R64) and of MSQ words (R65, R66), total on any
words and rejecting with the trap and the offending bit that R16, R19 and R46 name; after it the
encoder, from the same tables.
-/

namespace Sys2Proof

/-- Bits lo + len - 1 down to lo of a number. -/
def bits (n lo len : Nat) : Nat := n / 2 ^ lo % 2 ^ len

/-- One bit of a number. -/
def bit (n k : Nat) : Bool := n / 2 ^ k % 2 = 1

/-- Why a word is not an instruction (spec 03 R46). -/
inductive DecodeError
  /-- a major of 0x38 to 0x3F -/
  | illegalOp
  /-- an RSV_FIELD condition, the one that %tcause reports -/
  | rsvField (c : Cond)
  deriving DecidableEq, Repr

/-- The smaller of two conditions in the order of R19: the first word before the extension, then
the lower bit. -/
def Cond.first (c e : Cond) : Cond :=
  if c.1 = e.1 then (if c.2 ≤ e.2 then c else e) else if c.1 then e else c

/-- The condition that %tcause reports when several hold (spec 01 R19). -/
def lowestCond : List Cond → Option Cond
  | [] => none
  | c :: cs =>
    match lowestCond cs with
    | none => some c
    | some e => some (c.first e)

/-- The head of a first word (spec 03 R39). -/
def headOf (w : Nat) : Head :=
  { gate := bit w 57, rate := Rate.ofCode (bits w 54 3), guard := BitVec.ofNat 4 (bits w 50 4)
    gneg := bit w 49, hints := BitVec.ofNat 4 (bits w 44 4) }

/-- The fields of an ALU word (spec 03 R49). -/
def aluRawOf (w : Nat) (ext : Option Nat) : AluRaw :=
  { d := bits w 36 8, a := bits w 28 8, b := bits w 20 8, c := bits w 12 8, ty := bits w 4 4
    imm := bit w 3, mod := bits w 0 3, ext := ext }

/-- The fields of a memory word (spec 01 R14). -/
def memRawOf (w : Nat) (ext : Option Nat) : MemRaw :=
  { data := bits w 36 8, base := bits w 29 7, idx := bit w 28, index := bits w 20 8
    scl := bit w 19, size := bits w 16 3, order := bits w 14 2, obs := bits w 9 5, mbz := bit w 8
    disp := bits w 0 8, ext := ext }

/-- The fields of an atomic's extension word (spec 03 R52). -/
def atomRawOf (e : Nat) : AtomRaw :=
  { a := bits e 56 8, b := bits e 48 8, op := bits e 44 4, kind := bits e 42 2, imm := bit e 41
    ret := bit e 40, mbz := bits e 32 8, value := bits e 0 32 }

/-- Typed ALU fields; none for a reserved type code. -/
def AluRaw.typed (f : AluRaw) : Option AluF :=
  (Ty.ofCode f.ty).map fun ty =>
    { d := BitVec.ofNat 8 f.d, a := BitVec.ofNat 8 f.a, b := BitVec.ofNat 8 f.b
      c := BitVec.ofNat 8 f.c, ty := ty, imm := f.imm, mod := BitVec.ofNat 3 f.mod
      ext := f.ext.map (BitVec.ofNat 64) }

/-- Typed address fields. -/
def MemRaw.addr (f : MemRaw) : AddrF :=
  { base := BitVec.ofNat 7 f.base, idx := f.idx, index := BitVec.ofNat 8 f.index, scl := f.scl
    disp := BitVec.ofNat 8 f.disp }

/-- Typed memory fields; none for a reserved size code. -/
def MemRaw.typed (f : MemRaw) : Option MemF :=
  (Size.ofCode f.size).map fun size =>
    { data := BitVec.ofNat 8 f.data, addr := f.addr, size := size, order := Order.ofCode f.order
      obs := BitVec.ofNat 5 f.obs }

/-- Typed fields of an atomic's extension; none for a reserved kind. -/
def AtomRaw.typed (x : AtomRaw) : Option AtomF :=
  (Kind.ofCode x.kind).map fun kind =>
    { a := BitVec.ofNat 8 x.a, b := BitVec.ofNat 8 x.b, kind := kind, imm := x.imm, ret := x.ret
      value := BitVec.ofNat 32 x.value }

/-- Bit 48 set where the format defines no extension (spec 03 R42). -/
def noExt (ext : Option Nat) : List Cond := condIf ext.isSome (false, 48)

/-- A word whose conditions and instruction are known: what each format's decoder answers. -/
abbrev Decoded := List Cond × Option Instr

/-- Major 0x00 (spec 03 R54, spec 08 R133, R139). -/
def decodeControl (w : Nat) (ext : Option Nat) : Decoded :=
  let h := headOf w
  let plain (i : Instr) (g : List Cond) : Decoded :=
    (g ++ mustZero false 0 (bits w 0 38) ++ noExt ext, some i)
  match bits w 38 6 with
  | 0x00 => plain (.NOP h) []
  | 0x01 => plain (.EXIT h) []
  | 0x02 => (mustZero false 16 (bits w 16 22) ++ noExt ext, some (.TRAP h (BitVec.ofNat 16 (bits w 0 16))))
  | 0x03 => (mustZero false 16 (bits w 16 22) ++ noExt ext, some (.BRK h (BitVec.ofNat 16 (bits w 0 16))))
  | 0x04 => plain (.TRET h) (noGuardConds h)
  | 0x05 => (noGuardConds h ++ mustZero false 12 (bits w 12 26) ++ noExt ext,
      some (.SAFEPT h (BitVec.ofNat 12 (bits w 0 12))))
  | 0x06 => plain (.IDEM_BEGIN h) (noGuardConds h)
  | 0x07 => plain (.IDEM_END h) (noGuardConds h)
  | 0x08 => (noGuardConds h ++ mustZero false 12 (bits w 12 26) ++ noExt ext,
      some (.MEET h (BitVec.ofNat 12 (bits w 0 12))))
  | 0x09 => (mustZero false 0 (bits w 0 23) ++ noExt ext,
      some (.ICINV h (BitVec.ofNat 7 (bits w 31 7)) (BitVec.ofNat 8 (bits w 23 8))))
  | 0x0A => plain (.IFENCE h) (noGuardConds h)
  | _ => (mustZero false 0 (bits w 0 38) ++ [(false, 38)], none)

/-- Major 0x01 (spec 03 R55, spec 08 R134). -/
def decodeBranch (w : Nat) (ext : Option Nat) : Decoded :=
  let h := headOf w
  let r := bits w 32 8
  let off := BitVec.ofNat 32 (bits w 0 32)
  match bits w 40 4 with
  | 0 => (mustZero false 32 r ++ noExt ext, some (.BRA h off))
  | 1 => (condIf (r % 2 = 1) (false, 32) ++ noExt ext, some (.CALL h (BitVec.ofNat 8 r) off))
  | 2 => (condIf (r % 2 = 1) (false, 32) ++ mustZero false 0 (bits w 0 32) ++ noExt ext,
      some (.JMP h (BitVec.ofNat 8 r)))
  | 3 => (condIf (r % 2 = 1) (false, 32) ++ mustZero false 0 (bits w 0 32) ++ noExt ext,
      some (.RET h (BitVec.ofNat 8 r)))
  | 4 => (noExt ext, some (.BRX h (BitVec.ofNat 8 r) off))
  | _ => (mustZero false 0 (bits w 0 40) ++ [(false, 40)], none)

/-- Major 0x02 (spec 03 R56, spec 08 R135). -/
def decodeFork (w : Nat) (ext : Option Nat) : Decoded :=
  let h := headOf w
  let e := ext.getD 0
  (noGuardConds h ++ mustZero false 0 (bits w 0 16) ++ condIf ext.isNone (false, 48)
      ++ condIf (e / 2 ^ 32 ≠ 0) (true, 32),
    some (.FORK h (BitVec.ofNat 4 (bits w 40 4)) (BitVec.ofNat 12 (bits w 28 12))
      (BitVec.ofNat 12 (bits w 16 12)) (BitVec.ofNat 32 (bits e 0 32))))

/-- Major 0x03 (spec 03 R57, spec 08 R141). -/
def decodeSpecial (w : Nat) (ext : Option Nat) : Decoded :=
  let h := headOf w
  let r := bits w 36 8
  let low := mustZero false 0 (bits w 0 27) ++ noExt ext
  match Special.ofCode (bits w 28 8) with
  | none => (low ++ [(false, 28)], none)
  | some sp =>
    let odd := condIf (sp.wide && r % 2 = 1) (false, 36)
    if bit w 27 then
      (low ++ condIf (!sp.writable) (false, 27) ++ odd, some (.SYSW h sp (BitVec.ofNat 8 r)))
    else (low ++ odd, some (.SYSR h (BitVec.ofNat 8 r) sp))

/-- An ALU-format major (spec 03 R49, R61 to R64). -/
def decodeAlu (w : Nat) (ext : Option Nat) : Decoded :=
  let raw := aluRawOf w ext
  match aluMk (bits w 58 6) (bits w 8 4) raw.mod with
  | none => (unusedMinorConds raw, none)
  | some mk =>
    let i? := raw.typed.map (mk (headOf w))
    -- the row does not depend on the fields, so any instance of the constructor gives it
    let probe := mk (headOf w) ((raw.typed).getD
      { d := 0, a := 0, b := 0, c := 0, ty := .n32, imm := false, mod := 0, ext := none })
    match probe.alu? with
    | none => ([], none)
    | some (row, h, _) =>
      ((if row.major = 0x2F && row.minor = 7 then noGuardConds h else []) ++ aluConds row raw, i?)

/-- A memory-format load or store (spec 03 R51). -/
def decodeMem (op : MemOp) (mk : Head → MemF → Instr) (w : Nat) (ext : Option Nat) : Decoded :=
  let raw := memRawOf w ext
  (memConds op raw, raw.typed.map (mk (headOf w)))

/-- Major 0x2A (spec 03 R52). -/
def decodeAtom (w : Nat) (ext : Option Nat) : Decoded :=
  let raw := memRawOf w ext
  match ext with
  | none => (memConds .atom raw, none)
  | some e =>
    let x := atomRawOf e
    (memConds .atom raw ++ atomConds raw x,
      match AtomOp.ofCode x.op, raw.typed, x.typed with
      | some op, some f, some y => some (op.mk (headOf w) f y)
      | _, _, _ => none)

/-- Major 0x2B (spec 03 R53). -/
def decodeCache (w : Nat) (ext : Option Nat) : Decoded :=
  let raw := memRawOf w ext
  let h := headOf w
  match raw.data with
  | 0 =>
    (fenceConds raw,
      some (if raw.order = 1 then .FENCE_ACQ h (BitVec.ofNat 5 raw.obs)
            else .FENCE_REL h (BitVec.ofNat 5 raw.obs)))
  | 1 => (discardConds raw, some (.DISCARD h (BitVec.ofNat 7 raw.base) (BitVec.ofNat 8 raw.index)))
  | 2 => (prefConds raw, some (.PREF h raw.addr))
  | _ => (reservedCacheConds raw, none)

/-- Major 0x2E (spec 03 R58). -/
def decodeWaitu (w : Nat) (ext : Option Nat) : Decoded :=
  (waituConds (bits w 21 8) (bits w 13 8) (bits w 10 3) (bit w 9) (bit w 8) ext,
    (WCmp.ofCode (bits w 10 3)).map fun cmp => .WAITU (headOf w)
      { d := BitVec.ofNat 8 (bits w 36 8), base := BitVec.ofNat 7 (bits w 29 7)
        operand := BitVec.ofNat 8 (bits w 21 8), limit := BitVec.ofNat 8 (bits w 13 8), cmp := cmp
        signed := bit w 9, wide := bit w 8, disp := BitVec.ofNat 8 (bits w 0 8)
        ext := ext.map (BitVec.ofNat 32) })

/-- The sweep operation of a code; 7 to 15 are reserved (spec 03 R59). -/
def SweepOp.ofCode : Nat → Option SweepOp
  | 0 => some .add | 1 => some .sub | 2 => some .mul | 3 => some .fma | 4 => some .min
  | 5 => some .max | 6 => some .mov | _ => none

/-- Major 0x37 (spec 03 R59). -/
def decodeSweep (w : Nat) (ext : Option Nat) : Decoded :=
  let e := ext.getD 0
  (sweepConds (bits w 20 8) (bits w 8 12) (bits w 4 4) (bits w 0 4) (bits e 16 16) (bits e 0 16)
      ext.isSome,
    match SweepOp.ofCode (bits w 4 4), Ty.ofCode (bits w 0 4) with
    | some op, some ty => some (op.mk (headOf w)
        { d := BitVec.ofNat 8 (bits w 36 8), a := BitVec.ofNat 8 (bits w 28 8)
          b := BitVec.ofNat 8 (bits w 20 8), count := BitVec.ofNat 12 (bits w 8 12), ty := ty
          stepD := BitVec.ofNat 16 (bits e 48 16), stepA := BitVec.ofNat 16 (bits e 32 16)
          stepB := BitVec.ofNat 16 (bits e 16 16) })
    | _, _ => none)

/-- The conditions and the instruction of a first word below major 0x38 (spec 03 R60). A word of the unused major 0x2D
reports bit 58 alone (R46), though the text before R14 and R51 counts that major to the memory format, with the
conditions of R15 (log entry 99). -/
def decodeParts (w : Nat) (ext : Option Nat) : Decoded :=
  match bits w 58 6 with
  | 0x00 => decodeControl w ext
  | 0x01 => decodeBranch w ext
  | 0x02 => decodeFork w ext
  | 0x03 => decodeSpecial w ext
  | 0x08 | 0x0C | 0x0D | 0x0E | 0x0F | 0x18 | 0x19 | 0x1A | 0x1B | 0x22 | 0x23 | 0x2F | 0x30 | 0x31
  | 0x32 | 0x33 | 0x34 | 0x35 | 0x36 => decodeAlu w ext
  | 0x26 => decodeMem .ld .LD w ext
  | 0x27 => decodeMem .st .ST w ext
  | 0x28 => decodeMem .lds .LDS w ext
  | 0x29 => decodeMem .sts .STS w ext
  | 0x2A => decodeAtom w ext
  | 0x2B => decodeCache w ext
  | 0x2C => decodeMem .poll .LD_POLL w ext
  | 0x2E => decodeWaitu w ext
  | 0x37 => decodeSweep w ext
  | _ => ([(false, 58)], none)

/-- Whether a first word is followed by an extension word (spec 03 R39, R41). -/
def hasExt (w : DWord) : Bool := bit w.toNat 48

/-- Decoding a first word and, where its bit 48 is set, the word that follows it. `extra` are the
conditions that depend on the code object's tables (spec 04 R77, spec 06 R106). -/
def decodeWith (extra : List Cond) (w : DWord) (next : DWord) : Except DecodeError Instr :=
  if bits w.toNat 58 6 ≥ 0x38 then .error .illegalOp
  else
    let p := decodeParts w.toNat (if hasExt w then some next.toNat else none)
    match lowestCond (p.1 ++ extra) with
    | some c => .error (.rsvField c)
    | none =>
      match p.2 with
      | some i => .ok i
      | none => .error (.rsvField (false, 58))

/-- Decoding without regard to the code object's tables. -/
def decode (w : DWord) (next : DWord) : Except DecodeError Instr := decodeWith [] w next

/-- The scalar layout of an MSQ word (spec 03 R65). -/
def msqSOf (w : Nat) : MsqS :=
  { d := BitVec.ofNat 5 (bits w 53 5), a := BitVec.ofNat 5 (bits w 48 5)
    b := BitVec.ofNat 5 (bits w 43 5), imm := bit w 42, value := BitVec.ofNat 32 (bits w 0 32) }

/-- A scalar MSQ word and its conditions. -/
def decodeMsqS (mk : MsqS → Instr) (useA useB : Bool) (w : Nat) : Decoded :=
  (msqScalarConds useA useB (bits w 48 5) (bits w 43 5) (bit w 42) (bits w 32 10) (bits w 0 32),
    some (mk (msqSOf w)))

/-- A branch MSQ word and its conditions; mjmp names no register. -/
def decodeMsqB (mk : MsqB → Instr) (uses : Bool) (w : Nat) : Decoded :=
  (mustZero false 32 (bits w 32 16)
      ++ (if uses then [] else mustZero false 53 (bits w 53 5) ++ mustZero false 48 (bits w 48 5)),
    some (mk { a := BitVec.ofNat 5 (bits w 53 5), b := BitVec.ofNat 5 (bits w 48 5)
               off := BitVec.ofNat 32 (bits w 0 32) }))

/-- The conditions and the instruction of an MSQ word (spec 03 R65 to R67, spec 22 R314). -/
def decodeMsqParts (w : Nat) : Decoded :=
  let bank := BitVec.ofNat 2 (bits w 56 2)
  let tile := BitVec.ofNat 6 (bits w 50 6)
  match bits w 58 6 with
  | 0x00 => (mustZero false 0 (bits w 0 58), some .MEND)
  | 0x01 => (mustZero false 0 (bits w 0 58), some .MNOP)
  | 0x02 => decodeMsqS .MMOV (!bit w 42) false w
  | 0x03 => decodeMsqS .MADD true true w
  | 0x04 => decodeMsqS .MSUB true true w
  | 0x05 => decodeMsqS .MMUL true true w
  | 0x06 => decodeMsqS .MAND true true w
  | 0x07 => decodeMsqS .MOR true true w
  | 0x08 => decodeMsqS .MXOR true true w
  | 0x09 => decodeMsqS .MSHL true true w
  | 0x0A => decodeMsqS .MSHR true true w
  | 0x10 => decodeMsqB .MBEQ true w
  | 0x11 => decodeMsqB .MBNE true w
  | 0x12 => decodeMsqB .MBLT true w
  | 0x13 => decodeMsqB .MBGE true w
  | 0x14 => decodeMsqB .MJMP false w
  | 0x18 => ((decodeMsqS .MLD true false w).1 ++ msqMemConds (bit w 42), some (.MLD (msqSOf w)))
  | 0x19 => ((decodeMsqS .MST true false w).1 ++ msqMemConds (bit w 42), some (.MST (msqSOf w)))
  | 0x20 =>
    (mustZero false 0 (bits w 0 45) ++ condIf (bits w 47 3 > 4) (false, 47)
        ++ condIf (bit w 45 && bits w 47 3 ≠ 0) (false, 45),
      (MTy.ofCode (bits w 47 3)).map fun ty => .BLD bank tile ty (bit w 46) (bit w 45))
  | 0x21 => (mustZero false 0 (bits w 0 50), some (.SBLD bank tile))
  | 0x22 =>
    (mustZero false 0 (bits w 0 33) ++ condIf (bits w 42 3 > 4) (false, 42),
      (MTy.ofCode (bits w 42 3)).map fun ty =>
        .MMA bank tile (BitVec.ofNat 4 (bits w 45 4)) (bit w 49) ty (bit w 41)
          (BitVec.ofNat 8 (bits w 33 8)))
  | 0x23 =>
    (mustZero false 41 (bits w 41 17) ++ mustZero false 0 (bits w 0 24)
        ++ condIf (bits w 24 9 = 0 || bits w 24 9 > 256) (false, 24),
      some (.ACC_CLR (BitVec.ofNat 8 (bits w 33 8)) (BitVec.ofNat 9 (bits w 24 9))))
  | 0x24 =>
    let t := bits w 38 4
    (mustZero false 56 (bits w 56 2) ++ mustZero false 0 (bits w 0 32)
        ++ condIf (!(t = 4 || t = 5 || t = 6 || t = 8 || t = 9 || t = 10)) (false, 38),
      (Ty.ofCode t).map fun ty => .ACC_ST tile (BitVec.ofNat 8 (bits w 42 8)) ty
        (BitVec.ofNat 4 (bits w 34 4)) (BitVec.ofNat 2 (bits w 32 2)))
  | 0x25 => (mustZero false 56 (bits w 56 2) ++ mustZero false 0 (bits w 0 49),
      some (.TW tile (bit w 49)))
  | 0x26 => (mustZero false 0 (bits w 0 53), some (.TINC (BitVec.ofNat 5 (bits w 53 5))))
  | _ => ([(false, 58)], none)

/-- Decoding an MSQ word: its instruction, or the lowest RSV_FIELD condition (spec 03 R67). -/
def decodeMsq (w : DWord) : Except Cond Instr :=
  match lowestCond (decodeMsqParts w.toNat).1 with
  | some c => .error c
  | none =>
    match (decodeMsqParts w.toNat).2 with
    | some i => .ok i
    | none => .error (false, 58)

/-- A little-endian number from its bytes, lowest address first (spec 12 R182). -/
def leNat : List Byte → Nat
  | [] => 0
  | b :: bs => b.toNat + 256 * leNat bs

/-- The bytes of a number, lowest address first (spec 12 R182). -/
def leBytes (n : Nat) : Nat → List Byte
  | 0 => []
  | k + 1 => BitVec.ofNat 8 n :: leBytes (n / 256) k

/-- Decoding from bytes as memory holds them, with the bytes that follow the instruction; missing
bytes refuse. -/
def decodeBytes (l : List Byte) : Option (Except DecodeError Instr × List Byte) :=
  if l.length < 8 then none
  else
    let w := BitVec.ofNat 64 (leNat (l.take 8))
    if hasExt w then
      if l.length < 16 then none
      else some (decode w (BitVec.ofNat 64 (leNat ((l.drop 8).take 8))), l.drop 16)
    else some (decode w 0, l.drop 8)

/-- The instruction that the decoder reads from a table row's bits: the first word in bits 63:0 and
an extension word in bits 127:64. Wave words come first; a word that no wave decodes is read as an
MSQ word, which only the matrix sequencer fetches. -/
def decodeTableWord (_nbits w : Nat) : Option Instr :=
  match decodeBytes (leBytes w 16) with
  | some (.ok i, _) => some i
  | _ =>
    match decodeMsq (BitVec.ofNat 64 w) with
    | .ok i => some i
    | .error _ => none

/-! ## The encoder -/

/-- Bits 63:44 of a first word (spec 03 R39). -/
def headBits (major : Nat) (h : Head) (ext : Bool) : Nat :=
  major * 2 ^ 58 + h.gate.toNat * 2 ^ 57 + h.rate.code * 2 ^ 54 + h.guard.toNat * 2 ^ 50
    + h.gneg.toNat * 2 ^ 49 + ext.toNat * 2 ^ 48 + h.hints.toNat * 2 ^ 44

/-- A first word of the given major whose bits 43:0 are `low`. -/
def word (major : Nat) (h : Head) (ext : Bool) (low : Nat) : DWord :=
  BitVec.ofNat 64 (headBits major h ext + low)

/-- The words of an ALU instruction under its row (spec 03 R49). -/
def encodeAlu (r : AluRow) (h : Head) (f : AluF) : List DWord :=
  word r.major h f.ext.isSome
      (f.d.toNat * 2 ^ 36 + f.a.toNat * 2 ^ 28 + f.b.toNat * 2 ^ 20 + f.c.toNat * 2 ^ 12
        + r.minor * 2 ^ 8 + f.ty.code * 2 ^ 4 + f.imm.toNat * 2 ^ 3 + f.mod.toNat)
    :: f.ext.toList

/-- Bits 43:0 of a memory word (spec 01 R14). -/
def memBits (data : Nat) (a : AddrF) (size order obs : Nat) : Nat :=
  data * 2 ^ 36 + a.base.toNat * 2 ^ 29 + a.idx.toNat * 2 ^ 28 + a.index.toNat * 2 ^ 20
    + a.scl.toNat * 2 ^ 19 + size * 2 ^ 16 + order * 2 ^ 14 + obs * 2 ^ 9 + a.disp.toNat

/-- The word of a load or store of the given major (spec 03 R51). -/
def encodeMem (major : Nat) (h : Head) (f : MemF) : List DWord :=
  [word major h false (memBits f.data.toNat f.addr f.size.code f.order.code f.obs.toNat)]

/-- The words of an atomic (spec 03 R52). -/
def encodeAtom (op : AtomOp) (h : Head) (f : MemF) (x : AtomF) : List DWord :=
  [word 0x2A h true (memBits f.data.toNat f.addr f.size.code f.order.code f.obs.toNat),
    BitVec.ofNat 64 (x.a.toNat * 2 ^ 56 + x.b.toNat * 2 ^ 48 + op.code * 2 ^ 44
      + x.kind.code * 2 ^ 42 + x.imm.toNat * 2 ^ 41 + x.ret.toNat * 2 ^ 40 + x.value.toNat)]

/-- A control word (spec 03 R54). -/
def encodeControl (minor : Nat) (h : Head) (operand : Nat) : List DWord :=
  [word 0x00 h false (minor * 2 ^ 38 + operand)]

/-- A branch word (spec 03 R55). -/
def encodeBranch (minor : Nat) (h : Head) (r off : Nat) : List DWord :=
  [word 0x01 h false (minor * 2 ^ 40 + r * 2 ^ 32 + off)]

/-- The word of sysr or sysw (spec 03 R57). -/
def encodeSpecial (h : Head) (r : Nat) (sp : Special) (write : Bool) : List DWord :=
  [word 0x03 h false (r * 2 ^ 36 + sp.code * 2 ^ 28 + write.toNat * 2 ^ 27)]

/-- The words of waitu (spec 03 R58). -/
def encodeWaitu (h : Head) (f : WaituF) : List DWord :=
  word 0x2E h f.ext.isSome
      (f.d.toNat * 2 ^ 36 + f.base.toNat * 2 ^ 29 + f.operand.toNat * 2 ^ 21
        + f.limit.toNat * 2 ^ 13 + f.cmp.code * 2 ^ 10 + f.signed.toNat * 2 ^ 9
        + f.wide.toNat * 2 ^ 8 + f.disp.toNat)
    :: (f.ext.map fun e => BitVec.ofNat 64 e.toNat).toList

/-- The words of a sweep (spec 03 R59). -/
def encodeSweep (op : SweepOp) (h : Head) (f : SweepF) : List DWord :=
  [word 0x37 h true
      (f.d.toNat * 2 ^ 36 + f.a.toNat * 2 ^ 28 + f.b.toNat * 2 ^ 20 + f.count.toNat * 2 ^ 8
        + op.code * 2 ^ 4 + f.ty.code),
    BitVec.ofNat 64 (f.stepD.toNat * 2 ^ 48 + f.stepA.toNat * 2 ^ 32 + f.stepB.toNat * 2 ^ 16)]

/-- A scalar MSQ word (spec 03 R65). -/
def encodeMsqS (op : Nat) (f : MsqS) : List DWord :=
  [BitVec.ofNat 64 (op * 2 ^ 58 + f.d.toNat * 2 ^ 53 + f.a.toNat * 2 ^ 48 + f.b.toNat * 2 ^ 43
    + f.imm.toNat * 2 ^ 42 + f.value.toNat)]

/-- A branch MSQ word (spec 03 R65). -/
def encodeMsqB (op : Nat) (f : MsqB) : List DWord :=
  [BitVec.ofNat 64 (op * 2 ^ 58 + f.a.toNat * 2 ^ 53 + f.b.toNat * 2 ^ 48 + f.off.toNat)]

/-- An MSQ word that is not scalar or branch: its opcode and bits 57:0 (spec 03 R65). -/
def encodeMsqW (op low : Nat) : List DWord := [BitVec.ofNat 64 (op * 2 ^ 58 + low)]

/-- The words of an instruction; a device event has none. -/
def encode (i : Instr) : List DWord :=
  match i with
  | .NOP h => encodeControl 0x00 h 0
  | .EXIT h => encodeControl 0x01 h 0
  | .TRAP h code => encodeControl 0x02 h code.toNat
  | .BRK h code => encodeControl 0x03 h code.toNat
  | .TRET h => encodeControl 0x04 h 0
  | .SAFEPT h idx => encodeControl 0x05 h idx.toNat
  | .IDEM_BEGIN h => encodeControl 0x06 h 0
  | .IDEM_END h => encodeControl 0x07 h 0
  | .MEET h token => encodeControl 0x08 h token.toNat
  | .ICINV h base len => encodeControl 0x09 h (base.toNat * 2 ^ 31 + len.toNat * 2 ^ 23)
  | .IFENCE h => encodeControl 0x0A h 0
  | .BRA h off => encodeBranch 0 h 0 off.toNat
  | .CALL h link off => encodeBranch 1 h link.toNat off.toNat
  | .JMP h target => encodeBranch 2 h target.toNat 0
  | .RET h link => encodeBranch 3 h link.toNat 0
  | .BRX h index off => encodeBranch 4 h index.toNat off.toNat
  | .FORK h k live join off =>
    [word 0x02 h true (k.toNat * 2 ^ 40 + live.toNat * 2 ^ 28 + join.toNat * 2 ^ 16),
      BitVec.ofNat 64 off.toNat]
  | .SYSR h d sp => encodeSpecial h d.toNat sp false
  | .SYSW h sp s => encodeSpecial h s.toNat sp true
  | .KAND h f => encodeAlu ⟨0x08, 0, .k, .k, .k, .no, [.n32], .zeroAt0, .never⟩ h f
  | .KOR h f => encodeAlu ⟨0x08, 1, .k, .k, .k, .no, [.n32], .zeroAt0, .never⟩ h f
  | .KXOR h f => encodeAlu ⟨0x08, 2, .k, .k, .k, .no, [.n32], .zeroAt0, .never⟩ h f
  | .KNOT h f => encodeAlu ⟨0x08, 3, .k, .k, .no, .no, [.n32], .zeroAt0, .never⟩ h f
  | .KMOV_K_K h f => encodeAlu ⟨0x08, 4, .k, .k, .no, .no, [.n32], (.exact 0), .never⟩ h f
  | .KMOV_K_V h f => encodeAlu ⟨0x08, 4, .k, .w, .no, .no, [.n32], (.exact 1), .never⟩ h f
  | .KMOV_V_K h f => encodeAlu ⟨0x08, 4, .w, .k, .no, .no, [.n32], (.exact 2), .never⟩ h f
  | .KPOP h f => encodeAlu ⟨0x08, 5, .w, .k, .no, .no, [.n32], .zeroAt0, .never⟩ h f
  | .KFFS h f => encodeAlu ⟨0x08, 6, .w, .k, .no, .no, [.n32], .zeroAt0, .never⟩ h f
  | .XGET h f => encodeAlu ⟨0x08, 7, .k, .no, .no, .no, [.n32], .zeroAt0, .never⟩ h f
  | .XSET h f => encodeAlu ⟨0x08, 8, .no, .k, .no, .no, [.n32], .zeroAt0, .never⟩ h f
  | .XAND h f => encodeAlu ⟨0x08, 9, .no, .k, .no, .no, [.n32], .zeroAt0, .never⟩ h f
  | .ADD h f => encodeAlu ⟨0x0C, 0, .v, .v, .v, .no, [.n32, .i32, .n64, .i64], .sat, (.opt .b)⟩ h f
  | .SUB h f => encodeAlu ⟨0x0C, 1, .v, .v, .v, .no, [.n32, .i32, .n64, .i64], .sat, (.opt .b)⟩ h f
  | .ADDC h f => encodeAlu ⟨0x0C, 2, .v, .v, .v, .k, [.n32, .n64], .zeroAt0, .never⟩ h f
  | .SUBB h f => encodeAlu ⟨0x0C, 3, .v, .v, .v, .k, [.n32, .n64], .zeroAt0, .never⟩ h f
  | .NEG h f => encodeAlu ⟨0x0C, 4, .v, .v, .no, .no, [.i32, .i64], .zeroAt0, .never⟩ h f
  | .ABS h f => encodeAlu ⟨0x0C, 5, .v, .v, .no, .no, [.i32, .i64], .zeroAt0, .never⟩ h f
  | .MIN h f => encodeAlu ⟨0x0C, 6, .v, .v, .v, .no, [.n32, .i32, .n64, .i64], .zeroAt0, (.opt .b)⟩ h f
  | .MAX h f => encodeAlu ⟨0x0C, 7, .v, .v, .v, .no, [.n32, .i32, .n64, .i64], .zeroAt0, (.opt .b)⟩ h f
  | .MUL_LO h f => encodeAlu ⟨0x0C, 8, .v, .v, .v, .no, [.n32, .i32, .n64, .i64], .zeroAt0, (.opt .b)⟩ h f
  | .MUL_HI h f => encodeAlu ⟨0x0C, 9, .v, .v, .v, .no, [.n32, .i32, .n64, .i64], .zeroAt0, (.opt .b)⟩ h f
  | .MAD h f => encodeAlu ⟨0x0C, 10, .v, .v, .v, .v, [.n32, .i32, .n64, .i64], .zeroAt0, (.opt .c)⟩ h f
  | .AND h f => encodeAlu ⟨0x0D, 0, .v, .v, .v, .no, [.n32, .n64], .zeroAt0, (.opt .b)⟩ h f
  | .OR h f => encodeAlu ⟨0x0D, 1, .v, .v, .v, .no, [.n32, .n64], .zeroAt0, (.opt .b)⟩ h f
  | .XOR h f => encodeAlu ⟨0x0D, 2, .v, .v, .v, .no, [.n32, .n64], .zeroAt0, (.opt .b)⟩ h f
  | .NOT h f => encodeAlu ⟨0x0D, 3, .v, .v, .no, .no, [.n32, .n64], .zeroAt0, .never⟩ h f
  | .SHL h f => encodeAlu ⟨0x0D, 4, .v, .v, .w, .no, [.n32, .n64], .zeroAt0, (.opt .b)⟩ h f
  | .SHR h f => encodeAlu ⟨0x0D, 5, .v, .v, .w, .no, [.n32, .n64], .zeroAt0, (.opt .b)⟩ h f
  | .SRA h f => encodeAlu ⟨0x0D, 6, .v, .v, .w, .no, [.n32, .n64], .zeroAt0, (.opt .b)⟩ h f
  | .BFE h f => encodeAlu ⟨0x0D, 7, .v, .v, .w, .w, [.n32, .i32, .n64, .i64], .zeroAt0, (.opt .c)⟩ h f
  | .BFI h f => encodeAlu ⟨0x0D, 8, .v, .v, .w, .w, [.n32, .n64], .zeroAt0, (.opt .c)⟩ h f
  | .POPC h f => encodeAlu ⟨0x0D, 9, .w, .v, .no, .no, [.n32, .n64], .zeroAt0, .never⟩ h f
  | .CLZ h f => encodeAlu ⟨0x0D, 10, .w, .v, .no, .no, [.n32, .n64], .zeroAt0, .never⟩ h f
  | .CTZ h f => encodeAlu ⟨0x0D, 11, .w, .v, .no, .no, [.n32, .n64], .zeroAt0, .never⟩ h f
  | .BREV h f => encodeAlu ⟨0x0D, 12, .v, .v, .no, .no, [.n32, .n64], .zeroAt0, .never⟩ h f
  | .MOV h f => encodeAlu ⟨0x0E, 0, .v, .v, .no, .no, [.n32, .n64], .zeroAt0, .never⟩ h f
  | .MOVI h f => encodeAlu ⟨0x0E, 1, .v, .no, .no, .no, [.n32, .n64, .f32, .f64], .zeroAt0, (.req .a)⟩ h f
  | .SEL h f => encodeAlu ⟨0x0E, 2, .v, .v, .v, .k, [.n32, .n64], .zeroAt0, .never⟩ h f
  | .LEA h f => encodeAlu ⟨0x0E, 3, .v, .v, .w, .no, [.n64], .lea, .never⟩ h f
  | .LEA_SYMBOL h f => encodeAlu ⟨0x0E, 4, .v, .no, .no, .no, [.n64], .zeroAt0, .reqExt⟩ h f
  | .CMP_EQ h f => encodeAlu ⟨0x0F, 0, .k, .v, .v, .no, [.n32, .i32, .n64, .i64, .f32, .f64], .zeroAt0, (.opt .b)⟩ h f
  | .CMP_NE h f => encodeAlu ⟨0x0F, 1, .k, .v, .v, .no, [.n32, .i32, .n64, .i64, .f32, .f64], .zeroAt0, (.opt .b)⟩ h f
  | .CMP_LT h f => encodeAlu ⟨0x0F, 2, .k, .v, .v, .no, [.n32, .i32, .n64, .i64, .f32, .f64], .zeroAt0, (.opt .b)⟩ h f
  | .CMP_LE h f => encodeAlu ⟨0x0F, 3, .k, .v, .v, .no, [.n32, .i32, .n64, .i64, .f32, .f64], .zeroAt0, (.opt .b)⟩ h f
  | .CMP_GT h f => encodeAlu ⟨0x0F, 4, .k, .v, .v, .no, [.n32, .i32, .n64, .i64, .f32, .f64], .zeroAt0, (.opt .b)⟩ h f
  | .CMP_GE h f => encodeAlu ⟨0x0F, 5, .k, .v, .v, .no, [.n32, .i32, .n64, .i64, .f32, .f64], .zeroAt0, (.opt .b)⟩ h f
  | .CMP_NUM h f => encodeAlu ⟨0x0F, 6, .k, .v, .v, .no, [.f32, .f64], .zeroAt0, (.opt .b)⟩ h f
  | .CMP_NAN h f => encodeAlu ⟨0x0F, 7, .k, .v, .v, .no, [.f32, .f64], .zeroAt0, (.opt .b)⟩ h f
  | .FADD h f => encodeAlu ⟨0x18, 0, .v, .v, .v, .no, [.f32], .round, (.opt .b)⟩ h f
  | .FSUB h f => encodeAlu ⟨0x18, 1, .v, .v, .v, .no, [.f32], .round, (.opt .b)⟩ h f
  | .FMUL h f => encodeAlu ⟨0x18, 2, .v, .v, .v, .no, [.f32], .round, (.opt .b)⟩ h f
  | .FFMA h f => encodeAlu ⟨0x18, 3, .v, .v, .v, .v, [.f32], .round, (.opt .c)⟩ h f
  | .FMIN h f => encodeAlu ⟨0x18, 4, .v, .v, .v, .no, [.f32, .f64], .zeroAt0, (.opt .b)⟩ h f
  | .FMAX h f => encodeAlu ⟨0x18, 5, .v, .v, .v, .no, [.f32, .f64], .zeroAt0, (.opt .b)⟩ h f
  | .FABS h f => encodeAlu ⟨0x18, 6, .v, .v, .no, .no, [.f32, .f64], .zeroAt0, .never⟩ h f
  | .FNEG h f => encodeAlu ⟨0x18, 7, .v, .v, .no, .no, [.f32, .f64], .zeroAt0, .never⟩ h f
  | .FRND h f => encodeAlu ⟨0x18, 8, .v, .v, .no, .no, [.f32, .f64], .round, .never⟩ h f
  | .FCMP h f => encodeAlu ⟨0x18, 9, .w, .v, .v, .no, [.f32, .f64], .zeroAt0, (.opt .b)⟩ h f
  | .FCVT h f => encodeAlu ⟨0x19, 0, .v, .srcV, .no, .srcTy, allTys, .round, .never⟩ h f
  | .DADD h f => encodeAlu ⟨0x1A, 0, .v, .v, .v, .no, [.f64], .round, (.opt .b)⟩ h f
  | .DSUB h f => encodeAlu ⟨0x1A, 1, .v, .v, .v, .no, [.f64], .round, (.opt .b)⟩ h f
  | .DMUL h f => encodeAlu ⟨0x1A, 2, .v, .v, .v, .no, [.f64], .round, (.opt .b)⟩ h f
  | .DFMA h f => encodeAlu ⟨0x1A, 3, .v, .v, .v, .v, [.f64], .round, (.opt .c)⟩ h f
  | .HFMA2 h f => encodeAlu ⟨0x1B, 0, .v, .v, .v, .v, [.f16, .bf16], .round, (.opt .c)⟩ h f
  | .SHFL_IDX h f => encodeAlu ⟨0x22, 0, .v, .v, .w, .no, [.n32, .n64], .zeroAt0, (.opt .b)⟩ h f
  | .SHFL_UP h f => encodeAlu ⟨0x22, 1, .v, .v, .w, .no, [.n32, .n64], .zeroAt0, (.opt .b)⟩ h f
  | .SHFL_DOWN h f => encodeAlu ⟨0x22, 2, .v, .v, .w, .no, [.n32, .n64], .zeroAt0, (.opt .b)⟩ h f
  | .SHFL_XOR h f => encodeAlu ⟨0x22, 3, .v, .v, .w, .no, [.n32, .n64], .zeroAt0, (.opt .b)⟩ h f
  | .BCAST h f => encodeAlu ⟨0x22, 4, .v, .v, .w, .no, [.n32, .n64], .zeroAt0, (.opt .b)⟩ h f
  | .VOTE_ANY h f => encodeAlu ⟨0x22, 5, .k, .k, .no, .no, [.n32], .zeroAt0, .never⟩ h f
  | .VOTE_ALL h f => encodeAlu ⟨0x22, 6, .k, .k, .no, .no, [.n32], .zeroAt0, .never⟩ h f
  | .VOTE_EQ h f => encodeAlu ⟨0x22, 7, .k, .v, .no, .no, [.n32, .n64], .zeroAt0, .never⟩ h f
  | .MATCH h f => encodeAlu ⟨0x22, 8, .w, .v, .no, .no, [.n32, .n64], .zeroAt0, .never⟩ h f
  | .RED_ADD h f => encodeAlu ⟨0x23, 0, .v, .v, .no, .no, [.n32, .i32, .n64, .i64, .f32], .red, .never⟩ h f
  | .RED_MIN h f => encodeAlu ⟨0x23, 1, .v, .v, .no, .no, [.n32, .i32, .n64, .i64, .f32], .red, .never⟩ h f
  | .RED_MAX h f => encodeAlu ⟨0x23, 2, .v, .v, .no, .no, [.n32, .i32, .n64, .i64, .f32], .red, .never⟩ h f
  | .RED_AND h f => encodeAlu ⟨0x23, 3, .v, .v, .no, .no, [.n32, .i32, .n64, .i64], .red, .never⟩ h f
  | .RED_OR h f => encodeAlu ⟨0x23, 4, .v, .v, .no, .no, [.n32, .i32, .n64, .i64], .red, .never⟩ h f
  | .RED_XOR h f => encodeAlu ⟨0x23, 5, .v, .v, .no, .no, [.n32, .i32, .n64, .i64], .red, .never⟩ h f
  | .SCAN_ADD h f => encodeAlu ⟨0x23, 0, .v, .v, .no, .no, [.n32, .i32, .n64, .i64, .f32], .scan, .never⟩ h f
  | .SCAN_MIN h f => encodeAlu ⟨0x23, 1, .v, .v, .no, .no, [.n32, .i32, .n64, .i64, .f32], .scan, .never⟩ h f
  | .SCAN_MAX h f => encodeAlu ⟨0x23, 2, .v, .v, .no, .no, [.n32, .i32, .n64, .i64, .f32], .scan, .never⟩ h f
  | .SCAN_AND h f => encodeAlu ⟨0x23, 3, .v, .v, .no, .no, [.n32, .i32, .n64, .i64], .scan, .never⟩ h f
  | .SCAN_OR h f => encodeAlu ⟨0x23, 4, .v, .v, .no, .no, [.n32, .i32, .n64, .i64], .scan, .never⟩ h f
  | .SCAN_XOR h f => encodeAlu ⟨0x23, 5, .v, .v, .no, .no, [.n32, .i32, .n64, .i64], .scan, .never⟩ h f
  | .LD h f => encodeMem 0x26 h f
  | .ST h f => encodeMem 0x27 h f
  | .LDS h f => encodeMem 0x28 h f
  | .STS h f => encodeMem 0x29 h f
  | .ATOM_ADD h f x => encodeAtom .add h f x
  | .ATOM_SUB h f x => encodeAtom .sub h f x
  | .ATOM_MIN h f x => encodeAtom .min h f x
  | .ATOM_MAX h f x => encodeAtom .max h f x
  | .ATOM_AND h f x => encodeAtom .and h f x
  | .ATOM_OR h f x => encodeAtom .or h f x
  | .ATOM_XOR h f x => encodeAtom .xor h f x
  | .ATOM_EXCH h f x => encodeAtom .exch h f x
  | .ATOM_CAS h f x => encodeAtom .cas h f x
  | .ATOM_INC h f x => encodeAtom .inc h f x
  | .ATOM_DEC h f x => encodeAtom .dec h f x
  | .FENCE_ACQ h obs => [word 0x2B h false (1 * 2 ^ 14 + obs.toNat * 2 ^ 9)]
  | .FENCE_REL h obs => [word 0x2B h false (2 * 2 ^ 14 + obs.toNat * 2 ^ 9)]
  | .DISCARD h base len => [word 0x2B h false (1 * 2 ^ 36 + base.toNat * 2 ^ 29 + 2 ^ 28 + len.toNat * 2 ^ 20)]
  | .PREF h f => [word 0x2B h false (memBits 2 f 0 0 0)]
  | .LD_POLL h f => encodeMem 0x2C h f
  | .WAITU h f => encodeWaitu h f
  | .SLEEP h f => encodeAlu ⟨0x2F, 0, .noAt0, .w, .noAt0, .noAt0, [.n32], .zeroAt0, (.opt .a)⟩ h f
  | .SPAWN h f => encodeAlu ⟨0x2F, 1, .w, .w, .no, .entry, [.n32], .zeroLow, (.opt .a)⟩ h f
  | .LAUNCH h f => encodeAlu ⟨0x2F, 2, .w, .pair, .no, .no, [.n32], .zeroLow, .never⟩ h f
  | .TRIG h f => encodeAlu ⟨0x2F, 3, .no, .no, .no, .no, [.n32], .zeroLow, .never⟩ h f
  | .WAITP h f => encodeAlu ⟨0x2F, 4, .w, .no, .no, .no, [.n32], .zeroLow, .never⟩ h f
  | .CANCEL h f => encodeAlu ⟨0x2F, 5, .no, .pair, .no, .no, [.n32], .level, .never⟩ h f
  | .CCNT h f => encodeAlu ⟨0x2F, 6, .pair, .pair, .no, .no, [.n32], .level, .never⟩ h f
  | .GBAR h f => encodeAlu ⟨0x2F, 7, .no, .no, .no, .no, [.n32], .zeroLow, .never⟩ h f
  | .HOLD h f => encodeAlu ⟨0x30, 0, .no, .v, .no, .hold, [.n32, .n64], .zeroAt0, .never⟩ h f
  | .TAKE h f => encodeAlu ⟨0x30, 1, .v, .no, .no, .hold, [.n32, .n64], .zeroAt0, .never⟩ h f
  | .IPL h f => encodeAlu ⟨0x30, 2, .v, .no, .no, .hold, [.f32], .zeroAt0, .never⟩ h f
  | .AMP h f => encodeAlu ⟨0x31, 0, .w, .w, .no, .no, [.n32], .zeroAt0, (.opt .a)⟩ h f
  | .EMIT_VTX h f => encodeAlu ⟨0x31, 1, .no, .w, .no, .no, [.n32], (.exact 0), .never⟩ h f
  | .EMIT_PRIM h f => encodeAlu ⟨0x31, 1, .no, .w, .no, .no, [.n32], (.exact 1), .never⟩ h f
  | .COV h f => encodeAlu ⟨0x32, 0, .w, .no, .no, .no, [.n32], .zeroAt0, .never⟩ h f
  | .ZTEST h f => encodeAlu ⟨0x32, 1, .k, .quad, .w, .no, [.f32], .zeroAt0, .never⟩ h f
  | .ZWR h f => encodeAlu ⟨0x32, 2, .no, .w, .no, .no, [.f32], .zeroAt0, .never⟩ h f
  | .FBW h f => encodeAlu ⟨0x32, 3, .no, .fbwSrc, .no, .target, [.f32, .n32], .zeroAt0, .never⟩ h f
  | .SPAWNY h f => encodeAlu ⟨0x33, 0, .w, .oct, .w, .no, [.n32], .zeroAt0, .never⟩ h f
  | .RAYRET h f => encodeAlu ⟨0x33, 1, .no, .w, .no, .no, [.n32], .zeroAt0, .never⟩ h f
  | .BVHT h f => encodeAlu ⟨0x33, 2, .w, .pair, .oct, .no, [.n32], .zeroAt0, .never⟩ h f
  | .TARM h f => encodeAlu ⟨0x34, 0, .no, .w, .w, .tile, [.n32], .zeroAt0, (.opt .b)⟩ h f
  | .TWAIT h f => encodeAlu ⟨0x34, 1, .no, .no, .no, .tile, [.n32], .zeroAt0, .never⟩ h f
  | .TREL h f => encodeAlu ⟨0x34, 2, .no, .no, .no, .tile, [.n32], .zeroAt0, .never⟩ h f
  | .TSTAT h f => encodeAlu ⟨0x34, 3, .w, .no, .no, .tile, [.n32], .zeroAt0, .never⟩ h f
  | .TCOPY h f => encodeAlu ⟨0x34, 4, .no, .pair, .no, .tile, [.n32], .zeroAt0, .never⟩ h f
  | .MSTART h f => encodeAlu ⟨0x35, 0, .no, .pair, .no, .no, [.n32], .zeroAt0, .reqEntry⟩ h f
  | .COLL h f => encodeAlu ⟨0x35, 1, .w, .pair, .no, .no, [.n32], .zeroLow, .never⟩ h f
  | .TRCP h f => encodeAlu ⟨0x36, 0, .v, .v, .no, .no, [.f32], .zeroAt0, .never⟩ h f
  | .TRSQ h f => encodeAlu ⟨0x36, 1, .v, .v, .no, .no, [.f32], .zeroAt0, .never⟩ h f
  | .TSQRT h f => encodeAlu ⟨0x36, 2, .v, .v, .no, .no, [.f32], .zeroAt0, .never⟩ h f
  | .TDIV h f => encodeAlu ⟨0x36, 3, .v, .v, .v, .no, [.f32], .zeroAt0, (.opt .b)⟩ h f
  | .TEXP2 h f => encodeAlu ⟨0x36, 4, .v, .v, .no, .no, [.f32], .zeroAt0, .never⟩ h f
  | .TLOG2 h f => encodeAlu ⟨0x36, 5, .v, .v, .no, .no, [.f32], .zeroAt0, .never⟩ h f
  | .TSIN h f => encodeAlu ⟨0x36, 6, .v, .v, .no, .no, [.f32], .zeroAt0, .never⟩ h f
  | .TCOS h f => encodeAlu ⟨0x36, 7, .v, .v, .no, .no, [.f32], .zeroAt0, .never⟩ h f
  | .IDIV h f => encodeAlu ⟨0x36, 8, .v, .v, .v, .no, [.n32, .i32], .zeroAt0, (.opt .b)⟩ h f
  | .DEC_RLE h f => encodeAlu ⟨0x36, 9, .nine, .quad, .w, .no, [.n32], .zeroAt0, .never⟩ h f
  | .DEC_BITS h f => encodeAlu ⟨0x36, 10, .nine, .pair, .w, .no, [.n32], .zeroAt0, .never⟩ h f
  | .DEC_FP4 h f => encodeAlu ⟨0x36, 11, .nine, .w, .w, .no, [.n32], .zeroAt0, .never⟩ h f
  | .SWP_ADD h f => encodeSweep .add h f
  | .SWP_SUB h f => encodeSweep .sub h f
  | .SWP_MUL h f => encodeSweep .mul h f
  | .SWP_FMA h f => encodeSweep .fma h f
  | .SWP_MIN h f => encodeSweep .min h f
  | .SWP_MAX h f => encodeSweep .max h f
  | .SWP_MOV h f => encodeSweep .mov h f
  | .MEND => encodeMsqW 0x00 0
  | .MNOP => encodeMsqW 0x01 0
  | .MMOV f => encodeMsqS 0x02 f
  | .MADD f => encodeMsqS 0x03 f
  | .MSUB f => encodeMsqS 0x04 f
  | .MMUL f => encodeMsqS 0x05 f
  | .MAND f => encodeMsqS 0x06 f
  | .MOR f => encodeMsqS 0x07 f
  | .MXOR f => encodeMsqS 0x08 f
  | .MSHL f => encodeMsqS 0x09 f
  | .MSHR f => encodeMsqS 0x0A f
  | .MBEQ f => encodeMsqB 0x10 f
  | .MBNE f => encodeMsqB 0x11 f
  | .MBLT f => encodeMsqB 0x12 f
  | .MBGE f => encodeMsqB 0x13 f
  | .MJMP f => encodeMsqB 0x14 f
  | .MLD f => encodeMsqS 0x18 f
  | .MST f => encodeMsqS 0x19 f
  | .BLD bank tile ty variant scl => encodeMsqW 0x20 (bank.toNat * 2 ^ 56 + tile.toNat * 2 ^ 50
      + ty.code * 2 ^ 47 + variant.toNat * 2 ^ 46 + scl.toNat * 2 ^ 45)
  | .SBLD bank tile => encodeMsqW 0x21 (bank.toNat * 2 ^ 56 + tile.toNat * 2 ^ 50)
  | .MMA bank tile m variant ty sparse base => encodeMsqW 0x22 (bank.toNat * 2 ^ 56 + tile.toNat * 2 ^ 50
      + variant.toNat * 2 ^ 49 + m.toNat * 2 ^ 45 + ty.code * 2 ^ 42 + sparse.toNat * 2 ^ 41
      + base.toNat * 2 ^ 33)
  | .ACC_CLR base count => encodeMsqW 0x23 (base.toNat * 2 ^ 33 + count.toNat * 2 ^ 24)
  | .ACC_ST tile base ty rows cols => encodeMsqW 0x24 (tile.toNat * 2 ^ 50 + base.toNat * 2 ^ 42
      + ty.code * 2 ^ 38 + rows.toNat * 2 ^ 34 + cols.toNat * 2 ^ 32)
  | .TW tile phase => encodeMsqW 0x25 (tile.toNat * 2 ^ 50 + phase.toNat * 2 ^ 49)
  | .TINC obs => encodeMsqW 0x26 (obs.toNat * 2 ^ 53)
  | .LOAD_VALUE_ARRIVAL _ _ _ => []
  | .ICINV_COMPLETE _ => []
  | .MATRIX_WORD_COMPLETE _ _ => []
  | .MSQ_PROGRAM_START _ => []
  | .MSQ_STATE_SAVE _ => []
  | .LOAD_OBJECT _ _ _ _ => []
  | .UNLOAD_OBJECT _ _ => []
  | .ATTESTATION_REPORT _ _ => []
  | .DEVICE_RESET => []
  | .SECURE_BOOT _ _ => []
  | .FIRMWARE_LOAD _ _ _ => []
  | .TRAINING _ => []
  | .DOORBELL _ _ _ => []
  | .CONTEXT_BLOCK_ADDRESS _ _ => []
  | .CONTEXT_ENABLE _ _ => []
  | .REGISTER_WRITE _ _ => []
  | .JOB_ACCEPT _ _ => []
  | .LAUNCH_ELIGIBLE _ => []
  | .LAUNCH_START _ => []
  | .BANK_MODE_CHANGE _ _ _ => []
  | .LAUNCH_RING_DRAIN _ _ => []
  | .GROUP_RETIRE _ => []
  | .SOLDER _ _ => []
  | .REJOIN _ _ => []
  | .GBAR_COMPLETE _ => []
  | .WAITP_RELEASE _ => []
  | .PREEMPT_REQUEST _ _ => []
  | .GROUP_SAVE _ => []
  | .SWAP_OUT _ => []
  | .GROUP_RESTORE _ _ => []
  | .FETCH_FAULT _ => []
  | .FAULT_RESOLVE _ => []
  | .FAULT_DELIVER _ => []
  | .WAKE_DELIVERY _ => []
  | .WAITU_EXPIRY _ _ => []
  | .SLEEP_EXPIRY _ => []
  | .SPILL_WALK _ => []
  | .WAKE_LIST_RETRY _ => []
  | .MONITOR_COUNTER_CLEAR _ => []
  | .RETRANSLATE _ _ _ => []
  | .GILT_GRANT _ _ _ => []
  | .FRAME_POOL_PUSH _ _ => []
  | .STASH_DRAIN _ => []
  | .GILT_STARVATION _ => []
  | .MIGRATE _ _ => []
  | .HOST_ACCESS _ _ => []
  | .PEER_ACCESS _ _ _ _ => []
  | .PEER_TIMEOUT _ => []
  | .PEER_PATH_LOSS _ => []
  | .SOFT_ERROR _ => []
  | .COPY_ELEMENT_COMMIT _ => []
  | .COLL_OPERATION _ _ _ _ _ => []
  | .RESERVATION_GRANT _ => []
  | .RATE_WAVE_START _ _ _ => []
  | .RASTERISE_PRIMITIVE _ _ => []
  | .ELEMENT_RETIRE _ => []
  | .PYRAMID_DROP _ _ => []
  | .ISLAND_OPERATING_POINT _ _ => []
  | .HOST_WRITE_INVALIDATE _ _ => []
  | .SPAWN_AREA_GROW _ _ => []

/-- The first word of an instruction, as %tinst holds it (spec 01 R19). -/
def firstWord (i : Instr) : DWord := (encode i).headD 0

/-- The bytes of an instruction's words: 8, or 16 with an extension word (spec 03 R41). -/
def Instr.size (i : Instr) : Nat := 8 * (encode i).length

end Sys2Proof
end

