-- ==== Sys2Proof/Machine/Flags.lean ====
section
/-!
DEFINITION. The sticky flags of %fflags, of %mflags and of a copy counter (spec 10 R158,
spec 21 R310), and the result of a lane operation with the flags it raises.
-/

namespace Sys2Proof

/-- NX, inexact: bit 0 (spec 10 R158). -/
def flagNX : Word := 0x01
/-- UF, underflow: bit 1. -/
def flagUF : Word := 0x02
/-- OF, overflow: bit 2. -/
def flagOF : Word := 0x04
/-- DZ, division by zero: bit 3. -/
def flagDZ : Word := 0x08
/-- NV, invalid: bit 4. -/
def flagNV : Word := 0x10
/-- SAT, saturated: bit 5. -/
def flagSAT : Word := 0x20

/-- The bits of %fflags that have a flag (spec 08 R141, spec 10 R158). -/
def flagMask : Word := 0x3F

/-- A flag where a condition holds. -/
def flagIf (p : Bool) (f : Word) : Word := if p then f else 0

/-- A lane value as a number below 2^64, and the flags raised in forming it. -/
structure Res where
  val   : Nat
  flags : Word := 0
  deriving DecidableEq, Repr

/-- The value with more flags raised. -/
def Res.raise (r : Res) (f : Word) : Res := { r with flags := r.flags ||| f }

end Sys2Proof
end

