-- ==== Sys2Proof/Machine/Float.lean ====
section
/-!
DEFINITION. Floating point to the last bit: the formats of R300, rounding once under R156, the NaNs
of R157 and R305, and the float operations of R159 to R161 and R307. Values are exact dyadic numbers
until the one rounding.
-/

namespace Sys2Proof

/-- A rounding direction (spec 03 R48). -/
inductive Rnd | rn | rz | rm | rp
  deriving DecidableEq, Repr

/-- The direction of mod (spec 03 R48). -/
def Rnd.ofMod (m : BitVec 3) : Rnd :=
  match m.toNat with
  | 0 => .rn | 1 => .rz | 2 => .rm | _ => .rp

/-- A floating format (spec 21 R300): field widths, bias, the largest finite magnitude pattern, and
whether infinities and payload NaNs exist. -/
structure Fmt where
  exp    : Nat
  frac   : Nat
  bias   : Nat
  maxFin : Nat
  hasInf : Bool
  deriving DecidableEq, Repr

/-- FP64. -/
def fmt64 : Fmt := ⟨11, 52, 1023, 0x7FEF_FFFF_FFFF_FFFF, true⟩
/-- FP32. -/
def fmt32 : Fmt := ⟨8, 23, 127, 0x7F7F_FFFF, true⟩
/-- FP16. -/
def fmt16 : Fmt := ⟨5, 10, 15, 0x7BFF, true⟩
/-- BF16. -/
def fmtB16 : Fmt := ⟨8, 7, 127, 0x7F7F, true⟩
/-- E4M3. -/
def fmtE4M3 : Fmt := ⟨4, 3, 7, 0x7E, false⟩
/-- E5M2. -/
def fmtE5M2 : Fmt := ⟨5, 2, 15, 0x7B, true⟩
/-- E2M1. -/
def fmtE2M1 : Fmt := ⟨2, 1, 1, 0x7, false⟩
/-- The unsigned block scale (spec 21 R300). -/
def fmtE3M5 : Fmt := ⟨3, 5, 3, 0xFE, false⟩

/-- The format of a floating type; none for an integer type (spec 21 R300). -/
def Ty.fmt? : Ty → Option Fmt
  | .f16 => some fmt16 | .bf16 => some fmtB16 | .f32 => some fmt32 | .f64 => some fmt64
  | .e4m3 => some fmtE4M3 | .e5m2 => some fmtE5M2 | .e2m1 => some fmtE2M1
  | .n32 | .i32 | .n64 | .i64 => none

/-- The bit position of the sign. -/
def Fmt.signBit (f : Fmt) : Nat := f.exp + f.frac

/-- The pattern of infinity without its sign: the exponent field all ones. -/
def Fmt.infBits (f : Fmt) : Nat := (2 ^ f.exp - 1) * 2 ^ f.frac

/-- A floating value: a NaN with its fraction field, an infinity, or m × 2^e with a sign. -/
inductive Fl
  | nan (sign : Bool) (frac : Nat) (quiet : Bool)
  | inf (sign : Bool)
  | fin (sign : Bool) (m : Nat) (e : Int)
  deriving DecidableEq, Repr

/-- The value of a pattern (spec 21 R301). -/
def Fmt.unpack (f : Fmt) (n : Nat) : Fl :=
  let sign : Bool := n / 2 ^ f.signBit % 2 = 1
  let mag := n % 2 ^ f.signBit
  let e := mag / 2 ^ f.frac
  let m := mag % 2 ^ f.frac
  if mag > f.maxFin then
    if f.hasInf then
      if m = 0 then .inf sign else .nan sign m (m / 2 ^ (f.frac - 1) % 2 = 1)
    else .nan sign 0 true
  else if e = 0 then .fin sign m (1 - (f.bias : Int) - f.frac)
  else .fin sign (2 ^ f.frac + m) ((e : Int) - f.bias - f.frac)

/-- A sign as its bit in the format. -/
def Fmt.signed (f : Fmt) (sign : Bool) (mag : Nat) : Nat :=
  if sign then 2 ^ f.signBit + mag else mag

/-- A quiet NaN with the given sign and fraction. -/
def Fmt.qnan (f : Fmt) (sign : Bool) (frac : Nat) : Nat :=
  f.signed sign (f.infBits + 2 ^ (f.frac - 1) + frac % 2 ^ (f.frac - 1))

/-- A NaN that the device generates, with its cause (spec 10 R157, spec 21 R305). -/
def Fmt.genNaN (f : Fmt) (cause : Nat) : Nat := f.qnan false cause

/-- The number of bits of a number. -/
def bitLen (n : Nat) : Nat := if n = 0 then 0 else Nat.log2 n + 1

/-- 2 to an integer power of a nonnegative exponent. -/
def pow2 (e : Int) : Nat := 2 ^ e.toNat

/-- m / 2^k rounded to an integer; `sign` is that of the number being rounded (spec 03 R48). -/
def roundShift (rnd : Rnd) (sign : Bool) (m k : Nat) : Nat :=
  let q := m / 2 ^ k
  let r := m % 2 ^ k
  let up : Bool :=
    match rnd with
    | .rn => 2 * r > 2 ^ k || (2 * r = 2 ^ k && q % 2 = 1)
    | .rz => false
    | .rm => sign && r ≠ 0
    | .rp => !sign && r ≠ 0
  if up then q + 1 else q

/-- m × 2^e as a multiple of 2^q, rounded, and whether that was inexact. -/
def quantize (rnd : Rnd) (sign : Bool) (m : Nat) (e q : Int) : Nat × Bool :=
  if q ≤ e then (m * pow2 (e - q), false)
  else (roundShift rnd sign m (q - e).toNat, m % pow2 (q - e) ≠ 0)

/-- What a value beyond the largest finite becomes: the IEEE result of R156, or the saturation of
R161 and R307. -/
inductive Over | ieee | saturate
  deriving DecidableEq, Repr

/-- Rounds the exact value ± m × 2^e to the format once (spec 10 R156); m = 0 gives a zero. -/
def Fmt.round (f : Fmt) (ov : Over) (rnd : Rnd) (sign : Bool) (m : Nat) (e : Int) : Res :=
  if m = 0 then { val := f.signed sign 0 }
  else
    let emin : Int := 1 - (f.bias : Int)
    let top : Int := e + (bitLen m : Int) - 1
    let q : Int := max (top - f.frac) (emin - f.frac)
    let (n, inexact) := quantize rnd sign m e q
    let mag := (q - (emin - f.frac)).toNat * 2 ^ f.frac + n
    -- tininess is judged after rounding with an unbounded exponent (R156)
    let unbounded := (quantize rnd sign m e (top - f.frac)).1
    let tiny : Bool := top < emin && !(top = emin - 1 && unbounded = 2 ^ (f.frac + 1))
    let small := flagIf inexact flagNX ||| flagIf (tiny && inexact) flagUF
    if mag > f.maxFin then
      match ov with
      | .saturate => { val := f.signed sign f.maxFin, flags := flagOF ||| flagNX ||| flagSAT }
      | .ieee =>
        let toZero : Bool :=
          match rnd with
          | .rn => false | .rz => true | .rm => !sign | .rp => sign
        { val := f.signed sign (if toZero then f.maxFin else f.infBits), flags := flagOF ||| flagNX }
    else { val := f.signed sign mag, flags := small }

/-- A signed exact value rounded; `zeroSign` is the sign of an exact zero. -/
def Fmt.roundInt (f : Fmt) (ov : Over) (rnd : Rnd) (zeroSign : Bool) (v : Int) (e : Int) : Res :=
  if v = 0 then { val := f.signed zeroSign 0 }
  else f.round ov rnd (v < 0) v.natAbs e

/-- Whether the value is a signalling NaN. -/
def Fl.signalling : Fl → Bool
  | .nan _ _ q => !q
  | .inf _ | .fin _ _ _ => false

/-- Whether the value is a NaN. -/
def Fl.isNaN : Fl → Bool
  | .nan _ _ _ => true
  | .inf _ | .fin _ _ _ => false

/-- The sign of the value. -/
def Fl.sign : Fl → Bool
  | .nan s _ _ => s
  | .inf s => s
  | .fin s _ _ => s

/-- Whether the value is a zero. -/
def Fl.isZero : Fl → Bool
  | .fin _ m _ => m = 0
  | .nan _ _ _ | .inf _ => false

/-- Whether the value is an infinity. -/
def Fl.isInf : Fl → Bool
  | .inf _ => true
  | .nan _ _ _ | .fin _ _ _ => false

/-- Its opposite. -/
def Fl.neg : Fl → Fl
  | .nan s f q => .nan (!s) f q
  | .inf s => .inf (!s)
  | .fin s m e => .fin (!s) m e

/-- The first NaN operand, quieted, when some operand is a NaN; NV for a signalling one
(spec 10 R157). -/
def Fmt.nanOf (f : Fmt) (ops : List Fl) : Option Res :=
  let nv := flagIf (ops.any Fl.signalling) flagNV
  let rec go : List Fl → Option Res
    | [] => none
    | .nan s fr _ :: _ => some { val := f.qnan s fr, flags := nv }
    | _ :: t => go t
  go ops

/-- A generated NaN with NV (spec 10 R157). -/
def Fmt.invalid (f : Fmt) (cause : Nat) : Res := { val := f.genNaN cause, flags := flagNV }

/-- The signed integer of a sign and a magnitude. -/
def signedInt (s : Bool) (m : Nat) : Int := if s then -(m : Int) else m

/-- The exact sum of two finite values, rounded once; the sign of an exact zero as R156 says. -/
def Fmt.sumFin (f : Fmt) (rnd : Rnd) (s1 : Bool) (m1 : Nat) (e1 : Int) (s2 : Bool) (m2 : Nat)
    (e2 : Int) : Res :=
  let e := min e1 e2
  let v := signedInt s1 (m1 * pow2 (e1 - e)) + signedInt s2 (m2 * pow2 (e2 - e))
  let zeroSign := if m1 = 0 && m2 = 0 && s1 = s2 then s1 else rnd = .rm
  f.roundInt .ieee rnd zeroSign v e

/-- The sum of two values neither of which is a NaN. -/
def Fmt.addVal (f : Fmt) (rnd : Rnd) (a b : Fl) : Res :=
  match a, b with
  | .inf s, .inf t => if s = t then { val := f.signed s f.infBits } else f.invalid 3
  | .inf s, _ => { val := f.signed s f.infBits }
  | _, .inf t => { val := f.signed t f.infBits }
  | .fin s m e, .fin t n g => f.sumFin rnd s m e t n g
  | _, _ => f.invalid 5

/-- fadd, dadd: a + b (spec 10 R159). -/
def Fmt.add (f : Fmt) (rnd : Rnd) (a b : Nat) : Res :=
  let x := f.unpack a
  let y := f.unpack b
  (f.nanOf [x, y]).getD (f.addVal rnd x y)

/-- fsub, dsub: a − b (spec 10 R159). -/
def Fmt.sub (f : Fmt) (rnd : Rnd) (a b : Nat) : Res :=
  let x := f.unpack a
  let y := f.unpack b
  (f.nanOf [x, y]).getD (f.addVal rnd x y.neg)

/-- The exact product of two values neither of which is a NaN; none for zero times infinity. -/
def Fl.mul : Fl → Fl → Option Fl
  | .fin s m e, .fin t n g => some (.fin (s != t) (m * n) (e + g))
  | .inf s, .inf t => some (.inf (s != t))
  | .inf s, .fin t n _ => if n = 0 then none else some (.inf (s != t))
  | .fin s m _, .inf t => if m = 0 then none else some (.inf (s != t))
  | _, _ => none

/-- fmul, dmul: a × b (spec 10 R159). -/
def Fmt.mul (f : Fmt) (rnd : Rnd) (a b : Nat) : Res :=
  let x := f.unpack a
  let y := f.unpack b
  (f.nanOf [x, y]).getD <|
    match x.mul y with
    | none => f.invalid 4
    | some (.fin s m e) => f.round .ieee rnd s m e
    | some p => { val := f.signed p.sign f.infBits }

/-- ffma, dfma: a × b + c with one rounding; zero times infinity sets NV even when c is a quiet
NaN, and the result is then c quieted (spec 10 R157, R159). -/
def Fmt.fma (f : Fmt) (rnd : Rnd) (a b c : Nat) : Res :=
  let x := f.unpack a
  let y := f.unpack b
  let z := f.unpack c
  let bad : Bool := !x.isNaN && !y.isNaN && (x.mul y).isNone
  match f.nanOf [x, y, z] with
  | some r => if bad then r.raise flagNV else r
  | none =>
    match x.mul y with
    | none => f.invalid 4
    | some p => f.addVal rnd p z

/-- a < b for values that are not NaNs; −0 and +0 are equal. -/
def Fl.lt (a b : Fl) : Bool :=
  match a, b with
  | .inf s, .inf t => s && !t
  | .inf s, _ => s
  | _, .inf t => !t
  | .fin s m e, .fin t n g =>
    let k := min e g
    signedInt s (m * pow2 (e - k)) < signedInt t (n * pow2 (g - k))
  | _, _ => false

/-- Equality of values that are not NaNs; −0 equals +0. -/
def Fl.eq (a b : Fl) : Bool := !a.isNaN && !b.isNaN && !a.lt b && !b.lt a

/-- fmin and fmax: minimumNumber and maximumNumber, −0 ordering below +0 (spec 10 R159). -/
def Fmt.minMax (f : Fmt) (isMax : Bool) (a b : Nat) : Res :=
  let x := f.unpack a
  let y := f.unpack b
  let nv := flagIf (x.signalling || y.signalling) flagNV
  match x.isNaN, y.isNaN with
  | true, true => (f.nanOf [x, y]).getD { val := a }
  | true, false => { val := b, flags := nv }
  | false, true => { val := a, flags := nv }
  | false, false =>
    let less := x.lt y || (!y.lt x && x.sign && !y.sign)
    { val := if less = isMax then b else a }

/-- fcmp: 0 equal, 1 less, 2 greater, 3 unordered (spec 10 R159). -/
def Fmt.order (f : Fmt) (a b : Nat) : Res :=
  let x := f.unpack a
  let y := f.unpack b
  let nv := flagIf (x.signalling || y.signalling) flagNV
  if x.isNaN || y.isNaN then { val := 3, flags := nv }
  else { val := if x.lt y then 1 else if y.lt x then 2 else 0, flags := nv }

/-- An exact value rounded to an integer in a direction. -/
def roundToInt (rnd : Rnd) (s : Bool) (m : Nat) (e : Int) : Int × Bool :=
  let (n, inexact) := quantize rnd s m e 0
  (signedInt s n, inexact)

/-- frnd: rounded to an integral value; only NV for a signalling NaN (spec 10 R159). -/
def Fmt.rint (f : Fmt) (rnd : Rnd) (a : Nat) : Res :=
  match f.unpack a with
  | .nan s fr q => { val := f.qnan s fr, flags := flagIf (!q) flagNV }
  | .inf s => { val := f.signed s f.infBits }
  | .fin s m e => { val := (f.round .ieee rnd s (roundToInt rnd s m e).1.natAbs 0).val }

/-! ## Conversions -/

/-- The bits of an integer type. -/
def Ty.width (t : Ty) : Nat := if t.wide then 64 else 32

/-- The bits of a value of any type in its registers (spec 10 R149). -/
def Ty.bits : Ty → Nat
  | .n32 | .i32 | .f32 => 32
  | .n64 | .i64 | .f64 => 64
  | .f16 | .bf16 => 16
  | .e4m3 | .e5m2 => 8
  | .e2m1 => 4

/-- Whether an integer type is signed. -/
def Ty.signed (t : Ty) : Bool := t = .i32 || t = .i64

/-- The largest and smallest values of an integer type (spec 10 R151). -/
def Ty.maxInt (t : Ty) : Int := if t.signed then 2 ^ (t.width - 1) - 1 else 2 ^ t.width - 1
def Ty.minInt (t : Ty) : Int := if t.signed then -(2 ^ (t.width - 1)) else 0

/-- The integer that a pattern of W bits holds under the type (spec 10 R151). -/
def Ty.toInt (t : Ty) (n : Nat) : Int :=
  if t.signed && n / 2 ^ (t.width - 1) % 2 = 1 then (n : Int) - 2 ^ t.width else n

/-- An integer modulo 2^W, as a pattern (spec 10 R151). -/
def wrap (w : Nat) (v : Int) : Nat := (v % (2 ^ w : Int)).toNat

/-- The value clamped to the type's range, and whether that changed it. -/
def Ty.clamp (t : Ty) (v : Int) : Int × Bool :=
  if v > t.maxInt then (t.maxInt, true) else if v < t.minInt then (t.minInt, true) else (v, false)

/-- A NaN converted to a format that holds NaNs with payloads: `low` keeps the lowest payload bits
(R307), else the highest (R160). -/
def Fmt.convNaN (src dst : Fmt) (low sign : Bool) (frac : Nat) : Nat :=
  let pay := frac % 2 ^ (src.frac - 1)
  let p :=
    if dst.frac ≥ src.frac then pay * 2 ^ (dst.frac - src.frac)
    else if low then pay % 2 ^ (dst.frac - 1)
    else pay / 2 ^ (src.frac - dst.frac)
  dst.qnan sign p

/-- Whether the format is one of the narrow formats of R161. -/
def Fmt.narrow (f : Fmt) : Bool := f.exp + f.frac < 8

/-- A NaN converted to a narrow format (spec 10 R161). -/
def Fmt.narrowNaN (src dst : Fmt) (sign : Bool) (frac : Nat) (quiet : Bool) : Res :=
  let nv := flagIf (!quiet) flagNV
  if dst = fmtE4M3 then { val := dst.signed sign 0x7F, flags := nv }
  else if dst = fmtE5M2 then
    let hi := if src.frac < 2 then 0 else frac / 2 ^ (src.frac - 2) % 2
    { val := dst.signed sign (0x7E + hi), flags := nv }
  else { val := 0, flags := flagNV }

/-- Float to float (spec 10 R160, R161); `matrix` selects the rules of R307, which saturate and keep
the low payload bits. -/
def Fmt.convert (src dst : Fmt) (isMatrix : Bool) (rnd : Rnd) (a : Nat) : Res :=
  match src.unpack a with
  | .nan s fr q =>
    if dst.narrow then src.narrowNaN dst s fr q
    else { val := src.convNaN dst isMatrix s fr, flags := flagIf (!q) flagNV }
  | .inf s =>
    if dst.narrow || isMatrix then { val := dst.signed s dst.maxFin, flags := flagSAT }
    else { val := dst.signed s dst.infBits }
  | .fin s m e => dst.round (if dst.narrow || isMatrix then .saturate else .ieee) rnd s m e

/-- Float to integer (spec 10 R160). -/
def Fmt.toIntRes (src : Fmt) (t : Ty) (rnd : Rnd) (a : Nat) : Res :=
  match src.unpack a with
  | .nan _ _ _ => { val := 0, flags := flagNV }
  | .inf s => { val := wrap t.width (if s then t.minInt else t.maxInt), flags := flagNV }
  | .fin s m e =>
    let (v, inexact) := roundToInt rnd s m e
    let (c, clamped) := t.clamp v
    { val := wrap t.width c, flags := if clamped then flagNV else flagIf inexact flagNX }

/-- fcvt.dst.src of one value (spec 10 R160, R161). -/
def convert (dst src : Ty) (rnd : Rnd) (a : Nat) : Res :=
  match dst.fmt?, src.fmt? with
  | some d, some s => s.convert d false rnd a
  | some d, none =>
    let v := src.toInt a
    d.round (if d.narrow then .saturate else .ieee) rnd (v < 0) v.natAbs 0
  | none, some s => s.toIntRes dst rnd a
  | none, none =>
    let (v, clamped) := dst.clamp (src.toInt a)
    { val := wrap dst.width v, flags := flagIf clamped flagSAT }

/-- A conversion of acc.st or of a copy (spec 21 R307, spec 23 R341): from FP32 to a target type.
A .f32 target keeps the bits. -/
def matrixConvert (dst : Ty) (a : Nat) : Res :=
  match dst.fmt? with
  | some d => if d = fmt32 then { val := a } else fmt32.convert d true .rn a
  | none => { val := a }

/-- A widening conversion of a copy, exact, a signalling NaN quieted with NV (spec 23 R341). -/
def widenTo32 (src : Fmt) (a : Nat) : Res := src.convert fmt32 false .rn a

end Sys2Proof
end

