-- ==== Sys2Proof/Config.lean ====
section
/-!
DEFINITION. What the manual leaves to an implementation and the values it leaves open. A constant
without a body is a FREE VALUE: nothing can evaluate it, and a statement holds whatever it is.
-/

namespace Sys2Proof.Config

/-- The way of an L1 set that a fill replaces, by the index of the free value: the manual states no
replacement rule for L1 (spec 11 R174). FREE VALUE, log entry 8. -/
opaque l1Victim : Nat → Nat

/-- The leaf that a full translation unit drops for a new one, by the index of the free value: the manual
states no replacement rule (spec 15 R230). FREE VALUE, log entry 9. -/
opaque tlbVictim : Nat → Nat

/-- The fused seed of the device identity key (spec 04 R88): each device has its own. FREE VALUE, log entry
12. -/
opaque identitySeed : BitVec 456

/-- The public key, 57 bytes, under which the security islands verify firmware images: the manual states none
(spec 04 R88). FREE VALUE, log entry 12. -/
opaque firmwareKey : BitVec 456

/-- The bytes of engine memory for the firmware images of all contexts: the manual states no size (spec 04 R81).
FREE VALUE, log entry 108. -/
opaque engineMemory : Nat

/-- A value the manual calls unpredictable or does not state, by its width and index.
FREE VALUE, log entry 6. -/
opaque freeValue : Nat → DWord

end Sys2Proof.Config
end

