-- ==== Sys2Proof/Machine/AMap.lean ====
section
/-!
DEFINITION. Reading and writing the sparse maps that hold every indexed part of the state. Every
operation keeps the canonical form: keys rising strictly, no entry equal to the default.
-/

namespace Sys2Proof

variable {β : Type}

/-- The value at a key; `d` where the key is not listed. -/
def AMap.get (m : AMap β) (d : β) (k : Nat) : β :=
  match m with
  | [] => d
  | (j, v) :: t => if j = k then v else AMap.get t d k

/-- Removes every entry of a key. -/
def AMap.erase (m : AMap β) (k : Nat) : AMap β :=
  match m with
  | [] => []
  | (j, w) :: t => if j = k then AMap.erase t k else (j, w) :: AMap.erase t k

/-- Puts an entry before the first greater key. -/
def AMap.insert (m : AMap β) (k : Nat) (v : β) : AMap β :=
  match m with
  | [] => [(k, v)]
  | (j, w) :: t => if k < j then (k, v) :: (j, w) :: t else (j, w) :: AMap.insert t k v

/-- Writes a value at a key; writing the default removes the entry. -/
def AMap.set [DecidableEq β] (m : AMap β) (d : β) (k : Nat) (v : β) : AMap β :=
  if v = d then m.erase k else (m.erase k).insert k v

/-- Every key of the map lies at or above `lo`, keys rise strictly, and no entry is the default. -/
def AMap.wfFrom [DecidableEq β] (d : β) (lo : Nat) : AMap β → Bool
  | [] => true
  | (j, v) :: t => decide (lo ≤ j) && decide (v ≠ d) && AMap.wfFrom d (j + 1) t

/-- The canonical form. -/
def AMap.wf [DecidableEq β] (m : AMap β) (d : β) : Bool := AMap.wfFrom d 0 m

/-- The keys that are listed. -/
def AMap.keys (m : AMap β) : List Nat := m.map Prod.fst

/-- Reads `n` consecutive entries from `k` upward. -/
def AMap.getRange (m : AMap β) (d : β) (k : Nat) : Nat → List β
  | 0 => []
  | n + 1 => m.get d k :: m.getRange d (k + 1) n

/-- Writes consecutive entries from `k` upward, in order. -/
def AMap.setRange [DecidableEq β] (m : AMap β) (d : β) (k : Nat) : List β → AMap β
  | [] => m
  | v :: vs => (m.set d k v).setRange d (k + 1) vs

/-- Applies a function that keeps the default to every entry. -/
def AMap.mapVals [DecidableEq β] (m : AMap β) (d : β) (f : Nat → β → β) : AMap β :=
  match m with
  | [] => []
  | (j, v) :: t =>
    if f j v = d then AMap.mapVals t d f else (j, f j v) :: AMap.mapVals t d f

/-- Keeps the entries whose key and value satisfy a test. -/
def AMap.keep (m : AMap β) (p : Nat → β → Bool) : AMap β := m.filter fun e => p e.1 e.2

/-- The entries whose value satisfies a test. -/
def AMap.findAll (m : AMap β) (p : Nat → β → Bool) : List (Nat × β) := m.filter fun e => p e.1 e.2

end Sys2Proof
end

