-- ==== Sys2Proof/Machine/MemState.lean ====
section
/-!
DEFINITION. The state of the memory system: cached lines, translation units, monitor tables, the
victim stash, stalled fills, faults under the firmware (spec 11, 14, 15).
-/

namespace Sys2Proof.Machine

open Sys2Proof

/-- The data faults of R243 with a code of R19, and the fetch fault. -/
inductive DFault
  | notPresent | perm | fetch | starved | unreachable | ecc
  deriving DecidableEq, Repr

/-- The code of a fault in %tcause (spec 01 R19). -/
def DFault.code : DFault → Nat
  | .notPresent => 0x10 | .perm => 0x11 | .fetch => 0x12 | .starved => 0x13 | .unreachable => 0x14
  | .ecc => 0x15

/-- What the firmware learns of a PAGE_NOT_PRESENT (spec 15 R243); `damaged` stands for a table entry that the
channel's ECC cannot correct (R245). -/
inductive Absence
  | invalid | malformed | unreachable | other | damaged
  deriving DecidableEq, Repr

/-- The fault of an access whose address has no leaf. -/
def Absence.fault : Absence → DFault
  | .damaged => .ecc
  | .invalid | .malformed | .unreachable | .other => .notPresent

/-- The attributes of a leaf that a line carries (spec 15 R228, R231). No slice holds a line of a peer's page. -/
structure Attr where
  r     : Bool := false
  w     : Bool := false
  x     : Bool := false
  gilt  : Bool := false
  place : BitVec 2 := 0
  peer  : Bool := false
  deriving DecidableEq, Repr

/-- A line of an L2 slice or of its victim stash (spec 11 R174, R175, spec 15 R231 to R237). -/
structure Line where
  asid   : Nat
  /-- VA[55:7] -/
  va     : Nat
  /-- 128 bytes -/
  data   : List Byte
  dirty  : Bool
  held   : Bool
  /-- the context that a held line is charged to -/
  ctx    : Nat
  attr   : Attr
  /-- filled under hint bit 44 -/
  retain : Bool
  /-- allocated under hint bit 45 and not used since: the set's first replacement candidate -/
  stream : Bool
  poison : Bool
  /-- the leaf that its page has now, as the line knows it: that of its fill, or of its page's frame; and the
  physical address of its bytes under that leaf, where it has a frame -/
  leaf   : DWord
  frame  : Option Nat := none
  /-- the stamp of the latest use, and that of the allocation -/
  used   : Nat
  alloc  : Nat
  deriving DecidableEq, Repr

/-- A line of a core's L1 (spec 11 R174, spec 13 R203): `fill` is the stamp of its latest fill, and
`bank` the CACHE bank that is its way. -/
structure L1Line where
  asid : Nat
  va   : Nat
  data : List Byte
  attr : Attr
  bank : Nat
  fill : Nat
  /-- an uncorrected error lies in it, and its page is frameless (spec 15 R245) -/
  poison : Bool := false
  deriving DecidableEq, Repr

/-- A translation unit (spec 15 R230): its cached leaves, the places of their entries in memory, and its
walk-cache entries, each under the key of its ASID, level and address. An entry without V is never held,
and at most 8,192 leaves are. -/
structure TransUnit where
  leaves : AMap DWord := []
  places : AMap Nat := []
  tables : AMap DWord := []
  deriving DecidableEq, Repr

/-- Who waits on an access that has faulted or stalled. -/
inductive Waiter
  /-- lanes of the instruction numbered `seq` of a unit -/
  | unit (u seq : Nat)
  /-- an instruction fetch of a unit -/
  | fetch (u : Nat)
  /-- the program of a core's matrix sequencer -/
  | msq (core : Nat)
  /-- a copy of a core's tile copy engine, by its acceptance number -/
  | copy (core num : Nat)
  /-- a read of a job's structure records -/
  | job (job : Nat)
  /-- the read of a launch's record, or of its predicate counter -/
  | record (launch : Nat)
  | predicate (launch : Nat)
  /-- a write of the ordered list of counter and error-record writes, by its number -/
  | counter (num : Nat)
  /-- a collective operation -/
  | coll (ctx die q : Nat)
  /-- a depth or render-target access of a draw, for an object -/
  | target (launch object : Nat)
  /-- an access of the host or of a peer, by its number -/
  | outside (num : Nat)
  /-- an agent of the dispatch complex that reads or writes at once -/
  | dispatch
  deriving DecidableEq, Repr

/-- What an access waits for: a fill that stalls at its slice (spec 15 R240), or the answer of the serving
device to a request, by its number (spec 16 R254). -/
inductive StallAt
  | slice (sl : Nat)
  | peer (id : Nat)
  deriving DecidableEq, Repr

/-- An access that waits: its line, its address and kind, and the slice cycle in which its fill stalled; of the
fetch of an extension word, the first word (spec 03 R41). -/
structure Stall where
  place : StallAt
  asid  : Nat
  va    : Nat
  addr  : Nat
  write : Bool
  start : Nat
  who   : Waiter
  inst  : DWord := 0
  deriving DecidableEq, Repr

/-- A fault that the firmware holds (spec 15 R243). -/
structure FaultRec where
  id    : Nat
  who   : Waiter
  asid  : Nat
  va    : Nat
  cause : DFault
  why   : Absence
  write : Bool
  deriving DecidableEq, Repr

/-- An entry of a monitor table (spec 14 R214). `fired` keeps the status of an entry that has ended, until its
wake has been taken (R216, R221; log entry 62); `moved` marks an entry that stands, or stood, in the spill area
(R217). -/
structure MonEntry where
  asid     : Nat
  va       : Nat
  wide     : Bool
  signed   : Bool
  cmp      : WCmp
  operand  : DWord
  /-- none: no limit -/
  deadline : Option Nat
  cls      : Nat
  ctx      : Nat
  token    : Nat
  core     : Nat
  part     : Nat
  slot     : Nat
  stamp    : Nat
  moved    : Bool
  fired    : Option Nat
  /-- an entry of another device's wave: its node and request number -/
  peer     : Option (BitVec 22 × Nat) := none
  deriving DecidableEq, Repr

/-- A spill record of a slice and its index in the context's segment (spec 14 R219, R220). -/
structure Spill where
  entry : MonEntry
  index : Nat
  deriving DecidableEq, Repr

/-- A wake on its way, with the entry that sent it; one whose entry was spilled once goes through the
dispatch complex (spec 14 R217). -/
structure Wake where
  id     : Nat
  slice  : Nat
  status : Nat
  entry  : MonEntry
  deriving DecidableEq, Repr

/-- The monitor counters of a slice that are not counts of the table (spec 14 R226). -/
structure MonCounters where
  highWater : Nat := 0
  spills    : Nat := 0
  spillFull : Nat := 0
  walks     : Nat := 0
  wakeHeld  : Nat := 0
  deriving DecidableEq, Repr

/-- An L2 slice beside its sets: its cycle count, monitor table, spilled records, stash. `waking` holds the
entries without a table place that have ended, until their wakes have been taken (R221; log entry 62). -/
structure Slice where
  cycle    : Nat := 0
  table    : List MonEntry := []
  spilled  : List Spill := []
  waking   : List MonEntry := []
  stash    : List Line := []
  counters : MonCounters := {}
  deriving DecidableEq, Repr

/-- A die's frame pool (spec 15 R239), depth pyramids (spec 18 R277) and firmware-set figures. -/
structure Die where
  frames   : List Nat := []
  lowWater : Nat := 0
  deriving DecidableEq, Repr

/-- A request to a peer device that has been sent (spec 16 R254): what it carries; who waits for its answer,
and for which lane; the slice whose cycles its wait is counted in and its cycle then (spec 15 R243); and the
answer, once it is there. -/
structure PeerMsg where
  id    : Nat
  node  : BitVec 22
  va    : Nat
  src   : BitVec 22
  key   : Nat
  obs   : BitVec 5
  acc   : PeerAcc
  who   : Waiter
  lane  : Nat
  slice : Nat
  start : Nat
  answer : Option PeerReply := none
  deriving DecidableEq, Repr

/-- A wait that stands at a serving device (spec 14 R214, R224): the number of its request, its token and the
node; `ended` keeps the status of one that has ended, until its wave or the wake list has taken it. -/
structure PeerWait where
  id    : Nat
  token : Nat
  node  : BitVec 22
  ended : Option Nat := none
  deriving DecidableEq, Repr

/-- An access from outside that its slice has still to perform (spec 16 R247, R254): from a node with its
request number, or from the host. -/
structure OutReq where
  num  : Nat
  node : Option (BitVec 22)
  id   : Nat
  asid : Nat
  va   : Nat
  obs  : BitVec 5
  acc  : PeerAcc
  deriving DecidableEq, Repr

/-- What the device has answered: to a node with its request number, or to the host with the address of its
access. -/
structure OutReply where
  node : Option (BitVec 22)
  id   : Nat
  r    : PeerReply
  deriving DecidableEq, Repr

/-- A depth pyramid of a die (spec 18 R277), for a depth buffer and its bytes: at each level the minimum and
maximum of its tiles, row by row; `stale` once something else than a draw's depth writes has written the
buffer. -/
structure Pyramid where
  die    : Nat
  asid   : Nat
  addr   : Nat
  width  : Nat
  height : Nat
  bytes  : Nat
  levels : List (List (Word × Word))
  stale  : Bool := false
  deriving DecidableEq, Repr

/-- The rate-store area of a draw, and whether something else than the rate store has written it while the draw ran:
its contents are then unpredictable, also after the draw has ended, but for the ranges that have been written since
(spec 17 R259; log entry 6). -/
structure StoreArea where
  launch : Nat
  asid   : Nat
  base   : Nat
  size   : Nat
  tainted : Bool := false
  ended  : Bool := false
  fixed  : List (Nat × Nat) := []
  deriving DecidableEq, Repr

/-- The memory system. -/
structure MemSys where
  /-- physical memory: local LPDDR-6, and host memory where bit 51 is set (R179) -/
  phys      : List (Nat × BitVec 8) := []
  /-- poisoned frame lines, by PA / 128 (R245) -/
  poisoned  : AMap Bool := []
  /-- the sets of every slice, at slice × 24,576 + set -/
  l2        : AMap (List Line) := []
  /-- the L1 sets of every core, at core × 256 + set -/
  l1        : AMap (List L1Line) := []
  /-- instruction-cache lines, at core × 2^65 + line key -/
  icache    : AMap (List Byte) := []
  /-- MSQ program-cache lines, likewise -/
  msqCache  : AMap (List Byte) := []
  slices    : AMap Slice := []
  trans     : AMap TransUnit := []
  dies      : AMap Die := []
  /-- page-table roots and region-home-map roots by ASID (R227, R177) -/
  roots     : AMap Nat := []
  homeRoots : AMap Nat := []
  /-- cached regions of each core's address unit: 1 + the home die (R177) -/
  homeCache : AMap Nat := []
  stalls    : List Stall := []
  faults    : List FaultRec := []
  wakes     : List Wake := []
  /-- cycles of the starvation limit (R240) -/
  starvation : Nat := 0
  exports   : List Export := []
  /-- the outgoing port of each node, plus 1; 0 for no port (R253) -/
  routes    : AMap Nat := []
  node      : BitVec 22 := 0
  peerOut   : List PeerMsg := []
  peerWaits : List PeerWait := []
  /-- accesses from outside that wait, and the answers given -/
  outs      : List OutReq := []
  replies   : List OutReply := []
  /-- depth pyramids, and the rate-store areas in use or with unpredictable contents -/
  pyramids  : List Pyramid := []
  areas     : List StoreArea := []
  deriving DecidableEq, Repr

end Sys2Proof.Machine
end

