-- ==== Sys2Proof/Machine/WorkState.lean ====
section
/-!
DEFINITION. The state of work: the waves with their registers, the groups, launches, graphs, phases
and jobs, and the contexts (spec 04 to 08, 12, 14, 16).
-/

namespace Sys2Proof.Machine

open Sys2Proof

/-- One lane of a memory instruction that is still to be performed, as the operand log keeps it
(spec 12 R197): its address and its data, which is a store's bytes, an atomic's a and b, or the ray
of a bvht. -/
structure LaneReq where
  lane : Nat
  addr : Nat
  data : List Byte
  deriving DecidableEq, Repr

/-- What becomes of the faulted lanes of an instruction (spec 12 R195 to R198). -/
inductive LogStatus
  /-- no lane has faulted -/
  | clear
  /-- the firmware holds the fault -/
  | raised
  /-- the firmware has resolved it; the replay waits for earlier ones (R197) -/
  | resolved
  /-- it replays, and lanes of it have stalled: the entry stays occupied until they are performed (R197) -/
  | replaying
  /-- the firmware does not resolve it -/
  | declined
  /-- it has been delivered to the handler, which may retry it -/
  | delivered
  deriving DecidableEq, Repr

/-- An instruction of a unit that is outstanding (spec 06 R102, spec 12 R195): the values that are
fixed and on their way, the lanes that a stalled fill holds, and the faulted lanes, which occupy an
entry of the operand log. -/
structure Pend where
  seq     : Nat
  op      : Instr
  pc      : Nat
  /-- the first destination register and the registers per lane; no destination when 0 -/
  dst     : Nat
  n       : Nat
  /-- the lanes as they were at issue -/
  reqs    : List LaneReq := []
  values  : List (Nat × List Word) := []
  todo    : List LaneReq := []
  faulted : List LaneReq := []
  status  : LogStatus := .clear
  cause   : DFault := .notPresent
  /-- when the fault arose -/
  order   : Nat := 0
  /-- the destination is interlocked, and the unit issues nothing until the instruction ends -/
  leader  : Bool := false
  /-- of a leader's access: the firmware has resolved its fault, which a handler's retry does not (R198) -/
  granted : Bool := false
  deriving DecidableEq, Repr

/-- Why a unit issues nothing (spec 07 R125, R129, spec 14 R223, R225). -/
inductive Park
  | none
  /-- a registered wait and where its status goes -/
  | waitu (asid va token dst : Nat) (lanes : Mask)
  | sleep (left : Nat)
  /-- the tile, and the word of the twait -/
  | twait (tile : Nat) (word : DWord)
  | waitp (dst : Nat) (lanes : Mask)
  | gbar
  /-- an instruction whose own access faults or stalls -/
  | access
  /-- an amp, emit.vtx or spawny that waits for its reservation (spec 18 R271) -/
  | reserve
  deriving DecidableEq, Repr

/-- A wave, a soldered wave or a fragment that runs (spec 06 R99, R107): its visible state and what
the device keeps for it. -/
structure Wave where
  live    : Bool := false
  ctx     : Nat := 0
  launch  : Nat := 0
  group   : Nat := 0
  /-- where it runs -/
  core    : Nat := 0
  part    : Nat := 0
  slot    : Nat := 0
  /-- the wave number that a group gave it; for a soldered wave that of lane 0 -/
  num     : Nat := 0
  soldered : Bool := false
  /-- the index of its allocation in the group -/
  alloc   : Nat := 0
  nregs   : Nat := 0
  /-- v registers, at register × 32 + lane -/
  regs    : AMap Word := []
  /-- k1 to k15 -/
  k       : AMap Mask := []
  x       : Mask := 0
  o       : Mask := 0
  pc      : DWord := 0
  fflags  : Word := 0
  tcause  : Word := 0
  tpc     : DWord := 0
  tinst   : DWord := 0
  inHandler : Bool := false
  idem    : Bool := false
  /-- home wave and home lane of each lane -/
  homes   : List (Nat × Nat) := []
  /-- in a draw: its rate, the element of each lane, and the path bits read of each rate -/
  rate    : Rate := .K
  elems   : List Nat := []
  pathPos : AMap Nat := []
  pend    : List Pend := []
  pendSeq : Nat := 0
  park    : Park := .none
  /-- the core cycle at which it parked -/
  parkedAt : Nat := 0
  /-- stopped at a safept for a pre-emption, or stopped before a fetch (R125, R130) -/
  stopped : Bool := false
  /-- the v and k bitmaps of the live-register entry under which it stopped; none: its whole allocation -/
  stopLive : Option (Nat × Nat) := none
  /-- the wave's next instruction is held by an outstanding fault (R196) -/
  held    : Bool := false
  /-- where a handler's return continues after a delivered fault (R198) -/
  resume  : DWord := 0
  /-- a precise trap that waits for earlier results: its %tcause and %tinst (R17, R198) -/
  trapNext : Option (Word × DWord) := none
  /-- the scheduler's age: smaller is older (R112, R113); and the core cycle of its latest turn, or in which it
  last became ready -/
  age     : Nat := 0
  turnAt  : Nat := 0
  /-- the stamp of its latest acquire (spec 13 R203), and the number of the first instruction after its
  latest acquire or fence.acq: earlier ones hold its later accesses (spec 12 R192) -/
  acq     : Nat := 0
  fenceAt : Nat := 0
  /-- words fetched ahead of issue, by address (spec 08 R143) -/
  ahead   : List (Nat × DWord) := []
  /-- icinv operations that are not complete (spec 08 R143) -/
  icinvs  : List Nat := []
  /-- v registers that a spawny will write: register, lane and the Y element (spec 19 R292) -/
  awaits  : List (Nat × Nat × Nat) := []
  /-- it runs no more, and only stores and atomics of it are still to be performed: the number of its group
  (spec 06 R106, spec 07 R117, R125; log entry 112) -/
  left    : Option Nat := none
  deriving DecidableEq, Repr

/-- A lane in spawn memory (spec 06 R105, R106): where it came from, its element, the values of the
live v registers and its bits of the live k registers. -/
structure FragLane where
  wave : Nat
  lane : Nat
  elem : Nat
  regs : AMap Word
  k    : List Nat
  deriving DecidableEq, Repr

/-- A fragment record (spec 06 R105). -/
structure Frag where
  order  : Nat
  target : Nat
  token  : Nat
  idem   : Bool
  /-- the %fflags of the wave at the fork (spec 10 R158) -/
  fflags : Word
  /-- the core's FIFO banks that hold it, each with its bytes there; none: it lies in the context's spawn
  area; and its bytes in all (R105, R108) -/
  banks  : List (Nat × Nat)
  size   : Nat
  /-- in a draw: the rate, and the path bits read of each rate -/
  rate   : Rate
  pathPos : AMap Nat
  lanes  : List FragLane
  deriving DecidableEq, Repr

/-- A waiting record (spec 06 R106): lanes of one home wave that have arrived at a meet. -/
structure WaitRec where
  order : Nat
  token : Nat
  wave  : Nat
  /-- the address after the meet -/
  pc    : Nat
  idem  : Bool
  fflags : Word
  banks : List (Nat × Nat)
  size  : Nat
  rate  : Rate
  pathPos : AMap Nat
  lanes : List FragLane
  deriving DecidableEq, Repr

/-- What a group keeps of a home wave while no unit runs it, that is, while its lanes wait at a meet or
stand open in fragments (spec 01 R17, R20, spec 03 R57, spec 08 R143, spec 10 R158): its flags, its trap
record and handler, the faults delivered to it, and its icinv operations that are not complete. -/
structure HomeRec where
  wave    : Nat
  fflags  : Word
  tcause  : Word
  tpc     : DWord
  tinst   : DWord
  inHandler : Bool
  resume  : DWord
  log     : List Pend
  pendSeq : Nat
  icinvs  : List Nat
  deriving DecidableEq, Repr

/-- A wave allocation of a group: one slot and one register range of a partition (spec 05 R92), and
the unit that runs in it. -/
structure Alloc where
  part : Nat
  slot : Nat
  base : Nat
  unit : Option Nat
  deriving DecidableEq, Repr

/-- The states of a tile slot (spec 20 R298). -/
inductive TileState | empty | filling | ready | draining
  deriving DecidableEq, Repr

/-- An entry of the tile directory (spec 23 R334). -/
structure Tile where
  state    : TileState := .empty
  base     : Nat := 0
  size     : Nat := 0
  expected : Nat := 0
  arrived  : Nat := 0
  phase    : Bool := false
  overrun  : Bool := false
  failed   : Bool := false
  fill     : Nat := 0
  /-- direction-1 copies in flight, and whether one of them has stopped -/
  readers  : Nat := 0
  badRead  : Bool := false
  deriving DecidableEq, Repr

/-- Where a group stands. -/
inductive GroupPhase
  /-- it has no group -/
  | absent
  | resident
  /-- its waves stop for a pre-emption or a fetch fault and it is then saved -/
  | stopping
  | saved
  deriving DecidableEq, Repr

/-- A group (spec 05 R92, spec 06 R105 to R109, spec 07 R126 to R130). -/
structure Group where
  phase   : GroupPhase := .absent
  ctx     : Nat := 0
  launch  : Nat := 0
  num     : Nat := 0
  core    : Nat := 0
  entry   : Nat := 0
  nwaves  : Nat := 0
  nregs   : Nat := 0
  /-- its scratchpad range: bytes and the core offset of its start -/
  scratch : Nat := 0
  base    : Nat := 0
  ntiles  : Nat := 0
  tiles   : AMap Tile := []
  allocs  : List Alloc := []
  /-- open lanes: token, home wave, home lane -/
  opens   : List (Nat × Nat × Nat) := []
  frags   : List Frag := []
  waits   : List WaitRec := []
  homes   : List HomeRec := []
  /-- waves that have executed trig (spec 07 R120) -/
  trigs   : List Nat := []
  idemEnded : Bool := false
  exited  : Bool := false
  spawned : Bool := false
  /-- the saved scratchpad bytes, from the group's offset 0 -/
  savedScratch : List Byte := []
  savedAt : Nat := 0
  /-- why it was saved by a fetch fault: the unit, and whether the fault is still held -/
  fetchUnit : Option Nat := none
  fetchHeld : Bool := false
  /-- the first word, where only the fetch of the extension word faulted -/
  fetchInst : DWord := 0
  /-- it was stopped by a pre-emption -/
  preempted : Bool := false
  deriving DecidableEq, Repr

/-- The fields of a launch record (spec 05 R90). -/
structure LaunchRec where
  entry   : Nat := 0
  counter : Nat := 0
  pred    : Nat := 0
  count   : Nat := 0
  waves   : Nat := 0
  tiles   : Nat := 0
  regs    : Nat := 0
  scratch : Nat := 0
  first   : Nat := 0
  cores   : Nat := 0
  bankMap : Nat := 0
  reserve : Nat := 0
  flags   : Nat := 0
  tail    : Nat := 0
  deriving DecidableEq, Repr

/-- Where a launch stands (spec 07 R119, R123). -/
inductive LaunchPhase
  | absent
  /-- in its queue, not eligible -/
  | queued
  /-- eligible; its predicate or record is still to be read -/
  | eligible
  | started
  | completed
  | refused
  | skipped
  deriving DecidableEq, Repr

/-- A launch (spec 05 R90 to R97, spec 07 R119 to R123, spec 08 R145). -/
structure Launch where
  phase   : LaunchPhase := .absent
  ctx     : Nat := 0
  queue   : Nat := 0
  job     : Nat := 0
  jphase  : Nat := 0
  graph   : Nat := 0
  /-- its place in its queue's sequence -/
  order   : Nat := 0
  recAddr : Nat := 0
  /-- the record's bytes, once read -/
  bytes   : Option (List Byte) := none
  form    : LaunchRec := {}
  /-- the record has been read and passed its checks -/
  checked : Bool := false
  predRead : Bool := false
  /-- the launch that made it, for a device launch -/
  parent  : Option Nat := none
  /-- indices of its producers by edges -/
  edges   : List Nat := []
  index   : Nat := 0
  /-- the next group number to place, pending groups that were discarded, the core after the last -/
  next    : Nat := 0
  again   : List Nat := []
  nextCore : Nat := 0
  /-- groups of the record and spawned groups that have retired -/
  retired : Nat := 0
  spawnRetired : Nat := 0
  /-- launch.next of R145 -/
  spawnNext : Nat := 0
  /-- groups that have triggered and were discarded since, and whether the launch has triggered (R120) -/
  triggers : List Nat := []
  triggered : Bool := false
  cancelled : Bool := false
  /-- the count at which a cancel stopped the counter -/
  stopCount : Nat := 0
  eligibleAt : Nat := 0
  /-- cores whose banks have taken the record's map (R93) -/
  banked  : List Nat := []
  /-- the depth pyramids as they stood when it became eligible (spec 18 R277) -/
  seen    : List Pyramid := []
  deriving DecidableEq, Repr

/-- A graph, phase or job: its completion counter, its members and those that have finished
(spec 06 R110, R111). -/
structure Level where
  live     : Bool := false
  counter  : Nat := 0
  members  : Nat := 0
  finished : Nat := 0
  /-- members that count as completed -/
  completed : Nat := 0
  cancelled : Bool := false
  stopCount : Nat := 0
  done     : Bool := false
  parent   : Nat := 0
  ctx      : Nat := 0
  /-- unfinished launches that device code made in it -/
  children : Nat := 0
  deriving DecidableEq, Repr

/-- The content of a job's error record (spec 07 R117). -/
structure ErrRec where
  status : Nat
  group  : Nat
  addr   : Nat
  tcause : Nat
  tpc    : Nat
  tinst  : Nat
  count  : Nat
  deriving DecidableEq, Repr

/-- A job beside its level: where it came from and its error record (spec 07 R116, R117). -/
structure Job where
  queue   : Nat := 0
  /-- the priority class of its queue -/
  cls     : Nat := 0
  entry   : Nat := 0
  errAddr : Nat := 0
  err     : Option ErrRec := none
  deriving DecidableEq, Repr

/-- A write of a completion counter, samples counter or error record that the dispatch complex still
has to make, in order (spec 06 R110, spec 07 R117). -/
structure CtrWrite where
  num   : Nat
  job   : Nat
  ctx   : Nat
  addr  : Nat
  bytes : List Byte
  isErr : Bool
  /-- a fault of this write is with the firmware -/
  held  : Bool := false
  /-- the launch record it belongs to, for RECORD_FAULT -/
  recAddr : Nat := 0
  /-- the bytes are added to the counter (spec 18 R269) -/
  adds    : Bool := false
  deriving DecidableEq, Repr

/-- A record of a spawn pool (spec 08 R145). -/
structure PoolRec where
  launch : Nat
  entry  : Nat
  regs   : Nat
  scratch : Nat
  tiles  : Nat
  waves  : Nat
  /-- the next group number and how many remain -/
  next   : Nat
  left   : Nat
  deriving DecidableEq, Repr

/-- An entry-table record (spec 04 R76). -/
structure EntryRec where
  name    : Nat
  kind    : Nat
  spawn   : Nat
  regs    : Nat
  text    : Nat
  scratch : Nat
  tiles   : Nat
  waves   : Nat
  reserve : Nat
  hold    : Nat
  holds   : Nat
  size    : Nat
  deriving DecidableEq, Repr

/-- A hold-slot table entry (spec 04 R75). -/
structure HoldRec where
  rate  : Nat
  first : Nat
  count : Nat
  entry : Nat
  deriving DecidableEq, Repr

/-- A symbol that an object binds in its context (spec 04 R78, R80). -/
structure Bound where
  name : List Byte
  weak : Bool
  addr : Nat
  /-- its size, its stored bytes and the relocations inside them, for the comparison of R80 -/
  size : Nat
  body : List Byte
  rels : List (Nat × Nat × Nat × List Byte)
  deriving DecidableEq, Repr

/-- A loaded code object (spec 04 R69 to R85): its mapped ranges and its tables. -/
structure Obj where
  id      : Nat
  base    : Nat
  /-- mapped ranges: address and size -/
  ranges  : List (Nat × Nat)
  textAt  : Nat
  textSize : Nat
  msqAt   : Nat
  msqSize : Nat
  /-- the number of its live-register entries -/
  lives   : Nat
  holds   : List HoldRec
  entries : List EntryRec
  bound   : List Bound
  /-- objects that its references bind to -/
  uses    : List Nat
  hasTrap : Bool
  tceFw   : Bool
  collFw  : Bool
  measurement : List Byte
  deriving DecidableEq, Repr

/-- What the context's object descriptor holds of an object: the addresses of its mapped sections and
tables, 0 for one that it lacks (R71). -/
structure Descr where
  obj      : Nat
  textAt   : Nat
  msqAt    : Nat
  dataAt   : Nat
  presenceAt : Nat
  liveAt   : Nat
  holdAt   : Nat
  deriving DecidableEq, Repr

/-- The engine firmware that a commit installed: the object it came with, its entry offset and its image
(R84); object 0 stands for none. -/
structure Firmware where
  obj   : Nat := 0
  entry : Nat := 0
  image : List Byte := []
  deriving DecidableEq, Repr

/-- A command of a collective engine (spec 16 R256): its number, observers and payload, and the firmware that
serves it, which was installed when it was accepted (R84). -/
structure CollCmd where
  num  : Nat
  obs  : Nat
  data : List Byte
  fw   : Firmware
  deriving DecidableEq, Repr

/-- A queue of a collective engine (spec 16 R255): its counter's address, once its entry has been read,
the operations accepted and finished, whether one has failed, and the commands it holds. -/
structure CollQ where
  open_   : Bool := false
  counter : Nat := 0
  accepted : Nat := 0
  finished : Nat := 0
  stuck   : Bool := false
  cmds    : List CollCmd := []
  deriving DecidableEq, Repr

/-- A part of a context's save area: the group whose save it holds, its offset and its bytes
(spec 07 R127). -/
structure SaveChunk where
  group : Nat
  off   : Nat
  size  : Nat
  deriving DecidableEq, Repr

/-- An area of the context block (spec 16 R252). -/
structure Area where
  base : Nat := 0
  size : Nat := 0
  deriving DecidableEq, Repr

/-- A copy that a TCE has accepted (spec 20 R296, spec 23 R341, R343): the record's fields, its queue
and operation number, and the next element to commit. -/
structure Copy where
  num    : Nat
  ctx    : Nat
  group  : Nat
  tile   : Nat
  fill   : Nat
  mem    : Nat
  memStride : Int
  rowBytes : Nat
  rows   : Nat
  off    : Nat
  stride : Nat
  dir    : Nat
  conv   : Nat
  obs    : BitVec 5
  counter : Nat
  op     : Nat
  pos    : Nat
  /-- the armed base of its slot at the checks -/
  base   : Nat
  /-- bytes of a direction-1 copy's tile as they were at issue, from the base -/
  image  : List Byte
  hints  : BitVec 4
  held   : Bool
  /-- the object whose firmware serves it, 0 for the built-in handling (R84) -/
  fw     : Nat := 0
  /-- the cause of its stop, while the report is still to be written (R344) -/
  report : Option Nat := none
  /-- its launch is cancelled: it leaves once the element in progress is complete (R345) -/
  ending : Bool := false
  deriving DecidableEq, Repr

/-- A timeline-counter queue of a TCE (spec 23 R343). -/
structure TQueue where
  ctx    : Nat
  addr   : Nat
  /-- the counter's value at the first use, once read -/
  c0     : Option Nat
  issued : Nat
  /-- operations 1 to `done` have completed, and later ones in `later` too (spec 13 R211) -/
  done   : Nat
  later  : List Nat := []
  deriving DecidableEq, Repr

/-- A queued start of an MSQ program (spec 20 R299, spec 22 R331). -/
structure MStart where
  ctx   : Nat
  group : Nat
  obj   : Nat
  entry : Nat
  arg   : Nat
  deriving DecidableEq, Repr

/-- A bank's descriptor and contents (spec 22 R312, R317, R319). -/
structure Bank where
  loaded  : Bool := false
  ty      : MTy := .e2m1
  variant : Bool := false
  scl     : Bool := false
  sparse  : Bool := false
  pending : Bool := false
  bytes   : Nat := 0
  data    : List Byte := []
  deriving DecidableEq, Repr

/-- A matrix word that completes in the background (spec 22 R327): its number, bank and accumulator
range in KiB. -/
structure BgWord where
  seq  : Nat
  /-- mma or sbld or bld of this bank -/
  bank : Option Nat
  lo   : Nat
  hi   : Nat
  deriving DecidableEq, Repr

/-- The saved matrix state of a core (spec 22 R332), and the group it belongs to. -/
structure MsqSaved where
  group : Nat := 0
  ctx   : Nat := 0
  obj   : Nat := 0
  m     : AMap DWord := []
  pc    : Nat := 0
  counter : Nat := 0
  c0    : Nat := 0
  j     : Nat := 0
  mflags : Word := 0
  banks : AMap Bank := []
  acc   : AMap Word := []
  poison : AMap Bool := []
  side  : AMap Byte := []
  fresh : Bool := false
  deriving DecidableEq, Repr

/-- A core's matrix sequencer (spec 22 R312). -/
structure Msq where
  running : Bool := false
  ctx     : Nat := 0
  group   : Nat := 0
  obj     : Nat := 0
  m       : AMap DWord := []
  pc      : Nat := 0
  counter : Nat := 0
  c0      : Nat := 0
  j       : Nat := 0
  mflags  : Word := 0
  banks   : AMap Bank := []
  /-- FP32 words of accumulator memory, by byte offset / 4 -/
  acc     : AMap Word := []
  poison  : AMap Bool := []
  side    : AMap Byte := []
  starts  : List MStart := []
  bg      : List BgWord := []
  bgSeq   : Nat := 0
  /-- the context of the previous program, plus 1 -/
  prevCtx : Nat := 0
  /-- c0 is still to be read -/
  fresh   : Bool := false
  /-- a fault of the program is with the firmware -/
  held    : Bool := false
  /-- it issues no further word: pre-emption or cancellation -/
  halted  : Bool := false
  /-- its word is in flight: its access has been held and is made again, whatever halts the program; and the word -/
  inWord  : Bool := false
  word    : DWord := 0
  /-- an error record that a stalled fill holds back: its address and bytes (R328) -/
  errRec  : Option (Nat × List Byte) := none
  /-- the core cycle of its latest turn (log entry 1) -/
  turnAt  : Nat := 0
  deriving DecidableEq, Repr

/-- A core (spec 00 R3, spec 08 R141, R145, spec 11 R169). -/
structure Core where
  cycle  : Nat := 0
  /-- modes of the 32 banks: 0 CACHE, 1 SCRATCH, 2 FIFO -/
  modes  : AMap (BitVec 2) := []
  /-- scratchpad bytes by core offset -/
  scratch : AMap Byte := []
  pool   : List PoolRec := []
  msq    : Msq := {}
  copies : List Copy := []
  queues : List TQueue := []
  deriving DecidableEq, Repr

/-- A job that a doorbell has announced and that is still to be accepted (spec 07 R115, R116): its queue
with its class, its entry's index and address, and the records already read, by address. -/
structure JobIn where
  queue : Nat
  cls   : Nat
  index : Nat
  entry : Nat
  ring  : Nat
  read  : List (Nat × List Byte) := []
  deriving DecidableEq, Repr

/-- A context (spec 04 R80 to R87, spec 07 R115, R118, R121, spec 14 R221, spec 15 R234,
spec 16 R250 to R255). -/
structure Ctx where
  /-- its context-block address register and enable bit (R251) -/
  block   : DWord := 0
  enabled : Bool := false
  asid    : Nat := 0
  key     : Nat := 0
  unsigned_ : Bool := false
  signers : List (List Byte) := []
  /-- the park threshold in core cycles; 0 for none set -/
  park    : Nat := 0
  /-- its rank and those of its host queues within a class (R118) -/
  rank    : Nat := 0
  ranks   : AMap Nat := []
  objs    : List Obj := []
  /-- ranges that have held code since the ASID was created -/
  codeRanges : List (Nat × Nat) := []
  trap    : Option Nat := none
  tceFw   : Firmware := {}
  collFw  : Firmware := {}
  /-- the context's object descriptor -/
  descr   : List Descr := []
  log     : List Byte := List.replicate 64 0
  logCount : Nat := 0
  save    : Area := {}
  saves   : List SaveChunk := []
  spawn   : Area := {}
  spill   : Area := {}
  ring    : Area := {}
  wake    : Area := {}
  /-- records of a spill segment, per slice (spec 14 R219) -/
  spillSeg : Nat := 0
  /-- the device launch queue: launches in its hardware entries and in the overflow ring (R121) -/
  hw      : List Nat := []
  ringRecs : List Nat := []
  /-- entries written to the ring since enable, for the place of the next one -/
  ringNext : Nat := 0
  /-- ring pages that the firmware has mapped, by physical address / 65,536 (R121) -/
  ringMapped : List Nat := []
  wakes   : List (Nat × Nat) := []
  /-- gilt quotas of CD0 and CD1, in units of 2 MiB -/
  gilt    : AMap Nat := []
  collQs  : AMap CollQ := []
  /-- copy flags by counter address (spec 21 R310) -/
  copyFlags : AMap Word := []
  /-- what a pre-emption saves beside the groups (spec 07 R127) -/
  savedMsq : List MsqSaved := []
  savedStarts : List MStart := []
  savedCopies : List Copy := []
  /-- the queues of saved copies, with their groups -/
  savedQueues : List (Nat × TQueue) := []
  savedPool : List PoolRec := []
  /-- wakes appended since enable, for the place of the next one -/
  wakeNext : Nat := 0
  /-- jobs that doorbells have announced, oldest first -/
  inbox   : List JobIn := []
  deriving DecidableEq, Repr

end Sys2Proof.Machine
end

