-- ==== Sys2Proof/Machine/DrawState.lean ====
section
/-!
DEFINITION. The state of a draw: its block and targets, its elements with their records, its
primitives and samples (spec 17 R257 to R260, spec 18, spec 19).
-/

namespace Sys2Proof.Machine

open Sys2Proof

/-- A draw block (spec 17 R257). -/
structure DrawBlk where
  table   : Nat := 0
  area    : Nat := 0
  passed  : Nat := 0
  overflow : Nat := 0
  depth   : Nat := 0
  width   : Nat := 0
  height  : Nat := 0
  sppCode : Nat := 0
  coarse  : Nat := 0
  pos     : Nat := 0
  flags   : Nat := 0
  maxC    : Nat := 0
  maxV    : Nat := 0
  maxP    : Nat := 0
  cmp     : Nat := 0
  deriving DecidableEq, Repr

/-- A render target (spec 17 R258). -/
structure Target where
  base   : Nat := 0
  format : Nat := 0
  blend  : Nat := 0
  deriving DecidableEq, Repr

/-- Where an element stands (spec 18 R263). -/
inductive ElemPhase
  | absent
  /-- created, not yet in a wave -/
  | ready
  | running
  /-- its wave has exited, or its rate forms no waves -/
  | exited
  | retired
  deriving DecidableEq, Repr

/-- A colour that fbw wrote (spec 19 R290): the target, whether it is four FP32 channels, and the
words. -/
structure Colour where
  target : Nat
  float  : Bool
  words  : List Word
  deriving DecidableEq, Repr

/-- An element (spec 17 R259, spec 18 R261 to R265). -/
structure Elem where
  phase   : ElemPhase := .absent
  rate    : Rate := .F
  parent  : Nat := 0
  /-- the number of its primitive, for P and S -/
  prim    : Nat := 0
  /-- %elem -/
  ordinal : Nat := 0
  /-- the index of its object -/
  object  : Nat := 0
  /-- the offsets of its record's lines in the rate-store area; none where its rate keeps no record (R259);
  and the lines whose first contents are still to be written there (spec 19 R281) -/
  lines   : List Nat := []
  init    : List (Nat × List Byte) := []
  /-- P and S without a record: the core and the FIFO bank that stage it (spec 11 R169) -/
  staged  : Option (Nat × Nat) := none
  path    : List Bool := []
  /-- unretired dependants -/
  count   : Nat := 0
  /-- children created by amp, emit.vtx, emit.prim and spawny -/
  kids    : Nat := 0
  prims   : Nat := 0
  /-- P: its coarse pixel's mask; S: its bit -/
  cov     : Nat := 0
  /-- the pixel and the sample -/
  px      : Nat := 0
  py      : Nat := 0
  sample  : Nat := 0
  zwr     : Option Word := none
  colours : List Colour := []
  ret     : Word := 0
  /-- Y: the unit and lane that wait for its value, the register, and whether the unit still runs -/
  waiter  : Option (Nat × Nat × Nat) := none
  /-- the stamp of its creation -/
  order   : Nat := 0
  /-- the group of its wave; and whether a wave of it had triggered and was then discarded (spec 07 R120) -/
  home    : Nat := 0
  trig    : Bool := false
  deriving DecidableEq, Repr

/-- A primitive (spec 18 R261, R276, spec 19 R286). -/
structure Prim where
  live     : Bool := false
  cluster  : Nat := 0
  i0       : Nat := 0
  i1       : Nat := 0
  i2       : Nat := 0
  /-- its number in its cluster -/
  index    : Nat := 0
  judged   : Bool := false
  /-- the next coarse pixel, in row-major order, and the early tests made of its samples -/
  next     : Nat := 0
  tested   : List (Nat × Bool) := []
  rastered : Bool := false
  /-- P elements that are not retired -/
  count    : Nat := 0
  finished : Bool := false
  deriving DecidableEq, Repr

/-- A covered sample (spec 18 R272 to R276): its primitive, pixel, sample number, interpolated depth,
and its elements. -/
structure Sample where
  prim  : Nat
  px    : Nat
  py    : Nat
  s     : Nat
  depth : Word
  /-- its P element, and its S element plus 1 where it has one -/
  pelem : Nat
  selem : Nat
  deriving DecidableEq, Repr

/-- Who asks for rate-store records (spec 18 R271). -/
inductive Asker
  | unit (u : Nat)
  | prim (p : Nat)
  deriving DecidableEq, Repr

/-- A request for rate-store records that waits, or that has been met while its wave has not yet
issued again (spec 18 R271). -/
structure Request where
  who  : Asker
  rate : Rate
  n    : Nat
  /-- the S records that go with a P record -/
  subs : Nat := 0
  met  : Bool
  deriving DecidableEq, Repr

/-- A write of a sample's bytes to a render target, with ADD or REPLACE (spec 19 R290, R291). -/
structure Put where
  addr  : Nat
  bytes : List Byte
  adds  : Bool
  object : Nat
  deriving DecidableEq, Repr

/-- A draw (spec 17, 18); its key is that of its launch. -/
structure Draw where
  live     : Bool := false
  blk      : DrawBlk := {}
  targets  : List Target := []
  holds    : List HoldRec := []
  /-- the procedure's text range -/
  start    : Nat := 0
  size     : Nat := 0
  /-- the rate bits of the blocks of the procedure -/
  rates    : Nat := 0
  hasZwr   : Bool := false
  /-- bytes of the reservation, and of it in use -/
  space    : Nat := 0
  used     : Nat := 0
  elems    : AMap Elem := []
  prims    : AMap Prim := []
  samples  : List Sample := []
  requests : List Request := []
  /-- samples that an early depth test has passed, or all that exist with the test off -/
  passed   : Nat := 0
  /-- it has written a value to its depth buffer (R277) -/
  wrote    : Bool := false
  /-- the pyramid as it stood when the draw became eligible (R277) -/
  pyramid  : Option Pyramid := none
  /-- the number of O elements created so far -/
  objects  : Nat := 0
  /-- the F element has retired; the samples and writes that are still to be performed -/
  finishing : Bool := false
  todo     : List Sample := []
  puts     : List Put := []
  /-- accesses whose fault the firmware did not resolve, each with its address, and whether it writes: the mark
  serves one access (spec 19 R291) -/
  dropped  : List (Nat × Bool) := []
  /-- addresses of depths whose test has passed and whose write is still to be made (spec 18 R276) -/
  passing  : List Nat := []
  deriving DecidableEq, Repr

end Sys2Proof.Machine
end

