-- ==== Sys2Proof/Machine/State.lean ====
section
/-!
DEFINITION. The state of the DZ9: everything the spec gives the device, and the model's own fields
(agenda, cur, curMsq, freeCount, seq). The reasons for which a step stops, and the state after reset.
-/

namespace Sys2Proof.Machine

open Sys2Proof

/-- Why the machine stops. -/
inductive Fault
  /-- Raised by `step` when the agenda gives a turn to a unit or to a matrix sequencer that has
  nothing to run, or to a unit that another of its partition comes before. No such turn exists on the device.
  Safe. -/
  | noSuchTurn
  deriving DecidableEq, Repr

/-- Why an instruction has no meaning. -/
inductive Refusal
  /-- Raised by an arm of `exec` whose instruction is not modelled. Safe. -/
  | notModelled (mnemonic : String)
  deriving DecidableEq, Repr

/-- The states of bring-up (spec 16 R249). -/
inductive BringUp
  | reset | secureBoot | fwWait | training | ready | failed
  deriving DecidableEq, Repr

/-- One turn of the device: which agent moves next, or what the outside world does (log entry 1). -/
inductive Turn
  /-- a unit issues its next instruction -/
  | unit (u : Nat)
  /-- a core's matrix sequencer issues its next word -/
  | msq (core : Nat)
  | event (i : Instr)
  /-- a core's, or a slice's, cycle count advances -/
  | coreClock (core n : Nat)
  | sliceClock (slice n : Nat)
  deriving DecidableEq, Repr

/-- What the dispatch and management firmware is told (spec 07 R115, spec 15 R232 to R243,
spec 16 R249). -/
inductive FwEvent
  | badQueue (ctx q : Nat)
  | fault (id : Nat)
  | spawnArea (ctx : Nat)
  | wakeList (ctx : Nat)
  | lowFrames (die : Nat)
  | pushed (die n : Nat)
  | poolEmpty (die : Nat)
  | grantRefused (ctx die : Nat)
  | homeMap (asid : Nat)
  | writeBack (asid va : Nat)
  | loaded (ctx status : Nat)
  | unloaded (ctx : Nat) (busy : Bool)
  | report (bytes : List Byte)
  deriving DecidableEq, Repr

/-- Bring-up, the host register window and the figures of the part (spec 00 R9, spec 04 R88, R89,
spec 16 R249, R251). -/
structure HostState where
  bringUp   : BringUp := .reset
  cause     : Nat := 0
  fwAddr    : DWord := 0
  fwSize    : Word := 0
  secMeasure  : List Byte := List.replicate 64 0
  dispMeasure : List Byte := List.replicate 64 0
  /-- surviving cores, slices and channels of each die, and ports -/
  cores0    : Nat := 192
  cores1    : Nat := 192
  slices0   : Nat := 64
  slices1   : Nat := 64
  chans0    : Nat := 32
  chans1    : Nat := 32
  ports     : Nat := 18
  /-- corrected errors and operating point of each island -/
  corrected : AMap Nat := []
  points    : AMap Nat := []
  events    : List FwEvent := []
  deriving DecidableEq, Repr

/-- The work that the dispatch complexes hold. -/
structure WorkState where
  units    : AMap Wave := []
  groups   : AMap Group := []
  launches : AMap Launch := []
  graphs   : AMap Level := []
  phases   : AMap Level := []
  jobLevels : AMap Level := []
  jobs     : AMap Job := []
  /-- the unit of each wait token, plus 1 (spec 14 R217) -/
  tokens   : AMap Nat := []
  writes   : List CtrWrite := []
  /-- icinv operations under way: number, ASID and range (spec 08 R142) -/
  icinvs   : List (Nat × Nat × Nat × Nat) := []
  /-- pre-emption requests in force: cores and contexts (spec 07 R125) -/
  preempts : List (List Nat × List Nat) := []
  draws    : AMap Draw := []
  deriving DecidableEq, Repr

/-- The state of the device. -/
structure State where
  mem    : MemSys := {}
  work   : WorkState := {}
  cores  : AMap Core := []
  ctxs   : AMap Ctx := []
  host   : HostState := {}
  /-- which agents move next; where it is empty the default scheduler decides (log entry 1) -/
  agenda : List Turn := []
  /-- the unit and the core whose instruction `exec` performs -/
  cur    : Nat := 0
  curMsq : Nat := 0
  /-- the index of the next free value (log entry 6) -/
  freeCount : Nat := 0
  /-- the next identifier and the next stamp of use, fill, age and order -/
  seq    : Nat := 1
  deriving DecidableEq, Repr

/-- The state after reset: bring-up reads RESET (spec 16 R249), every bank of every MSQ reads not
loaded (spec 22 R312), cycle counts start at 0 (spec 08 R141); the rest as log entries 2 to 6 name
it. -/
def State.reset : State := {}

end Sys2Proof.Machine
end

