-- ==== Sys2Proof/Machine/Mem.lean ====
section
/-!
DEFINITION. The memory system: home slices, translation, the L2 slices with their fills, victims and
frames, the L1 caches, and every write's effect on the monitor (spec 11, 14, 15).
-/

namespace Sys2Proof.Machine

open Sys2Proof

/-! ## Reading and writing the parts of the state -/

def State.core (s : State) (c : Nat) : Core := s.cores.get {} c
def State.setCore (s : State) (c : Nat) (v : Core) : State := { s with cores := s.cores.set {} c v }
def State.ctx (s : State) (c : Nat) : Ctx := s.ctxs.get {} c
def State.setCtx (s : State) (c : Nat) (v : Ctx) : State := { s with ctxs := s.ctxs.set {} c v }
def State.unit (s : State) (u : Nat) : Wave := s.work.units.get {} u
def State.setUnit (s : State) (u : Nat) (v : Wave) : State :=
  { s with work := { s.work with units := s.work.units.set {} u v } }
def State.group (s : State) (g : Nat) : Group := s.work.groups.get {} g
def State.setGroup (s : State) (g : Nat) (v : Group) : State :=
  { s with work := { s.work with groups := s.work.groups.set {} g v } }
def State.launch (s : State) (l : Nat) : Launch := s.work.launches.get {} l
def State.setLaunch (s : State) (l : Nat) (v : Launch) : State :=
  { s with work := { s.work with launches := s.work.launches.set {} l v } }
def State.draw (s : State) (l : Nat) : Draw := s.work.draws.get {} l
def State.setDraw (s : State) (l : Nat) (v : Draw) : State :=
  { s with work := { s.work with draws := s.work.draws.set {} l v } }
def State.slice (s : State) (n : Nat) : Slice := s.mem.slices.get {} n
def State.setSlice (s : State) (n : Nat) (v : Slice) : State :=
  { s with mem := { s.mem with slices := s.mem.slices.set {} n v } }
def State.die (s : State) (d : Nat) : Die := s.mem.dies.get {} d
def State.setDie (s : State) (d : Nat) (v : Die) : State :=
  { s with mem := { s.mem with dies := s.mem.dies.set {} d v } }

/-- Tells the firmware. -/
def State.tell (s : State) (e : FwEvent) : State :=
  { s with host := { s.host with events := s.host.events ++ [e] } }

/-- Takes the next identifier or stamp. -/
def State.stamp (s : State) : Nat × State := (s.seq, { s with seq := s.seq + 1 })

/-- Takes the next wait token: 32 bits, and none that the dispatch complex holds (spec 14 R214). -/
def State.newToken (s : State) : Nat × State :=
  let held := s.work.tokens.map Prod.fst
  let t := ((List.range (held.length + 1)).map fun i => (s.seq + i) % 2 ^ 32).find? fun t => !held.contains t
  (t.getD 0, { s with seq := s.seq + 1 })

/-- Takes the next free value (log entry 6). -/
def State.fresh (s : State) : DWord × State :=
  (Config.freeValue s.freeCount, { s with freeCount := s.freeCount + 1 })

/-! ## Names of lines -/

/-- The ASID that tags an access (spec 11 R174). -/
def tagAsid (asid va : Nat) : Nat := if va / 2 ^ 55 % 2 = 1 then 0 else asid

/-- The key of a line in a map over every ASID. -/
def lineKey (asid line : Nat) : Nat := asid * 2 ^ 49 + line

/-- The bytes of a line. -/
def lineBytes : Nat := 128

/-- A line of zeros. -/
def zeroLine : List Byte := List.replicate 128 0

/-! ## Physical memory (spec 11 R179) -/

/-- The local bytes: 12 GiB for each channel. -/
def State.localEnd (s : State) : Nat := (s.host.chans0 + s.host.chans1) * (12 * 2 ^ 30)

/-- Whether a physical address is reached. -/
def State.physOk (s : State) (pa : Nat) : Bool :=
  pa < 2 ^ 52 && (pa / 2 ^ 51 = 1 || pa < s.localEnd)

/-- Reads `n` bytes; a byte that nothing has written reads 0 (log entry 5). -/
def State.readPhys (s : State) (pa n : Nat) : List Byte := AMap.getRange s.mem.phys 0 pa n

/-- Writes bytes. -/
def State.writePhys (s : State) (pa : Nat) (bs : List Byte) : State :=
  { s with mem := { s.mem with phys := AMap.setRange s.mem.phys 0 pa bs } }

/-- Bytes written at a channel; a whole line clears its poison (spec 15 R245). -/
def State.writeChannel (s : State) (pa : Nat) (bs : List Byte) : State :=
  let s := s.writePhys pa bs
  if bs.length = 128 then
    { s with mem := { s.mem with poisoned := s.mem.poisoned.set false (pa / 128) false } }
  else s

/-- The die of a local physical address (spec 11 R179). -/
def State.dieOfPa (s : State) (pa : Nat) : Nat :=
  if pa < s.host.chans0 * (12 * 2 ^ 30) then 0 else 1

/-- The channel of a local physical address and the offset in it: 1 KiB granules over the channels of the
address's die (spec 11 R179). -/
def State.channelOf (s : State) (pa : Nat) : Nat × Nat :=
  let d := s.dieOfPa pa
  let base := if d = 0 then 0 else s.host.chans0 * (12 * 2 ^ 30)
  let first := if d = 0 then 0 else s.host.chans0
  let n := if d = 0 then s.host.chans0 else s.host.chans1
  let g := (pa - base) / 1024
  (first + g % n, g / n * 1024 + pa % 1024)

/-! ## Home slices (spec 11 R176, R177) -/

/-- The XOR of the 6-bit groups of VA[55:7] (spec 11 R176). -/
def homeHash (va : Nat) : Nat :=
  (List.range 9).foldl (fun h i => h ^^^ (va / 2 ^ (7 + 6 * i) % 64)) 0

/-- What a directory or middle entry of the region home map says. -/
inductive HomeEntry
  | die (d : Nat)
  | table (pa : Nat)
  | reserved
  deriving DecidableEq, Repr

def homeEntry (e : Nat) : HomeEntry :=
  match e % 4 with
  | 0 => .die 0
  | 1 => .die 1
  | 2 => .table (e / 2 ^ 9 % 2 ^ 43 * 2 ^ 9)
  | _ => .reserved

/-- What a lookup in the region home map gives: the home die, whether it met a reserved entry, and whether it
read bytes that the channel's ECC cannot correct (spec 15 R245). -/
structure HomeGot where
  die      : Nat := 0
  reserved : Bool := false
  damaged  : Bool := false
  deriving DecidableEq, Repr

/-- Whether a physical address lies in a poisoned line of memory (spec 15 R245). -/
def State.badPhys (s : State) (pa : Nat) : Bool := s.mem.poisoned.get false (pa / 128)

/-- A lookup in the region home map. An entry at a physical address that R179 does not reach reads as 0, which names
CD0, and is no fault (log entry 119). -/
def State.mapWalk (s : State) (asid va : Nat) : HomeGot :=
  let rd := fun pa => leNat (s.readPhys pa 8)
  let top := s.mem.homeRoots.get 0 asid + 8 * (va / 2 ^ 44 % 4096)
  if s.badPhys top then { damaged := true }
  else
    match homeEntry (rd top) with
    | .die d => { die := d }
    | .reserved => { reserved := true }
    | .table m =>
      let mid := m + 8 * (va / 2 ^ 33 % 2048)
      if s.badPhys mid then { damaged := true }
      else
        match homeEntry (rd mid) with
        | .die d => { die := d }
        | .reserved => { reserved := true }
        | .table l =>
          let i := va / 2 ^ 21 % 4096
          { die := leNat (s.readPhys (l + i / 8) 1) / 2 ^ (i % 8) % 2, damaged := s.badPhys (l + i / 8) }

/-- The home die that the region home map gives, and whether a reserved entry was met. -/
def State.mapDie (s : State) (asid va : Nat) : Nat × Bool :=
  let m := s.mapWalk asid va
  (m.die, m.reserved)

/-- The key of a region in the region cache of a core's address unit. -/
def regionKey (core asid va : Nat) : Nat := core * 2 ^ 51 + asid * 2 ^ 35 + va / 2 ^ 21

/-- What the region cache of a core's address unit holds of an address: 1 + the home die, or 0. -/
def State.regionOf (s : State) (core : Option Nat) (asid va : Nat) : Nat :=
  match core with
  | some c => s.mem.homeCache.get 0 (regionKey c asid va)
  | none => 0

/-- Whether a lookup of the home die reads bytes that cannot be corrected. -/
def State.homeDamaged (s : State) (core : Option Nat) (asid va : Nat) : Bool :=
  s.regionOf core asid va = 0 && (s.mapWalk asid va).damaged

/-- The home die of an address, through the region cache of a core's address unit. -/
def State.homeDie (s : State) (core : Option Nat) (asid va : Nat) : Nat × State :=
  let cached := s.regionOf core asid va
  if cached ≠ 0 then (cached - 1, s)
  else
    let (d, bad) := s.mapDie asid va
    let s := if bad then s.tell (.homeMap asid) else s
    match core with
    | some c =>
      (d, { s with mem := { s.mem with homeCache := s.mem.homeCache.set 0 (regionKey c asid va) (d + 1) } })
    | none => (d, s)

/-- The slice of a line homed on die `d` (spec 11 R176). -/
def State.sliceOn (s : State) (d va : Nat) : Nat :=
  let n0 := s.host.slices0
  let n1 := s.host.slices1
  let d := if d = 0 && n0 = 0 then 1 else if d = 1 && n1 = 0 then 0 else d
  if d = 0 then homeHash va % n0 else n0 + homeHash va % n1

/-- The die of a slice. -/
def State.dieOfSlice (s : State) (sl : Nat) : Nat := if sl < s.host.slices0 then 0 else 1

/-- The home slice of an address for an agent with no region cache. -/
def State.homeSlice (s : State) (asid va : Nat) : Nat :=
  s.sliceOn (s.mapDie (tagAsid asid va) va).1 va

/-- The firmware is told where the lookup of an address meets a reserved entry (spec 11 R177). -/
def State.tellHome (s : State) (asid va : Nat) : State := (s.homeDie none (tagAsid asid va) va).2

/-! ## Translation (spec 15 R227 to R230) -/

/-- The result of a walk: a leaf with its level and the physical address of its entry, or none. -/
inductive Walk
  | leaf (level : Nat) (e : DWord) (pa : Nat)
  | absent (why : Absence)
  deriving DecidableEq, Repr

/-- Bits of an entry. -/
def ebits (e : DWord) (lo n : Nat) : Nat := e.toNat / 2 ^ lo % 2 ^ n

/-- The shift of the page that a leaf at a level maps. -/
def pageShift (level : Nat) : Nat := if level = 2 then 30 else if level = 3 then 21 else 16

/-- Whether an entry with V set is malformed (spec 15 R228, R229). -/
def State.malformed (s : State) (level : Nat) (e : DWord) : Bool :=
  let kind := ebits e 1 2
  let peer : Bool := ebits e 7 1 = 1
  let gilt : Bool := ebits e 6 1 = 1
  kind ≥ 2 || ebits e 52 12 ≠ 0
    || (if kind = 0 then level = 4 || ebits e 3 9 ≠ 0
        else
          level < 2 || ebits e 10 6 ≠ 0
            || (if peer then ebits e 38 14 ≠ 0 else ebits e 16 (pageShift level - 16) ≠ 0)
            || (gilt && level ≠ 4) || (gilt && peer) || (peer && ebits e 8 2 ≠ 0)
            || (peer && ebits e 16 22 = s.mem.node.toNat))

/-- The key of an entry in a translation unit: its ASID, level and the address bits that index it. -/
def entryKey (asid level va : Nat) : Nat :=
  let sh := if level = 0 then 48 else if level = 1 then 39 else pageShift level
  (asid * 8 + level) * 2 ^ 56 + va / 2 ^ sh * 2 ^ sh

/-- The walk from a table, over the levels that remain, with the table entries it read. -/
def State.walkFrom (s : State) (tu : TransUnit) (asid va : Nat) :
    List (Nat × Nat × Nat) → Nat → List (Nat × DWord) → Walk × List (Nat × DWord)
  | [], _, seen => (.absent .malformed, seen)
  | (level, shift, width) :: rest, table, seen =>
    let pa := table + 8 * (va / 2 ^ shift % 2 ^ width)
    let key := entryKey asid level va
    let cached := tu.tables.get 0 key
    let e : DWord := if cached ≠ 0 then cached else BitVec.ofNat 64 (leNat (s.readPhys pa 8))
    if cached = 0 && !s.physOk pa then (.absent .unreachable, seen)
    else if cached = 0 && s.badPhys pa then (.absent .damaged, seen)
    else if ebits e 0 1 = 0 then (.absent .invalid, seen)
    else if s.malformed level e then (.absent .malformed, seen)
    else if ebits e 1 2 = 1 then (.leaf level e pa, seen)
    else s.walkFrom tu asid va rest (ebits e 12 40 * 2 ^ 12) ((key, e) :: seen)

/-- The five levels of a walk: number, shift and width of the index (spec 15 R227). -/
def levels : List (Nat × Nat × Nat) :=
  [(0, 48, 8), (1, 39, 9), (2, 30, 9), (3, 21, 9), (4, 16, 5)]

/-- The translation unit of an address on a die (spec 15 R230); a die without channels uses the other
die's. -/
def State.transUnit (s : State) (d va : Nat) : Nat :=
  let n0 := s.host.chans0
  let n1 := s.host.chans1
  if (d = 0 && n0 ≠ 0) || n1 = 0 then va / 2 ^ 21 % n0 else n0 + va / 2 ^ 21 % n1

/-- The leaf of an address at the unit of a die: a cached one, else a walk; beside it the table
entries to cache. -/
def State.lookup (s : State) (d asid va : Nat) : Walk × List (Nat × DWord) :=
  let tu := s.mem.trans.get {} (s.transUnit d va)
  let cached := fun l => tu.leaves.get 0 (entryKey asid l va)
  let place := fun l => tu.places.get 0 (entryKey asid l va)
  if cached 4 ≠ 0 then (.leaf 4 (cached 4) (place 4), [])
  else if cached 3 ≠ 0 then (.leaf 3 (cached 3) (place 3), [])
  else if cached 2 ≠ 0 then (.leaf 2 (cached 2) (place 2), [])
  else s.walkFrom tu asid va levels (s.mem.roots.get 0 asid) []

/-- The leaves that a translation unit holds (spec 15 R230). -/
def tlbSize : Nat := 8192

/-- Drops the leaves of a unit under keys. -/
def TransUnit.drop (t : TransUnit) (out : Nat → Bool) : TransUnit :=
  { t with leaves := AMap.keep t.leaves fun k _ => !out k, places := AMap.keep t.places fun k _ => !out k }

/-- Whether a unit has no room for a leaf. -/
def TransUnit.full (t : TransUnit) (key : Nat) : Bool :=
  t.leaves.get 0 key = 0 && tlbSize ≤ t.leaves.length

/-- Caches a leaf with the place of its entry. -/
def TransUnit.put (t : TransUnit) (key : Nat) (e : DWord) (pa : Nat) : TransUnit :=
  { t with leaves := t.leaves.set 0 key e, places := t.places.set 0 key pa }

/-- A unit's contents after it caches a leaf, in place of one that a free value names where it is full. -/
def State.cacheLeaf (s : State) (u : Nat) (t : TransUnit) (key : Nat) (e : DWord) (pa : Nat) : State :=
  if t.full key then
    let gone := (AMap.keys t.leaves).getD (Config.tlbVictim s.freeCount % t.leaves.length) 0
    { s with freeCount := s.freeCount + 1
             mem := { s.mem with trans := s.mem.trans.set {} u ((t.drop (· = gone)).put key e pa) } }
  else { s with mem := { s.mem with trans := s.mem.trans.set {} u (t.put key e pa) } }

/-- A translation that caches the leaf and the table entries (spec 15 R230). -/
def State.translate (s : State) (d asid va : Nat) : Walk × State :=
  let u := s.transUnit d va
  let (w, seen) := s.lookup d asid va
  match w with
  | .absent why => (.absent why, s)
  | .leaf level e pa =>
    let tu := s.mem.trans.get {} u
    let tu := { tu with tables := seen.foldl (fun t k => t.set 0 k.1 k.2) tu.tables }
    (.leaf level e pa, s.cacheLeaf u tu (entryKey asid level va) e pa)

/-- The attributes of a leaf (spec 15 R228). -/
def leafAttr (e : DWord) : Attr :=
  { r := ebits e 3 1 = 1, w := ebits e 4 1 = 1, x := ebits e 5 1 = 1, gilt := ebits e 6 1 = 1
    place := BitVec.ofNat 2 (ebits e 8 2), peer := ebits e 7 1 = 1 }

/-- Whether a leaf is a peer leaf, and a frameless gilt leaf. -/
def leafPeer (e : DWord) : Bool := ebits e 7 1 = 1
def leafFrameless (e : DWord) : Bool := ebits e 6 1 = 1 && ebits e 16 36 = 0

/-- The physical address that a leaf gives an address. -/
def leafPa (level : Nat) (e : DWord) (va : Nat) : Nat :=
  ebits e 16 36 * 2 ^ 16 + va % 2 ^ pageShift level

/-! ## The lines of a slice -/

/-- The number of a set in the map of every slice's sets (spec 11 R175). -/
def setKey (sl line : Nat) : Nat := sl * 24576 + line / 64 % 24576

/-- Whether a line is the one named. -/
def Line.isAt (l : Line) (asid line : Nat) : Bool := l.asid = asid && l.va = line

/-- The line of a slice or of its stash, if it holds it. -/
def State.findLine (s : State) (sl asid line : Nat) : Option Line :=
  match (s.mem.l2.get [] (setKey sl line)).find? (·.isAt asid line) with
  | some l => some l
  | none => (s.slice sl).stash.find? (·.isAt asid line)

/-- Writes a line back to where its slice holds it; a line that no way holds stays unheld. -/
def State.putLine (s : State) (sl : Nat) (l : Line) : State :=
  let upd := fun m : Line => if m.isAt l.asid l.va then l else m
  let key := setKey sl l.va
  let set := s.mem.l2.get [] key
  if set.any (·.isAt l.asid l.va) then
    { s with mem := { s.mem with l2 := s.mem.l2.set [] key (set.map upd) } }
  else
    let c := s.slice sl
    if c.stash.any (·.isAt l.asid l.va) then s.setSlice sl { c with stash := c.stash.map upd } else s

/-- Takes a line out of its set and out of the stash. -/
def State.dropLine (s : State) (sl asid line : Nat) : State :=
  let key := setKey sl line
  let set := (s.mem.l2.get [] key).filter fun l => !l.isAt asid line
  let c := s.slice sl
  let s := { s with mem := { s.mem with l2 := s.mem.l2.set [] key set } }
  if c.stash.any (·.isAt asid line) then
    s.setSlice sl { c with stash := c.stash.filter fun l => !l.isAt asid line }
  else s

/-- The held lines that a context is charged with in a slice (spec 15 R234). -/
def State.heldBy (s : State) (sl ctx : Nat) : Nat :=
  (s.mem.l2.map fun e =>
    if e.1 / 24576 = sl then (e.2.filter fun l => l.held && l.ctx = ctx).length else 0).sum

/-- A context's quota of held lines in a slice of a die (spec 15 R234). -/
def State.quota (s : State) (ctx d : Nat) : Nat := 256 * (s.ctx ctx).gilt.get 0 d

/-- Writes a line to its frame; poison goes with it (spec 15 R245). -/
def State.writeFrame (s : State) (pa : Nat) (l : Line) : State :=
  let s := s.writePhys pa l.data
  { s with mem := { s.mem with poisoned := s.mem.poisoned.set false (pa / 128) l.poison } }

/-- What can become of a line that must leave (spec 15 R232, R237, R238). -/
inductive Leave
  /-- clean, or dirty with a frame at the address -/
  | drop
  | frame (pa : Nat)
  /-- a dirty line of a frameless gilt page, with its leaf and the entry's place -/
  | frameless (level : Nat) (e : DWord) (pa : Nat)
  /-- a dirty line without a present leaf stays (R232) -/
  | stays
  deriving DecidableEq, Repr

/-- How a line could leave its slice. -/
def State.leave (s : State) (sl : Nat) (l : Line) : Leave :=
  if !l.dirty then .drop
  else
    let va := l.va * 128
    match (s.lookup (s.dieOfSlice sl) l.asid va).1 with
    | .absent _ => .stays
    | .leaf level e pa =>
      if leafPeer e then .stays
      else if leafFrameless e then .frameless level e pa
      else if s.physOk (leafPa level e va) then .frame (leafPa level e va) else .stays

/-- The line of the least key of a list, by a measure. -/
def leastBy (f : Line → Nat) : List Line → Option Line
  | [] => none
  | l :: t =>
    match leastBy f t with
    | none => some l
    | some m => if f m < f l then some m else some l

/-- The order in which lines of one class leave: streamed first, those of hint bit 44 last, else least
recently used (spec 03 R40, spec 11 R175, spec 15 R237). Which of two streamed lines leaves first the spec does
not say: the one used longest ago (log entry 46). -/
def Line.rank (l : Line) : Nat :=
  (if l.stream then 0 else if l.retain then 2 else 1) * 2 ^ 128 + l.used

/-- The victim of a full set: first a line that can leave without a frame, then a dirty line of a
frameless gilt page (spec 15 R237). -/
def State.victim (s : State) (sl : Nat) (set : List Line) : Option (Line × Leave) :=
  let free := set.filter fun l => !l.held
  let plain := free.filter fun l =>
    match s.leave sl l with | .drop | .frame _ => true | .frameless _ _ _ | .stays => false
  let bare := free.filter fun l =>
    match s.leave sl l with | .frameless _ _ _ => true | .drop | .frame _ | .stays => false
  match leastBy Line.rank plain with
  | some l => some (l, s.leave sl l)
  | none => (leastBy Line.rank bare).map fun l => (l, s.leave sl l)

/-- Interrupts the firmware when a pool holds fewer frames than its low-water mark (R239). -/
def State.checkPool (s : State) (d : Nat) : State :=
  if (s.die d).frames.length < (s.die d).lowWater then s.tell (.lowFrames d) else s

/-- The lines of a page know its new leaf, and where it puts them. -/
def State.retag (s : State) (asid page level : Nat) (e : DWord) : State :=
  let one := fun l : Line =>
    if l.asid = asid && l.va / 512 = page then { l with leaf := e, frame := some (leafPa level e (l.va * 128)) } else l
  { s with mem := { s.mem with
    l2 := AMap.mapVals s.mem.l2 [] fun _ set => set.map one
    slices := AMap.mapVals s.mem.slices {} fun _ c => { c with stash := c.stash.map one } } }

/-- Assigns a frame from the die's pool to a frameless page: the leaf in memory and the unit's copy;
none when the pool is empty (spec 15 R238, R239). The pool gives out the frame pushed last. -/
def State.assignFrame (s : State) (sl : Nat) (l : Line) (level : Nat) (e : DWord) (pa : Nat) :
    Option (Nat × State) :=
  let d := s.dieOfSlice sl
  match (s.die d).frames.reverse with
  | [] => none
  | f :: rest =>
    let va := l.va * 128
    let e' : DWord := BitVec.ofNat 64 (e.toNat + f * 2 ^ 16)
    let s := s.setDie d { s.die d with frames := rest.reverse }
    let s := s.checkPool d
    let s := s.writePhys pa (leBytes e'.toNat 8)
    let u := s.transUnit d va
    let s := s.cacheLeaf u (s.mem.trans.get {} u) (entryKey l.asid level va) e' pa
    some (leafPa level e' va, s.retag l.asid (va / 65536) level e')

/-- Makes a victim leave: written back, given a frame, or moved to the stash (spec 15 R238, R240);
none when the stash is full. -/
def State.evict (s : State) (sl : Nat) (l : Line) (how : Leave) : Option State :=
  match how with
  | .drop => some (s.dropLine sl l.asid l.va)
  | .frame pa => some ((s.writeFrame pa l).dropLine sl l.asid l.va)
  | .stays => none
  | .frameless level e pa =>
    match s.assignFrame sl l level e pa with
    | some (fpa, s) => some ((s.writeFrame fpa l).dropLine sl l.asid l.va)
    | none =>
      let c := s.slice sl
      if c.stash.length < 32 then
        let s := s.dropLine sl l.asid l.va
        let s := s.setSlice sl { s.slice sl with stash := c.stash ++ [l] }
        some (s.tell (.poolEmpty (s.dieOfSlice sl)))
      else none

/-- A request at a home slice. -/
structure Req where
  /-- whose region cache names the slice; none for an agent outside the cores -/
  core   : Option Nat := none
  /-- the context that a held line is charged to -/
  ctx    : Nat := 0
  /-- the context's ASID and the byte address -/
  asid   : Nat
  va     : Nat
  r      : Bool := false
  w      : Bool := false
  x      : Bool := false
  /-- who issues it, and for which lane; lane 32 stands for the leader (spec 16 R254) -/
  who    : Waiter := .dispatch
  lane   : Nat := 32
  /-- the observers that an acquiring read names (spec 16 R254) -/
  obs    : BitVec 5 := 0
  /-- hint bits 44 and 45, neither where both are set (spec 03 R40) -/
  retain : Bool := false
  stream : Bool := false
  /-- the stamp from which the lines that its instruction, or its copy, has filled are counted -/
  since  : Option Nat := none
  deriving DecidableEq, Repr

/-- What a home slice answers. -/
inductive Acc
  /-- the line, at the slice, as it stands after its fill -/
  | line (sl : Nat) (l : Line)
  /-- a page of another DZ9: its node -/
  | peer (node : BitVec 22) (attr : Attr)
  | fault (c : DFault) (why : Absence)
  /-- the fill stalls (spec 15 R240) -/
  | stall (at_ : StallAt)
  deriving DecidableEq, Repr

/-- Whether attributes grant a request (spec 15 R231). -/
def Attr.grants (a : Attr) (q : Req) : Bool :=
  (!q.r || a.r) && (!q.w || a.w) && (!q.x || a.x)

/-- The free way of a set, made by a victim's leaving where the set is full. -/
def State.makeRoom (s : State) (sl line : Nat) : Option State :=
  let set := s.mem.l2.get [] (setKey sl line)
  if set.length < 16 then some s
  else
    match s.victim sl set with
    | some (l, how) => s.evict sl l how
    | none => none

/-- The firmware is told of the lines of a set whose write-back is tried and finds no present leaf: those that
come before the line that leaves (spec 15 R232). -/
def State.tellStays (s : State) (sl line : Nat) : State :=
  let set := s.mem.l2.get [] (setKey sl line)
  if set.length < 16 then s
  else
    let tried := fun l : Line =>
      match s.victim sl set with
      | some (v, .drop) | some (v, .frame _) => l.rank < v.rank
      | some (_, .frameless _ _ _) | some (_, .stays) | none => true
    (set.filter fun l => !l.held && s.leave sl l = .stays && tried l).foldl
      (fun s l => s.tell (.writeBack l.asid (l.va * 128))) s

/-- Allocates a filled line, held where the quota and the set allow it (spec 15 R235). -/
def State.allocate (s : State) (sl : Nat) (l : Line) : Acc × State :=
  let line := l.va
  let s := s.tellStays sl line
  match s.makeRoom sl line with
  | none => (.stall (.slice sl), s)
  | some s =>
    let key := setKey sl line
    let set := s.mem.l2.get [] key
    let held := l.attr.gilt && s.heldBy sl l.ctx < s.quota l.ctx (s.dieOfSlice sl)
      && (set.filter (·.held)).length < 12
    let (n, s) := s.stamp
    let l := { l with held := held, used := n, alloc := n }
    (.line sl l, { s with mem := { s.mem with l2 := s.mem.l2.set [] key (set ++ [l]) } })

/-- Fills a line that misses (spec 11 R175, spec 15 R230, R231, R236). -/
def State.fill (s : State) (sl : Nat) (q : Req) : Acc × State :=
  let asid := tagAsid q.asid q.va
  let va := q.va / 128 * 128
  match s.translate (s.dieOfSlice sl) asid va with
  | (.absent why, s) => (.fault why.fault why, s)
  | (.leaf level e _, s) =>
    let attr := leafAttr e
    if attr.peer then
      if attr.grants q then (.peer (BitVec.ofNat 22 (ebits e 16 22)) attr, s) else (.fault .perm .other, s)
    else
      let bare := leafFrameless e
      let pa := leafPa level e va
      if !bare && !s.physOk pa then (.fault .notPresent .unreachable, s)
      else if !attr.grants q then (.fault .perm .other, s)
      else
        let poison := !bare && s.badPhys pa
        let l : Line :=
          { asid := asid, va := va / 128, data := if bare then zeroLine else s.readPhys pa 128
            dirty := false, held := false, ctx := q.ctx, attr := attr
            retain := q.retain, stream := q.stream && !attr.gilt, poison := poison
            leaf := e, frame := if bare then none else some pa, used := 0, alloc := 0 }
        if poison && q.r then (.fault .ecc .other, s)
        else if q.stream && !attr.gilt && !q.w then (.line sl l, s)
        else s.allocate sl l

/-- Whether a line was filled by the instruction, or the copy, of a request. -/
def Req.filled (q : Req) (l : Line) : Bool :=
  match q.since with
  | some n => n ≤ l.alloc
  | none => false

/-- An access at the home slice of its line: a hit is checked against the line's attributes, a miss is
filled (spec 11 R175, R176, spec 15 R231, R245). A later hit takes the mark of hint bit 45 away, one of the
access that allocated the line does not (spec 03 R40; log entry 46). -/
def State.access (s : State) (q : Req) : Acc × State :=
  let asid := tagAsid q.asid q.va
  if 2 ^ 56 ≤ q.va then (.fault .notPresent .invalid, s)
  else if s.homeDamaged q.core asid q.va then (.fault .ecc .damaged, s)
  else
  let (d, s) := s.homeDie q.core asid q.va
  let sl := s.sliceOn d q.va
  match s.findLine sl asid (q.va / 128) with
  | some l =>
    if !l.attr.grants q then (.fault .perm .other, s)
    else if l.poison && q.r then (.fault .ecc .other, s)
    else
      let (n, s) := s.stamp
      let l := { l with used := n, retain := l.retain || q.retain, stream := l.stream && q.filled l }
      (.line sl l, s.putLine sl l)
  | none => s.fill sl q

/-- The bytes of a line with some of them replaced. -/
def patch (data : List Byte) (lo : Nat) (bs : List Byte) : List Byte :=
  data.take lo ++ bs ++ data.drop (lo + bs.length)

/-! ## Physical addresses under ASID 0 (spec 16 R247, R252) -/

/-- Cuts a range of bytes at line boundaries: address and length of each piece. -/
def cuts (va : Nat) : Nat → Nat → List (Nat × Nat)
  | 0, _ => []
  | _, 0 => []
  | fuel + 1, n =>
    let k := min n (128 - va % 128)
    (va, k) :: cuts (va + k) fuel (n - k)

/-- The leaf beneath a table that maps a physical address: the virtual address, searched over the levels
that remain. -/
def State.findFrame (s : State) (pa : Nat) : List (Nat × Nat × Nat) → Nat → Nat → Option Nat
  | [], _, _ => none
  | (level, shift, width) :: rest, table, va =>
    (List.range (2 ^ width)).findSome? fun i =>
      let at_ := table + 8 * i
      let e : DWord := BitVec.ofNat 64 (leNat (s.readPhys at_ 8))
      let here := va + i * 2 ^ shift
      if ebits e 0 1 = 0 || s.malformed level e then none
      else if ebits e 1 2 = 1 then
        let base := leafPa level e 0
        if !leafPeer e && !leafFrameless e && base ≤ pa && pa < base + 2 ^ pageShift level then
          some (here + (pa - base))
        else none
      else s.findFrame pa rest (ebits e 12 40 * 2 ^ 12) here

/-- The address under which ASID 0 maps a physical address. -/
def State.frameVa (s : State) (pa : Nat) : Option Nat := s.findFrame pa levels (s.mem.roots.get 0 0) 0

/-- The line that holds a physical address of local memory under ASID 0, where a slice holds it. -/
def State.localLine (s : State) (pa : Nat) : Option (Nat × Line) :=
  match s.frameVa pa with
  | none => none
  | some va =>
    let sl := s.homeSlice 0 va
    (s.findLine sl 0 (va / 128)).map fun l => (sl, l)

/-- The firmware is told of reserved entries that the lookups of such a read or write meet (spec 11 R177). -/
def State.tellLocal (s : State) (pa n : Nat) : State :=
  (cuts pa n n).foldl (fun s c =>
    match s.frameVa c.1 with | some va => s.tellHome 0 va | none => s) s

/-- Replaces bytes of local memory within one line: in the line that a slice holds, else at the channel. Nothing
watches them. -/
def State.localPatch (s : State) (pa : Nat) (bs : List Byte) : State :=
  let s := s.tellLocal pa bs.length
  match s.localLine pa with
  | some (sl, l) =>
    s.putLine sl { l with data := patch l.data (pa % 128) bs, dirty := true, poison := l.poison && bs.length < 128 }
  | none => s.writeChannel pa bs

/-! ## The monitor sees every write (spec 14 R216) -/

/-- Whether a comparison holds (spec 14 R223). -/
def cmpHolds (cmp : WCmp) (signed wide : Bool) (word operand : Nat) : Bool :=
  let w : Nat := if wide then 64 else 32
  let a : Nat := word % 2 ^ w
  let b : Nat := operand % 2 ^ w
  let si := fun n : Nat => if n / 2 ^ (w - 1) = 1 then (n : Int) - 2 ^ w else (n : Int)
  match cmp with
  | .eq => a = b
  | .ne => a ≠ b
  | .ge => if signed then si b ≤ si a else b ≤ a
  | .lt => if signed then si a < si b else a < b
  | .any => a &&& b ≠ 0
  | .none => a &&& b = 0

/-- The bytes of a watched word. -/
def MonEntry.bytes (e : MonEntry) : Nat := if e.wide then 8 else 4

/-- Whether an entry's condition holds against its line's bytes. -/
def MonEntry.holdsIn (e : MonEntry) (data : List Byte) : Bool :=
  cmpHolds e.cmp e.signed e.wide (leNat ((data.drop (e.va % 128)).take e.bytes)) e.operand.toNat

/-- Whether an entry's deadline has passed: a write of the deadline's own cycle still counts (spec 14
R218). -/
def MonEntry.expired (e : MonEntry) (cycle : Nat) : Bool :=
  match e.deadline with
  | some d => d < cycle
  | none => false

/-- Sends the wake of an entry (spec 14 R217). -/
def State.sendWake (s : State) (sl : Nat) (e : MonEntry) (status : Nat) : State :=
  let (n, s) := s.stamp
  let w : Wake := { id := n, slice := sl, status := status, entry := e }
  { s with mem := { s.mem with wakes := s.mem.wakes ++ [w] } }

/-- The place of a spill record in its context's segment for a slice (spec 14 R219). -/
def State.spillPa (s : State) (sl ctx index : Nat) : Nat :=
  (s.ctx ctx).spill.base + (sl * (s.ctx ctx).spillSeg + index) * 32

/-- The bytes of a spill record (spec 14 R219). -/
def MonEntry.record (e : MonEntry) (valid : Bool) : List Byte :=
  leBytes e.va 8 ++ leBytes e.asid 2
    ++ leBytes (valid.toNat + 2 * e.wide.toNat + 4 * e.signed.toNat + 8 * e.cmp.code + 64 * e.cls) 1
    ++ leBytes 0 1 ++ leBytes e.token 4
    ++ leBytes (if e.wide then e.operand.toNat else e.operand.toNat % 2 ^ 32) 8
    ++ leBytes (e.deadline.getD (2 ^ 64 - 1)) 8

/-- Clears a spill record, in memory and where a slice holds its line. -/
def State.clearSpill (s : State) (sl : Nat) (p : Spill) : State :=
  let c := s.slice sl
  let s := s.setSlice sl { c with spilled := c.spilled.filter (· ≠ p) }
  s.localPatch (s.spillPa sl p.entry.ctx p.index) (p.entry.record false)

/-- An entry without a table place ends with a status: its wake is sent, and it stands until that is taken
(spec 14 R216, R221; log entry 62). -/
def State.endAside (s : State) (sl : Nat) (e : MonEntry) (status : Nat) : State :=
  let e := { e with fired := some status }
  let c := s.slice sl
  (s.setSlice sl { c with waking := c.waking ++ [e] }).sendWake sl e status

/-- Entries of a table end with a status: their wakes are sent, and each keeps its place, fired, until that is
taken (spec 14 R216, R218, R221; log entry 62). -/
def State.endEntries (s : State) (sl status : Nat) (ends : MonEntry → Bool) : State :=
  let c := s.slice sl
  let fire := fun e : MonEntry => { e with fired := some status }
  let s := s.setSlice sl { c with table := c.table.map fun e => if ends e then fire e else e }
  (c.table.filter ends).foldl (fun s e => s.sendWake sl (fire e) status) s

/-- The summary-filter bit of a word's line (spec 14 R220). -/
def filterBit (va : Nat) : Nat := (va / 2 ^ 7 % 64) ^^^ (va / 2 ^ 13 % 64)

/-- A counter of the monitor that saturates (spec 14 R226). -/
def bump (n : Nat) : Nat := if n < 0xFFFF_FFFF then n + 1 else n

/-- Spilled records whose deadline has passed end with status 1 (spec 14 R218). -/
def State.expireSpilled (s : State) (sl : Nat) : State :=
  let c := s.slice sl
  (c.spilled.filter fun p => p.entry.expired c.cycle).foldl
    (fun s p => (s.clearSpill sl p).endAside sl p.entry 1) s

/-- A walk of a slice's spilled records: each that a test accepts ends with status 0, and then each whose
deadline has passed ends with status 1 (spec 14 R218, R220). -/
def State.walk (s : State) (sl : Nat) (ends : MonEntry → Bool) : State :=
  let c := s.slice sl
  let s := s.setSlice sl { c with counters := { c.counters with walks := bump c.counters.walks } }
  ((c.spilled.filter fun p => ends p.entry).foldl
    (fun s p => (s.clearSpill sl p).endAside sl p.entry 0) s).expireSpilled sl

/-- Whether bytes of an address space meet a range. -/
def touches (asid va n lasid lo len : Nat) : Bool := asid = lasid && va < lo + len && lo < va + n

/-- Whether a byte of an address space is unpredictable as one of a rate-store area (spec 17 R259). -/
def StoreArea.blurs (a : StoreArea) (asid va : Nat) : Bool :=
  a.tainted && touches asid va 1 a.asid a.base a.size && !a.fixed.any fun r => r.1 ≤ va && va < r.1 + r.2

/-- Bytes with free values for those that are unpredictable. -/
def State.blurFrom (s : State) (asid : Nat) : Nat → List Byte → List Byte × State
  | _, [] => ([], s)
  | va, b :: bs =>
    let (b, s) := if s.mem.areas.any fun a => a.blurs asid va then
        let (v, s) := s.fresh
        (v.setWidth 8, s)
      else (b, s)
    let (bs, s) := s.blurFrom asid (va + 1) bs
    (b :: bs, s)

/-- What a read of bytes gives: free values for those in a rate-store area that something else than the rate store
has written (spec 17 R259; log entry 6). -/
def State.blur (s : State) (asid va : Nat) (bs : List Byte) : List Byte × State :=
  if s.mem.areas.any fun a => a.tainted && touches asid va bs.length a.asid a.base a.size then s.blurFrom asid va bs
  else (bs, s)

/-- Re-evaluates the entries of a line whose words overlap the bytes written, against the line's value
after the write: satisfied entries end and send a wake with status 0 (spec 14 R216, R220). A table entry
has ended by its deadline; a spilled record counts until a walk has ended it (R218). -/
def State.reevaluate (s : State) (sl : Nat) (l : Line) (lo n : Nat) : State :=
  let base := l.va * 128
  let (data, s) := s.blur l.asid base l.data
  let met := fun e : MonEntry =>
    e.asid = l.asid && e.va / 128 = l.va && e.fired.isNone && e.va < base + lo + n
      && base + lo < e.va + e.bytes && e.holdsIn data
  let now := (s.slice sl).cycle
  let s := s.endEntries sl 0 fun e => met e && !e.expired now
  -- the walker runs when the filter has the line's bit
  if (s.slice sl).spilled.any fun p => filterBit p.entry.va = filterBit base then s.walk sl met else s

/-- What a write does to the marks of an area: while its draw runs it taints it, and later it fixes the bytes
written (spec 17 R259). -/
def StoreArea.soil (a : StoreArea) (asid va n : Nat) : StoreArea :=
  if !touches asid va n a.asid a.base a.size then a
  else if a.ended then { a with fixed := a.fixed ++ [(va, n)] }
  else { a with tainted := true }

/-- A write marks the depth pyramids and the rate-store areas whose bytes it meets: what a draw itself writes
there takes the marks back (spec 17 R259, spec 18 R277). -/
def State.soil (s : State) (asid va n : Nat) : State :=
  { s with mem := { s.mem with
    pyramids := s.mem.pyramids.map fun p => { p with stale := p.stale || touches asid va n p.asid p.addr p.bytes }
    areas := s.mem.areas.map fun a => a.soil asid va n } }

/-- A write of a draw's own depth values or records leaves no mark, but in areas of draws that have ended. -/
def State.unsoil (s old : State) : State :=
  let was := fun a : StoreArea => old.mem.areas.any fun b => b.launch = a.launch && b.tainted
  { s with mem := { s.mem with
    pyramids := old.mem.pyramids, areas := s.mem.areas.map fun a => { a with tainted := was a } } }

/-- Writes bytes of a line at its slice; a write of the whole line clears its poison (R245). -/
def State.writeLine (s : State) (sl : Nat) (l : Line) (lo : Nat) (bs : List Byte) : State :=
  let l := { l with data := patch l.data lo bs, dirty := true
                    poison := l.poison && bs.length < 128 }
  ((s.soil l.asid (l.va * 128 + lo) bs.length).putLine sl l).reevaluate sl l lo bs.length

/-! ## L1 (spec 11 R174, spec 13 R203) -/

/-- The CACHE banks of a core, which are the ways of its L1 (spec 11 R169, R174). -/
def State.cacheBanks (s : State) (c : Nat) : List Nat :=
  (List.range 32).filter fun b => (s.core c).modes.get 0 b = 0

def l1Key (core line : Nat) : Nat := core * 256 + line % 256

def L1Line.isAt (l : L1Line) (asid line : Nat) : Bool := l.asid = asid && l.va = line

/-- The L1 copy of a line, if the core holds one. -/
def State.l1Find (s : State) (c asid line : Nat) : Option L1Line :=
  (s.mem.l1.get [] (l1Key c line)).find? (·.isAt asid line)

def State.l1Set (s : State) (c line : Nat) (set : List L1Line) : State :=
  { s with mem := { s.mem with l1 := s.mem.l1.set [] (l1Key c line) set } }

/-- Drops the L1 copy of a line. -/
def State.l1Drop (s : State) (c asid line : Nat) : State :=
  s.l1Set c line ((s.mem.l1.get [] (l1Key c line)).filter fun l => !l.isAt asid line)

/-- A store's bytes go into the issuing core's L1 copy too (spec 11 R174). -/
def State.l1Store (s : State) (c asid va : Nat) (bs : List Byte) : State :=
  s.l1Set c (va / 128) ((s.mem.l1.get [] (l1Key c (va / 128))).map fun l =>
    if l.isAt asid (va / 128) then { l with data := patch l.data (va % 128) bs } else l)

/-- A value that the home slice returned: it replaces the core's L1 copy, and where `alloc` holds and
there is none it takes a way, a free one first (spec 13 R203; log entry 8). -/
def State.l1Return (s : State) (c : Nat) (l : Line) (alloc : Bool) : State :=
  let set := s.mem.l1.get [] (l1Key c l.va)
  let (n, s) := s.stamp
  if set.any (·.isAt l.asid l.va) then
    s.l1Set c l.va (set.map fun m =>
      if m.isAt l.asid l.va then { m with data := l.data, attr := l.attr, fill := n, poison := false } else m)
  else if !alloc then s
  else
    let banks := s.cacheBanks c
    let open_ := banks.filter fun b => !set.any (·.bank = b)
    let new := fun b : Nat =>
      ({ asid := l.asid, va := l.va, data := l.data, attr := l.attr, bank := b, fill := n } : L1Line)
    match open_, banks with
    | b :: _, _ => s.l1Set c l.va (set ++ [new b])
    | [], [] => s
    | [], banks =>
      let i := Config.l1Victim s.freeCount % banks.length
      let b := banks.getD i 0
      let s := { s with freeCount := s.freeCount + 1 }
      s.l1Set c l.va ((set.filter fun m => m.bank ≠ b) ++ [new b])

/-! ## Peers (spec 13 R213, spec 16 R253, R254) -/

/-- What asking a peer gives: its answer; the number of a request that has not been answered; or no path. -/
inductive PeerGot
  | answer (id : Nat) (r : PeerReply)
  | wait (id : Nat)
  | unreachable
  deriving DecidableEq, Repr

/-- Whether a request is the one that an access of an agent has sent. -/
def PeerMsg.isOf (m : PeerMsg) (q : Req) (node : BitVec 22) (acc : PeerAcc) : Bool :=
  m.who = q.who && m.lane = q.lane && m.va = q.va && m.node = node && m.acc = acc

/-- The request leaves the list of those sent. -/
def State.dropPeer (s : State) (id : Nat) : State :=
  { s with mem := { s.mem with peerOut := s.mem.peerOut.filter fun m => m.id ≠ id } }

/-- An access to the memory of a peer: its answer where that has come, else the request that waits for it,
sent now where it has not been sent (R254). A node without a port is unreachable (R253). -/
def State.askPeer (s : State) (q : Req) (node : BitVec 22) (acc : PeerAcc) (obs : BitVec 5) :
    PeerGot × State :=
  match s.mem.peerOut.find? (·.isOf q node acc) with
  | some m =>
    match m.answer with
    | some r => (.answer m.id r, s.dropPeer m.id)
    | none => (.wait m.id, s)
  | none =>
    if s.mem.routes.get 0 node.toNat = 0 then (.unreachable, s)
    else
      let (n, s) := s.stamp
      let sl := s.homeSlice q.asid q.va
      let m : PeerMsg :=
        { id := n, node := node, va := q.va, src := s.mem.node, key := (s.ctx q.ctx).key, obs := obs
          acc := acc, who := q.who, lane := q.lane, slice := sl, start := (s.slice sl).cycle }
      (.wait n, { s with mem := { s.mem with peerOut := s.mem.peerOut ++ [m] } })

/-! ## Reads and writes of a few bytes at the home slice -/

/-- The outcome of a read, and of a write. -/
inductive Got
  | bytes (bs : List Byte)
  | fault (c : DFault) (why : Absence)
  | stall (at_ : StallAt)
  deriving DecidableEq, Repr

/-- The outcome that a peer's answer is; a status stands for its number. -/
def PeerReply.got : PeerReply → Got
  | .data bs => .bytes bs
  | .status n => .bytes (leBytes n 4)
  | .parked => .bytes []
  | .perm => .fault .perm .other
  | .notPresent => .fault .notPresent .other
  | .ecc => .fault .ecc .other

/-- An access to a peer as an outcome. -/
def State.peerAccess (s : State) (q : Req) (node : BitVec 22) (acc : PeerAcc) (obs : BitVec 5) : Got × State :=
  match s.askPeer q node acc obs with
  | (.answer _ r, s) => (PeerReply.got r, s)
  | (.wait id, s) => (.stall (.peer id), s)
  | (.unreachable, s) => (.fault .unreachable .other, s)

/-- Bytes of a line that an access has reached. -/
def State.lineBytesAt (s : State) (q : Req) (l : Line) (n : Nat) : List Byte × State :=
  s.blur l.asid q.va ((l.data.drop (q.va % 128)).take n)

/-- Reads `n` bytes of one line at its home slice. -/
def State.readHome (s : State) (q : Req) (n : Nat) : Got × State :=
  match s.access { q with r := true } with
  | (.line _ l, s) => let (bs, s) := s.lineBytesAt q l n; (.bytes bs, s)
  | (.peer node _, s) => s.peerAccess q node (.read n) q.obs
  | (.fault c why, s) => (.fault c why, s)
  | (.stall p, s) => (.stall p, s)

/-- Writes bytes of one line at its home slice; the answer's bytes are those written. -/
def State.writeHome (s : State) (q : Req) (bs : List Byte) (obs : BitVec 5) : Got × State :=
  match s.access { q with w := true } with
  | (.line sl l, s) => (.bytes bs, s.writeLine sl l (q.va % 128) bs)
  | (.peer node _, s) => s.peerAccess q node (.write bs) obs
  | (.fault c why, s) => (.fault c why, s)
  | (.stall p, s) => (.stall p, s)

/-- The physical address of an atomic that is performed at the channel or at the host: the page is
present, granted, has a frame and is placed MEM or HOST (spec 12 R191). A line that the slice holds carries the
placement and the permissions of its fill (spec 15 R231). -/
def State.farPlace (s : State) (sl asid va : Nat) : Option Nat :=
  match (s.lookup (s.dieOfSlice sl) asid va).1 with
  | .absent _ => none
  | .leaf level e _ =>
    let a : Attr := match s.findLine sl asid (va / 128) with
      | some l => l.attr
      | none => leafAttr e
    if (a.place = 1 || a.place = 2) && !leafPeer e && !leafFrameless e && a.r && a.w
        && s.physOk (leafPa level e va) then some (leafPa level e va) else none

/-- An atomic at its frame: the home slice writes back and drops its copy, the operation acts on the
frame, and the line's monitor entries are judged against the value written (spec 12 R191). -/
def State.atomFar (s : State) (sl asid va pa : Nat) (n : Nat) (new : Nat → Nat) : Got × State :=
  let line := va / 128
  let base := pa / 128 * 128
  let held := s.findLine sl asid line
  let s := match held with
    | some l => ((if l.dirty then s.writeFrame base l else s).dropLine sl asid line)
    | none => s
  if s.mem.poisoned.get false (pa / 128) then (.fault .ecc .other, s)
  else
    let (bs, s) := s.blur asid va (s.readPhys pa n)
    let old := leNat bs
    let s := (s.soil asid va n).writePhys pa (leBytes (new old) n)
    let l : Line :=
      { asid := asid, va := line, data := s.readPhys base 128, dirty := false, held := false
        ctx := 0, attr := {}, retain := false, stream := false, poison := false, leaf := 0, used := 0
        alloc := 0 }
    (.bytes (leBytes old n), s.reevaluate sl l (va % 128) n)

/-- An atomic at the home slice of its word, or at its frame where the page is placed so (spec 12 R187 to
R191); the node of a page of another device instead. -/
def State.atomHere (s : State) (q : Req) (n : Nat) (new : Nat → Nat) :
    Option (BitVec 22) × Got × State :=
  let q := { q with r := true, w := true }
  let asid := tagAsid q.asid q.va
  let damaged := s.homeDamaged q.core asid q.va
  let (d, s) := s.homeDie q.core asid q.va
  let sl := s.sliceOn d q.va
  let attrOk := !damaged && match s.findLine sl asid (q.va / 128) with
    | some l => l.attr.grants q && !l.poison
    | none => true
  match (if attrOk then s.farPlace sl asid q.va else none) with
  | some pa => (none, s.atomFar sl asid q.va pa n new)
  | none =>
    match s.access q with
    | (.line sl l, s) =>
      let (bs, s) := s.lineBytesAt q l n
      let old := leNat bs
      (none, .bytes (leBytes old n), s.writeLine sl l (q.va % 128) (leBytes (new old) n))
    | (.peer node _, s) => (some node, .bytes [], s)
    | (.fault c why, s) => (none, .fault c why, s)
    | (.stall p, s) => (none, .stall p, s)

/-- Reads bytes that may span lines, piece by piece, stopping at the first fault or stall. -/
def State.readPieces (s : State) (q : Req) : List (Nat × Nat) → List Byte → Got × State
  | [], acc => (.bytes acc, s)
  | (va, k) :: rest, acc =>
    match s.readHome { q with va := va } k with
    | (.bytes bs, s) => s.readPieces q rest (acc ++ bs)
    | (.fault c why, s) => (.fault c why, s)
    | (.stall p, s) => (.stall p, s)

/-- Reads a record of `n` bytes. -/
def State.readRange (s : State) (q : Req) (n : Nat) : Got × State :=
  s.readPieces q (cuts q.va n n) []

/-- Writes bytes that may span lines, piece by piece. -/
def State.writePieces (s : State) (q : Req) (obs : BitVec 5) :
    List (Nat × Nat) → List Byte → Got × State
  | [], _ => (.bytes [], s)
  | (va, k) :: rest, bs =>
    match s.writeHome { q with va := va } (bs.take k) obs with
    | (.bytes _, s) => s.writePieces q obs rest (bs.drop k)
    | (.fault c why, s) => (.fault c why, s)
    | (.stall p, s) => (.stall p, s)

/-- Writes a record. -/
def State.writeRange (s : State) (q : Req) (bs : List Byte) (obs : BitVec 5) : Got × State :=
  s.writePieces q obs (cuts q.va bs.length bs.length) bs

/-! ## Reads and writes of the firmware's memory -/

/-- Bytes as the device holds them now, without an access: the line of a slice, else the frame. -/
def State.peek (s : State) (asid va n : Nat) : List Byte :=
  (cuts va n n).flatMap fun c =>
    let t := tagAsid asid c.1
    let sl := s.homeSlice asid c.1
    match s.findLine sl t (c.1 / 128) with
    | some l => (l.data.drop (c.1 % 128)).take c.2
    | none =>
      match (s.lookup (s.dieOfSlice sl) t c.1).1 with
      | .leaf level e _ =>
        if leafPeer e || leafFrameless e then List.replicate c.2 0 else s.readPhys (leafPa level e c.1) c.2
      | .absent _ => List.replicate c.2 0

/-- Reads local memory as the dispatch complex does: the cached line of ASID 0, else the channel. -/
def State.localRead (s : State) (pa n : Nat) : List Byte :=
  (cuts pa n n).flatMap fun c =>
    match s.localLine c.1 with
    | some (_, l) => (l.data.drop (c.1 % 128)).take c.2
    | none => s.readPhys c.1 c.2

/-- Writes local memory likewise, within one line. -/
def State.localWrite (s : State) (pa : Nat) (bs : List Byte) : State :=
  let s := s.tellLocal pa bs.length
  match s.localLine pa with
  | some (sl, l) => s.writeLine sl l (pa % 128) bs
  | none => s.writeChannel pa bs

/-- Writes local memory over any number of lines. -/
def State.localStore (s : State) (pa : Nat) (bs : List Byte) : State :=
  ((cuts pa bs.length bs.length).foldl
    (fun (a : State × List Byte) c => (a.1.localWrite c.1 (a.2.take c.2), a.2.drop c.2)) (s, bs)).1

/-! ## Faults and stalls -/

/-- Hands a fault to the firmware (spec 15 R243); its number is the answer. -/
def State.raiseFault (s : State) (who : Waiter) (asid va : Nat) (c : DFault) (why : Absence)
    (write : Bool) : Nat × State :=
  let (n, s) := s.stamp
  let f : FaultRec :=
    { id := n, who := who, asid := asid, va := va, cause := c, why := why, write := write }
  let s := { s with mem := { s.mem with faults := s.mem.faults ++ [f] } }
  (n, s.tell (.fault n))

/-- Records an access that waits, once for each waiter, line and place. The waiters of one fill share the
cycle in which it stalled, whatever their contexts (spec 15 R240). -/
def State.addStall (s : State) (place : StallAt) (asid va : Nat) (who : Waiter) (write : Bool)
    (inst : DWord := 0) : State :=
  let same := fun t : Stall => t.place = place && tagAsid t.asid t.addr = tagAsid asid va && t.va = va / 128
  if s.mem.stalls.any fun t => same t && t.asid = asid && t.who = who then s
  else
    let now := match place with | .slice sl => (s.slice sl).cycle | .peer _ => 0
    let t : Stall :=
      { place := place, asid := asid, va := va / 128, addr := va, write := write
        start := ((s.mem.stalls.find? same).map (·.start)).getD now, who := who, inst := inst }
    { s with mem := { s.mem with stalls := s.mem.stalls ++ [t] } }

/-- Drops the stalls, the faults and the requests of a waiter that is gone. -/
def State.forget (s : State) (p : Waiter → Bool) : State :=
  { s with mem := { s.mem with stalls := s.mem.stalls.filter fun t => !p t.who
                               faults := s.mem.faults.filter fun f => !p f.who
                               peerOut := s.mem.peerOut.filter fun m => !p m.who } }

/-! ## Instruction words (spec 08 R142, R143, spec 15 R244) -/

/-- The line of code at an address: from the core's instruction cache, else filled from the home slice
with execute permission. -/
def State.codeLine (s : State) (who : Waiter) (c ctx asid va : Nat) : Got × State :=
  let key := c * 2 ^ 65 + lineKey (tagAsid asid va) (va / 128)
  let cached := s.mem.icache.get [] key
  if cached ≠ [] then (.bytes cached, s)
  else
    let q : Req := { core := some c, ctx := ctx, asid := asid, va := va / 128 * 128, x := true, who := who }
    match s.access q with
    | (.line _ l, s) =>
      if l.poison then (.fault .ecc .other, s)
      else
        let (bs, s) := s.lineBytesAt q l 128
        (.bytes bs, { s with mem := { s.mem with icache := s.mem.icache.set [] key bs } })
    | (.peer node _, s) => s.peerAccess q node (.fetch 128) 0
    | (.fault f why, s) => (.fault f why, s)
    | (.stall p, s) => (.stall p, s)

/-- The 64-bit words of a line from an address on. -/
def wordsFrom (va : Nat) (data : List Byte) : List (Nat × DWord) :=
  (List.range 16).filterMap fun i =>
    if va % 128 ≤ i * 8 then
      some (va / 128 * 128 + i * 8, BitVec.ofNat 64 (leNat ((data.drop (i * 8)).take 8)))
    else none

/-- One instruction word of a unit: one taken ahead of issue (at most 256 bytes), else fetched, the
rest of its line being taken ahead (log entry 19). -/
def State.fetchWord (s : State) (u va : Nat) : Except (DFault × Absence) DWord × Option StallAt × State :=
  let w := s.unit u
  match w.ahead.find? (·.1 = va) with
  | some e => (.ok e.2, none, s.setUnit u { w with ahead := w.ahead.filter fun e => va < e.1 })
  | none =>
    match s.codeLine (.fetch u) w.core w.ctx (s.ctx w.ctx).asid va with
    | (.bytes bs, s) =>
      let ws := wordsFrom va bs
      let s := s.setUnit u { s.unit u with ahead := ws.filter fun e => va < e.1 }
      (match ws.find? (·.1 = va) with
        | some e => (.ok e.2, none, s)
        | none => (.ok 0, none, s))
    | (.fault c why, s) => (.error (c, why), none, s)
    | (.stall p, s) => (.ok 0, some p, s)

end Sys2Proof.Machine
end

