-- ==== Sys2Proof/Machine/Operands.lean ====
section
/-!
DEFINITION. Operands: registers and masks of a unit, the acting set and the leader (spec 02 R27,
spec 08 R133), immediates (spec 03 R50, spec 10 R150), and the registers that an instruction names
(spec 03 R45, spec 06 R104).
-/

namespace Sys2Proof

/-! ## Immediates (spec 03 R50, spec 10 R150) -/

/-- A signed 8-bit field. -/
def sext8 (b : BitVec 8) : Int := b.toInt

/-- An integer converted exactly to a type, as a pattern. -/
def intPattern (t : Ty) (v : Int) : Nat :=
  match t.fmt? with
  | some f => (f.round .ieee .rn (v < 0) v.natAbs 0).val
  | none => wrap t.width v

/-- The immediate of an ALU word: the extension word, or the 8-bit field. -/
def AluF.immVal (f : AluF) (field : BitVec 8) : Nat :=
  match f.ext with
  | some e => e.toNat
  | none => intPattern f.ty (sext8 field)

/-! ## The registers that an instruction names (spec 03 R45, spec 06 R104) -/

/-- Consecutive registers. -/
def regsFrom (r n : Nat) : List Nat := (List.range n).map (r + ·)

/-- The v registers of one field of the ALU format. -/
def Opnd.vregs (o : Opnd) (f : AluF) (n : Nat) : List Nat :=
  match o with
  | .no | .noAt0 | .k | .tile | .hold | .srcTy | .entry | .target => []
  | .v => regsFrom n (if f.ty.wide then 2 else 1)
  | .w => [n]
  | .pair => regsFrom n 2
  | .quad => regsFrom n 4
  | .oct => regsFrom n 8
  | .nine => regsFrom n 9
  | .srcV => regsFrom n (if wideCode (f.c.toNat % 16) then 2 else 1)
  | .fbwSrc => regsFrom n (if f.ty = .f32 then 4 else 1)

/-- The v registers that an ALU-format instruction names; an immediate's field names none. -/
def aluRegs (r : AluRow) (f : AluF) : List Nat :=
  let one := fun (p : Pos) (o : Opnd) (n : Nat) =>
    if immField r.imm f.raw = some p then [] else o.vregs f n
  one .d r.d f.d.toNat ++ one .a r.a f.a.toNat ++ one .b r.b f.b.toNat ++ one .c r.c f.c.toNat

/-- The registers of a memory address. -/
def AddrF.vregs (a : AddrF) : List Nat :=
  [2 * a.base.toNat, 2 * a.base.toNat + 1] ++ if a.idx then [a.index.toNat] else []

/-- The registers of a memory instruction. -/
def MemF.vregs (f : MemF) : List Nat := f.addr.vregs ++ regsFrom f.data.toNat f.size.regs

/-- The registers of a scratchpad access: its base is one 32-bit register (spec 12 R186). -/
def MemF.scratchRegs (f : MemF) : List Nat :=
  [2 * f.addr.base.toNat] ++ (if f.addr.idx then [f.addr.index.toNat] else [])
    ++ regsFrom f.data.toNat f.size.regs

/-- The registers of an atomic. -/
def atomRegs (op : AtomOp) (f : MemF) (x : AtomF) : List Nat :=
  let n := f.size.regs
  f.addr.vregs ++ (if x.ret then regsFrom f.data.toNat n else [])
    ++ (if x.imm && op ≠ .cas then [] else regsFrom x.a.toNat n)
    ++ (if op = .cas && !x.imm then regsFrom x.b.toNat n else [])

/-- The registers of a sweep: its offsets; mov has no b. -/
def sweepRegs (op : SweepOp) (f : SweepF) : List Nat :=
  [f.d.toNat, f.a.toNat] ++ if op = .mov then [] else [f.b.toNat]

/-- The v registers that an instruction reads or writes. -/
def Instr.vregs (i : Instr) : List Nat :=
  match i.alu?, i.atom?, i.sweep? with
  | some (r, _, f), _, _ => aluRegs r f
  | none, some (op, _, f, x), _ => atomRegs op f x
  | none, none, some (op, _, f) => sweepRegs op f
  | none, none, none =>
    match i with
    | .LD _ f | .LD_POLL _ f | .ST _ f => f.vregs
    | .LDS _ f | .STS _ f => f.scratchRegs
    | .PREF _ f => f.vregs
    | .DISCARD _ base len => [2 * base.toNat, 2 * base.toNat + 1, len.toNat]
    | .ICINV _ base len => [2 * base.toNat, 2 * base.toNat + 1, len.toNat]
    | .CALL _ r _ | .JMP _ r | .RET _ r => regsFrom r.toNat 2
    | .BRX _ r _ => [r.toNat]
    | .SYSR _ d sp => regsFrom d.toNat (if sp.wide then 2 else 1)
    | .SYSW _ sp r => regsFrom r.toNat (if sp.wide then 2 else 1)
    | .WAITU _ f =>
      [f.d.toNat, 2 * f.base.toNat, 2 * f.base.toNat + 1]
        ++ regsFrom f.operand.toNat (if f.wide then 2 else 1)
        ++ (if f.ext.isSome then [] else [f.limit.toNat])
    | _ => []

/-- The head of a wave instruction. -/
def Instr.head? (i : Instr) : Option Head :=
  match i.alu?, i.atom?, i.sweep? with
  | some (_, h, _), _, _ => some h
  | none, some (_, h, _), _ => some h
  | none, none, some (_, h, _) => some h
  | none, none, none =>
    match i with
    | .NOP h | .EXIT h | .TRAP h _ | .BRK h _ | .TRET h | .SAFEPT h _ | .IDEM_BEGIN h | .IDEM_END h
    | .MEET h _ | .ICINV h _ _ | .IFENCE h | .BRA h _ | .CALL h _ _ | .JMP h _ | .RET h _
    | .BRX h _ _ | .FORK h _ _ _ _ | .SYSR h _ _ | .SYSW h _ _ | .LD h _ | .ST h _ | .LDS h _
    | .STS h _ | .FENCE_ACQ h _ | .FENCE_REL h _ | .DISCARD h _ _ | .PREF h _ | .LD_POLL h _
    | .WAITU h _ => some h
    | _ => none

/-- Whether an instruction waits as though gated (spec 06 R103, spec 10 R158). -/
def Instr.asGated (i : Instr) : Bool :=
  match i with
  | .FORK _ _ _ _ _ | .MEET _ _ | .SAFEPT _ _ | .EXIT _ | .TRET _ | .TRAP _ _ | .BRK _ _ => true
  | .SYSR _ _ sp => sp = .fflags
  | .SYSW _ sp _ => sp = .fflags
  | _ => false

/-- Whether an instruction's result is long-latency (spec 06 R102) or, for bvht, counts as
outstanding while one of its lanes has faulted. -/
def Instr.longLatency (i : Instr) : Bool :=
  match i.alu?, i.atom? with
  | some (r, _, _), _ => r.major = 0x36 || (r.major = 0x30 && (r.minor = 1 || r.minor = 2))
  | none, some (_, _, _, x) => x.ret
  | none, none => match i with | .LD _ _ | .LD_POLL _ _ | .LDS _ _ => true | _ => false

/-- Whether an instruction raises the count of outstanding results (spec 06 R102, spec 10 R168). -/
def Instr.counted (i : Instr) : Bool := i.longLatency || i.sweep?.isSome

/-- Whether an instruction ends its unit, whose accesses have then all to be performed (spec 08 R139). -/
def Instr.mayEnd (i : Instr) : Bool := match i with | .EXIT _ => true | _ => false

/-- Whether an instruction writes memory. -/
def Instr.writes (i : Instr) : Bool :=
  match i with
  | .ST _ _ | .DISCARD _ _ _ | .HOLD _ _ => true
  | i => i.atom?.isSome

/-- Whether an instruction accesses memory, as the fault rules order such accesses
(spec 12 R192, R196): none, scratchpad alone, as a load, as a fence, or otherwise. -/
inductive MemKind | none | scratch | load | fence | other
  deriving DecidableEq, Repr

/-- The kind of an instruction. pref, which R196 names in neither list, is of none: it may issue while the wave
holds a faulted instruction (spec 12 R194; log entry 46). -/
def Instr.memKind (i : Instr) : MemKind :=
  match i with
  | .LD _ _ | .LD_POLL _ _ | .BVHT _ _ | .TAKE _ _ | .IPL _ _ => .load
  | .LDS _ _ | .STS _ _ => .scratch
  | .FENCE_ACQ _ _ | .FENCE_REL _ _ => .fence
  | .ST _ _ | .DISCARD _ _ _ | .ICINV _ _ _ | .WAITU _ _
  | .LAUNCH _ _ | .SPAWN _ _ | .CCNT _ _ | .COLL _ _ | .TCOPY _ _ | .MSTART _ _ | .HOLD _ _
  | .SPAWNY _ _ | .FBW _ _ | .TRIG _ _ => .other
  | i => if i.atom?.isSome then .other else if i.sweep?.isSome then .scratch else .none

/-- Whether an instruction's values go to its destination at once (interlocked, spec 19 R294). -/
def Instr.interlocked (i : Instr) : Bool := match i with | .BVHT _ _ => true | _ => false

end Sys2Proof

namespace Sys2Proof.Machine

open Sys2Proof

/-! ## Masks -/

/-- Whether a lane is in a mask. -/
def inMask (m : Mask) (l : Nat) : Bool := m.getLsbD l

/-- The mask of one lane. -/
def laneMask (l : Nat) : Mask := (1 : Mask) <<< l

/-- The lanes of a mask, lowest first. -/
def lanesOf (m : Mask) : List Nat := (List.range 32).filter fun l => inMask m l

/-- The mask that a test over lanes gives. -/
def maskOf (p : Nat → Bool) : Mask :=
  (List.range 32).foldl (fun m l => if p l then m ||| laneMask l else m) 0

/-- The lowest lane of a mask; 0 for an empty mask. -/
def lowestLane (m : Mask) : Nat := ((lanesOf m).head?).getD 0

/-! ## Registers -/

/-- A v register in one lane. -/
def Wave.reg (w : Wave) (r l : Nat) : Word := w.regs.get 0 (r * 32 + l)

/-- Writes a v register in one lane. -/
def Wave.setReg (w : Wave) (r l : Nat) (v : Word) : Wave :=
  { w with regs := w.regs.set 0 (r * 32 + l) v }

/-- A k register; k0 reads as all ones (spec 02 R24). -/
def Wave.kreg (w : Wave) (i : Nat) : Mask := if i = 0 then allLanes else w.k.get 0 i

/-- Writes a k register; writes to k0 are ignored (spec 02 R24). -/
def Wave.setK (w : Wave) (i : Nat) (m : Mask) : Wave :=
  if i = 0 then w else { w with k := w.k.set 0 i m }

/-- Writes the bits of the lanes of `a` only (spec 06 R100). -/
def Wave.setKLanes (w : Wave) (i : Nat) (a m : Mask) : Wave :=
  w.setK i ((w.kreg i &&& ~~~a) ||| (m &&& a))

/-- A value of one register, or of an even pair, low half first (spec 10 R149). -/
def Wave.val (w : Wave) (wide : Bool) (r l : Nat) : Nat :=
  (w.reg r l).toNat + if wide then 2 ^ 32 * (w.reg (r + 1) l).toNat else 0

/-- Writes a value of one register or of a pair. -/
def Wave.setVal (w : Wave) (wide : Bool) (r l n : Nat) : Wave :=
  let w := w.setReg r l (BitVec.ofNat 32 n)
  if wide then w.setReg (r + 1) l (BitVec.ofNat 32 (n / 2 ^ 32)) else w

/-- Writes registers from `r` up in one lane. -/
def Wave.setWords (w : Wave) (r l : Nat) : List Word → Wave
  | [] => w
  | v :: vs => (w.setReg r l v).setWords (r + 1) l vs

/-- Applies a write to each lane of a list. -/
def Wave.eachLane (w : Wave) (ls : List Nat) (f : Wave → Nat → Wave) : Wave := ls.foldl f w

/-! ## The acting set (spec 02 R27, spec 08 R133) -/

/-- The guard's lanes. -/
def Wave.guardMask (w : Wave) (h : Head) : Mask :=
  let k := w.kreg h.guard.toNat
  if h.gneg then ~~~k else k

/-- The active lanes of a per-lane instruction, and the acting set of a wave-wide one. -/
def Wave.acting (w : Wave) (h : Head) : Mask := w.x &&& w.guardMask h

/-- Whether a wave-wide instruction acts. -/
def Wave.acts (w : Wave) (h : Head) : Bool :=
  if w.x = 0 then inMask (w.guardMask h) 0 else w.acting h ≠ 0

/-- The leader. -/
def Wave.leader (w : Wave) (h : Head) : Nat := if w.x = 0 then 0 else lowestLane (w.acting h)

/-- The lanes that a wave-wide instruction writes. -/
def Wave.destMask (w : Wave) (h : Head) : Mask := if w.x = 0 then laneMask 0 else w.acting h

/-- The last source: the immediate, or a register of the given width. -/
def Wave.srcOrImm (w : Wave) (f : AluF) (field : BitVec 8) (wide : Bool) (l : Nat) : Nat :=
  if f.imm then f.immVal field else w.val wide field.toNat l

/-- The address of a lane (spec 01 R14), modulo 2^64. -/
def Wave.addrOf (w : Wave) (a : AddrF) (size l : Nat) : Nat :=
  let base := w.val true (2 * a.base.toNat) l
  let idx := if a.idx then (w.reg a.index.toNat l).toNat * (if a.scl then size else 1) else 0
  wrap 64 ((base : Int) + idx + a.disp.toInt * size)

end Sys2Proof.Machine
end

