-- ==== Sys2Proof/Machine/Ops.lean ====
section
/-!
DEFINITION. The shared operations of a unit: the checks at issue in the order of R18, taking a precise
trap and returning from one (R17 to R20), the end of a unit and of a group, and the writes of counters
and error records (R110, R117).
-/

namespace Sys2Proof.Machine

open Sys2Proof

/-! ## Code objects (spec 04) -/

/-- The loaded object that holds an address in its text. -/
def Ctx.objAt (c : Ctx) (va : Nat) : Option Obj :=
  c.objs.find? fun o => o.textAt ≤ va && va < o.textAt + o.textSize

/-- The object whose text a unit runs. -/
def State.objOf (s : State) (w : Wave) : Option Obj := (s.ctx w.ctx).objAt w.pc.toNat

/-- The number of live-register entries of the object of a unit. -/
def State.liveCount (s : State) (w : Wave) : Nat := ((s.objOf w).map (·.lives)).getD 0

/-- Where the context's object descriptor has an object's tables (spec 04 R71). -/
def Ctx.descrOf (c : Ctx) (o : Obj) : Option Descr := c.descr.find? fun d => d.obj = o.id

/-- The bytes of a table that the descriptor names (spec 04 R71). -/
def State.tableBytes (s : State) (ctx : Nat) (o : Obj) (table : Descr → Nat) (off n : Nat) : List Byte :=
  match (s.ctx ctx).descrOf o with
  | some d => s.peek (s.ctx ctx).asid (table d + off) n
  | none => List.replicate n 0

/-- A live-register entry: its v and k bitmaps, read through the object descriptor (spec 04 R71, R74). -/
def State.liveEntry (s : State) (w : Wave) (idx : Nat) : Nat × Nat :=
  match s.objOf w with
  | some o =>
    let b := s.tableBytes w.ctx o Descr.liveAt (40 * idx) 34
    (leNat (b.take 32), leNat (b.drop 32))
  | none => (0, 0)

/-- A table of an object is read: the firmware is told of the reserved entries of the region home map that the lookups
meet, which the region cache of a core keeps from being met again (spec 11 R177). -/
def State.tellTable (s : State) (core : Option Nat) (ctx : Nat) (o : Obj) (table : Descr → Nat) (off n : Nat) :
    State :=
  match (s.ctx ctx).descrOf o with
  | some d =>
    (cuts (table d + off) n n).foldl (fun s c => (s.homeDie core (tagAsid (s.ctx ctx).asid c.1) c.1).2) s
  | none => s

/-- The same for a live-register entry that a unit's instruction names. -/
def State.tellLive (s : State) (w : Wave) (idx : Nat) : State :=
  match s.objOf w with
  | some o => s.tellTable none w.ctx o Descr.liveAt (40 * idx) 34
  | none => s

/-- The RSV_FIELD conditions that the code object's tables decide (spec 04 R77, spec 06 R106,
spec 08 R135, R140, R145). -/
def State.tableConds (s : State) (w : Wave) (i : Instr) : List Cond :=
  let n := s.liveCount w
  match i with
  | .SAFEPT _ idx => condIf (n ≤ idx.toNat) (false, 0)
  | .MEET _ t => condIf (n ≤ t.toNat) (false, 0)
  | .FORK _ _ live join _ => condIf (n ≤ live.toNat) (false, 28) ++ condIf (n ≤ join.toNat) (false, 16)
  | .SPAWN _ f =>
    let found := match s.objOf w with
      | some o => o.entries.any fun e => e.kind = 1 && e.spawn = f.c.toNat
      | none => false
    condIf (!found) (false, 12)
  | _ => []

/-! ## Causes (spec 01 R19) -/

def causeIllegal : Word := 0x01
def causeHazard : Word := 0x03
def causeRate : Word := 0x04
def causeRegRange : Word := 0x05
def causeAlign : Word := 0x06
def causePriv : Word := 0x07
def causeAmp : Word := 0x0A
def causeShape : Word := 0x0B
def causeTile : Word := 0x0C

/-- RSV_FIELD with its offending bit; bit 22 marks the extension word. -/
def causeRsv (c : Cond) : Word :=
  BitVec.ofNat 32 (0x02 + c.2 % 64 * 2 ^ 16 + if c.1 then 2 ^ 22 else 0)

/-- TRAP with its software code. -/
def causeTrap (code : BitVec 16) : Word := BitVec.ofNat 32 (0x08 + code.toNat * 2 ^ 16)

/-- BRK. -/
def causeBrk : Word := 0x09

/-! ## Counter and error-record writes (spec 06 R110, spec 07 R117) -/

/-- Every observer. -/
def allObs : BitVec 5 := 0x1F

/-- Performs one write; an add is one atomic, at its home slice or at the device that serves its page (spec 13 R208,
spec 18 R269). -/
def State.writeCounter (s : State) (q : Req) (c : CtrWrite) : Got × State :=
  if !c.adds then s.writeRange q c.bytes allObs
  else
    match s.atomHere q 8 fun old => (old + leNat c.bytes) % 2 ^ 64 with
    | (some node, _, s) => s.peerAccess q node (.atomic .add .unsigned true (leNat c.bytes) 0) 0
    | (none, got, s) => (got, s)

/-- Whether a request of the dispatch complex to another device that was sent before a stamp has no answer yet: one
of the reads of its jobs and launches. -/
def State.asksBefore (s : State) (n : Nat) : Bool :=
  s.mem.peerOut.any fun m => m.answer.isNone && m.id < n &&
    match m.who with
    | .job _ | .record _ | .predicate _ => true
    | _ => false

/-- Whether a write must wait: for its own fault, stalled fill or answer, or for those that are kept back: one of
its own job, one of the same bytes (spec 13 R202), and, where it is a release and no weak add, any whose answer from
another device is still to come (spec 13 R213). -/
def State.heldBack (s : State) (c : CtrWrite) : Bool :=
  let asid := fun k : CtrWrite => tagAsid (s.ctx k.ctx).asid k.addr
  let asks := fun k : CtrWrite => s.mem.peerOut.any fun m => m.who = .counter k.num && m.answer.isNone
  let meets := fun k : CtrWrite => touches (asid k) k.addr k.bytes.length (asid c) c.addr c.bytes.length
  c.held || (s.mem.stalls.any fun t => t.who = .counter c.num) || (!c.adds && s.asksBefore c.num)
    || s.work.writes.any fun k => k.job = c.job || meets k || (!c.adds && asks k)

/-- Performs the writes that can be made, in order; the others are kept. -/
def State.flushList (s : State) : List CtrWrite → State
  | [] => s
  | c :: rest =>
    let keep := fun (s : State) (c : CtrWrite) =>
      { s with work := { s.work with writes := s.work.writes ++ [c] } }
    if s.heldBack c then (keep s c).flushList rest
    else
      let asid := (s.ctx c.ctx).asid
      match s.writeCounter { ctx := c.ctx, asid := asid, va := c.addr, who := .counter c.num } c with
      | (.bytes _, s) => s.flushList rest
      | (.fault f why, s) =>
        let (_, s) := s.raiseFault (.counter c.num) asid c.addr f why true
        (keep s { c with held := true }).flushList rest
      | (.stall p, s) => (keep (s.addStall p asid c.addr (.counter c.num) true) c).flushList rest

/-- Performs the writes that wait. -/
def State.flushWrites (s : State) : State :=
  ({ s with work := { s.work with writes := [] } }).flushList s.work.writes

/-- Puts a write in its place: at the end, and one of an error record before the job's own counter (spec 07
R117). -/
def State.queueWrite (s : State) (c : CtrWrite) : State :=
  let last := (s.work.jobLevels.get {} c.job).counter
  let goesOn := fun w : CtrWrite => !(c.isErr && w.job = c.job && !w.isErr && w.addr = last)
  let ws := s.work.writes
  { s with work := { s.work with writes := ws.takeWhile goesOn ++ c :: ws.dropWhile goesOn } }

/-- Adds a write and performs what can be performed; a zero address names no counter. -/
def State.pushWrite (s : State) (job ctx addr : Nat) (bytes : List Byte) (isErr : Bool)
    (recAddr : Nat) : State :=
  if addr = 0 then s
  else
    let (n, s) := s.stamp
    let c : CtrWrite :=
      { num := n, job := job, ctx := ctx, addr := addr, bytes := bytes, isErr := isErr
        recAddr := recAddr }
    (s.queueWrite c).flushWrites

/-- An atomic add to a 64-bit counter at its home slice; a zero address drops it (spec 18 R269). -/
def State.pushAdd (s : State) (job ctx addr n recAddr : Nat) : State :=
  if addr = 0 then s
  else
    let (k, s) := s.stamp
    let c : CtrWrite :=
      { num := k, job := job, ctx := ctx, addr := addr, bytes := leBytes n 8, isErr := false
        recAddr := recAddr, adds := true }
    (s.queueWrite c).flushWrites

/-- The bytes of an error record (spec 07 R117). -/
def ErrRec.bytes (e : ErrRec) : List Byte :=
  leBytes e.status 4 ++ leBytes e.group 4 ++ leBytes e.addr 8 ++ leBytes e.tcause 4 ++ leBytes 0 4
    ++ leBytes e.tpc 8 ++ leBytes e.tinst 8 ++ leBytes e.count 8 ++ leBytes 0 16

/-- Records an error of a job: the first fills the record, each later one adds 1 to its count
(spec 07 R117). -/
def State.recordError (s : State) (job : Nat) (e : ErrRec) : State :=
  let j := s.work.jobs.get {} job
  let ctx := (s.work.jobLevels.get {} job).ctx
  let set := fun (r : ErrRec) =>
    { s with work := { s.work with jobs := s.work.jobs.set {} job { j with err := some r } } }
  match j.err with
  | none => (set e).pushWrite job ctx j.errAddr e.bytes true e.addr
  | some r =>
    let r := { r with count := r.count + 1 }
    (set r).pushWrite job ctx (if j.errAddr = 0 then 0 else j.errAddr + 0x28) (leBytes r.count 8) true
      e.addr

/-! ## The outstanding instructions of a unit -/

/-- The instructions that have not ended: one whose fault has been delivered has (spec 12 R198). -/
def Wave.unsettled (w : Wave) : List Pend := w.pend.filter fun p => p.status ≠ .delivered

/-- Whether an instruction's destination is interlocked, and its lanes have only stalled (spec 19 R294). -/
def Pend.stalledOnly (p : Pend) : Bool := p.op.interlocked && p.status = .clear

/-- Whether an instruction is outstanding: a long-latency result is until its lanes have arrived, and any other
access only once a lane of it has faulted (spec 06 R102, spec 12 R185, R195). -/
def Pend.counts (p : Pend) : Bool := p.status ≠ .clear || (p.n ≠ 0 && !p.op.interlocked)

/-- The instructions that the outstanding-result counter counts (spec 06 R102). -/
def Wave.results (w : Wave) : List Pend := w.unsettled.filter Pend.counts

/-- The stores and atomics of a unit that are still to be performed once it runs no more: nobody takes a result of
theirs, and a fault that the firmware has not resolved ends its lanes. -/
def Wave.remains (w : Wave) : List Pend :=
  (w.pend.filter fun p => p.op.writes && !p.leader && p.status ≠ .delivered).filterMap fun p =>
    let p := if p.status = .declined then { p with faulted := [], status := .clear } else p
    if p.todo = [] && p.faulted = [] then none else some { p with dst := 0, n := 0, values := [] }

/-- A unit runs no more: its requests and waits are gone, but for the stores and atomics that it has issued, which
are still performed (spec 06 R106, spec 07 R117, R125, spec 08 R139; log entry 112). -/
def State.clearUnit (s : State) (u : Nat) : State :=
  let w := s.unit u
  let rest := w.remains
  let s := s.forget fun p =>
    match p with
    | .unit v n => v = u && !rest.any fun p => p.seq = n
    | .fetch v => v = u
    | _ => false
  s.setUnit u <|
    if rest = [] then {}
    else
      { left := some (s.group w.group).num, ctx := w.ctx, launch := w.launch, group := w.group, core := w.core
        homes := w.homes, pend := rest, pendSeq := w.pendSeq }

/-- The stores and atomics that units which have left a unit's group with lanes of its home waves are still to
perform. -/
def State.leftBy (s : State) (w : Wave) : List Pend :=
  (AMap.findAll s.work.units fun _ v =>
    v.left.isSome && v.group = w.group && v.homes.any fun h => w.homes.any fun k => k.1 = h.1).flatMap fun e => e.2.pend

/-- Whether every access that a unit has issued, and those of its lanes in units that have left, is performed. -/
def State.performed (s : State) (w : Wave) : Bool := w.unsettled = [] && s.leftBy w = []

/-- Whether stores or atomics of units of a launch that have left are still to be performed. -/
def State.leaves (s : State) (l : Nat) : Bool := s.work.units.any fun e => e.2.left.isSome && e.2.launch = l

/-! ## The end of a unit and of a group -/

/-- The home lanes of the lanes of a mask. -/
def Wave.homesOf (w : Wave) (m : Mask) : List (Nat × Nat) :=
  (lanesOf m).map fun l => w.homes.getD l (0, l)

/-- What a group keeps of the home wave that a unit runs. -/
def Wave.homeRec (w : Wave) : HomeRec :=
  { wave := w.num, fflags := w.fflags, tcause := w.tcause, tpc := w.tpc, tinst := w.tinst
    inHandler := w.inHandler, resume := w.resume, log := w.pend.filter (·.status = .delivered)
    pendSeq := w.pendSeq, icinvs := w.icinvs }

/-- The flags of a home wave that a group keeps (spec 10 R158). -/
def Group.homeFlags (g : Group) (wave : Nat) : Word :=
  ((g.homes.find? fun r => r.wave = wave).map fun r => r.fflags).getD 0

/-- The group keeps the record of a home wave that a unit leaves (spec 06 R106), with the flags of units of it that
have left before (spec 10 R158). A soldered wave has none (log entry 32). -/
def Group.keepHome (g : Group) (w : Wave) : Group :=
  if w.soldered then g
  else
    let r := { w.homeRec with fflags := w.fflags ||| g.homeFlags w.num }
    { g with homes := (g.homes.filter fun r => r.wave ≠ w.num) ++ [r] }

/-- Frees the allocation of a unit for its group (spec 06 R107). -/
def Group.release (g : Group) (u : Nat) : Group :=
  { g with allocs := g.allocs.map fun a => if a.unit = some u then { a with unit := none } else a }

/-! ### Records of a draw (spec 17 R259, spec 18 R271) -/

/-- The rate at which a hold slot is declared for the draw's entry (spec 18 R267). -/
def Draw.slotRate (d : Draw) (n : Nat) : Option Rate :=
  (d.holds.find? fun e => e.first ≤ n && n < e.first + e.count).map fun e => Rate.ofCode e.rate

/-- The slots declared at a rate. -/
def Draw.slotsAt (d : Draw) (r : Rate) : List Nat :=
  (List.range 64).filter fun n => d.slotRate n = some r

/-- The bytes of a record of a rate; 0 where the rate keeps none (R259). -/
def Draw.recSize (d : Draw) (r : Rate) : Nat :=
  let ns := d.slotsAt r
  let keeps : Bool := r = .F || r = .O || r = .C || r = .V
  match ns.head?, ns.getLast? with
  | some lo, some hi => (16 + 4 * (hi + 1 - lo) + 127) / 128 * 128
  | _, _ => if keeps then 128 else 0

/-- The bytes that one lineage beneath a rate needs (R271). -/
def Draw.tail (d : Draw) (r : Rate) : Nat :=
  let y := 32 * d.recSize .Y
  let s := 32 * d.recSize .S + y
  let v := 32 * d.recSize .P + s
  let c := 256 * d.recSize .V + v
  let o := d.recSize .C + c
  match r with
  | .F => d.recSize .O + o
  | .O => o
  | .C => c
  | .V => v
  | .P => s
  | .S => y
  | .Y | .K => 0

/-- Drops the requests of a unit that is gone; what one of them held is free. -/
def Draw.forget (d : Draw) (u : Nat) : Draw :=
  let mine := d.requests.filter fun q => q.who = .unit u
  { d with requests := d.requests.filter fun q => q.who ≠ .unit u
           used := d.used - ((mine.filter (·.met)).map fun q => q.n * d.recSize q.rate).sum }

/-- Adds to the overflow counter of a draw (R269). -/
def State.countOver (s : State) (l n : Nat) : State :=
  let la := s.launch l
  if n = 0 then s else s.pushAdd la.job la.ctx (s.draw l).blk.overflow n la.recAddr

/-- The distinct vertices that a primitive names. -/
def Draw.vertices (d : Draw) (p : Prim) : List Nat :=
  [p.i0, p.i1, p.i2].eraseDups.filterMap fun i =>
    (AMap.keys (AMap.findAll d.elems fun _ e => e.rate = .V && e.parent = p.cluster && e.ordinal = i)).head?

/-- Adds to the count of an element, or takes from it (R259). -/
def Draw.raise (d : Draw) (e : Nat) (up : Bool) : Draw :=
  let x : Elem := d.elems.get {} e
  { d with elems := d.elems.set {} e { x with count := if up then x.count + 1 else x.count - 1 } }

/-- Judges the primitives of a cluster whose wave has exited: one that names an absent vertex is gone,
and the others count for their vertices (spec 19 R286). The answer counts the primitives that are gone. -/
def Draw.judge (d : Draw) (c : Nat) : Nat × Draw :=
  let n := (d.elems.get {} c).kids
  let absent := fun p : Prim => n ≤ p.i0 || n ≤ p.i1 || n ≤ p.i2
  let mine := AMap.findAll d.prims fun _ p => p.live && p.cluster = c && !p.judged
  let one := fun (d : Draw) (k : Nat × Prim) =>
    if absent k.2 then { d with prims := d.prims.set {} k.1 {} }
    else
      let d := { d with prims := d.prims.set {} k.1 { k.2 with judged := true } }
      (d.vertices k.2).foldl (fun d v => d.raise v true) d
  ((mine.filter fun k => absent k.2).length, mine.foldl one d)

/-- The units of a group. -/
def State.unitsOf (s : State) (g : Nat) : List Nat :=
  AMap.keys (AMap.findAll s.work.units fun _ w => w.live && w.group = g)

/-- The wave of a draw's group has exited once no lane of it runs or lies in spawn memory: its elements
count as exited, and the primitives of its clusters are judged (spec 18 R263). -/
def State.exitElems (s : State) (gi : Nat) : State :=
  let g := s.group gi
  let d := s.draw g.launch
  if !d.live || s.unitsOf gi ≠ [] || g.frags ≠ [] || g.waits ≠ [] then s
  else
    let es := AMap.findAll d.elems fun _ e => e.home = gi && e.phase = .running
    let one := fun (a : Nat × Draw) (k : Nat × Elem) =>
      let d := { a.2 with elems := a.2.elems.set {} k.1 { a.2.elems.get {} k.1 with phase := .exited } }
      if k.2.rate = .C then
        let (n, d) := d.judge k.1
        (a.1 + n, d)
      else (a.1, d)
    let (n, d) := es.foldl one (0, d)
    (s.setDraw g.launch d).countOver g.launch n

/-! ### Triggers (spec 07 R120) -/

/-- The groups of a launch that have not retired. -/
def State.groupsOf (s : State) (l : Nat) : List Nat :=
  AMap.keys (AMap.findAll s.work.groups fun _ g => g.launch = l && g.phase ≠ .absent)

/-- A home wave that no unit runs and no record holds has exited. -/
def State.waveGone (s : State) (gi wv : Nat) : Bool :=
  let g := s.group gi
  !(s.unitsOf gi).any (fun u =>
      let w := s.unit u
      (lanesOf w.o).any fun l => (w.homes.getD l (0, l)).1 = wv)
    && !(g.frags.any fun f => f.lanes.any fun l => l.wave = wv)
    && !(g.waits.any fun f => f.wave = wv)

/-- Whether a group had triggered and was then discarded: in a draw its elements say so, since they may come
back in other waves. -/
def State.triggeredBefore (s : State) (gi : Nat) : Bool :=
  let g := s.group gi
  let d := s.draw g.launch
  if d.live then
    let es := AMap.findAll d.elems fun _ e => e.home = gi && e.phase = .running
    es ≠ [] && es.all fun e => e.2.trig
  else (s.launch g.launch).triggers.contains g.num

/-- A group has triggered when each of its waves has executed trig or exited. -/
def State.groupTriggered (s : State) (gi : Nat) : Bool :=
  let g := s.group gi
  s.triggeredBefore gi || (List.range g.nwaves).all fun wv => g.trigs.contains wv || s.waveGone gi wv

/-- A draw has no group that is still to come: its objects exist, every element has its wave, and every
primitive has been rasterised. -/
def Draw.placed (d : Draw) (count : Nat) : Bool :=
  d.objects = count && !(d.elems.any fun e => e.2.phase = .ready)
    && !(d.prims.any fun p => p.2.live && !p.2.rastered)

/-- Whether a pending group of a launch is one that was discarded: a group of the record, or a spawned one in a
pool record. -/
def State.pendsAgain (s : State) (l n : Nat) : Bool :=
  let covers := fun r : PoolRec => r.launch = l && r.next ≤ n && n < r.next + r.left
  (s.launch l).again.contains n || (s.cores.any fun c => c.2.pool.any covers)
    || (s.ctx (s.launch l).ctx).savedPool.any covers

/-- Whether a launch has triggered: every one of its groups has. A launch that has finished counts. -/
def State.launchTriggered (s : State) (l : Nat) : Bool :=
  let la := s.launch l
  let d := s.draw l
  let now := (s.groupsOf l).filter fun g => s.groupTriggered g
  match la.phase with
  | .completed | .refused | .skipped => true
  | .absent | .queued | .eligible => false
  | .started =>
    la.triggered
      || (if d.live then d.placed la.form.count && now.length = (s.groupsOf l).length
          else
            la.retired + la.spawnRetired + now.length
              + (la.triggers.filter (s.pendsAgain l)).length = max la.spawnNext la.form.count)

/-- A launch that has triggered stays so. -/
def State.noteTrigger (s : State) (l : Nat) : State :=
  if s.launchTriggered l && !(s.launch l).triggered then s.setLaunch l { s.launch l with triggered := true } else s

/-- Every lane of a unit's own-mask exits: it is no longer open, and the unit's allocation is free
(spec 06 R106, R107, spec 08 R139). -/
def State.exitUnit (s : State) (u : Nat) : State :=
  let w := s.unit u
  let g := s.group w.group
  let gone := w.homesOf w.o
  let g := g.keepHome { w with inHandler := false, pend := [] }
  let g := { g.release u with opens := g.opens.filter fun t => !gone.contains t.2, exited := true }
  let s := s.setGroup w.group g
  let s := if (s.draw w.launch).live then s.setDraw w.launch ((s.draw w.launch).forget u) else s
  ((s.clearUnit u).exitElems w.group).noteTrigger w.launch

/-- A group terminates as though every wave had executed exit, and its job records the error
(spec 07 R117). -/
def State.terminate (s : State) (g : Nat) (status : Nat) (tcause : Word) (tpc tinst : DWord) : State :=
  let gr := s.group g
  let l := s.launch gr.launch
  let s := s.recordError l.job
    { status := status, group := gr.num, addr := l.recAddr, tcause := tcause.toNat
      tpc := tpc.toNat, tinst := tinst.toNat, count := 0 }
  let s := (s.unitsOf g).foldl State.exitUnit s
  let gr := s.group g
  (s.setGroup g { gr with opens := [], frags := [], waits := [], homes := [] }).exitElems g

/-! ## Taking a precise trap and returning from it (spec 01 R17 to R20) -/

/-- Enters the trap handler: %tcause, %tpc and %tinst hold the record, and the unit continues at the
context's trap entry with its registers, masks and %fflags unchanged. Inside the handler, and without a
trap entry, the group terminates instead. -/
def State.enterHandler (s : State) (u : Nat) (tcause : Word) (tpc tinst : DWord) : State :=
  let w := s.unit u
  match (s.ctx w.ctx).trap, w.inHandler with
  | some entry, false =>
    s.setUnit u
      { w with tcause := tcause, tpc := tpc, tinst := tinst, resume := w.pc
               pc := BitVec.ofNat 64 entry, inHandler := true, trapNext := none, held := false
               park := .none, turnAt := if w.park = .none then w.turnAt else (s.core w.core).cycle }
  | _, _ => s.terminate w.group (if tcause.toNat % 256 < 0x10 then 4 else 5) tcause tpc tinst

/-- Takes a trap at the unit's next instruction. -/
def State.takeTrap (s : State) (u : Nat) (tcause : Word) (tinst : DWord) : State :=
  s.enterHandler u tcause (s.unit u).pc tinst

/-- A unit parks no more: from this cycle of its core on it is ready (spec 00 R6, spec 06 R112; log entry 1). -/
def State.unpark (s : State) (u : Nat) : State :=
  let w := s.unit u
  s.setUnit u { w with park := .none, turnAt := (s.core w.core).cycle }

/-- Delivers the oldest fault that the firmware does not resolve, once the unit stops and every other
result has arrived (spec 12 R198). -/
def State.deliver (s : State) (u : Nat) : State :=
  let w := s.unit u
  let all := w.results
  let parked : Bool := w.park ≠ .none && w.park ≠ .access
  let stops : Bool := (w.held || w.stopped || w.park = .access) && !parked
  let settled := all.all fun p => p.status = .declined && p.values = [] && p.todo = []
  match (if stops && settled then all.find? fun p => all.all fun q => p.order ≤ q.order else none) with
  | none => s
  | some p =>
    let mark := fun q : Pend => if q.seq = p.seq then { q with status := .delivered } else q
    (s.setUnit u { w with pend := w.pend.map mark }).enterHandler u (BitVec.ofNat 32 p.cause.code)
      (BitVec.ofNat 64 p.pc) (firstWord p.op)

/-- The unit waits at its next instruction. -/
def State.hold (s : State) (u : Nat) : State := (s.setUnit u { s.unit u with held := true }).deliver u

/-- A unit retires as at exit: once every access of it has been performed (spec 06 R111, spec 08 R139, spec 18
R263). -/
def State.retire (s : State) (u : Nat) : State := if s.performed (s.unit u) then s.exitUnit u else s.hold u

/-- The current unit retires: at a retirement point of a cancelled launch (spec 06 R111). -/
def State.retireHere (s : State) : State := s.retire s.cur

/-- The trap that an instruction of the current unit raises: taken once every earlier result has
arrived (spec 01 R17, spec 12 R198). -/
def State.trap (s : State) (i : Instr) (tcause : Word) : State :=
  let w := s.unit s.cur
  if w.results = [] then s.takeTrap s.cur tcause (firstWord i)
  else (s.setUnit s.cur { w with trapNext := some (tcause, firstWord i) }).hold s.cur

/-- Ends the handler: the unit resumes at %tpc. A delivered fault's entry is retried where %tpc is
unchanged, and the unit then goes on with the instruction it had not issued; otherwise the entry is
released (spec 01 R20, spec 12 R198). -/
def State.trapReturn (s : State) (u : Nat) : State :=
  let w := s.unit u
  match w.pend.find? (·.status = .delivered) with
  | none => s.setUnit u { w with pc := w.tpc, inHandler := false }
  | some p =>
    if w.tpc.toNat = p.pc then
      let (n, s) := s.stamp
      let retry := fun q : Pend => if q.seq = p.seq then { q with status := .resolved, order := n } else q
      s.setUnit u
        { w with pc := w.resume, inHandler := false, pend := w.pend.map retry }
    else
      s.setUnit u
        { w with pc := w.tpc, inHandler := false, pend := w.pend.filter (·.seq ≠ p.seq) }

/-! ## The checks at issue (spec 01 R16, R18) -/

/-- The unit goes on at its next instruction: the address is not taken modulo 2^56, so that the fetch after the last
word below 2^56 faults there (log entry 118). -/
def State.advance (s : State) (i : Instr) : State :=
  let w := s.unit s.cur
  s.setUnit s.cur { w with pc := w.pc + BitVec.ofNat 64 i.size }

/-- A rate from which another descends (spec 18 R261, R267). -/
def Rate.ancestors : Rate → List Rate
  | .K | .F => []
  | .O => [.F]
  | .C => [.O, .F]
  | .V => [.C, .O, .F]
  | .P => [.C, .O, .F]
  | .S => [.P, .C, .O, .F]
  | .Y => [.S, .P, .C, .O, .F]

/-- The lowest slot from which nine consecutive slots are declared at Y (spec 19 R292). -/
def Draw.raySlots (d : Draw) : Option Nat :=
  let y := d.slotsAt .Y
  match y.head? with
  | some n => if (List.range 9).all fun j => y.contains (n + j) then some n else none
  | none => none

/-- The rate rules of single instructions in a draw (spec 18 R267, R268, spec 19 R292). -/
def Draw.rateAllows (d : Draw) (r : Rate) (i : Instr) : Bool :=
  let slots := fun (f : AluF) => regsFrom f.c.toNat (if f.ty.wide then 2 else 1)
  match i with
  | .HOLD _ f => r ≠ .K && (slots f).all fun n => d.slotRate n = some r
  | .TAKE _ f =>
    r ≠ .K && r ≠ .F && (slots f).all fun n =>
      match d.slotRate n with
      | some q => q = r || (Rate.ancestors r).contains q
      | none => false
  | .IPL _ f => (r = .P || r = .S) && d.slotRate f.c.toNat = some .V
  | .AMP _ _ => r = .O
  | .EMIT_VTX _ _ | .EMIT_PRIM _ _ => r = .C
  | .ZTEST _ _ => r = .O || r = .C
  | .COV _ _ | .ZWR _ _ | .FBW _ _ => r = .P || r = .S
  | .SPAWNY _ _ => (r = .P || r = .S) && d.raySlots.isSome
  | .RAYRET _ _ => r = .Y
  | _ => true

/-- The rates that follow a rate (spec 18 R264). -/
def Rate.followers : Rate → List Rate
  | .F => [.O, .C, .V, .P, .S, .Y]
  | .O => [.C, .V, .P, .S, .Y]
  | .C => [.V, .P, .S, .Y]
  | .P => [.S]
  | .K | .V | .S | .Y => []

/-- The rate-presence byte of the block of an address, read through the object descriptor (spec 04 R71, R73). -/
def State.presence (s : State) (ctx va : Nat) : Nat :=
  match (s.ctx ctx).objAt va with
  | some o => leNat (s.tableBytes ctx o Descr.presenceAt ((va - o.textAt) / 64) 1)
  | none => 0xFF

/-- The same as tellTable for the rate-presence byte of a block that a core's fetch unit reads. -/
def State.tellPresence (s : State) (core ctx va : Nat) : State :=
  match (s.ctx ctx).objAt va with
  | some o => s.tellTable (some core) ctx o Descr.presenceAt ((va - o.textAt) / 64) 1
  | none => s

/-- Whether a branch or fork of a rate at an address is recorded (spec 18 R264). -/
def State.recorded (s : State) (w : Wave) (r : Rate) : Bool :=
  let b := s.presence w.ctx w.pc.toNat
  (Rate.followers r).any fun q => b / 2 ^ q.code % 2 = 1

/-- Whether an instruction raises RATE (spec 18 R262, R265, R268). -/
def State.raisesRate (s : State) (w : Wave) (h : Head) (i : Instr) : Bool :=
  let d := s.draw w.launch
  if !d.live then h.rate ≠ .K || !d.rateAllows .K i
  else
    !d.rateAllows w.rate i
      || (s.recorded w h.rate
          && match i with
             | .CALL _ _ _ | .JMP _ _ | .RET _ _ | .BRX _ _ _ => true
             | .BRA _ _ | .FORK _ _ _ _ _ =>
               (lanesOf w.o).any fun l => 64 ≤ ((d.elems.get {} (w.elems.getD l 0)).path.length)
             | _ => false)

/-- The registers of outstanding results (spec 06 R102, R104); an interlocked destination whose lanes have
only stalled is waited for instead (spec 19 R294). -/
def Wave.outstanding (w : Wave) : List Nat :=
  (w.unsettled.filter fun p => !p.stalledOnly).flatMap fun p => regsFrom p.dst p.n

/-- Whether an instruction raises PRIV: tret and sysw %tpc outside a handler (spec 01 R20). -/
def Wave.privileged (w : Wave) (i : Instr) : Bool :=
  match i with
  | .TRET _ => !w.inHandler
  | .SYSW _ sp _ => sp = .tpc && !w.inHandler
  | _ => false

/-- The first trap among the checks that no operand value decides, HAZARD last (spec 01 R18). -/
def State.issueTrap (s : State) (w : Wave) (h : Head) (i : Instr) : Option Word :=
  match lowestCond (s.tableConds w i) with
  | some c => some (causeRsv c)
  | none =>
    if i.vregs.any fun r => w.nregs ≤ r then some causeRegRange
    else if w.privileged i then some causePriv
    else if s.raisesRate w h i then some causeRate
    else if !h.gate && !i.asGated && i.vregs.any fun r => w.outstanding.contains r then
      some causeHazard
    else none

/-- An element of a draw. -/
def Draw.elem (d : Draw) (e : Nat) : Elem := d.elems.get {} e

/-- The ancestor of an element at a rate, or the element itself (spec 18 R261). -/
def Draw.ancestor (d : Draw) (r : Rate) : Nat → Nat → Nat
  | 0, e => e
  | n + 1, e => if (d.elem e).rate = r then e else d.ancestor r n (d.elem e).parent

/-! ### Slots of records (spec 17 R259, spec 18 R267, spec 19 R281 to R283) -/

/-- The place of a slot in its record: the line, and the byte in it. -/
def Draw.slotAt (d : Draw) (e k : Nat) : Nat × Nat :=
  let x := d.elem e
  let p := 16 + 4 * (k - (d.slotsAt x.rate).headD 0)
  (x.lines.getD (p / 128) 0, p % 128)

/-- The address of a slot of an element. -/
def Draw.slotVa (d : Draw) (e k : Nat) : Nat := d.blk.area + (d.slotAt e k).1 + (d.slotAt e k).2

/-- The element whose record a take of a slot reads (spec 18 R267). -/
def Draw.owner (d : Draw) (e k : Nat) : Nat := d.ancestor ((d.slotRate k).getD .F) 7 e

/-- The vertices of the primitive of a P or S element. -/
def Draw.cornersOf (d : Draw) (p : Prim) : List Nat :=
  [p.i0, p.i1, p.i2].map fun i =>
    ((AMap.keys (AMap.findAll d.elems fun _ v => v.rate = .V && v.parent = p.cluster && v.ordinal = i)).head?).getD 0

/-- The four position slots of a vertex. -/
def Draw.posSlots (d : Draw) (v : Nat) : List (Nat × Nat) := (List.range 4).map fun i => (v, d.blk.pos + i)

/-- The slots that a lane of a hold, take or ipl reaches, in order, as elements with their slots. -/
def Draw.slotsOf (d : Draw) (i : Instr) (e : Nat) : List (Nat × Nat) :=
  let regs := fun f : AluF => regsFrom f.c.toNat (if f.ty.wide then 2 else 1)
  match i with
  | .HOLD _ f => (regs f).map fun k => (e, k)
  | .TAKE _ f => (regs f).map fun k => (d.owner e k, k)
  | .IPL _ f =>
    let vs := d.cornersOf (d.prims.get {} (d.elem e).prim)
    vs.flatMap d.posSlots ++ vs.map fun v => (v, f.c.toNat)
  | _ => []

/-- Whether a lane of the instruction is still to be performed. -/
def Pend.unperformed (p : Pend) : Bool := p.status ≠ .clear || p.todo ≠ []

/-- The byte ranges that a lane of a load reads, from its address or the element that it names. -/
def Draw.readRanges (d : Draw) (i : Instr) (at_ : Nat) : List (Nat × Nat) :=
  match i with
  | .LD _ f | .LD_POLL _ f => [(at_, f.size.bytes)]
  | .BVHT _ _ => [(at_, 128)]
  | .TAKE _ _ | .IPL _ _ => (d.slotsOf i at_).map fun k => (d.slotVa k.1 k.2, 4)
  | _ => []

/-- The byte ranges that a load of the unit names in its acting lanes. -/
def Wave.loadRanges (w : Wave) (d : Draw) (h : Head) (i : Instr) : List (Nat × Nat) :=
  (lanesOf (w.acting h)).flatMap fun l =>
    match i with
    | .LD _ f | .LD_POLL _ f => d.readRanges i (w.addrOf f.addr f.size.bytes l)
    | .BVHT _ f => d.readRanges i (w.val true f.a.toNat l)
    | .TAKE _ _ | .IPL _ _ => d.readRanges i (w.elems.getD l 0)
    | _ => []

/-- Whether a load of the unit names a byte of a load's lane that is still to be performed: the accesses of the
wave to a byte are performed in issue order (spec 12 R196, spec 13 R202). -/
def Wave.overtakes (w : Wave) (d : Draw) (h : Head) (i : Instr) (bad : List Pend) : Bool :=
  let early := bad.flatMap fun p => (p.todo ++ p.faulted).flatMap fun q => d.readRanges p.op q.addr
  early ≠ [] && (w.loadRanges d h i).any fun r => early.any fun q => r.1 < q.1 + q.2 && q.1 < r.1 + r.2

/-- The entries of the operand log that are occupied (spec 12 R197). -/
def Wave.logged (w : Wave) : Nat := (w.pend.filter fun p => p.faulted ≠ [] || p.status = .replaying).length

/-- Whether the unit must wait before it issues (spec 06 R102, R103, spec 12 R192, R196, R197,
spec 19 R292, R294). A fence waits for faulted instructions alone; the accesses after it wait for every
one that is not performed, and scratchpad accesses for the loads and atomics before an acquire (log entry 111). The
stores of units that have left with its lanes come before its own accesses (spec 13 R202). -/
def State.mustWait (s : State) (w : Wave) (h : Head) (i : Instr) : Bool :=
  let own := w.unsettled.filter Pend.unperformed
  let bad := own ++ s.leftBy w
  ((h.gate || i.asGated) && (if i.mayEnd then !s.performed w else w.results ≠ []))
    || (match i.memKind with
        | .none => false
        | .scratch => own.any fun p => p.seq < w.fenceAt && (p.op.memKind = .load || p.op.atom?.isSome)
        | .fence => bad.any (fun p => p.status ≠ .clear)
        | .load => bad.any (fun p => p.op.memKind ≠ .load || p.seq < w.fenceAt)
            || w.overtakes (s.draw w.launch) h i bad || 4 ≤ w.logged
        | .other => bad ≠ [] || 4 ≤ w.logged)
    || (i.counted && 64 ≤ w.results.length)
    || i.vregs.any (fun r => w.unsettled.any fun p => p.stalledOnly && (regsFrom p.dst p.n).contains r)
    || (match i with
        | .FORK _ _ _ _ _ | .MEET _ _ => w.awaits ≠ [] || w.unsettled.any Pend.stalledOnly
        | i => i.vregs.any fun r => w.awaits.any fun a => a.1 = r)

/-- Whether the unit's next instruction is an access of its leader that is replayed from the operand
log (spec 12 R197). -/
def Wave.replaying (w : Wave) : Bool :=
  w.pend.any fun p => p.leader && p.status = .resolved && p.pc = w.pc.toNat

/-- Whether a unit can be offered issue (spec 06 R112). -/
def State.ready (s : State) (u : Nat) : Bool :=
  let w := s.unit u
  let g := s.group w.group
  w.live && w.park = .none && !w.stopped && (g.phase = .resident || g.phase = .stopping)

/-- A branch target, modulo 2^56 (spec 08 R134). -/
def target (pc : DWord) (off : Int) : DWord := BitVec.ofNat 64 (wrap 56 ((pc.toNat : Int) + 8 * off))

/-- The offset of a branch or fork whose outcome a path keeps (spec 18 R265). -/
def pathOffset (i : Instr) : Option Int :=
  match i with
  | .BRA _ off => some off.toInt
  | .FORK _ _ _ _ off => some off.toInt
  | _ => none

/-- A wave of a draw meets an instruction of another rate: at a recorded branch or fork of a rate that
its own follows it takes the next bit of its ancestors' path, and it skips every other instruction
(spec 18 R264, R266). -/
def State.passBy (s : State) (h : Head) (i : Instr) : State :=
  let w := s.unit s.cur
  let d := s.draw w.launch
  match (if (Rate.followers h.rate).contains w.rate && s.recorded w h.rate then pathOffset i else none) with
  | none => s.advance i
  | some off =>
    let n := w.pathPos.get 0 h.rate.code
    let e := d.ancestor h.rate 7 (w.elems.getD ((lanesOf w.o).headD 0) 0)
    let taken := (d.elem e).path.getD n false
    s.setUnit s.cur
      { w with pathPos := w.pathPos.set 0 h.rate.code (n + 1)
               pc := if taken then target w.pc off else w.pc + BitVec.ofNat 64 i.size }

/-- Issues an instruction of the current unit: the waits, then the checks in the order of R18, then
its effect. In a draw, an instruction of another rate is passed by (spec 18 R264, R266). -/
def State.issue (s : State) (i : Instr) (effect : State → State) : State :=
  let w := s.unit s.cur
  if !s.ready s.cur then s
  else
    match w.trapNext, i.head? with
    | some (c, inst), _ =>
      if w.results = [] then s.takeTrap s.cur c inst else s.hold s.cur
    | none, none => s
    | none, some h =>
      if (s.draw w.launch).live && h.rate ≠ w.rate then s.passBy h i
      else if w.replaying then effect (s.setUnit s.cur { w with held := false })
      else if s.mustWait w h i then s.hold s.cur
      else
        match s.issueTrap w h i with
        | some c => s.trap i c
        | none => effect (s.setUnit s.cur { w with held := false })

/-- A per-lane instruction that writes only registers, masks and flags: its effect on the unit, then
the advance of the pc. -/
def State.lanesOp (s : State) (i : Instr) (f : Wave → Wave) : State :=
  s.issue i fun s => (s.setUnit s.cur (f (s.unit s.cur))).advance i

/-- A wave-wide instruction (spec 08 R133): its effect when it acts, and the advance of the pc. -/
def State.waveOp (s : State) (i : Instr) (h : Head) (f : State → State) : State :=
  s.issue i fun s => if (s.unit s.cur).acts h then f s else s.advance i

/-- Writes a value to the lanes of a wave-wide instruction's destination. -/
def Wave.setDest (w : Wave) (lanes : Mask) (wide : Bool) (r n : Nat) : Wave :=
  w.eachLane (lanesOf lanes) fun w l => w.setVal wide r l n

end Sys2Proof.Machine
end

