-- ==== Sys2Proof/Machine/Transform.lean ====
section
/-!
DEFINITION. The functions of the transform pipe (spec 23 R348, R349): each result is the exact value
rounded once. Algebraic functions are formed from exact quotients and roots; the transcendental ones
from fixed-point series of 320 bits, far below the distance of any FP32 result from a rounding
boundary (DEDUCED, log entry 18).
-/

namespace Sys2Proof

/-- The fixed-point precision of the transcendental functions, in bits. -/
def prec : Nat := 320

/-- The integer square root by binary digits, `k` of them. -/
def isqrtGo (n : Nat) : Nat → Nat → Nat
  | 0, r => r
  | k + 1, r =>
    let c := r + 2 ^ k
    isqrtGo n k (if c * c ≤ n then c else r)

/-- The integer square root of a number below 2^(2k). -/
def isqrt (n k : Nat) : Nat := isqrtGo n k 0

/-- Rounds m × 2^e to nearest in FP32, where the exact value lies strictly above m × 2^e and below
(m + 1) × 2^e if `more` holds. -/
def round32 (s : Bool) (m : Nat) (more : Bool) (e : Int) : Res :=
  fmt32.round .ieee .rn s (2 * m + more.toNat) (e - 1)

/-- A quotient of positive dyadics to 80 bits below the divisor's size, rounded to nearest. -/
def divFin (s : Bool) (m : Nat) (e : Int) (n : Nat) (g : Int) : Res :=
  let num := m * 2 ^ 120
  round32 s (num / n) (num % n ≠ 0) (e - g - 120)

/-- tdiv: a / b (spec 23 R348). -/
def tdiv (a b : Nat) : Res :=
  let x := fmt32.unpack a
  let y := fmt32.unpack b
  (fmt32.nanOf [x, y]).getD <|
    let s := x.sign != y.sign
    match x, y with
    | .inf _, .inf _ => fmt32.invalid 5
    | .inf _, _ => { val := fmt32.signed s fmt32.infBits }
    | _, .inf _ => { val := fmt32.signed s 0 }
    | .fin _ m e, .fin _ n g =>
      if n = 0 then
        if m = 0 then fmt32.invalid 5
        else { val := fmt32.signed s fmt32.infBits, flags := flagDZ }
      else if m = 0 then { val := fmt32.signed s 0 }
      else divFin s m e n g
    | _, _ => fmt32.invalid 5

/-- The FP32 pattern of 1.0. -/
def one32 : Nat := 0x3F80_0000

/-- trcp: 1 / a (spec 23 R348). -/
def trcp (a : Nat) : Res := tdiv one32 a

/-- tsqrt: the square root of a (spec 23 R348). -/
def tsqrt (a : Nat) : Res :=
  let x := fmt32.unpack a
  (fmt32.nanOf [x]).getD <|
    match x with
    | .inf false => { val := fmt32.infBits }
    | .inf true => fmt32.invalid 5
    | .fin s m e =>
      if m = 0 then { val := fmt32.signed s 0 }
      else if s then fmt32.invalid 5
      else
        -- an even exponent with 80 extra bits
        let k : Int := if e % 2 = 0 then 80 else 81
        let n := m * pow2 k
        let r := isqrt n 64
        round32 false r (r * r ≠ n) ((e - k) / 2)
    | .nan _ _ _ => fmt32.invalid 5

/-- trsq: 1 over the square root of a (spec 23 R348). -/
def trsq (a : Nat) : Res :=
  let x := fmt32.unpack a
  (fmt32.nanOf [x]).getD <|
    match x with
    | .inf false => { val := 0 }
    | .inf true => fmt32.invalid 5
    | .fin s m e =>
      if m = 0 then { val := fmt32.signed s fmt32.infBits, flags := flagDZ }
      else if s then fmt32.invalid 5
      else
        let k : Int := if e % 2 = 0 then 160 else 161
        let q := pow2 k / m
        let r := isqrt q 96
        -- the root of 2^k / m is r exactly when r² m = 2^k
        round32 false r (r * r * m ≠ pow2 k) ((-e - k) / 2)
    | .nan _ _ _ => fmt32.invalid 5

/-- Σ z^(2i+1) / (2i+1) over the given number of terms, with alternating signs where `alt`; `t` is
z^(2i+1) and `z2` is z², at `p` fixed-point bits. -/
def oddSeries (p z2 : Nat) (alt : Bool) : Nat → Nat → Nat → Int
  | 0, _, _ => 0
  | n + 1, i, t =>
    let term : Int := (t / (2 * i + 1) : Nat)
    (if alt && i % 2 = 1 then -term else term)
      + oddSeries p z2 alt n (i + 1) (t * z2 / 2 ^ p)

/-- atanh of a fixed-point number below 1/2. -/
def atanhFix (p z : Nat) : Int := oddSeries p (z * z / 2 ^ p) false (p / 2) 0 z

/-- atan of 1/n, at `p` bits. -/
def atanInv (p n : Nat) : Int :=
  let z := 2 ^ p / n
  oddSeries p (z * z / 2 ^ p) true (p / 4 + 8) 0 z

/-- π at `p` bits, by Machin's formula with 16 guard bits. -/
def piFix (p : Nat) : Nat :=
  ((16 * atanInv (p + 16) 5 - 4 * atanInv (p + 16) 239) / 2 ^ 16).toNat

/-- ln 2 at `p` bits: 2 atanh(1/3), with 16 guard bits. -/
def ln2Fix (p : Nat) : Nat := (2 * atanhFix (p + 16) (2 ^ (p + 16) / 3) / 2 ^ 16).toNat

/-- Σ y^i / i! from the term `t` with index `i`. -/
def expSeries (p y : Nat) : Nat → Nat → Nat → Nat
  | 0, _, _ => 0
  | n + 1, i, t => t + expSeries p y n (i + 1) (t * y / (2 ^ p * (i + 1)))

/-- texp2: 2^a (spec 23 R348). An integral a gives an exact power of two. -/
def texp2 (a : Nat) : Res :=
  let x := fmt32.unpack a
  (fmt32.nanOf [x]).getD <|
    match x with
    | .inf s => { val := if s then 0 else fmt32.infBits }
    | .fin s m e =>
      if m = 0 then { val := one32 }
      else if e + (bitLen m : Int) > 9 then
        -- |a| is at least 256: beyond every finite result
        fmt32.round .ieee .rn false 1 (if s then -400 else 400)
      else
        let k : Nat := (-e).toNat
        let v := signedInt s (m * pow2 e)
        let n := v / (2 ^ k : Int)
        let f := (v % (2 ^ k : Int)).toNat
        if f = 0 then fmt32.round .ieee .rn false 1 n
        else
          let y := f * ln2Fix prec / 2 ^ k
          round32 false (expSeries prec y 100 0 (2 ^ prec)) true (n - prec)
    | .nan _ _ _ => fmt32.invalid 5

/-- tlog2: log2 a (spec 23 R348). A power of two gives an exact integer. -/
def tlog2 (a : Nat) : Res :=
  let x := fmt32.unpack a
  (fmt32.nanOf [x]).getD <|
    match x with
    | .inf false => { val := fmt32.infBits }
    | .inf true => fmt32.invalid 5
    | .fin s m e =>
      if m = 0 then { val := fmt32.signed true fmt32.infBits, flags := flagDZ }
      else if s then fmt32.invalid 5
      else
        let l := bitLen m
        let top : Int := e + l - 1
        if m = 2 ^ (l - 1) then fmt32.roundInt .ieee .rn false top 0
        else
          let u := 2 ^ (l - 1)
          let z := (m - u) * 2 ^ prec / (m + u)
          let lg := 2 * atanhFix prec z * 2 ^ prec / ln2Fix prec
          let v := top * 2 ^ prec + lg
          round32 (v < 0) v.natAbs true (-(prec : Int))
    | .nan _ _ _ => fmt32.invalid 5

/-- Σ (−1)^i r^(2i+o) / (2i+o)! from the term `t`; `o` is 1 for sine and 0 for cosine. -/
def trigSeries (p r2 o : Nat) : Nat → Nat → Nat → Int
  | 0, _, _ => 0
  | n + 1, i, t =>
    (if i % 2 = 1 then -(t : Int) else t)
      + trigSeries p r2 o n (i + 1) (t * r2 / (2 ^ p * ((2 * i + o + 1) * (2 * i + o + 2))))

/-- The magnitude |a| reduced by multiples of π/2: the quadrant and the remainder at `prec` bits. -/
def reduceAngle (m : Nat) (e : Int) : Nat × Int :=
  let p := prec + 160
  -- |a| at p bits, exact because e ≥ −149
  let x := m * pow2 (e + p)
  let half := piFix p
  let q := (2 * x + half / 2) / half
  let r : Int := ((2 * x : Nat) - (q * half : Nat) : Int) / 2 / 2 ^ 160
  (q % 4, r)

/-- The sine (o = 1) or cosine (o = 0) of a remainder of at most π/4. -/
def trigOf (o : Nat) (r : Int) : Int :=
  let n := r.natAbs
  let v := trigSeries prec (n * n / 2 ^ prec) o 80 0 (if o = 1 then n else 2 ^ prec)
  if o = 1 && r < 0 then -v else v

/-- Rounds a trigonometric value, which is never exact: the last fixed-point bit is taken off towards
zero, so that a value next to a representable one rounds to it and is inexact. -/
def roundTrig (neg : Bool) (v : Int) : Res :=
  round32 (neg != decide (v < 0)) (v.natAbs - 1) true (-(prec : Int))

/-- tsin: the sine of a, in radians (spec 23 R348). -/
def tsin (a : Nat) : Res :=
  let x := fmt32.unpack a
  (fmt32.nanOf [x]).getD <|
    match x with
    | .inf _ => fmt32.invalid 5
    | .fin s m e =>
      if m = 0 then { val := fmt32.signed s 0 }
      else
        let (q, r) := reduceAngle m e
        let v := trigOf (if q % 2 = 0 then 1 else 0) r
        roundTrig s (if q ≥ 2 then -v else v)
    | .nan _ _ _ => fmt32.invalid 5

/-- tcos: the cosine of a, in radians (spec 23 R348). -/
def tcos (a : Nat) : Res :=
  let x := fmt32.unpack a
  (fmt32.nanOf [x]).getD <|
    match x with
    | .inf _ => fmt32.invalid 5
    | .fin _ m e =>
      if m = 0 then { val := one32 }
      else
        let (q, r) := reduceAngle m e
        let v := trigOf (if q % 2 = 0 then 0 else 1) r
        roundTrig false (if q = 1 || q = 2 then -v else v)
    | .nan _ _ _ => fmt32.invalid 5

/-- idiv: the quotient truncated toward zero (spec 23 R349). -/
def idiv (t : Ty) (a b : Nat) : Res :=
  let x := t.toInt a
  let y := t.toInt b
  if y = 0 then
    { val := if t.signed then (if x < 0 then 0x8000_0000 else 0x7FFF_FFFF) else 0xFFFF_FFFF
      flags := flagDZ }
  else { val := wrap 32 (Int.tdiv x y) }

end Sys2Proof
end

