-- ==== Sys2Proof/Machine/LaneOps.lean ====
section
/-!
DEFINITION. The shared forms of the lane instructions: reading every source of every active lane, then
writing results and flags (spec 10 R149 to R168), and the integer functions of R151 to R154.
-/

namespace Sys2Proof.Machine

open Sys2Proof

/-- What a meaning answers. -/
abbrev Out := Host.Outcome State Fault Refusal

/-- Writes lane results to a register or pair and ORs their flags into %fflags (spec 10 R158). -/
def Wave.writeRes (w : Wave) (wide : Bool) (d : Nat) (rs : List (Nat × Res)) : Wave :=
  let w := rs.foldl (fun w r => w.setVal wide d r.1 r.2.val) w
  { w with fflags := rs.foldl (fun m r => m ||| r.2.flags) w.fflags }

/-- The results of a lane function over the active lanes, every source read first. -/
def Wave.laneRes (w : Wave) (h : Head) (g : Wave → Nat → Res) : List (Nat × Res) :=
  (lanesOf (w.acting h)).map fun l => (l, g w l)

/-- A per-lane instruction with a register destination, a pair where `wide` holds. -/
def laneOp (i : Instr) (h : Head) (d : BitVec 8) (wide : Bool) (g : Wave → Nat → Res) (s : State) :
    State :=
  s.lanesOp i fun w => w.writeRes wide d.toNat (w.laneRes h g)

/-- An operation of one source. -/
def lane1 (i : Instr) (h : Head) (f : AluF) (g : Nat → Res) (s : State) : State :=
  laneOp i h f.d f.ty.wide (fun w l => g (w.val f.ty.wide f.a.toNat l)) s

/-- An operation of a and b, the immediate replacing b. -/
def lane2 (i : Instr) (h : Head) (f : AluF) (g : Nat → Nat → Res) (s : State) : State :=
  laneOp i h f.d f.ty.wide
    (fun w l => g (w.val f.ty.wide f.a.toNat l) (w.srcOrImm f f.b f.ty.wide l)) s

/-- An operation of a, b and c, the immediate replacing c. -/
def lane3 (i : Instr) (h : Head) (f : AluF) (g : Nat → Nat → Nat → Res) (s : State) : State :=
  laneOp i h f.d f.ty.wide
    (fun w l => g (w.val f.ty.wide f.a.toNat l) (w.val f.ty.wide f.b.toNat l)
      (w.srcOrImm f f.c f.ty.wide l)) s

/-- A per-lane test that writes the lanes of a k register (spec 06 R100, spec 08 R138). -/
def laneTest (i : Instr) (h : Head) (f : AluF) (g : Wave → Nat → Bool × Word) (s : State) : State :=
  s.lanesOp i fun w =>
    let a := w.acting h
    let m := maskOf fun l => (g w l).1
    let w' := w.setKLanes f.d.toNat a m
    { w' with fflags := (lanesOf a).foldl (fun fl l => fl ||| (g w l).2) w'.fflags }

/-! ## Integers (spec 10 R151 to R154) -/

/-- An integer result without flags. -/
def pure (n : Nat) : Res := { val := n }

/-- An exact integer reduced modulo 2^W, or clamped to the type's range. -/
def intRes (t : Ty) (sat : Bool) (v : Int) : Res :=
  pure (wrap t.width (if sat then (t.clamp v).1 else v))

/-- min and max by type. -/
def intMin (t : Ty) (a b : Nat) : Nat := if t.toInt a ≤ t.toInt b then a else b
def intMax (t : Ty) (a b : Nat) : Nat := if t.toInt a ≤ t.toInt b then b else a

/-- The high W bits of the exact product. -/
def mulHi (t : Ty) (a b : Nat) : Nat :=
  wrap t.width ((t.toInt a * t.toInt b) / 2 ^ t.width)

/-- Shifts: a count of W or more gives 0, or copies of the sign. -/
def shlRes (w a n : Nat) : Nat := if n < w then a * 2 ^ n % 2 ^ w else 0
def shrRes (w a n : Nat) : Nat := if n < w then a / 2 ^ n else 0
def sraRes (w a n : Nat) : Nat :=
  let v : Int := if a / 2 ^ (w - 1) % 2 = 1 then (a : Int) - 2 ^ w else a
  wrap w (v / 2 ^ (min n w))

/-- The set bits of the low W bits. -/
def popCount (w a : Nat) : Nat := ((List.range w).filter fun i => a / 2 ^ i % 2 = 1).length

/-- Zero bits above the highest, and below the lowest, set bit; W for 0. -/
def clzRes (w a : Nat) : Nat := w - bitLen (a % 2 ^ w)
def ctzRes (w a : Nat) : Nat := ((List.range w).find? fun i => a / 2 ^ i % 2 = 1).getD w

/-- The bit order reversed. -/
def brevRes (w a : Nat) : Nat :=
  (List.range w).foldl (fun n i => n + if a / 2 ^ i % 2 = 1 then 2 ^ (w - 1 - i) else 0) 0

/-- A bit field: offset and width clamped (spec 10 R154). -/
def bfeRes (t : Ty) (a b c : Nat) : Nat :=
  let o := min b t.width
  let n := min c (t.width - o)
  let f := a / 2 ^ o % 2 ^ n
  if n = 0 then 0
  else if t.signed && f / 2 ^ (n - 1) % 2 = 1 then wrap t.width ((f : Int) - 2 ^ n) else f

def bfiRes (w d a b c : Nat) : Nat :=
  let o := min b w
  let n := min c (w - o)
  let m := (2 ^ n - 1) * 2 ^ o
  (d - (d &&& m)) ||| (a * 2 ^ o % 2 ^ w &&& m)

/-! ## Comparisons (spec 10, spec 08 R138) -/

/-- The comparisons of major 0x0F. -/
inductive CmpOp | eq | ne | lt | le | gt | ge | num | nan
  deriving DecidableEq, Repr

/-- A comparison of two integers of a type. -/
def CmpOp.ints (c : CmpOp) (a b : Int) : Bool :=
  match c with
  | .eq => a = b | .ne => a ≠ b | .lt => a < b | .le => a ≤ b | .gt => b < a | .ge => b ≤ a
  | .num => true | .nan => false

/-- A comparison of two floats, with NV for any NaN in an ordering, and else for a signalling one. -/
def CmpOp.floats (c : CmpOp) (f : Fmt) (a b : Nat) : Bool × Word :=
  let x := f.unpack a
  let y := f.unpack b
  let nan := x.isNaN || y.isNaN
  let snan := x.signalling || y.signalling
  match c with
  | .eq => (x.eq y, flagIf snan flagNV)
  | .ne => (!x.eq y, flagIf snan flagNV)
  | .num => (!nan, flagIf snan flagNV)
  | .nan => (nan, flagIf snan flagNV)
  | .lt => (!nan && x.lt y, flagIf nan flagNV)
  | .le => (!nan && !y.lt x, flagIf nan flagNV)
  | .gt => (!nan && y.lt x, flagIf nan flagNV)
  | .ge => (!nan && !x.lt y, flagIf nan flagNV)

/-- cmp.c.type of one lane. -/
def CmpOp.test (c : CmpOp) (t : Ty) (a b : Nat) : Bool × Word :=
  match t.fmt? with
  | some f => c.floats f a b
  | none => (c.ints (t.toInt a) (t.toInt b), 0)

/-- cmp of a and b, the immediate replacing b. -/
def laneCmp (i : Instr) (h : Head) (f : AluF) (c : CmpOp) (s : State) : State :=
  laneTest i h f
    (fun w l => c.test f.ty (w.val f.ty.wide f.a.toNat l) (w.srcOrImm f f.b f.ty.wide l)) s

/-! ## Floats -/

/-- The format of a float instruction; FP32 for the types that its row lists otherwise. -/
def fmtOf (f : AluF) : Fmt := (f.ty.fmt?).getD fmt32

/-- The rounding direction in mod. -/
def rndOf (f : AluF) : Rnd := Rnd.ofMod f.mod

/-! ## Cross-lane forms (spec 10 R162 to R165) -/

/-- shfl and bcast: each active lane takes the value of the lane that `src` names, where that lane is
active, else its own. -/
def laneShuffle (i : Instr) (h : Head) (f : AluF) (src : Wave → Nat → Int) (s : State) : State :=
  laneOp i h f.d f.ty.wide
    (fun w l =>
      let j := src w l
      let a := w.acting h
      let k := if 0 ≤ j && j < 32 && inMask a j.toNat then j.toNat else l
      pure (w.val f.ty.wide f.a.toNat k)) s

/-- vote: one truth for every active lane. -/
def laneVote (i : Instr) (h : Head) (f : AluF) (r : Wave → Bool) (s : State) : State :=
  s.lanesOp i fun w => w.setKLanes f.d.toNat (w.acting h) (if r w then allLanes else 0)

/-- The operations of red and scan. -/
inductive FoldOp | add | min | max | and | or | xor
  deriving DecidableEq, Repr

/-- One step of a fold (spec 10 R165). -/
def FoldOp.step (o : FoldOp) (t : Ty) (a b : Nat) : Res :=
  match t.fmt? with
  | some f =>
    match o with
    | .min => f.minMax false a b
    | .max => f.minMax true a b
    | .add | .and | .or | .xor => f.add .rn a b
  | none =>
    match o with
    | .add => pure (wrap t.width ((a : Int) + b))
    | .min => pure (intMin t a b)
    | .max => pure (intMax t a b)
    | .and => pure (a &&& b)
    | .or => pure (a ||| b)
    | .xor => pure (a ^^^ b)

/-- The identity of scan.ex (spec 10 R165). -/
def FoldOp.identity (o : FoldOp) (t : Ty) : Nat :=
  match t.fmt? with
  | some f =>
    match o with
    | .min => f.infBits
    | .max => f.signed true f.infBits
    | .add | .and | .or | .xor => 0
  | none =>
    match o with
    | .add | .or | .xor => 0
    | .and => 2 ^ t.width - 1
    | .min => wrap t.width t.maxInt
    | .max => wrap t.width t.minInt

/-- The partial folds of a list of lane values, first to last. -/
def foldSteps (o : FoldOp) (t : Ty) (acc : Res) : List Nat → List Res
  | [] => []
  | v :: vs =>
    let r := (o.step t acc.val v).raise acc.flags
    r :: foldSteps o t r vs

/-- The inclusive prefixes of the values of the active lanes. -/
def prefixes (o : FoldOp) (t : Ty) : List Nat → List Res
  | [] => []
  | v :: vs => pure v :: foldSteps o t (pure v) vs

/-- red: every active lane receives the whole fold. -/
def laneRed (i : Instr) (h : Head) (f : AluF) (o : FoldOp) (s : State) : State :=
  s.lanesOp i fun w =>
    let ls := lanesOf (w.acting h)
    let r := ((prefixes o f.ty (ls.map fun l => w.val f.ty.wide f.a.toNat l)).getLast?).getD (pure 0)
    w.writeRes f.ty.wide f.d.toNat (ls.map fun l => (l, r))

/-- scan: inclusive prefixes, or with mod bit 1 exclusive ones from the identity. The flags of an
exclusive scan are those of the prefixes that it writes. -/
def laneScan (i : Instr) (h : Head) (f : AluF) (o : FoldOp) (s : State) : State :=
  s.lanesOp i fun w =>
    let ls := lanesOf (w.acting h)
    let inc := prefixes o f.ty (ls.map fun l => w.val f.ty.wide f.a.toNat l)
    let rs := if f.mod.toNat / 2 % 2 = 1 then pure (o.identity f.ty) :: inc.dropLast else inc
    w.writeRes f.ty.wide f.d.toNat (ls.zip rs)

/-! ## Long-latency results (spec 06 R102) -/

/-- Starts an outstanding result whose lane values are fixed; with no active lane nothing is
outstanding. -/
def Wave.startResult (w : Wave) (i : Instr) (d n : Nat) (values : List (Nat × List Word)) : Wave :=
  if values = [] then w
  else
    { w with
      pend := w.pend ++ [{ seq := w.pendSeq, op := i, pc := w.pc.toNat, dst := d, n := n
                           values := values }]
      pendSeq := w.pendSeq + 1 }

/-- An instruction of the transform pipe with one register as destination; flags are raised at issue
and read only after the results have arrived (spec 10 R158, spec 23 R347). -/
def pipeOp (i : Instr) (h : Head) (f : AluF) (g : Wave → Nat → Res) (s : State) : State :=
  s.lanesOp i fun w =>
    let rs := w.laneRes h g
    let w := w.startResult i f.d.toNat 1 (rs.map fun r => (r.1, [BitVec.ofNat 32 r.2.val]))
    { w with fflags := rs.foldl (fun m r => m ||| r.2.flags) w.fflags }

/-- A function of a in the transform pipe. -/
def pipe1 (i : Instr) (h : Head) (f : AluF) (g : Nat → Res) (s : State) : State :=
  pipeOp i h f (fun w l => g (w.val false f.a.toNat l)) s

/-- A function of a and b in the transform pipe, the immediate replacing b. -/
def pipe2 (i : Instr) (h : Head) (f : AluF) (g : Nat → Nat → Res) (s : State) : State :=
  pipeOp i h f (fun w l => g (w.val false f.a.toNat l) (w.srcOrImm f f.b false l)) s

/-! ## Decoders (spec 23 R350, R351) -/

/-- A decoder: each lane's eight output words, or none where its chunk fails; every active lane
receives the mask of the failed lanes in the ninth register. -/
def decoderOp (i : Instr) (h : Head) (f : AluF) (g : Wave → Nat → Option (List Res)) (s : State) :
    State :=
  s.lanesOp i fun w =>
    let ls := lanesOf (w.acting h)
    let outs := ls.map fun l => (l, g w l)
    let bad := maskOf fun l => outs.any fun o => o.1 = l && o.2.isNone
    let words := fun (o : Option (List Res)) =>
      match o with
      | some rs => rs.map fun r => BitVec.ofNat 32 r.val
      | none => List.replicate 8 (0 : Word)
    let flags := fun (o : Option (List Res)) (m : Word) =>
      match o with
      | some rs => rs.foldl (fun m r => m ||| r.flags) m
      | none => m
    let w' := w.startResult i f.d.toNat 9 (outs.map fun o => (o.1, words o.2 ++ [bad]))
    { w' with fflags := outs.foldl (fun m o => flags o.2 m) w'.fflags }

/-- Byte j of a group of registers (spec 23 R351). -/
def Wave.byteOf (w : Wave) (r l j : Nat) : Nat := (w.reg (r + j / 4) l).toNat / 2 ^ (8 * (j % 4)) % 256

/-- The 32 bytes of eight words. -/
def packWords (bs : List Nat) : List Res :=
  (List.range 8).map fun i =>
    pure ((List.range 4).foldl (fun n j => n + bs.getD (4 * i + j) 0 * 2 ^ (8 * j)) 0)

/-- dec.rle of one lane: the first p pairs expanded. -/
def decRle (pairs : List (Nat × Nat)) (p : Nat) : Option (List Res) :=
  let used := pairs.take p
  let out := used.flatMap fun q => List.replicate q.2 q.1
  if p > 8 || (used.any fun q => q.2 = 0) || out.length > 32 then none else some (packWords out)

/-- dec.bits of one lane. -/
def decBits (stream b : Nat) : Option (List Res) :=
  let w := b % 256
  let sgn := b / 2 ^ 8 % 2 = 1
  let o := b / 2 ^ 16 % 64
  if w = 0 || w > 8 || o + 8 * w > 64 || b / 2 ^ 9 % 2 ^ 7 ≠ 0 || b / 2 ^ 22 ≠ 0 then none
  else
    some <| (List.range 8).map fun i =>
      let v := stream / 2 ^ (o + i * w) % 2 ^ w
      pure (if sgn && v / 2 ^ (w - 1) % 2 = 1 then wrap 32 ((v : Int) - 2 ^ w) else v)

/-- The exact product of three finite values, rounded once to FP32. -/
def decFp4One (a b c : Fl) : Res :=
  match a, b, c with
  | .fin s m e, .fin t n g, .fin u k j =>
    fmt32.round .ieee .rn ((s != t) != u) (m * n * k) (e + g + j)
  | _, _, _ => fmt32.invalid 5

/-- E3M5 has no sign (spec 21 R301). -/
def unpackScale (n : Nat) : Fl := fmtE3M5.unpack (n % 256)

/-- dec.fp4 of one lane. -/
def decFp4 (a b : Nat) : Option (List Res) :=
  let block := unpackScale b
  let band := fmtB16.unpack (b / 2 ^ 16)
  if block.isNaN || band.isNaN || band.isInf || b / 2 ^ 8 % 256 ≠ 0 then none
  else some <| (List.range 8).map fun i => decFp4One (fmtE2M1.unpack (a / 2 ^ (4 * i) % 16)) block band

end Sys2Proof.Machine
end

