-- ==== Sys2Proof/Machine/Raster.lean ====
section
/-!
DEFINITION. The arithmetic of the raster units: sample positions, coverage, interpolation, the depth
comparison, the depth pyramid and the colours of a target (spec 17 R258, spec 18 R272 to R278, spec 19
R290).
-/

namespace Sys2Proof.Machine

open Sys2Proof

/-! ## FP32 arithmetic and vectors (spec 19 R295) -/

/-- The operations, each rounded once. -/
def rAdd (a b : Nat) : Nat := (fmt32.add .rn a b).val
def rSub (a b : Nat) : Nat := (fmt32.sub .rn a b).val
def rMul (a b : Nat) : Nat := (fmt32.mul .rn a b).val
def rFma (a b c : Nat) : Nat := (fmt32.fma .rn a b c).val
def rDiv (a b : Nat) : Nat := (tdiv a b).val
def rMin (a b : Nat) : Nat := (fmt32.minMax false a b).val
def rMax (a b : Nat) : Nat := (fmt32.minMax true a b).val
/-- The sign bit inverted. -/
def rNeg (a : Nat) : Nat := a ^^^ 0x8000_0000
/-- a ≤ b, false with a NaN. -/
def rLe (a b : Nat) : Bool := (CmpOp.le.floats fmt32 a b).1
/-- a differs from 0. -/
def rNonzero (a : Nat) : Bool := !(fmt32.unpack a).isZero && !(fmt32.unpack a).isNaN

/-- A vector of three FP32 patterns. -/
structure Vec3 where
  x : Nat
  y : Nat
  z : Nat
  deriving DecidableEq, Repr

def Vec3.sub (a b : Vec3) : Vec3 := ⟨rSub a.x b.x, rSub a.y b.y, rSub a.z b.z⟩

def Vec3.dot (a b : Vec3) : Nat := rFma a.z b.z (rFma a.y b.y (rMul a.x b.x))

def Vec3.cross (a b : Vec3) : Vec3 :=
  let part := fun p q r t : Nat => rFma p t (rNeg (rMul q r))
  ⟨part a.y a.z b.y b.z, part a.z a.x b.z b.x, part a.x a.y b.x b.y⟩

/-! ## Positions (R272) -/

/-- The offsets of the samples of a pixel, in sixteenths. -/
def sampleOffsets (spp : Nat) : List (Nat × Nat) :=
  match spp with
  | 1 => [(8, 8)]
  | 2 => [(12, 4), (4, 12)]
  | 4 => [(6, 2), (14, 6), (2, 10), (10, 14)]
  | _ => [(9, 5), (7, 11), (13, 9), (5, 3), (3, 13), (1, 7), (11, 15), (15, 1)]

/-- The samples of a pixel, and the width and height of a coarse pixel (spec 17 R257). -/
def DrawBlk.spp (b : DrawBlk) : Nat := 2 ^ b.sppCode
def DrawBlk.cw (b : DrawBlk) : Nat := if b.coarse % 2 = 1 then 2 else 1
def DrawBlk.ch (b : DrawBlk) : Nat := if b.coarse / 2 % 2 = 1 then 2 else 1
/-- Depth test, depth write, and the AMP_OVERFLOW trap. -/
def DrawBlk.traps (b : DrawBlk) : Bool := b.flags % 2 = 1
def DrawBlk.tests (b : DrawBlk) : Bool := b.flags / 2 % 2 = 1
def DrawBlk.writes (b : DrawBlk) : Bool := b.flags / 4 % 2 = 1

/-- A number of sixteenths as FP32. -/
def sixteenths (n : Nat) : Nat := (fmt32.round .ieee .rn false n (-4)).val

/-- The position of a sample, in sixteenths. -/
def DrawBlk.position (b : DrawBlk) (px py s : Nat) : Nat × Nat :=
  let o := (sampleOffsets b.spp).getD s (8, 8)
  (16 * px + o.1, 16 * py + o.2)

/-! ## Primitives (R273) -/

/-- A vertex on the screen. -/
structure Screen where
  x : Nat
  y : Nat
  z : Nat
  w : Nat
  deriving DecidableEq, Repr

/-- A NaN or an infinity. -/
def notFinite (a : Nat) : Bool := (fmt32.unpack a).isNaN || (fmt32.unpack a).isInf

/-- a < b, false with a NaN. -/
def rLt (a b : Nat) : Bool := (CmpOp.lt.floats fmt32 a b).1

/-- The screen values of a vertex, from its four position slots. -/
def screenOf (x y z w : Nat) : Screen := ⟨rDiv x w, rDiv y w, rDiv z w, w⟩

/-- A triangle of three screen vertices. -/
structure Tri where
  a : Screen
  b : Screen
  c : Screen
  deriving DecidableEq, Repr

/-- p × q − r × s, the second product rounded first. -/
def rDet (p q r s : Nat) : Nat := rFma p q (rNeg (rMul r s))

/-- Twice the signed area. -/
def Tri.area (t : Tri) : Nat :=
  rDet (rSub t.b.x t.a.x) (rSub t.c.y t.a.y) (rSub t.c.x t.a.x) (rSub t.b.y t.a.y)

/-- Whether a triangle can produce an element. -/
def Tri.valid (t : Tri) : Bool :=
  let ok := fun v : Screen =>
    !notFinite v.x && !notFinite v.y && !notFinite v.z && !notFinite v.w && rLt 0 v.w
  ok t.a && ok t.b && ok t.c && !notFinite t.area && rNonzero t.area

/-- The edge values at a point. -/
def Tri.edges (t : Tri) (sx sy : Nat) : Vec3 :=
  let ax := rSub t.a.x sx
  let ay := rSub t.a.y sy
  let bx := rSub t.b.x sx
  let by' := rSub t.b.y sy
  let cx := rSub t.c.x sx
  let cy := rSub t.c.y sy
  ⟨rDet bx cy cx by', rDet cx ay ax cy, rDet ax by' bx ay⟩

/-- The sign bit of a pattern. -/
def signOf (a : Nat) : Bool := a / 2 ^ 31 % 2 = 1

/-- Whether an edge from j to k owns the samples on it, for the common sign. -/
def ownsEdge (neg : Bool) (j k : Screen) : Bool :=
  let up := fun (p q : Nat) => if neg then rLt q p else rLt p q
  up j.y k.y || (!rLt j.y k.y && !rLt k.y j.y && up k.x j.x)

/-- Whether a point with these edge values is inside. -/
def Tri.inside (t : Tri) (e : Vec3) : Bool :=
  let es := [(e.x, t.b, t.c), (e.y, t.c, t.a), (e.z, t.a, t.b)]
  let zero := fun v : Nat => (fmt32.unpack v).isZero
  let full := (es.filter fun v => !zero v.1).map fun v => signOf v.1
  let neg := full.headD (signOf t.area)
  !es.any (fun v => (fmt32.unpack v.1).isNaN) && full.all (· = neg)
    && es.all fun v => !zero v.1 || ownsEdge neg v.2.1 v.2.2

/-- The interpolated depth at a point (R275). -/
def Tri.depth (t : Tri) (e : Vec3) : Nat :=
  let s := rAdd (rAdd e.x e.y) e.z
  let l := fun v => rDiv v s
  rFma (l e.z) t.c.z (rFma (l e.y) t.b.z (rMul (l e.x) t.a.z))

/-- The interpolated value of a slot at a point (R275). -/
def Tri.interpolate (t : Tri) (e : Vec3) (v0 v1 v2 : Nat) : Nat :=
  let q0 := rDiv e.x t.a.w
  let q1 := rDiv e.y t.b.w
  let q2 := rDiv e.z t.c.w
  let s := rAdd (rAdd q0 q1) q2
  rFma (rDiv q2 s) v2 (rFma (rDiv q1 s) v1 (rMul (rDiv q0 s) v0))

/-- A depth that leaves its sample covered (R273, spec 19 R289). -/
def depthStands (z : Nat) : Bool := rLe 0 z && rLe z one32

/-- The depth of a sample at a position, where the triangle covers it. -/
def Tri.sample (t : Tri) (x y : Nat) : Option Nat :=
  let e := t.edges (sixteenths x) (sixteenths y)
  if t.inside e && depthStands (t.depth e) then some (t.depth e) else none

/-- Whether a coarse pixel meets the bounding box of a triangle (R274). -/
def Tri.meets (t : Tri) (cx cy cw ch : Nat) : Bool :=
  let lo := fun p q r : Nat => rMin (rMin p q) r
  let hi := fun p q r : Nat => rMax (rMax p q) r
  rLt (lo t.a.x t.b.x t.c.x) (sixteenths (16 * (cx + cw)))
    && rLe (sixteenths (16 * cx)) (hi t.a.x t.b.x t.c.x)
    && rLt (lo t.a.y t.b.y t.c.y) (sixteenths (16 * (cy + ch)))
    && rLe (sixteenths (16 * cy)) (hi t.a.y t.b.y t.c.y)

/-- The covered samples of a coarse pixel: mask bit, pixel, sample and depth, in the order of the cov
mask (R274). -/
def Tri.covered (t : Tri) (b : DrawBlk) (cx cy : Nat) : List (Nat × Nat × Nat × Nat × Nat) :=
  if !t.meets cx cy b.cw b.ch then []
  else
    (List.range (b.cw * b.ch * b.spp)).filterMap fun i =>
      let px := cx + i / b.spp % b.cw
      let py := cy + i / b.spp / b.cw
      let s := i % b.spp
      if b.width ≤ px || b.height ≤ py then none
      else
        let p := b.position px py s
        (t.sample p.1 p.2).map fun z => (i, px, py, s, z)

/-- The coarse pixels of a row, and of the target. -/
def DrawBlk.coarseRow (b : DrawBlk) : Nat := (b.width + b.cw - 1) / b.cw
def DrawBlk.coarseAll (b : DrawBlk) : Nat := b.coarseRow * ((b.height + b.ch - 1) / b.ch)

/-! ## Depth (R276 to R278) -/

/-- Whether a depth passes against the buffer's. -/
def DrawBlk.passes (b : DrawBlk) (z old : Nat) : Bool :=
  match b.cmp with
  | 0 => rLt z old
  | 1 => rLe z old
  | 2 => rLt old z
  | _ => rLe old z

/-- The number of a sample in a target (spec 17 R258). -/
def DrawBlk.sampleIndex (b : DrawBlk) (px py s : Nat) : Nat := (py * b.width + px) * b.spp + s

/-- The tiles of 8 × 8 pixels of a row. -/
def tilesOf (n : Nat) : Nat := (n + 7) / 8

/-- Whether pixel `p` meets a closed interval. -/
def pixelMeets (p lo hi : Nat) : Bool :=
  rLt lo (sixteenths (16 * (p + 1))) && rLe (sixteenths (16 * p)) hi

/-- The bounds of level 0 of a pyramid. -/
def Pyramid.bounds (p : Pyramid) : List (Word × Word) := p.levels.headD []

/-- The bounds of the next level: of each 8 × 8 tiles (R277). -/
def nextLevel (w h : Nat) (bs : List (Word × Word)) : List (Word × Word) :=
  (List.range (tilesOf w * tilesOf h)).map fun i =>
    let row := tilesOf w
    let mine := (List.range 8).flatMap fun j => (List.range 8).filterMap fun k =>
      let x := i % row * 8 + k
      let y := i / row * 8 + j
      if w ≤ x || h ≤ y then none else bs[y * w + x]?
    let first := mine.headD (0, 0)
    (BitVec.ofNat 32 (mine.foldl (fun m b => rMin m b.1.toNat) first.1.toNat)
      , BitVec.ofNat 32 (mine.foldl (fun m b => rMax m b.2.toNat) first.2.toNat))

/-- The levels of a pyramid from one on, up to a single tile. -/
def levelsFrom : Nat → Nat → Nat → List (Word × Word) → List (List (Word × Word))
  | 0, _, _, bs => [bs]
  | n + 1, w, h, bs =>
    if bs.length ≤ 1 then [bs] else bs :: levelsFrom n (tilesOf w) (tilesOf h) (nextLevel w h bs)

/-- Whether a box is visible (R278). -/
def zVisible (b : DrawBlk) (pyr : Option Pyramid) (x0 y0 x1 y1 z : Nat) : Bool :=
  let nan := fun a : Nat => (fmt32.unpack a).isNaN
  if nan x0 || nan y0 || nan x1 || nan y1 || nan z || rLt x1 x0 || rLt y1 y0 then true
  else if rLt x1 0 || rLt y1 0 || rLe (sixteenths (16 * b.width)) x0
      || rLe (sixteenths (16 * b.height)) y0 then false
  else if !b.tests then true
  else
    match pyr with
    | none => true
    | some p =>
      let inside := fun (i n lo hi : Nat) =>
        (List.range 8).any fun j => 8 * i + j < n && pixelMeets (8 * i + j) lo hi
      (List.range p.bounds.length).any fun i =>
        let row := tilesOf p.width
        let bound := p.bounds.getD i (0, 0)
        let v := if b.cmp < 2 then bound.2.toNat else bound.1.toNat
        inside (i % row) b.width x0 x1 && inside (i / row) b.height y0 y1 && b.passes z v

/-! ## Colours (spec 19 R290) -/

/-- 255 in FP32. -/
def f255 : Nat := 0x437F_0000

/-- The bytes that a colour stores in a target of a format; nothing for format 0. -/
def Colour.bytes (c : Colour) (format : Nat) : List Byte :=
  let word := fun i : Nat => (c.words.getD i 0).toNat
  let channel := fun i : Nat => word 0 / 2 ^ (8 * i) % 256
  let unit := fun v : Nat => rMin (rMax v 0) one32
  match format, c.float with
  | 1, true => (List.range 4).flatMap fun i => leBytes (word i) 4
  | 1, false =>
    (List.range 4).flatMap fun i => leBytes (rDiv (fmt32.round .ieee .rn false (channel i) 0).val f255) 4
  | 2, true =>
    (List.range 4).flatMap fun i => leBytes (fmt32.toIntRes .n32 .rn (rMul (unit (word i)) f255)).val 1
  | 2, false => leBytes (word 0) 4
  | _, _ => []

/-- The bytes of an ADD: each channel's sum with the destination. -/
def addChannels (old new : List Byte) : List Byte :=
  (List.range 4).flatMap fun i =>
    leBytes (rAdd (leNat ((old.drop (4 * i)).take 4)) (leNat ((new.drop (4 * i)).take 4))) 4

end Sys2Proof.Machine
end

