-- ==== Sys2Proof/Machine/Records.lean ====
section
/-!
DEFINITION. The records of the rate store: their lines in the area, their slots and how units and the raster
reach them (spec 17 R259, spec 18 R270 to R275, spec 19 R281 to R283, R292).
-/

namespace Sys2Proof.Machine

open Sys2Proof

/-- Loaded bytes as registers, zero-extended (spec 12 R182). -/
def wordsOf (bs : List Byte) : List Word :=
  (List.range ((bs.length + 3) / 4)).map fun i => BitVec.ofNat 32 (leNat ((bs.drop (4 * i)).take 4))

/-! ## What becomes of one lane -/

/-- What becomes of one lane. -/
inductive LaneGot
  | words (ws : List Word)
  | fault (c : DFault) (why : Absence)
  | stall (at_ : StallAt)
  deriving DecidableEq, Repr

/-- An outcome in bytes as that of a lane. -/
def Got.lane : Got → LaneGot
  | .bytes bs => .words (wordsOf bs)
  | .fault c why => .fault c why
  | .stall p => .stall p

/-! ## The lines of a record (spec 17 R259) -/

def Draw.setElem (d : Draw) (e : Nat) (x : Elem) : Draw := { d with elems := d.elems.set {} e x }

/-- The lines of the area that no record takes, lowest first: n of them. -/
def Draw.freeLines (d : Draw) (n : Nat) : List Nat :=
  let used := d.elems.flatMap fun e => e.2.lines
  (((List.range (used.length + n)).map (128 * ·)).filter fun o => !used.contains o).take n

/-- The first contents of the lines of a record: a header, whose layout is the sequencer's own, then slots that
are 0 but for those given (spec 19 R281, R292). -/
def recordLines (header : List Byte) (size low : Nat) (slots : List (Nat × Word)) : List (List Byte) :=
  let word := fun i : Nat => ((slots.find? fun p => p.1 = low + i).map fun p => p.2.toNat).getD 0
  let bs := header ++ (List.range ((size - 16) / 4)).flatMap fun i => leBytes (word i) 4
  (List.range (size / 128)).map fun i => (bs.drop (128 * i)).take 128

/-- The request of the rate store at an address of a draw. -/
def State.storeReq (s : State) (l va : Nat) : Req :=
  let x := (s.launch l).ctx
  { ctx := x, asid := (s.ctx x).asid, va := va }

/-- Whether something else than the rate store has written the area of a draw. -/
def State.tainted (s : State) (l : Nat) : Bool := s.mem.areas.any fun a => a.launch = l && a.tainted

/-- Writes the first contents of a line where they are still to be written. -/
def State.initLine (s : State) (l e line : Nat) : Got × State :=
  let d := s.draw l
  match (d.elem e).init.find? fun p => p.1 = line with
  | none => (.bytes [], s)
  | some (_, bs) =>
    match s.writeHome (s.storeReq l (d.blk.area + line)) bs 0 with
    | (.bytes _, t) =>
      let x := d.elem e
      (.bytes [], (t.unsoil s).setDraw l (d.setElem e { x with init := x.init.filter fun p => p.1 ≠ line }))
    | (r, t) => (r, t)

/-- Reads a slot at its home slice; the value replaces the copy of the line in the L1 of the core that asks
(spec 13 R203). -/
def State.readSlot (s : State) (q : Req) : Got × State :=
  match s.access { q with r := true } with
  | (.line _ l, s) =>
    let s := match q.core with | some c => s.l1Return c l false | none => s
    let (bs, s) := s.lineBytesAt q l 4
    (.bytes bs, s)
  | (.peer node _, s) => s.peerAccess q node (.read 4) q.obs
  | (.fault c why, s) => (.fault c why, s)
  | (.stall p, s) => (.stall p, s)

/-- Reads slots of elements in order. An area that something else has written gives free values (spec 17
R259). -/
def State.readSlots (s : State) (q : Req) (l : Nat) : List (Nat × Nat) → List Word → LaneGot × State
  | [], acc => (.words acc, s)
  | (e, k) :: rest, acc =>
    match s.initLine l e ((s.draw l).slotAt e k).1 with
    | (.fault c why, s) => (.fault c why, s)
    | (.stall p, s) => (.stall p, s)
    | (.bytes _, s) =>
      match s.readSlot { q with va := (s.draw l).slotVa e k } with
      | (.fault c why, s) => (.fault c why, s)
      | (.stall p, s) => (.stall p, s)
      | (.bytes bs, s) => s.readSlots q l rest (acc ++ [BitVec.ofNat 32 (leNat bs)])

/-- Writes slots of an element in order; the issuing core's L1 copies take the bytes, as a store's (spec 11 R174,
spec 19 R281). -/
def State.writeSlots (s : State) (q : Req) (l e : Nat) : List (Nat × Word) → LaneGot × State
  | [] => (.words [], s)
  | (k, v) :: rest =>
    match s.initLine l e ((s.draw l).slotAt e k).1 with
    | (.fault c why, s) => (.fault c why, s)
    | (.stall p, s) => (.stall p, s)
    | (.bytes _, s) =>
      let va := (s.draw l).slotVa e k
      match s.writeHome { q with va := va } (leBytes v.toNat 4) 0 with
      | (.fault c why, t) => (.fault c why, t)
      | (.stall p, t) => (.stall p, t)
      | (.bytes _, t) =>
        let t := t.unsoil s
        let t := match q.core with
          | some c => t.l1Store c (tagAsid q.asid va) va (leBytes v.toNat 4)
          | none => t
        t.writeSlots q l e rest

/-! ## hold, take and ipl of one lane (spec 19 R281 to R283) -/

/-- The triangle of the twelve position words of three vertices (spec 18 R273). -/
def triOf (ws : List Word) : Tri :=
  let g := fun i : Nat => (ws.getD i 0).toNat
  let screen := fun i : Nat => screenOf (g i) (g (i + 1)) (g (i + 2)) (g (i + 3))
  ⟨screen 0, screen 4, screen 8⟩

/-- The value of an ipl at an element, from the position words of the three vertices and then the slot of
each (spec 18 R275). -/
def Draw.iplOf (d : Draw) (e : Elem) (ws : List Word) : Word :=
  let t := triOf ws
  let p := if e.rate = .P then (16 * e.px + 8 * d.blk.cw, 16 * e.py + 8 * d.blk.ch)
    else d.blk.position e.px e.py e.sample
  let v := fun i : Nat => (ws.getD (12 + i) 0).toNat
  BitVec.ofNat 32 (t.interpolate (t.edges (sixteenths p.1) (sixteenths p.2)) (v 0) (v 1) (v 2))

/-- Performs one lane of a hold, take or ipl, for the element e with the data of a hold. -/
def State.slotLane (s : State) (q : Req) (l : Nat) (i : Instr) (e : Nat) (data : List Byte) :
    LaneGot × State :=
  let d := s.draw l
  let at_ := d.slotsOf i e
  match i with
  | .HOLD _ _ => s.writeSlots q l e ((at_.map Prod.snd).zip (wordsOf data))
  | .IPL _ _ =>
    match s.readSlots q l at_ [] with
    | (.words ws, s) => (.words [d.iplOf (d.elem e) ws], s)
    | (r, s) => (r, s)
  | _ => s.readSlots q l at_ []

/-- Words that the raster takes from records, as they stand in the device (spec 18 R273). -/
def State.peekSlots (s : State) (l : Nat) : List (Nat × Nat) → List Word → List Word × State
  | [], acc => (acc, s)
  | (e, k) :: rest, acc =>
    let d := s.draw l
    let p := d.slotAt e k
    let asid := (s.ctx (s.launch l).ctx).asid
    let s := s.tellHome asid (d.slotVa e k)
    if s.tainted l then
      let (v, s) := s.fresh
      s.peekSlots l rest (acc ++ [v.setWidth 32])
    else
      let bs := match (d.elem e).init.find? fun x => x.1 = p.1 with
        | some x => (x.2.drop p.2).take 4
        | none => s.peek asid (d.slotVa e k) 4
      s.peekSlots l rest (acc ++ [BitVec.ofNat 32 (leNat bs)])

end Sys2Proof.Machine
end

