-- ==== Sys2Proof/Machine/Access.lean ====
section
/-!
DEFINITION. The accesses of lanes: loads, stores, atomics and node reads as they are performed, the
operand log with its replays, and the accesses of a leader (spec 12, spec 19 R294, R295).
-/

namespace Sys2Proof

/-- Whether an access acquires (spec 12 R183, R187). -/
def Instr.acquires (i : Instr) : Bool :=
  match i with
  | .LD _ f | .LD_POLL _ f => f.order = .acq
  | i =>
    match i.atom? with
    | some (_, _, f, _) => f.order = .acq || f.order = .acqrel
    | none => false

end Sys2Proof

namespace Sys2Proof.Machine

open Sys2Proof

/-! ## Addresses and values -/

/-- The group offset of a scratchpad access of a lane (spec 12 R186), modulo 2^32. -/
def Wave.offsetOf (w : Wave) (a : AddrF) (size l : Nat) : Nat :=
  let base := (w.reg (2 * a.base.toNat) l).toNat
  let idx := if a.idx then (w.reg a.index.toNat l).toNat * (if a.scl then size else 1) else 0
  wrap 32 ((base : Int) + idx + a.disp.toInt * size)

/-- Whether an address raises ALIGN (spec 12 R181). -/
def badAddr (va size : Nat) : Bool := 2 ^ 56 ≤ va || va % size ≠ 0

/-- The low bytes of registers from `r` up (spec 12 R182). -/
def Wave.bytesOf (w : Wave) (r l n : Nat) : List Byte :=
  ((regsFrom r ((n + 3) / 4)).flatMap fun q => leBytes (w.reg q l).toNat 4).take n

/-- The observer set of an access: a strong access always names C (spec 01 R15). -/
def obsOf (order : Order) (obs : BitVec 5) : BitVec 5 := if order = .weak then 0 else obs ||| 1

/-! ## One lane -/

/-- The request of a unit at an address, without an access kind: for its leader. -/
def State.reqOf (s : State) (u va : Nat) : Req :=
  let w := s.unit u
  { core := some w.core, ctx := w.ctx, asid := (s.ctx w.ctx).asid, va := va, who := .unit u 0 }

/-- The request of a lane of an instruction of a unit. -/
def State.laneReq (s : State) (u seq lane va : Nat) : Req :=
  { s.reqOf u va with who := .unit u seq, lane := lane }

/-- The hints of a request (spec 03 R40). -/
def Req.hinted (q : Req) (hints : BitVec 4) : Req :=
  let keep := hints.getLsbD 0
  let once := hints.getLsbD 1
  { q with retain := keep && !once, stream := once && !keep }

/-- Whether a read of a line allocates an L1 way (spec 12 R184, spec 03 R40). -/
def Req.fillsL1 (q : Req) (l : Line) : Bool := !q.stream || l.attr.gilt

/-- A load of one lane: from L1 where a copy is newer than the unit's latest acquire, else at the home
slice or the peer (spec 12 R183, R184, spec 13 R203). -/
def State.loadAt (s : State) (u : Nat) (q : Req) (poll : Bool) (n : Nat) : LaneGot × State :=
  let w := s.unit u
  let near := if poll then none else s.l1Find w.core (tagAsid q.asid q.va) (q.va / 128)
  match near.filter fun l => w.acq < l.fill with
  | some l =>
    if !l.attr.r then (.fault .perm .other, s)
    else if l.poison then (.fault .ecc .other, s)
    else
      let (bs, s) := s.blur l.asid q.va ((l.data.drop (q.va % 128)).take n)
      (.words (wordsOf bs), s)
  | none =>
    match s.access { q with r := true } with
    | (.line _ l, s) =>
      let (bs, s) := (s.l1Return w.core l (!poll && q.fillsL1 l)).lineBytesAt q l n
      (.words (wordsOf bs), s)
    | (.peer node _, s) =>
      let (got, s) := s.peerAccess q node (.read n) q.obs
      (Got.lane got, s)
    | (.fault c why, s) => (.fault c why, s)
    | (.stall p, s) => (.stall p, s)

/-- A store of one lane (spec 12 R185). -/
def State.storeAt (s : State) (u : Nat) (q : Req) (obs : BitVec 5) (bs : List Byte) : LaneGot × State :=
  match s.writeHome q bs obs with
  | (.bytes _, s) => (.words [], s.l1Store (s.unit u).core (tagAsid q.asid q.va) q.va bs)
  | (.fault c why, s) => (.fault c why, s)
  | (.stall p, s) => (.stall p, s)

/-- The new value of an atomic (spec 12 R187, R188). -/
def atomNew (op : AtomOp) (kind : Kind) (wide : Bool) (old a b : Nat) : Nat :=
  let n : Nat := if wide then 64 else 32
  let si := fun v : Nat => if v / 2 ^ (n - 1) % 2 = 1 then (v : Int) - 2 ^ n else (v : Int)
  let less : Bool := if kind = .signed then si a < si old else a < old
  let f := if wide then fmt64 else fmt32
  match op with
  | .add => if kind = .float then (f.add .rn old a).val else (old + a) % 2 ^ n
  | .sub => (old + 2 ^ n - a) % 2 ^ n
  | .min => if kind = .float then (f.minMax false old a).val else if less then a else old
  | .max => if kind = .float then (f.minMax true old a).val else if less then old else a
  | .and => old &&& a
  | .or => old ||| a
  | .xor => old ^^^ a
  | .exch => a
  | .cas => if old = a then b else old
  | .inc => if a ≤ old then 0 else old + 1
  | .dec => if old = 0 || a < old then a else old - 1

/-- The widened immediate of an atomic (spec 03 R52). -/
def atomImm (x : AtomF) (wide : Bool) : Nat :=
  match x.kind with
  | .unsigned => x.value.toNat
  | .signed => if wide then wrap 64 x.value.toInt else x.value.toNat
  | .float => if wide then (fmt32.convert fmt64 false .rn x.value.toNat).val else x.value.toNat

/-- An atomic of one lane: its logged a and b, in that order (spec 12 R187 to R191). -/
def State.atomAt (s : State) (u : Nat) (q : Req) (op : AtomOp) (f : MemF) (x : AtomF) (data : List Byte) :
    LaneGot × State :=
  let wide : Bool := f.size = .b64
  let n := f.size.bytes
  let a := leNat (data.take n)
  let b := leNat (data.drop n)
  match s.atomHere q n fun old => atomNew op x.kind wide old a b with
  | (some node, _, s) =>
    let (got, s) := s.peerAccess q node (.atomic op x.kind wide a b) (obsOf f.order f.obs)
    (Got.lane got, s)
  | (none, .bytes bs, s) => (.words (wordsOf bs), s.l1Drop (s.unit u).core (tagAsid q.asid q.va) (q.va / 128))
  | (none, got, s) => (Got.lane got, s)

/-! ## bvht (spec 19 R294, R295) -/

/-- A ray (spec 19 R292). -/
structure Ray where
  o    : Vec3
  tmin : Nat
  d    : Vec3
  tmax : Nat
  deriving DecidableEq, Repr

/-- A ray from its eight words. -/
def Ray.ofWords (ws : List Nat) : Ray :=
  let g := fun i => ws.getD i 0
  ⟨⟨g 0, g 1, g 2⟩, g 3, ⟨g 4, g 5, g 6⟩, g 7⟩

/-- Whether a ray hits a box. -/
def Ray.hitsBox (r : Ray) (lo hi : Vec3) : Bool :=
  let axis := fun (o d l h : Nat) => (rDiv (rSub l o) d, rDiv (rSub h o) d)
  let ts := [axis r.o.x r.d.x lo.x hi.x, axis r.o.y r.d.y lo.y hi.y, axis r.o.z r.d.z lo.z hi.z]
  let near := ts.foldl (fun m t => rMax m (rMin t.1 t.2)) r.tmin
  let far := ts.foldl (fun m t => rMin m (rMax t.1 t.2)) r.tmax
  rLe near far && rLe lo.x hi.x && rLe lo.y hi.y && rLe lo.z hi.z

/-- The result of a triangle test: t, or +infinity. -/
def Ray.triangle (r : Ray) (p0 p1 p2 : Vec3) : Nat :=
  let e1 := p1.sub p0
  let e2 := p2.sub p0
  let v0 := r.o.sub p0
  let h := r.d.cross e2
  let det := e1.dot h
  let u := rDiv (v0.dot h) det
  let q := v0.cross e1
  let v := rDiv (r.d.dot q) det
  let t := rDiv (e2.dot q) det
  let hit := rNonzero det && rLe 0 u && rLe 0 v && rLe (rAdd u v) one32 && rLe r.tmin t && rLe t r.tmax
  if hit then t else 0x7F80_0000

/-- What bvht writes for a node of 128 bytes. -/
def Ray.node (r : Ray) (node : List Byte) : Nat :=
  let word := fun i : Nat => leNat ((node.drop (4 * i)).take 4)
  let vec := fun i : Nat => (⟨word i, word (i + 1), word (i + 2)⟩ : Vec3)
  match word 0 with
  | 0 =>
    let n := word 1
    if n = 0 || 4 < n then 0xFFFF_FFFF
    else
      (List.range n).foldl (fun m i =>
        if r.hitsBox (vec (2 + 6 * i)) (vec (5 + 6 * i)) then m + 2 ^ i else m) 0
  | 1 => r.triangle (vec 2) (vec 5) (vec 8)
  | _ => 0xFFFF_FFFF

/-- bvht of one lane: a weak load of the node, tested against the logged ray. -/
def State.nodeAt (s : State) (u : Nat) (q : Req) (data : List Byte) : LaneGot × State :=
  match s.loadAt u q false 128 with
  | (.words ws, s) =>
    let ray := Ray.ofWords ((wordsOf data).map BitVec.toNat)
    (.words [BitVec.ofNat 32 (ray.node (ws.flatMap fun w => leBytes w.toNat 4))], s)
  | (.fault c why, s) => (.fault c why, s)
  | (.stall p, s) => (.stall p, s)

/-! ## All lanes of an instruction, and replays (spec 12 R195 to R197) -/

/-- Performs one lane of a memory instruction from its logged operands; `since` is the stamp at which the pass
over its lanes began. -/
def State.performLane (s : State) (u seq since : Nat) (i : Instr) (r : LaneReq) : LaneGot × State :=
  let q := { s.laneReq u seq r.lane r.addr with since := some since }
  match i with
  | .LD h f => s.loadAt u { q.hinted h.hints with obs := obsOf f.order f.obs } false f.size.bytes
  | .LD_POLL h f => s.loadAt u { q.hinted h.hints with obs := obsOf f.order f.obs } true f.size.bytes
  | .ST h f => s.storeAt u (q.hinted h.hints) (obsOf f.order f.obs) r.data
  | .BVHT _ _ => s.nodeAt u q r.data
  | .HOLD _ _ | .TAKE _ _ | .IPL _ _ => s.slotLane q (s.unit u).launch i r.addr r.data
  | i =>
    match i.atom? with
    | some (op, h, f, x) => s.atomAt u (q.hinted h.hints) op f x r.data
    | none => (.words [], s)

/-- The address that a lane of an instruction reaches first: its own, or that of the slot of a record whose
element it names. -/
def State.reqVa (s : State) (u : Nat) (i : Instr) (r : LaneReq) : Nat :=
  let d := s.draw (s.unit u).launch
  match (d.slotsOf i r.addr).head? with
  | some at_ => d.slotVa at_.1 at_.2
  | none => r.addr

/-- What a pass over lanes leaves: values that are fixed, faulted lanes, stalled lanes, and the fault
of the lowest faulted lane. -/
structure Pass where
  values  : List (Nat × List Word) := []
  faulted : List LaneReq := []
  todo    : List LaneReq := []
  first   : Option (Nat × DFault × Absence) := none
  deriving DecidableEq, Repr

/-- Performs lanes in increasing order; a fault or a stall holds back no other lane (R195). -/
def State.performLanes (s : State) (u seq since : Nat) (i : Instr) : List LaneReq → Pass → Pass × State
  | [], p => (p, s)
  | r :: rest, p =>
    match s.performLane u seq since i r with
    | (.words [], s) => s.performLanes u seq since i rest p
    | (.words ws, s) => s.performLanes u seq since i rest { p with values := p.values ++ [(r.lane, ws)] }
    | (.fault c why, s) =>
      s.performLanes u seq since i rest
        { p with faulted := p.faulted ++ [r]
                 first := match p.first with | some f => some f | none => some (s.reqVa u i r, c, why) }
    | (.stall p', s) =>
      let s := s.addStall p' (s.ctx (s.unit u).ctx).asid (s.reqVa u i r) (.unit u seq) i.writes
      s.performLanes u seq since i rest { p with todo := p.todo ++ [r] }

/-- The lines that the performed lanes of a store overwrite in every byte. -/
def wholeLines (reqs : List LaneReq) (r : Pass) : List Nat :=
  let done := reqs.filter fun q => !r.faulted.contains q && !r.todo.contains q
  let written := fun a : Nat => done.any fun q => q.addr ≤ a && a < q.addr + q.data.length
  ((done.map fun q => q.addr / 128).eraseDups).filter fun l =>
    (List.range 128).all fun i => written (l * 128 + i)

/-- The copy of a line in the L1 of a core has no poison any more. -/
def State.l1Clean (s : State) (c asid line : Nat) : State :=
  s.l1Set c line ((s.mem.l1.get [] (l1Key c line)).map fun l =>
    if l.isAt asid line then { l with poison := false } else l)

/-- A store of a core that overwrites every byte of a poisoned line clears the poison, in the line and in the
core's L1 copy, which takes the bytes too (spec 15 R245). -/
def State.cleanLine (s : State) (c asid line : Nat) : State :=
  let a := tagAsid asid (line * 128)
  let sl := s.homeSlice asid (line * 128)
  let s := s.l1Clean c a line
  match s.findLine sl a line with
  | some l => if l.poison then s.putLine sl { l with poison := false } else s
  | none => s

/-- The lines that a pass of a store overwrote whole lose their poison. -/
def State.cleanPass (s : State) (u : Nat) (i : Instr) (reqs : List LaneReq) (r : Pass) : State :=
  match i with
  | .ST _ _ => (wholeLines reqs r).foldl (fun s l => s.cleanLine (s.unit u).core (s.ctx (s.unit u).ctx).asid l) s
  | _ => s

/-- The acquire of a unit: loads after it take no older L1 line (spec 13 R203). -/
def State.acquire (s : State) (u : Nat) : State :=
  let (n, s) := s.stamp
  s.setUnit u { s.unit u with acq := n }

/-- Demotes a unit: it becomes the youngest (spec 06 R113). -/
def State.demote (s : State) (u : Nat) : State :=
  let (n, s) := s.stamp
  s.setUnit u { s.unit u with age := n }

/-- Whether a comparison of a cas failed in a pass: a returned value that differs from the lane's a;
the request carries a first. -/
def casFailed (reqs : List LaneReq) (n : Nat) (values : List (Nat × List Word)) : Bool :=
  values.any fun v =>
    match reqs.find? (·.lane = v.1) with
    | some r => r.data.take n ≠ (v.2.flatMap fun w => leBytes w.toNat 4).take n
    | none => false

/-- Settles a pass for the entry of an outstanding instruction: values start their way or are written,
an acquire and a demotion take effect, a new fault goes to the firmware, and an entry with nothing left
is gone. The entry comes without the lanes that the pass performed. -/
def State.settle (s : State) (u : Nat) (p : Pend) (reqs : List LaneReq) (r : Pass) : State :=
  let s := s.cleanPass u p.op reqs r
  let s := if (p.op.acquires || p.seq < (s.unit u).fenceAt) && reqs ≠ [] then s.acquire u else s
  let s :=
    match p.op.atom? with
    | some (.cas, _, f, _) => if casFailed reqs f.size.bytes r.values then s.demote u else s
    | _ => s
  let values := if p.n = 0 then [] else r.values
  let w := s.unit u
  let w := if p.op.interlocked then values.foldl (fun w v => w.setWords p.dst v.1 v.2) w else w
  let s := s.setUnit u w
  let status := if p.faulted = [] && p.todo ++ r.todo = [] then LogStatus.clear else p.status
  let p := { p with values := p.values ++ (if p.op.interlocked then [] else values)
                    faulted := p.faulted ++ r.faulted, todo := p.todo ++ r.todo, status := status }
  let (p, s) :=
    match r.first with
    | none => (p, s)
    | some (va, c, why) =>
      let (n, s) := s.raiseFault (.unit u p.seq) (s.ctx (s.unit u).ctx).asid va c why p.op.writes
      ({ p with status := LogStatus.raised, cause := c
                order := if status = LogStatus.clear then n else p.order }, s)
  let w := s.unit u
  if p.values = [] && p.faulted = [] && p.todo = [] then
    s.setUnit u { w with pend := w.pend.filter fun q => q.seq ≠ p.seq }
  else if w.pend.any fun q => q.seq = p.seq then
    s.setUnit u { w with pend := w.pend.map fun q : Pend => if q.seq = p.seq then p else q }
  else s.setUnit u { w with pend := w.pend ++ [p] }

/-- Performs the lanes of a memory instruction of the current unit as it issues, and advances the
pc. -/
def State.startAccess (s : State) (i : Instr) (dst n : Nat) (reqs : List LaneReq) : State :=
  let u := s.cur
  let w := s.unit u
  let p : Pend := { seq := w.pendSeq, op := i, pc := w.pc.toNat, dst := dst, n := n, reqs := reqs }
  let fence := if i.acquires then w.pendSeq + 1 else min w.fenceAt w.pendSeq
  let s := s.setUnit u { w with pendSeq := w.pendSeq + 1, fenceAt := fence }
  let (r, s) := s.performLanes u p.seq s.seq i reqs {}
  (s.settle u p reqs r).advance i

/-- The oldest resolved entry that no earlier entry still holds back: one whose replay has stalled does (spec 12
R197). -/
def Wave.nextReplay (w : Wave) : Option Pend :=
  let log := w.pend.filter fun p =>
    (p.status = .raised || p.status = .resolved || p.status = .replaying) && !p.leader
  (log.find? fun p => log.all fun q => p.order ≤ q.order).filter (·.status = .resolved)

/-- Performs the replays of a unit that can be performed, oldest fault first. -/
def State.replay (s : State) (u : Nat) : Nat → State
  | 0 => s
  | fuel + 1 =>
    match (s.unit u).nextReplay with
    | none => s
    | some p =>
      let (r, s) := s.performLanes u p.seq s.seq p.op p.faulted {}
      (s.settle u { p with faulted := [], status := .replaying } p.faulted r).replay u fuel

/-- Performs the stalled lanes of an instruction again; a replay, or a declined fault, that waited for them
follows (spec 12 R197, R198). -/
def State.retryLanes (s : State) (u seq : Nat) : State :=
  match (s.unit u).pend.find? fun p => p.seq = seq with
  | none => s
  | some p =>
    let (r, s) := s.performLanes u seq s.seq p.op p.todo {}
    ((s.settle u { p with todo := [] } p.todo r).replay u 8).deliver u

/-! ## The accesses of a leader -/

/-- The request of a leader's access: the one in the operand log, whose entry is then released, or the
one that its registers give. -/
def State.leaderReq (s : State) (r : Wave → LaneReq) : LaneReq × State :=
  let w := s.unit s.cur
  match w.pend.find? fun p => p.leader && p.status = .resolved && p.pc = w.pc.toNat with
  | some p =>
    (p.faulted.headD { lane := 0, addr := 0, data := [] },
      s.setUnit s.cur { w with pend := w.pend.filter (·.seq ≠ p.seq) })
  | none => (r w, s)

/-- The access of a leader faults: its operands go to the operand log, and the unit waits. -/
def State.leaderFault (s : State) (i : Instr) (r : LaneReq) (va : Nat) (c : DFault) (why : Absence)
    (write : Bool) : State :=
  let u := s.cur
  let w := s.unit u
  let (n, s) := s.raiseFault (.unit u w.pendSeq) (s.ctx w.ctx).asid va c why write
  let p : Pend :=
    { seq := w.pendSeq, op := i, pc := w.pc.toNat, dst := 0, n := 0, faulted := [r], status := .raised
      cause := c, order := n, leader := true }
  s.setUnit u { s.unit u with pend := w.pend ++ [p], pendSeq := w.pendSeq + 1, park := .access }

/-- The access of a leader meets a fill that stalls. -/
def State.leaderStall (s : State) (i : Instr) (r : LaneReq) (va : Nat) (at_ : StallAt) (write : Bool) :
    State :=
  let u := s.cur
  let w := s.unit u
  let s := s.addStall at_ (s.ctx w.ctx).asid va (.unit u w.pendSeq) write
  let p : Pend :=
    { seq := w.pendSeq, op := i, pc := w.pc.toNat, dst := 0, n := 0, faulted := [r], status := .raised
      leader := true, todo := [r] }
  s.setUnit u { s.unit u with pend := w.pend ++ [p], pendSeq := w.pendSeq + 1, park := .access }

/-- Whether the access of the leader that is in the operand log is one whose fault the firmware has resolved. -/
def State.leaderGranted (s : State) : Bool :=
  let w := s.unit s.cur
  w.pend.any fun p => p.leader && p.status = .resolved && p.pc = w.pc.toNat && p.granted

/-- A leader's access can be made again: the unit issues the instruction anew from the log. -/
def State.leaderRetry (s : State) (u seq : Nat) : State :=
  let w := s.unit u
  let ready := fun p : Pend => if p.seq = seq then { p with status := .resolved, granted := true, todo := [] } else p
  (s.setUnit u { w with pend := w.pend.map ready }).unpark u

end Sys2Proof.Machine
end

