-- ==== Sys2Proof/Machine/Atomics.lean ====
section
/-!
DEFINITION. Atomics, major 0x2A (spec 12 R187 to R191).
-/

namespace Sys2Proof.Machine

open Sys2Proof

/-- The requests of an atomic: each active lane's address, and its a and b. -/
def Wave.atomReqs (w : Wave) (h : Head) (op : AtomOp) (f : MemF) (x : AtomF) : List LaneReq :=
  let wide : Bool := f.size = .b64
  let n := f.size.bytes
  let imm := leBytes (atomImm x wide) n
  (lanesOf (w.acting h)).map fun l =>
    let a := if x.imm && op ≠ .cas then imm else w.bytesOf x.a.toNat l n
    let b :=
      if op = .cas then (if x.imm then imm else w.bytesOf x.b.toNat l n) else List.replicate n 0
    { lane := l, addr := w.addrOf f.addr n l, data := a ++ b }

/-- An atomic of the current unit: ALIGN over every active lane, then every lane; the old values are
returned where ret is set. -/
def State.atomOp (s : State) (i : Instr) (h : Head) (op : AtomOp) (f : MemF) (x : AtomF) : State :=
  s.issue i fun s =>
    let reqs := (s.unit s.cur).atomReqs h op f x
    if reqs.any fun r => badAddr r.addr f.size.bytes then s.trap i causeAlign
    else s.startAccess i (if x.ret then f.data.toNat else 0) (if x.ret then f.size.regs else 0) reqs

/-- old + a, or the float sum (R187, R188). -/
def execAtomAdd (h : Head) (f : MemF) (x : AtomF) (s : State) : Out :=
  .next (s.atomOp (.ATOM_ADD h f x) h .add f x)

/-- old - a (R187). -/
def execAtomSub (h : Head) (f : MemF) (x : AtomF) (s : State) : Out :=
  .next (s.atomOp (.ATOM_SUB h f x) h .sub f x)

/-- The smaller of old and a (R187, R188). -/
def execAtomMin (h : Head) (f : MemF) (x : AtomF) (s : State) : Out :=
  .next (s.atomOp (.ATOM_MIN h f x) h .min f x)

/-- The larger of old and a (R187, R188). -/
def execAtomMax (h : Head) (f : MemF) (x : AtomF) (s : State) : Out :=
  .next (s.atomOp (.ATOM_MAX h f x) h .max f x)

/-- old and a (R187). -/
def execAtomAnd (h : Head) (f : MemF) (x : AtomF) (s : State) : Out :=
  .next (s.atomOp (.ATOM_AND h f x) h .and f x)

/-- old or a (R187). -/
def execAtomOr (h : Head) (f : MemF) (x : AtomF) (s : State) : Out :=
  .next (s.atomOp (.ATOM_OR h f x) h .or f x)

/-- old xor a (R187). -/
def execAtomXor (h : Head) (f : MemF) (x : AtomF) (s : State) : Out :=
  .next (s.atomOp (.ATOM_XOR h f x) h .xor f x)

/-- a (R187). -/
def execAtomExch (h : Head) (f : MemF) (x : AtomF) (s : State) : Out :=
  .next (s.atomOp (.ATOM_EXCH h f x) h .exch f x)

/-- b where old equals a; a failed comparison demotes the unit (R187). -/
def execAtomCas (h : Head) (f : MemF) (x : AtomF) (s : State) : Out :=
  .next (s.atomOp (.ATOM_CAS h f x) h .cas f x)

/-- old + 1, or 0 from a up (R187). -/
def execAtomInc (h : Head) (f : MemF) (x : AtomF) (s : State) : Out :=
  .next (s.atomOp (.ATOM_INC h f x) h .inc f x)

/-- old - 1, or a at 0 and above a (R187). -/
def execAtomDec (h : Head) (f : MemF) (x : AtomF) (s : State) : Out :=
  .next (s.atomOp (.ATOM_DEC h f x) h .dec f x)

end Sys2Proof.Machine
end

