-- ==== Sys2Proof/Machine/Spawn.lean ====
section
/-!
DEFINITION. Spawn memory and the paths of lanes: fork, meet, and the records that they write (spec 06
R105 to R108, spec 08 R135), and the paths that draws record (spec 18 R265).
-/

namespace Sys2Proof.Machine

open Sys2Proof

/-- Tells the firmware something that it has not been told yet. -/
def State.tellOnce (s : State) (e : FwEvent) : State := if s.host.events.contains e then s else s.tell e

/-- The FIFO banks of a core, in increasing order (R105). -/
def State.fifoBanks (s : State) (c : Nat) : List Nat :=
  (List.range 32).filter fun b => (s.core c).modes.get 0 b = 2

/-- The bytes of a bank. -/
def bankSize : Nat := 32768

/-- The bytes of a group's records in a FIFO bank. -/
def Group.bankBytes (g : Group) (b : Nat) : Nat :=
  let here := fun ps : List (Nat × Nat) => ((ps.filter fun p => p.1 = b).map Prod.snd).sum
  (g.frags.map fun f => here f.banks).sum + (g.waits.map fun f => here f.banks).sum

/-- The bytes of a group's records in the spawn area. -/
def Group.areaBytes (g : Group) : Nat :=
  ((g.frags.filter fun f => f.banks = []).map fun f => f.size).sum
    + ((g.waits.filter fun f => f.banks = []).map fun f => f.size).sum

/-- The bytes of a draw's staged elements in a bank of a core: a header of 16 bytes each (spec 17 R259; log
entry 102). -/
def Draw.stagedIn (d : Draw) (c b : Nat) : Nat :=
  16 * (AMap.findAll d.elems fun _ e => e.staged = some (c, b)).length

/-- The bytes in use of a FIFO bank of a core: records of spawn memory and staged records of the rate store
(spec 11 R169). -/
def State.bankUsed (s : State) (c b : Nat) : Nat :=
  (s.work.groups.map fun e => if e.2.core = c then e.2.bankBytes b else 0).sum
    + (s.work.draws.map fun e => e.2.stagedIn c b).sum

/-- The bytes in use of a context's spawn area. -/
def State.areaUsed (s : State) (ctx : Nat) : Nat :=
  (s.work.groups.map fun e => if e.2.ctx = ctx then e.2.areaBytes else 0).sum

/-- Fills the free bytes of banks in order; none where they do not hold the size. -/
def State.fillBanks (s : State) (c : Nat) : List Nat → Nat → List (Nat × Nat) → Option (List (Nat × Nat))
  | _, 0, acc => some acc
  | [], _ + 1, _ => none
  | b :: bs, n + 1, acc =>
    let k := min (n + 1) (bankSize - s.bankUsed c b)
    s.fillBanks c bs (n + 1 - k) (if k = 0 then acc else acc ++ [(b, k)])

/-- Where a record of a size goes: the FIFO banks, the lowest first, else the spawn area; none when both
are full. A record that the free FIFO bytes do not hold whole goes whole to the area (log entry 113). -/
def State.spawnPlace (s : State) (core ctx size : Nat) : Option (List (Nat × Nat)) :=
  match s.fillBanks core (s.fifoBanks core) size [] with
  | some ps => some ps
  | none => if s.areaUsed ctx + size ≤ (s.ctx ctx).spawn.size then some [] else none

/-- The numbers of the bits of a bitmap. -/
def bitsOf (n width : Nat) : List Nat := (List.range width).filter fun i => n / 2 ^ i % 2 = 1

/-- The bytes of a record: a header of 64 bytes and 4 for each lane and register (R105, R108). -/
def recordBytes (lanes regs : Nat) : Nat := 64 + 4 * lanes * regs

/-- The registers of a live-register entry that a unit has: bits at or beyond its allocation are ignored
(spec 04 R74). -/
def Wave.liveRegs (w : Wave) (live : Nat × Nat) : List Nat :=
  (bitsOf live.1 256).filter fun r => r < w.nregs

/-- A lane as a record keeps it under a live-register entry. -/
def Wave.fragLane (w : Wave) (live : Nat × Nat) (l : Nat) : FragLane :=
  let home := w.homes.getD l (0, l)
  { wave := home.1, lane := home.2, elem := w.elems.getD l 0
    regs := (w.liveRegs live).filterMap fun r => if w.reg r l = 0 then none else some (r, w.reg r l)
    k := (bitsOf live.2 16).filter fun r => inMask (w.kreg r) l }

/-- A unit that waits for spawn memory (R108). -/
def State.waitSpawn (s : State) (u : Nat) : State :=
  let w := s.unit u
  (s.hold u).tellOnce (.spawnArea w.ctx)

/-- Opens lanes under a token. -/
def Group.open_ (g : Group) (token : Nat) (homes : List (Nat × Nat)) : Group :=
  { g with opens := g.opens ++ (homes.map fun p => (token, p)).filter fun t => !g.opens.contains t }

/-- The waiting records that lanes of a unit write at a meet, one for each home wave. -/
def Wave.waitRecs (w : Wave) (live : Nat × Nat) (token pc : Nat) (arr : Mask) : List WaitRec :=
  let waves := ((w.homesOf arr).map Prod.fst).eraseDups
  waves.map fun wv =>
    let ls := (lanesOf arr).filter fun l => (w.homes.getD l (0, l)).1 = wv
    { order := 0, token := token, wave := wv, pc := pc, idem := w.idem, fflags := w.fflags
      banks := [], size := recordBytes ls.length (w.liveRegs live).length, rate := w.rate
      pathPos := w.pathPos
      lanes := ls.map fun l => w.fragLane live l }

/-- Writes waiting records, or none when one has no room. -/
def State.writeWaits (s : State) (gi : Nat) : List WaitRec → Option State
  | [] => some s
  | r :: rest =>
    let g := s.group gi
    match s.spawnPlace g.core g.ctx r.size with
    | none => none
    | some banks =>
      let (n, s) := s.stamp
      (s.setGroup gi { g with waits := g.waits ++ [{ r with order := n, banks := banks }] }).writeWaits gi rest

/-- The unit's allocation is free; its lanes are in spawn memory, and the group keeps what belongs to its home
wave. -/
def State.leaveUnit (s : State) (u : Nat) : State :=
  let w := s.unit u
  (s.setGroup w.group (((s.group w.group).keepHome w).release u)).clearUnit u

/-- A home wave rejoins where it stands, since none of its lanes is open or waits elsewhere: it holds the lanes that
arrive, which keep the registers of the entry and read 0 in the others, and those that pass through, which keep theirs
(log entry 101). Every other lane reads 0, and its flags are joined by those that its group keeps (R106, R135, spec 10
R158). -/
def Wave.rejoinHere (w : Wave) (live : Nat × Nat) (arr : Mask) (flags : Word) : Wave :=
  let kept := w.liveRegs live
  let ks := bitsOf live.2 16
  let stay := w.x &&& ~~~arr
  { w with
    o := w.x
    fflags := w.fflags ||| flags
    regs := AMap.keep w.regs fun key _ =>
      inMask stay (key % 32) || (inMask arr (key % 32) && kept.contains (key / 32))
    k := AMap.mapVals w.k 0 fun r m => m &&& (if ks.contains r then stay ||| arr else stay) }

/-- A reconvergence token, which its code object numbers (spec 03 R56). -/
def State.tokenKey (s : State) (w : Wave) (token : Nat) : Nat :=
  ((s.objOf w).map (·.id)).getD 0 * 4096 + token

/-- Lanes are no longer open, under any token, as at exit. -/
def Group.shut (g : Group) (homes : List (Nat × Nat)) : Group :=
  { g with opens := g.opens.filter fun t => !homes.contains t.2 }

/-- meet (R106). Where every active lane arrives, the allocation is free, and the inactive lanes of the unit leave
with it as at exit; lanes that pass through go on in it, and the inactive ones with them (log entry 101). While a
unit of the home wave goes on, its flags are its own; its group keeps those of units that have left (log entry 23).
-/
def State.meet (s : State) (i : Instr) (token : Nat) : State :=
  let u := s.cur
  let w := s.unit u
  let g := s.group w.group
  let key := s.tokenKey w token
  let arr := maskOf fun l => inMask w.x l && g.opens.contains (key, w.homes.getD l (0, l))
  let idle := w.homesOf (w.o &&& ~~~w.x)
  if arr = 0 then s.advance i
  else
    let homes := w.homesOf arr
    let g' := { g with opens := g.opens.filter fun t => !(t.1 = key && homes.contains t.2) }
    let g' := if arr = w.x then g'.shut idle else g'
    let elsewhere := g'.opens.any fun t => t.1 = key && t.2.1 = w.num
    let earlier := g.waits.any fun r => r.token = key && r.wave = w.num
    let s0 := s
    let s := s.tellLive w token
    if !w.soldered && !elsewhere && !earlier then
      let g' := g'.shut idle
      ((s.setGroup w.group { g' with homes := g'.homes.filter fun r => r.wave ≠ w.num }).setUnit u
        (w.rejoinHere (s.liveEntry w token) arr (g.homeFlags w.num))).advance i
    else
      match (s.setGroup w.group g').writeWaits w.group
          (w.waitRecs (s.liveEntry w token) key (w.pc.toNat + i.size) arr) with
      | none => s0.waitSpawn u
      | some s =>
        if arr = w.x then s.leaveUnit u
        else
          let s := s.setGroup w.group ((s.group w.group).keepHome { w with fflags := 0 })
          (s.setUnit u { w with o := w.o &&& ~~~arr, x := w.x &&& ~~~arr }).advance i

/-- In a draw, a recorded branch or fork appends its outcome to the path of each element of the unit
(spec 18 R265). -/
def State.recordPath (s : State) (u : Nat) (h : Head) (bit : Nat → Bool) : State :=
  let w := s.unit u
  let d := s.draw w.launch
  if !d.live || !s.recorded w h.rate then s
  else
    let es := (lanesOf w.o).foldl (fun m l =>
      let e := w.elems.getD l 0
      let x : Elem := m.get {} e
      m.set {} e { x with path := x.path ++ [bit l] }) d.elems
    s.setDraw w.launch { d with elems := es }

/-- fork (spec 08 R135). -/
def State.fork (s : State) (i : Instr) (h : Head) (k live join : Nat) (off : Int) : State :=
  let u := s.cur
  let w := s.unit u
  let f := w.kreg k &&& w.x
  if f = 0 then (s.recordPath u h fun _ => false).advance i
  else
    let g := (s.group w.group).open_ (s.tokenKey w join) (w.homesOf w.x)
    let dest := target w.pc off
    if f = w.x then
      let s := (s.setGroup w.group g).recordPath u h fun l => inMask f l
      s.setUnit u { s.unit u with pc := dest }
    else
      let s := s.tellLive w live
      let entry := s.liveEntry w live
      let size := recordBytes (lanesOf f).length (w.liveRegs entry).length
      match s.spawnPlace w.core w.ctx size with
      | none => s.waitSpawn u
      | some banks =>
        let (n, s) := s.stamp
        let r : Frag :=
          { order := n, target := dest.toNat, token := s.tokenKey w join, idem := w.idem, fflags := w.fflags
            banks := banks, size := size, rate := w.rate, pathPos := w.pathPos
            lanes := (lanesOf f).map fun l => w.fragLane entry l }
        let s := (s.setGroup w.group { g with frags := g.frags ++ [r] }).recordPath u h fun l => inMask f l
        let w := s.unit u
        (s.setUnit u { w with x := w.x &&& ~~~f, o := w.o &&& ~~~f }).advance i

end Sys2Proof.Machine
end

