-- ==== Sys2Proof/Machine/Place.lean ====
section
/-!
DEFINITION. The room of a core and the placement of one group on it (spec 05 R92 to R94, spec 06 R99).
-/

namespace Sys2Proof.Machine

open Sys2Proof

/-- What of a core is taken: wave allocations as partition, slot, first register and registers;
scratchpad ranges as base and size; tile slots; and the bytes of its SCRATCH banks. -/
structure Room where
  waves : List (Nat × Nat × Nat × Nat)
  spans : List (Nat × Nat)
  tiles : Nat
  bytes : Nat
  deriving DecidableEq, Repr

/-- What a group asks for. -/
structure Needs where
  waves   : Nat
  regs    : Nat
  scratch : Nat
  tiles   : Nat
  deriving DecidableEq, Repr

/-- Registers in granules of 8 (R92). -/
def granule (n : Nat) : Nat := (n + 7) / 8 * 8

/-- The groups that hold resources of a core. -/
def State.residents (s : State) (c : Nat) : List (Nat × Group) :=
  AMap.findAll s.work.groups fun _ g => g.core = c && (g.phase = .resident || g.phase = .stopping)

/-- The room of a core as it stands. -/
def State.room (s : State) (c : Nat) : Room :=
  let gs := s.residents c
  { waves := gs.flatMap fun e => e.2.allocs.map fun a => (a.part, a.slot, a.base, granule e.2.nregs)
    spans := gs.map fun e => (e.2.base, e.2.scratch)
    tiles := (gs.map fun e => e.2.ntiles).sum
    bytes := ((List.range 32).filter fun b => (s.core c).modes.get 0 b = 1).length * 32768 }

/-- The mode of a bank in a record's bank map (R90). -/
def bankMode (map b : Nat) : Nat := map / 4 ^ b % 4

/-- An empty core that carries a bank map. -/
def emptyRoom (map : Nat) : Room :=
  { waves := [], spans := [], tiles := 0
    bytes := ((List.range 32).filter fun b => bankMode map b = 1).length * 32768 }

/-- The free registers of a partition. -/
def Room.freeRegs (r : Room) (p : Nat) : Nat :=
  512 - ((r.waves.filter fun w => w.1 = p).map fun w => w.2.2.2).sum

/-- The partition with the most free registers, the lowest on ties (R94). -/
def Room.firstPart (r : Room) : Nat :=
  (List.range 4).foldl (fun b p => if r.freeRegs b < r.freeRegs p then p else b) 0

/-- The lowest free wave slot of a partition. -/
def Room.freeSlot (r : Room) (p : Nat) : Option Nat :=
  (List.range 16).find? fun i => !r.waves.any fun w => w.1 = p && w.2.1 = i

/-- The lowest free register range of a partition. -/
def Room.freeRange (r : Room) (p n : Nat) : Option Nat :=
  ((List.range 64).map (8 * ·)).find? fun b =>
    b + n ≤ 512 && !r.waves.any fun w => w.1 = p && b < w.2.2.1 + w.2.2.2 && w.2.2.1 < b + n

/-- The lowest free scratchpad range of a size; the range of a group without scratchpad is empty. -/
def Room.freeSpan (r : Room) (n : Nat) : Option Nat :=
  if n = 0 then some 0
  else
    ((List.range 257).map (4096 * ·)).find? fun b =>
      b + n ≤ r.bytes && !r.spans.any fun w => w.2 ≠ 0 && b < w.1 + w.2 && w.1 < b + n

/-- Places the waves of a group one after another from a partition on. -/
def Room.placeWaves (r : Room) (p n : Nat) : Nat → List Alloc → Option (List Alloc)
  | 0, acc => some acc
  | k + 1, acc =>
    match r.freeSlot p, r.freeRange p n with
    | some slot, some base =>
      let a : Alloc := { part := p, slot := slot, base := base, unit := none }
      { r with waves := (p, slot, base, n) :: r.waves }.placeWaves ((p + 1) % 4) n k (acc ++ [a])
    | _, _ => none

/-- Places a group: its wave allocations and the base of its scratchpad range, or none where it does
not fit (R94). -/
def Room.place (r : Room) (d : Needs) : Option (List Alloc × Nat) :=
  match r.placeWaves r.firstPart (granule d.regs) d.waves [], r.freeSpan d.scratch with
  | some as, some base => if r.tiles + d.tiles ≤ 64 then some (as, base) else none
  | _, _ => none

/-- Every lane of a wave at home. -/
def homesOfWave (num : Nat) : List (Nat × Nat) := (List.range 32).map fun l => (num, l)

/-- A unit in its initial state (R99), ready from this cycle of its core on. Its age is a stamp of its own: the spec
does not say whether waves that start together are of one age, and here they are older in the order of their numbers
(spec 00 R6; log entry 1). -/
def newUnit (g : Group) (gi num i : Nat) (a : Alloc) (stamp cycle : Nat) : Wave :=
  { live := true, ctx := g.ctx, launch := g.launch, group := gi, core := g.core, part := a.part
    slot := a.slot, num := num, alloc := i, nregs := g.nregs, x := allLanes, o := allLanes
    pc := BitVec.ofNat 64 g.entry, homes := homesOfWave num, age := stamp, acq := stamp
    turnAt := cycle }

/-- Starts the waves of a group that has just been placed. -/
def State.startWaves (s : State) (gi : Nat) : List Alloc → Nat → State
  | [], _ => s
  | a :: rest, num =>
    let (u, s) := s.stamp
    let g := s.group gi
    let mark := fun b : Alloc => if b.part = a.part && b.slot = a.slot then { b with unit := some u } else b
    let s := s.setGroup gi { g with allocs := g.allocs.map mark }
    (s.setUnit u (newUnit g gi num num a u (s.core g.core).cycle)).startWaves gi rest (num + 1)

/-- Zeroes a scratchpad range of a core (spec 11 R171). -/
def State.zeroScratch (s : State) (c base n : Nat) : State :=
  let k := s.core c
  s.setCore c { k with scratch := AMap.keep k.scratch fun a _ => !(base ≤ a && a < base + n) }

/-- Places a group of a launch on a core, where it fits, and starts its waves. -/
def State.placeGroup (s : State) (l num entry : Nat) (d : Needs) (c : Nat) (spawned : Bool) :
    Option State :=
  match (s.room c).place d with
  | none => none
  | some (as, base) =>
    let (gi, s) := s.stamp
    let g : Group :=
      { phase := .resident, ctx := (s.launch l).ctx, launch := l, num := num, core := c
        entry := entry, nwaves := d.waves, nregs := d.regs, scratch := d.scratch, base := base
        ntiles := d.tiles, allocs := as, spawned := spawned }
    some (((s.setGroup gi g).zeroScratch c base d.scratch).startWaves gi as 0)

end Sys2Proof.Machine
end

