-- ==== Sys2Proof/Machine/Pyramids.lean ====
section
/-!
DEFINITION. The depth pyramids of the dies, and the rate-store area of a draw that ends (spec 17 R259, spec 18 R277).
-/

namespace Sys2Proof.Machine

open Sys2Proof

/-- The address of a sample's depth. -/
def DrawBlk.depthAt (b : DrawBlk) (px py s : Nat) : Nat := b.depth + b.sampleIndex px py s * 4

/-- The least and the greatest depth of a tile (R277). -/
def State.tileBounds (s : State) (asid : Nat) (b : DrawBlk) (tx ty : Nat) : Word × Word :=
  let zs := (List.range 8).flatMap fun j => (List.range 8).flatMap fun i =>
    let px := 8 * tx + i
    let py := 8 * ty + j
    if b.width ≤ px || b.height ≤ py then []
    else (List.range b.spp).map fun k => leNat (s.peek asid (b.depthAt px py k) 4)
  let z := zs.headD 0
  (BitVec.ofNat 32 (zs.foldl rMin z), BitVec.ofNat 32 (zs.foldl rMax z))

/-- The pyramid of a draw's depth buffer as it stands now. -/
def State.newPyramid (s : State) (asid die : Nat) (b : DrawBlk) : Pyramid :=
  let row := tilesOf b.width
  let bounds := (List.range (row * tilesOf b.height)).map fun i => s.tileBounds asid b (i % row) (i / row)
  { die := die, asid := asid, addr := b.depth, width := b.width, height := b.height
    bytes := b.width * b.height * b.spp * 4, levels := levelsFrom 5 row (tilesOf b.height) bounds }

/-- Keeps a pyramid, which stays wrong where another writer has made it so; of a die's eight one that a free
value names makes way (R277). -/
def State.keepPyramid (s : State) (p : Pyramid) : State :=
  let same := fun q : Pyramid => q.die = p.die && q.asid = p.asid && q.addr = p.addr
  let p := { p with stale := s.mem.pyramids.any fun q => same q && q.stale }
  let others := s.mem.pyramids.filter fun q => !same q
  let mine := others.filter fun q => q.die = p.die
  if mine.length < 8 then { s with mem := { s.mem with pyramids := others ++ [p] } }
  else
    let (v, s) := s.fresh
    let gone := (mine[v.toNat % mine.length]?).getD p
    { s with mem := { s.mem with pyramids := (others.filter fun r => r ≠ gone) ++ [p] } }

/-- The die of a core. -/
def State.dieOfCore (s : State) (c : Nat) : Nat := if c < s.host.cores0 then 0 else 1

/-- The address space of a depth buffer of a launch. -/
def State.depthAsid (s : State) (l addr : Nat) : Nat := tagAsid (s.ctx (s.launch l).ctx).asid addr

/-- The dies that keep a pyramid of a draw's depth buffer once the draw has written it: its own, and each that
has one (R277). -/
def State.pyramidDies (s : State) (l : Nat) : List Nat :=
  let own := s.dieOfCore (s.launch l).form.first
  let z := (s.draw l).blk.depth
  let a := s.depthAsid l z
  (own :: (s.mem.pyramids.filter fun p => p.asid = a && p.addr = z).map fun p => p.die).eraseDups

/-- The pyramids of a draw's buffer reflect its depth writes, where it has made any (R277). -/
def State.renewPyramids (s : State) (l : Nat) : State :=
  let d := s.draw l
  if d.wrote then
    (s.pyramidDies l).foldl (fun s die => s.keepPyramid (s.newPyramid (s.depthAsid l d.blk.depth) die d.blk)) s
  else s

/-- The rate-store area of a draw is no longer in use. What something else has written there while the draw ran stays
unpredictable until it is written again (R259). -/
def State.leaveArea (s : State) (l : Nat) : State :=
  let left := fun a : StoreArea =>
    if a.launch ≠ l then some a else if a.tainted then some { a with ended := true } else none
  { s with mem := { s.mem with areas := s.mem.areas.filterMap left } }

end Sys2Proof.Machine
end

