-- ==== Sys2Proof/Machine/Work.lean ====
section
/-!
DEFINITION. The ends of waits, groups, launches, graphs, phases and jobs, and cancellation (spec 06
R110, R111, spec 07 R120 to R122, R131, spec 14 R222).
-/

namespace Sys2Proof.Machine

open Sys2Proof

/-- A little-endian field of a record: offset and size. -/
def field (bs : List Byte) (o n : Nat) : Nat := leNat ((bs.drop o).take n)

/-- The fields of a launch record (spec 05 R90). -/
def LaunchRec.ofBytes (b : List Byte) : LaunchRec :=
  { entry := field b 0 8, counter := field b 8 8, pred := field b 0x10 8, count := field b 0x18 4
    waves := field b 0x1C 1, tiles := field b 0x1D 1, regs := field b 0x1E 2, scratch := field b 0x20 4
    first := field b 0x24 2, cores := field b 0x26 2, bankMap := field b 0x28 8, reserve := field b 0x30 8
    flags := field b 0x38 4, tail := field b 0x3C 4 }

/-- Whether a launch has finished. -/
def LaunchPhase.finished : LaunchPhase → Bool
  | .completed | .refused | .skipped => true
  | .absent | .queued | .eligible | .started => false

/-! ## Waits -/

/-- The priority class of a launch: that of its job's queue (spec 07 R115, R122). -/
def State.classOf (s : State) (l : Nat) : Nat := (s.work.jobs.get {} (s.launch l).job).cls

/-- Removes monitor entries of a slice: from its table, its spilled records, and those that have ended beside
them (spec 14 R222). -/
def State.dropHere (s : State) (sl : Nat) (gone : MonEntry → Bool) : State :=
  let c := s.slice sl
  let s := s.setSlice sl
    { c with table := c.table.filter fun e => !gone e, waking := c.waking.filter fun e => !gone e }
  (c.spilled.filter fun p => gone p.entry).foldl (fun s p => s.clearSpill sl p) s

/-- Removes monitor entries of every slice. -/
def State.dropEntries (s : State) (gone : MonEntry → Bool) : State :=
  (AMap.keys s.mem.slices).foldl (fun s sl => s.dropHere sl gone) s

/-- A serving device is told that a wait which a request registered there is cancelled (spec 14 R214, R222). -/
def State.sendCancel (s : State) (ctx : Nat) (node : BitVec 22) (id : Nat) : State :=
  if s.mem.routes.get 0 node.toNat = 0 then s
  else
    let (n, s) := s.stamp
    let m : PeerMsg :=
      { id := n, node := node, va := 0, src := s.mem.node, key := (s.ctx ctx).key, obs := 0
        acc := .cancel id, who := .dispatch, lane := 32, slice := 0, start := (s.slice 0).cycle }
    { s with mem := { s.mem with peerOut := s.mem.peerOut ++ [m] } }

/-- Removes the monitor entry of a token of a context: here, or at the device that serves its word (spec 14
R222). -/
def State.dropEntry (s : State) (ctx token : Nat) : State :=
  let there := s.mem.peerWaits.filter fun w => w.token = token && w.ended.isNone
  there.foldl (fun s w => s.sendCancel ctx w.node w.id) (s.dropEntries fun e => e.token = token)

/-- The dispatch complex no longer holds a token; a later wake of it is dropped (spec 14 R217). -/
def State.retireToken (s : State) (token : Nat) : State :=
  { s with work := { s.work with tokens := s.work.tokens.set 0 token 0 }
           mem := { s.mem with peerWaits := s.mem.peerWaits.filter fun w => w.token ≠ token } }

/-- The wake list of a context no longer holds a record of a token (spec 14 R221). -/
def State.dropWake (s : State) (ctx token : Nat) : State :=
  let x := s.ctx ctx
  s.setCtx ctx { x with wakes := x.wakes.filter fun e => e.1 ≠ token }

/-- Ends a unit's wait with a status: a waitu drops the core's L1 copy of its line, and a waitp that
returns 0 acquires (spec 13 R203, spec 14 R223, spec 07 R120). -/
def State.finishWait (s : State) (u status : Nat) : State :=
  let w := s.unit u
  match w.park with
  | .waitu asid va token dst lanes =>
    let s := ((s.retireToken token).setUnit u (w.setDest lanes false dst status)).unpark u
    s.l1Drop w.core (tagAsid asid va) (va / 128)
  | .waitp dst lanes =>
    let s := (s.setUnit u (w.setDest lanes false dst status)).unpark u
    if status = 0 then s.acquire u else s
  | .sleep _ | .gbar | .twait _ _ => s.unpark u
  | .none | .access | .reserve => s

/-- A cancel ends the waits of a unit: waitu and waitp return 3, sleep resumes, and a twait issues again, which is a
retirement point (R111, spec 23 R338). One that waits in gbar stays there until the barrier completes, and one of a
draw that waits for records of the rate store stays until they can be had, which may be never: elements that can no
longer start keep theirs. R111 names neither wait (log entry 38). A wake that stands in the wake list has decided
its wait, and the cancel is dropped (spec 14 R217). -/
def State.cancelWait (s : State) (u : Nat) : State :=
  let ctx := (s.unit u).ctx
  match (s.unit u).park with
  | .waitu _ _ token _ _ =>
    if (s.ctx ctx).wakes.any fun k => k.1 = token then s else (s.dropEntry ctx token).finishWait u 3
  | .waitp _ _ => s.finishWait u 3
  | .sleep _ => s.finishWait u 0
  | .twait _ _ => s.finishWait u 0
  | .none | .gbar | .access | .reserve => s

/-! ## Levels -/

/-- Bit 63 and bit 62 of a counter value. -/
def cancelledBit : Nat := 2 ^ 63
def skippedBit : Nat := 2 ^ 62

/-- The value that a level's counter is written with (R110, R111). -/
def Level.value (l : Level) : Nat :=
  if l.cancelled then cancelledBit + l.stopCount else l.completed

/-- Whether a level has finished. -/
def Level.over (l : Level) : Bool :=
  l.live && !l.done && l.finished = l.members && l.children = 0

/-- A member of a level has finished; it counts as completed or not. -/
def Level.member (l : Level) (counts : Bool) : Level :=
  { l with finished := l.finished + 1, completed := l.completed + counts.toNat }

/-- Finishes a job once its last phase has finished. -/
def State.closeJob (s : State) (j : Nat) : State :=
  let l := s.work.jobLevels.get {} j
  if !l.over then s
  else
    let s := { s with work := { s.work with jobLevels := s.work.jobLevels.set {} j { l with done := true } } }
    s.pushWrite j l.ctx l.counter (leBytes l.value 8) false (s.work.jobs.get {} j).entry

/-- Finishes a phase once its last graph has finished. -/
def State.closePhase (s : State) (p : Nat) : State :=
  let l := s.work.phases.get {} p
  if !l.over then s
  else
    let s := { s with work := { s.work with phases := s.work.phases.set {} p { l with done := true } } }
    let s := s.pushWrite l.parent l.ctx l.counter (leBytes l.value 8) false
      (s.work.jobs.get {} l.parent).entry
    let j := s.work.jobLevels.get {} l.parent
    let s := { s with work := { s.work with
      jobLevels := s.work.jobLevels.set {} l.parent (j.member true) } }
    s.closeJob l.parent

/-- Finishes a graph once its launches, and those that device code made in it, have finished. -/
def State.closeGraph (s : State) (g : Nat) : State :=
  let l := s.work.graphs.get {} g
  if !l.over then s
  else
    let s := { s with work := { s.work with graphs := s.work.graphs.set {} g { l with done := true } } }
    let p := s.work.phases.get {} l.parent
    let job := p.parent
    let s := s.pushWrite job l.ctx l.counter (leBytes l.value 8) false (s.work.jobs.get {} job).entry
    let s := { s with work := { s.work with phases := s.work.phases.set {} l.parent (p.member true) } }
    s.closePhase l.parent

/-- A launch has finished: its counter is written, and its graph counts it (R110, R122). -/
def State.finishLaunch (s : State) (l : Nat) (phase : LaunchPhase) (value : Nat) : State :=
  let la := s.launch l
  let s := s.setLaunch l { la with phase := phase }
  let s := s.pushWrite la.job la.ctx la.form.counter (leBytes value 8) false la.recAddr
  let g := s.work.graphs.get {} la.graph
  let g := if la.parent.isSome then { g with children := g.children - 1 }
    else g.member (phase ≠ .refused)
  let s := { s with work := { s.work with graphs := s.work.graphs.set {} la.graph g } }
  s.closeGraph la.graph

/-- A launch is refused: its counter, if it has one, is written with 0, and its job records the error
(spec 05 R91, spec 07 R117). Where the refusal is for the counter's alignment, the 8 bytes at its address are
written all the same (log entry 110). -/
def State.refuseLaunch (s : State) (l status tcause addr : Nat) : State :=
  let la := s.launch l
  let s := s.recordError la.job
    { status := status, group := 0, addr := la.recAddr, tcause := tcause, tpc := addr, tinst := 0
      count := 0 }
  s.finishLaunch l .refused 0

/-- Whether a spawn pool, or the saved pool of the context, holds a record of a launch. -/
def State.pooled (s : State) (l : Nat) : Bool :=
  (s.cores.any fun e => e.2.pool.any fun p => p.launch = l)
    || (s.ctx (s.launch l).ctx).savedPool.any fun p => p.launch = l

/-- The value that the counter of a launch takes at its completion (R110, R111). -/
def Launch.finalCount (la : Launch) : Nat := if la.cancelled then cancelledBit + la.stopCount else la.form.count

/-- The end of a draw: the pyramids of its buffer are made anew, its area is no longer in use, and its samples-passed
counter is written before its completion counter (spec 17 R259, R260, spec 18 R277). -/
def State.endDraw (s : State) (l : Nat) : State :=
  let d := s.draw l
  let la := s.launch l
  (((s.renewPyramids l).leaveArea l).setDraw l {}).pushWrite la.job la.ctx d.blk.passed (leBytes d.passed 8) false
    la.recAddr

/-- A compute launch completes when all its groups have retired (spec 05 R97, spec 08 R145), and a cancelled draw
when its waves have; stores that units of it have left behind are performed first. -/
def State.checkLaunch (s : State) (l : Nat) : State :=
  let la := s.launch l
  if la.phase ≠ .started || s.groupsOf l ≠ [] || s.leaves l then s
  else if (s.draw l).live then
    if !la.cancelled || (s.draw l).finishing then s
    else (s.endDraw l).finishLaunch l .completed la.finalCount
  else if la.next < la.form.count || la.again ≠ [] || s.pooled l then s
  else s.finishLaunch l .completed la.finalCount

/-! ## Groups -/

/-- The launches that a launch's waitp waits for: for a device launch its parent, else the launch
before it in its queue and those that edges name (spec 07 R119, R122). -/
def State.producers (s : State) (l : Nat) : List Nat :=
  let la := s.launch l
  match la.parent with
  | some p => [p]
  | none =>
    let peers := AMap.findAll s.work.launches fun _ m =>
      m.ctx = la.ctx && m.queue = la.queue && m.parent.isNone && m.phase ≠ .absent
    let earlier := peers.filter fun e => e.2.order < la.order
    let before := earlier.filter fun e => earlier.all fun f => f.2.order ≤ e.2.order
    AMap.keys before
      ++ AMap.keys (peers.filter fun e => e.2.graph = la.graph && la.edges.contains e.2.index)

/-- Whether a waitp of the launch returns at once. -/
def State.waitOver (s : State) (l : Nat) : Bool :=
  (s.launch l).form.flags % 2 = 0 || (s.producers l).all fun p => s.launchTriggered p

/-- Whether a save of a group holds its matrix program, starts or copies (spec 22 R331, spec 23 R345). -/
def State.savedEngines (s : State) (gi : Nat) : Bool :=
  let x := s.ctx (s.group gi).ctx
  (x.savedMsq.any fun m => m.group = gi) || (x.savedStarts.any fun m => m.group = gi)
    || x.savedCopies.any fun p => p.group = gi

/-- Whether a group has a matrix program, starts or copies that have not ended: on its core, or saved. -/
def State.engaged (s : State) (gi : Nat) : Bool :=
  let c := s.core (s.group gi).core
  (c.msq.running && c.msq.group = gi) || c.msq.starts.any (fun m => m.group = gi)
    || (c.copies.any fun p => p.group = gi) || s.savedEngines gi

/-- Whether a group can retire: no wave, soldered wave, fragment record or waiting record remains, nor
a matrix program or a copy of it (spec 08 R139, spec 22 R313, spec 23 R337). -/
def State.groupOver (s : State) (gi : Nat) : Bool :=
  let g := s.group gi
  (g.phase = .resident || g.phase = .stopping) && s.unitsOf gi = [] && g.frags = [] && g.waits = []
    && !s.engaged gi

/-- A group leaves: its resources are free and its launch counts it. -/
def State.retireGroup (s : State) (gi : Nat) : State :=
  let g := s.group gi
  let la := s.launch g.launch
  let s := s.setGroup gi {}
  if (s.draw g.launch).live then s.checkLaunch g.launch
  else
  let la := if g.num < la.form.count then { la with retired := la.retired + 1 }
    else { la with spawnRetired := la.spawnRetired + 1 }
  (s.setLaunch g.launch la).checkLaunch g.launch

/-- Half bytes of an element: source and destination, by conversion (spec 23 R341). -/
def convSizes : Nat → Option (Nat × Nat)
  | 0 => some (8, 8) | 1 => some (8, 4) | 2 => some (8, 4) | 3 => some (8, 2) | 4 => some (8, 2)
  | 5 => some (8, 1) | 6 => some (4, 8) | 7 => some (4, 8) | _ => none

/-- Half bytes of an element's source and destination. -/
def Copy.sizes (p : Copy) : Nat × Nat := (convSizes p.conv).getD (8, 8)

/-- The elements of a row. -/
def Copy.perRow (p : Copy) : Nat := p.rowBytes * 2 / p.sizes.1

/-- The elements of the copy. -/
def Copy.total (p : Copy) : Nat := p.rows * p.perRow

/-- Whether a copy has committed its last element: only its counter's write is still to be made. -/
def Copy.committed (p : Copy) : Bool := p.pos = p.total

/-- Copies of a core are dropped. A queue that no copy names any more is free; one that another copy names never
passes an operation that was dropped (log entry 103). -/
def Core.drop (k : Core) (gone : Copy → Bool) : Core :=
  let copies := k.copies.filter fun p => !gone p
  let named := fun q : TQueue => copies.any fun p => p.ctx = q.ctx && p.counter = q.addr
  let dropped := fun q : TQueue => k.copies.any fun p => gone p && p.ctx = q.ctx && p.counter = q.addr
  { k with copies := copies, queues := k.queues.filter fun q => named q || !dropped q }

/-- Whether an element of a copy, or the report of its stop, is in progress: its access waits. A copy that waits for
the first read of its counter has begun none. -/
def Core.atElement (k : Core) (p : Copy) : Bool :=
  p.report.isSome || (p.held && !p.committed &&
    (p.counter = 0 || k.queues.all fun q => q.ctx ≠ p.ctx || q.addr ≠ p.counter || q.c0.isSome))

/-- The copies of a group that have not committed their last element, and its starts, are dropped, and its program
issues no further word: words in flight, one whose access is held included, complete, and no error record is
written (spec 22 R330, spec 23 R345). At a cancel a copy whose element is in progress leaves when that is complete; a
discard drops it at once. -/
def State.dropEngines (s : State) (gi : Nat) (cancel : Bool) : State :=
  let c := (s.group gi).core
  let k := s.core c
  let last := fun p : Copy => cancel && p.group = gi && k.atElement p
  let gone := fun p : Copy => p.group = gi && !p.committed && !last p
  let mine : Bool := k.msq.running && k.msq.group = gi
  let inWord : Bool := k.msq.inWord && k.msq.errRec.isNone
  let ends : Bool := mine && k.msq.bg = [] && !inWord
  let msq := { k.msq with
    starts := k.msq.starts.filter fun m => m.group ≠ gi
    running := k.msq.running && !ends
    halted := (k.msq.halted || mine) && !ends
    held := k.msq.held && (!mine || inWord)
    errRec := if mine then none else k.msq.errRec }
  let k' := k.drop gone
  let s := s.setCore c
    { k' with msq := msq, copies := k'.copies.map fun p : Copy => if last p then { p with ending := true } else p }
  s.forget fun w =>
    match w with
    | .copy d n => d = c && k.copies.any fun p => p.num = n && gone p
    | .msq d => d = c && mine && !inWord
    | _ => false

/-- A saved group of a cancelled unit is dropped and counts as retired (spec 07 R131). -/
def State.dropSaved (s : State) (gi : Nat) : State :=
  let g := s.group gi
  let s := (s.unitsOf gi).foldl (fun s u =>
    let s := match (s.unit u).park with
      | .waitu _ _ token _ _ => ((s.dropEntry g.ctx token).retireToken token).dropWake g.ctx token
      | _ => s
    s.clearUnit u) s
  let x := s.ctx g.ctx
  let s := s.setCtx g.ctx
    { x with saves := x.saves.filter fun k => k.group ≠ gi
             savedMsq := x.savedMsq.filter fun m => m.group ≠ gi
             savedStarts := x.savedStarts.filter fun m => m.group ≠ gi
             savedCopies := x.savedCopies.filter fun p => p.group ≠ gi
             savedQueues := x.savedQueues.filter fun q => q.1 ≠ gi }
  s.retireGroup gi

/-! ## Cancellation (R111) -/

/-- Cancels a launch: no pending group is placed, parked waves return, and saved groups are dropped. A
launch that has not started is finished in its turn; a draw whose F element has retired has reached its completion
point. -/
def State.cancelLaunch (s : State) (l : Nat) : State :=
  let la := s.launch l
  match la.phase with
  | .absent | .completed | .refused | .skipped => s
  | .queued | .eligible => if la.cancelled then s else s.setLaunch l { la with cancelled := true }
  | .started =>
    if la.cancelled || (s.draw l).finishing then s
    else
      let s := s.setLaunch l
        { la with cancelled := true, stopCount := la.retired, next := la.form.count, again := [] }
      let s := { s with cores := AMap.mapVals s.cores {} fun _ c =>
        { c with pool := c.pool.filter fun p => p.launch ≠ l } }
      let x := s.ctx la.ctx
      let s := s.setCtx la.ctx { x with savedPool := x.savedPool.filter fun p => p.launch ≠ l }
      let s := (s.groupsOf l).foldl (fun s g =>
        match (s.group g).phase with
        | .resident => (s.unitsOf g).foldl State.cancelWait (s.dropEngines g true)
        | .saved => s.dropSaved g
        | .absent | .stopping => s) s
      s.checkLaunch l

/-- Marks a level cancelled; one that is done, or already cancelled, stays. -/
def Level.cancel (l : Level) : Level :=
  if l.done || l.cancelled then l else { l with cancelled := true, stopCount := l.completed }

/-- Cancels a graph with every launch in it, those that device code made included. -/
def State.cancelGraph (s : State) (g : Nat) : State :=
  let l := s.work.graphs.get {} g
  if !l.live || l.done || l.cancelled then s
  else
    let s := { s with work := { s.work with graphs := s.work.graphs.set {} g l.cancel } }
    (AMap.keys (AMap.findAll s.work.launches fun _ m => m.graph = g && m.phase ≠ .absent)).foldl
      State.cancelLaunch s

def State.cancelPhase (s : State) (p : Nat) : State :=
  let l := s.work.phases.get {} p
  if !l.live || l.done || l.cancelled then s
  else
    let s := { s with work := { s.work with phases := s.work.phases.set {} p l.cancel } }
    (AMap.keys (AMap.findAll s.work.graphs fun _ g => g.parent = p && g.live)).foldl State.cancelGraph s

def State.cancelJob (s : State) (j : Nat) : State :=
  let l := s.work.jobLevels.get {} j
  if !l.live || l.done || l.cancelled then s
  else
    let s := { s with work := { s.work with jobLevels := s.work.jobLevels.set {} j l.cancel } }
    (AMap.keys (AMap.findAll s.work.phases fun _ p => p.parent = j && p.live)).foldl State.cancelPhase s

/-- The levels of cancel and ccnt (spec 03 R63). -/
inductive WorkLevel | launch | graph | phase | job
  deriving DecidableEq, Repr

def WorkLevel.ofMod (m : BitVec 3) : WorkLevel :=
  match m.toNat with | 0 => .launch | 1 => .graph | 2 => .phase | _ => .job

/-- The counter address of a launch's record: of one that has not been read yet, the bytes that stand in memory
now (log entry 39). -/
def State.counterOf (s : State) (l : Nat) : Nat :=
  let la := s.launch l
  match la.bytes with
  | some bs => field bs 8 8
  | none => leNat (s.peek (s.ctx la.ctx).asid (la.recAddr + 8) 8)

/-- The firmware is told of reserved entries of the region home map that reading a field of a context's unread launch
records meets (spec 11 R177). -/
def State.tellRecords (s : State) (ctx off : Nat) : State :=
  let unread := AMap.findAll s.work.launches fun _ m => m.ctx = ctx && m.phase ≠ .absent && m.bytes.isNone
  unread.foldl (fun s e => s.tellHome (s.ctx ctx).asid (e.2.recAddr + off)) s

/-- Whether a write of a counter is still to be made. -/
def State.unwritten (s : State) (ctx addr : Nat) : Bool :=
  s.work.writes.any fun c => c.ctx = ctx && c.addr = addr && !c.isErr && !c.adds

/-- The unit of a context at a level that a counter address names, while its counter is unwritten. -/
def State.named (s : State) (ctx : Nat) (lv : WorkLevel) (addr : Nat) : Option Nat :=
  let late := s.unwritten ctx addr
  let first := fun (l : List Nat) (done : Nat → Bool) =>
    (l.find? fun n => !done n).orElse fun _ => if late then l.getLast? else none
  let find := fun m : AMap Level =>
    first (AMap.keys (AMap.findAll m fun _ l => l.live && l.ctx = ctx && l.counter = addr))
      fun n => (m.get {} n).done
  if addr = 0 || addr % 8 ≠ 0 then none
  else
    match lv with
    | .launch =>
      first ((AMap.keys (AMap.findAll s.work.launches fun _ m => m.ctx = ctx && m.phase ≠ .absent)).filter
        fun l => s.counterOf l = addr) fun l => (s.launch l).phase.finished
    | .graph => find s.work.graphs
    | .phase => find s.work.phases
    | .job => find s.work.jobLevels

/-- The same where a level's unit is looked for by its counter's address. -/
def State.tellNamed (s : State) (ctx : Nat) (lv : WorkLevel) (addr : Nat) : State :=
  if lv = .launch && addr ≠ 0 && addr % 8 = 0 then s.tellRecords ctx 8 else s

/-- Cancels a unit at a level. -/
def State.cancel (s : State) (lv : WorkLevel) (n : Nat) : State :=
  match lv with
  | .launch => s.cancelLaunch n
  | .graph => s.cancelGraph n
  | .phase => s.cancelPhase n
  | .job => s.cancelJob n

/-- The hardware counter of a unit (R110, R111). -/
def State.hwCounter (s : State) (lv : WorkLevel) (n : Nat) : Nat :=
  match lv with
  | .launch =>
    let la := s.launch n
    if la.cancelled then cancelledBit + la.stopCount else la.retired
  | .graph => (s.work.graphs.get {} n).value
  | .phase => (s.work.phases.get {} n).value
  | .job => (s.work.jobLevels.get {} n).value

end Sys2Proof.Machine
end

