-- ==== Sys2Proof/Machine/BankModes.lean ====
section
/-!
DEFINITION. Bank modes, the pending groups of a launch, and the eligibility of a core for it (spec 05 R90 to R96,
spec 11 R169 to R172).
-/

namespace Sys2Proof.Machine

open Sys2Proof

/-- Inserts by a measure, after equals. -/
def insertBy {α : Type} (f : α → Nat) (x : α) : List α → List α
  | [] => [x]
  | y :: rest => if f x < f y then x :: y :: rest else y :: insertBy f x rest

/-- Sorts by a measure; equals keep their order. -/
def sortBy {α : Type} (f : α → Nat) (l : List α) : List α := l.foldl (fun m x => insertBy f x m) []

/-! ## Bank modes (R93, R172) -/

/-- The SCRATCH banks of a core below a bank. -/
def State.scratchBelow (s : State) (c b : Nat) : Nat :=
  ((List.range b).filter fun i => (s.core c).modes.get 0 i = 1).length

/-- Moves every scratchpad range and byte of a core at or above an offset up, or down, by a bank. -/
def State.shiftScratch (s : State) (c pos : Nat) (up : Bool) : State :=
  let move := fun o : Nat => if o < pos then o else if up then o + 32768 else o - 32768
  let k := s.core c
  let s := s.setCore c { k with scratch := k.scratch.foldl (fun m e => m.set 0 (move e.1) e.2) [] }
  (s.residents c).foldl (fun s e => s.setGroup e.1 { e.2 with base := move e.2.base }) s

/-- Whether a resident group's range meets a range of core offsets. -/
def State.spanMeets (s : State) (c lo hi : Nat) : Bool :=
  (s.residents c).any fun e => e.2.scratch ≠ 0 && e.2.base < hi && lo < e.2.base + e.2.scratch

/-- Whether a bank can leave its mode: it holds no range and no record of spawn memory. -/
def State.bankFree (s : State) (c b : Nat) : Bool :=
  let at_ := s.scratchBelow c b * 32768
  match ((s.core c).modes.get 0 b).toNat with
  | 1 => !s.spanMeets c at_ (at_ + 32768)
  | 2 => s.bankUsed c b = 0
  | _ => true

/-- Whether a bank can become a SCRATCH bank: no range reaches over its place. -/
def State.bankFits (s : State) (c b : Nat) : Bool :=
  let at_ := s.scratchBelow c b * 32768
  !(s.residents c).any fun e => e.2.base < at_ && at_ < e.2.base + e.2.scratch

/-- Changes the mode of a bank where that is possible. -/
def State.setBank (s : State) (c b : Nat) (mode : BitVec 2) : State :=
  let old := (s.core c).modes.get 0 b
  if old = mode || mode = 3 || !s.bankFree c b || (mode = 1 && !s.bankFits c b) then s
  else
    let at_ := s.scratchBelow c b * 32768
    let s :=
      match old.toNat with
      | 0 =>
        { s with mem := { s.mem with l1 := AMap.mapVals s.mem.l1 [] fun key set =>
          if key / 256 = c then set.filter (fun l => l.bank ≠ b) else set } }
      | 1 => (s.zeroScratch c at_ 32768).shiftScratch c (at_ + 32768) false
      | _ => s
    let k := s.core c
    let s := s.setCore c { k with modes := k.modes.set 0 b mode }
    if mode = 1 then s.shiftScratch c at_ true else s

/-- Changes the banks of a core to a record's map, as far as possible; whether all have changed. -/
def State.setBanks (s : State) (c map : Nat) : Bool × State :=
  let s := (List.range 32).foldl (fun s b => s.setBank c b (BitVec.ofNat 2 (bankMode map b))) s
  ((List.range 32).all fun b => ((s.core c).modes.get 0 b).toNat = bankMode map b, s)

/-- BANK_MODE_CHANGE (R172). -/
def execBankModeChange (core bank : Nat) (mode : BitVec 2) (s : State) : Out :=
  .next (if bank < 32 && core < s.host.cores0 + s.host.cores1 then s.setBank core bank mode else s)

/-! ## Pending groups -/

/-- The lowest-numbered pending group of a launch (R95, R96). -/
def Launch.pending (la : Launch) : Option Nat :=
  let again := sortBy id la.again
  if la.phase ≠ .started || la.cancelled then none
  else
    match again with
    | n :: _ => if n < la.next then some n else some la.next
    | [] => if la.next < la.form.count then some la.next else none

/-- The group of a launch is no longer pending. -/
def Launch.took (la : Launch) (n : Nat) : Launch :=
  if la.again.contains n then { la with again := la.again.filter fun m => m ≠ n }
  else { la with next := n + 1 }

/-- What a group of a launch asks for (R90). -/
def LaunchRec.needs (f : LaunchRec) : Needs :=
  { waves := f.waves, regs := f.regs, scratch := f.scratch, tiles := f.tiles }

/-- Makes a core eligible for a launch: its banks take the launch's map before its first group there
(R93). -/
def State.openCore (s : State) (l c : Nat) : Bool × State :=
  let la := s.launch l
  if la.banked.contains c then (true, s) else s.setBanks c la.form.bankMap

/-- A group of a launch stands on a core. -/
def State.tookCore (s : State) (l c : Nat) : State :=
  let la := s.launch l
  if la.banked.contains c then s else s.setLaunch l { la with banked := c :: la.banked }

/-! ## Cores of a launch -/

/-- Whether a launch record grants a core: its index from the first granted core on (spec 05 R90). -/
def LaunchRec.grants (f : LaunchRec) (c : Nat) : Bool := f.first ≤ c && c < f.first + f.cores

end Sys2Proof.Machine
end

