-- ==== Sys2Proof/Machine/Pools.lean ====
section
/-!
DEFINITION. Which cores a context may use now, and the spawn pools of the cores: their records are offered
the free room first (spec 07 R124, R125, spec 08 R145).
-/

namespace Sys2Proof.Machine

open Sys2Proof

/-- Whether a pre-emption request names the core and the context of a unit (spec 07 R125). -/
def State.preempting (s : State) (core ctx : Nat) : Bool :=
  s.work.preempts.any fun p => p.1.contains core && p.2.contains ctx

/-- Whether a core may take a group of a context. -/
def State.mayPlace (s : State) (c ctx : Nat) : Bool := !s.preempting c ctx

/-- The groups that one core can hold, as a bound on rounds of placing. -/
def coreGroups : Nat := 64

/-- Places groups of one pool record until one does not fit. -/
def State.placeSpawned (s : State) (c : Nat) (r : PoolRec) : Nat → PoolRec × State
  | 0 => (r, s)
  | n + 1 =>
    if r.left = 0 then (r, s)
    else
      match s.placeGroup r.launch r.next r.entry
          { waves := r.waves, regs := r.regs, scratch := r.scratch, tiles := r.tiles } c true with
      | none => (r, s)
      | some s => s.placeSpawned c { r with next := r.next + 1, left := r.left - 1 } n

/-- Offers a core to its pool, oldest record first; its banks take a launch's map before the launch's first group
there (spec 05 R93). -/
def State.offerPool (s : State) (c : Nat) : State :=
  let old := (s.core c).pool
  let one := fun (a : List PoolRec × State) (r : PoolRec) =>
    if a.2.mayPlace c (a.2.launch r.launch).ctx then
      match a.2.openCore r.launch c with
      | (false, s) => (a.1 ++ [r], s)
      | (true, s) =>
        let (k, s) := s.placeSpawned c r coreGroups
        (if k.left = 0 then a.1 else a.1 ++ [k], if k.left < r.left then s.tookCore r.launch c else s)
    else (a.1 ++ [r], a.2)
  let (pool, s) := old.foldl one ([], s)
  s.setCore c { s.core c with pool := pool }

end Sys2Proof.Machine
end

