-- ==== Sys2Proof/Machine/Control.lean ====
section
/-!
DEFINITION. Control words, branches, fork and the special registers, majors 0x00 to 0x03 (spec 08 R133
to R144).
-/

namespace Sys2Proof.Machine

open Sys2Proof

/-- Nothing; its guard is ignored (R139). -/
def execNop (h : Head) (s : State) : Out := .next (s.issue (.NOP h) fun s => s.advance (.NOP h))

/-- Every lane of the own-mask exits (R139). -/
def execExit (h : Head) (s : State) : Out := .next (s.waveOp (.EXIT h) h fun s => s.exitUnit s.cur)

/-- Raises TRAP with a software code (R139, spec 01 R18, R19). -/
def execTrap (h : Head) (code : BitVec 16) (s : State) : Out :=
  .next (s.waveOp (.TRAP h code) h fun s => s.trap (.TRAP h code) (causeTrap code))

/-- Raises BRK (R139). -/
def execBrk (h : Head) (code : BitVec 16) (s : State) : Out :=
  .next (s.waveOp (.BRK h code) h fun s => s.trap (.BRK h code) causeBrk)

/-- Ends the handler; a delivered fault that it leaves at its instruction is retried (spec 01 R20,
spec 12 R198). -/
def execTret (h : Head) (s : State) : Out :=
  .next (s.issue (.TRET h) fun s => (s.trapReturn s.cur).replay s.cur 8)

/-- Stops the unit for a pre-emption, retires it when its launch is cancelled, or does nothing
(R140, spec 06 R111). -/
def execSafept (h : Head) (idx : BitVec 12) (s : State) : Out :=
  .next (s.issue (.SAFEPT h idx) fun s =>
    let w := s.unit s.cur
    if s.preempting w.core w.ctx then
      let s := s.tellLive w idx.toNat
      (s.setUnit s.cur { w with stopped := true, stopLive := some (s.liveEntry w idx.toNat) }).advance (.SAFEPT h idx)
    else if (s.launch w.launch).cancelled then s.retireHere
    else s.advance (.SAFEPT h idx))

/-- Sets the region bit (spec 07 R126). -/
def execIdemBegin (h : Head) (s : State) : Out :=
  .next (s.issue (.IDEM_BEGIN h) fun s =>
    (s.setUnit s.cur { s.unit s.cur with idem := true }).advance (.IDEM_BEGIN h))

/-- Clears the region bit; with the bit clear it has no effect (spec 07 R126). -/
def execIdemEnd (h : Head) (s : State) : Out :=
  .next (s.issue (.IDEM_END h) fun s =>
    let w := s.unit s.cur
    if w.idem then
      let s := s.setGroup w.group { s.group w.group with idemEnded := true }
      (s.setUnit s.cur { w with idem := false }).advance (.IDEM_END h)
    else s.advance (.IDEM_END h))

/-- Lanes that are open under the token arrive (spec 06 R106). -/
def execMeet (h : Head) (token : BitVec 12) (s : State) : Out :=
  .next (s.issue (.MEET h token) fun s => s.meet (.MEET h token) token.toNat)

/-- Starts dropping the lines of a range from every core's instruction and program caches (R142). -/
def execIcinv (h : Head) (base : BitVec 7) (len : BitVec 8) (s : State) : Out :=
  .next (s.waveOp (.ICINV h base len) h fun s =>
    let w := s.unit s.cur
    let va := w.val true (2 * base.toNat) (w.leader h)
    let n := (w.reg len.toNat (w.leader h)).toNat
    if 2 ^ 56 ≤ va || 2 ^ 56 < va + n then s.trap (.ICINV h base len) causeAlign
    else if n = 0 then s.advance (.ICINV h base len)
    else
      let (id, s) := s.stamp
      let s := { s with work := { s.work with
        icinvs := s.work.icinvs ++ [(id, (s.ctx w.ctx).asid, va, n)] } }
      (s.setUnit s.cur { w with icinvs := w.icinvs ++ [id] }).advance (.ICINV h base len))

/-- Waits for the wave's icinv operations, then discards the words fetched ahead (R143). -/
def execIfence (h : Head) (s : State) : Out :=
  .next (s.issue (.IFENCE h) fun s =>
    let w := s.unit s.cur
    if w.icinvs ≠ [] then s.hold s.cur
    else (s.setUnit s.cur { w with ahead := [] }).advance (.IFENCE h))

/-! ## Branches (R134) -/

/-- The current unit goes to an address. -/
def State.goto (s : State) (pc : DWord) : State := s.setUnit s.cur { s.unit s.cur with pc := pc }

/-- A branch to a PC-relative target when the guard passes; in a draw its outcome is recorded (spec 18
R265). -/
def execBra (h : Head) (off : BitVec 32) (s : State) : Out :=
  .next (s.issue (.BRA h off) fun s =>
    let w := s.unit s.cur
    let s := s.recordPath s.cur h fun _ => w.acts h
    if w.acts h then s.goto (target w.pc off.toInt) else s.advance (.BRA h off))

/-- A call: the link pair receives the address of the next word. -/
def execCall (h : Head) (link : BitVec 8) (off : BitVec 32) (s : State) : Out :=
  .next (s.waveOp (.CALL h link off) h fun s =>
    let w := s.unit s.cur
    let s := s.setUnit s.cur (w.setDest (w.destMask h) true link.toNat (w.pc.toNat + 8))
    s.goto (target w.pc off.toInt))

/-- A branch to the leader's pair; a misaligned target raises ALIGN. -/
def State.branchTo (s : State) (i : Instr) (h : Head) (r : BitVec 8) : State :=
  s.waveOp i h fun s =>
    let w := s.unit s.cur
    let t := w.val true r.toNat (w.leader h)
    if badAddr t 8 then s.trap i causeAlign else s.goto (BitVec.ofNat 64 t)

/-- A jump to the leader's target pair. -/
def execJmp (h : Head) (r : BitVec 8) (s : State) : Out := .next (s.branchTo (.JMP h r) h r)

/-- A return to the leader's link pair. -/
def execRet (h : Head) (r : BitVec 8) (s : State) : Out := .next (s.branchTo (.RET h r) h r)

/-- A branch into a table, by the leader's index. -/
def execBrx (h : Head) (r : BitVec 8) (off : BitVec 32) (s : State) : Out :=
  .next (s.waveOp (.BRX h r off) h fun s =>
    let w := s.unit s.cur
    s.goto (target w.pc (off.toInt + (w.reg r.toNat (w.leader h)).toNat)))

/-- Detaches lanes as a fragment (R135). -/
def execFork (h : Head) (k : BitVec 4) (live join : BitVec 12) (off : BitVec 32) (s : State) : Out :=
  .next (s.issue (.FORK h k live join off) fun s =>
    s.fork (.FORK h k live join off) h k.toNat live.toNat join.toNat off.toInt)

/-! ## Special registers (R141, spec 18 R261) -/

/-- %elem of an element (spec 18 R261). -/
def Elem.number (e : Elem) : Nat :=
  match e.rate with
  | .P => e.px + e.py * 2 ^ 14
  | .S => e.px + e.py * 2 ^ 14 + e.sample * 2 ^ 28
  | .K | .F | .O | .C | .V | .Y => e.ordinal

/-- The value of a special register in a lane. -/
def State.special (s : State) (w : Wave) (sp : Special) (l : Nat) : Nat :=
  let d := s.draw w.launch
  let g := s.group w.group
  let la := s.launch w.launch
  let home := w.homes.getD l (0, l)
  let e : Elem := d.elems.get {} (w.elems.getD l 0)
  match sp with
  | .lane => home.2
  | .wave => if d.live then 0 else home.1
  | .grp => if d.live then e.object else g.num
  | .ngrp => la.form.count
  | .gsize => if d.live then 32 else g.nwaves * 32
  | .gw => 32
  | .elem => if d.live then e.number else g.num * (g.nwaves * 32) + home.1 * 32 + home.2
  | .core => w.core
  | .die => if w.core < s.host.cores0 then 0 else 1
  | .cyc => (s.core w.core).cycle
  | .fflags => w.fflags.toNat
  | .tcause => w.tcause.toNat
  | .tpc => w.tpc.toNat
  | .tinst => w.tinst.toNat
  | .ncores => s.host.cores0 + s.host.cores1
  | .nslices => s.host.slices0 + s.host.slices1
  | .nchans => s.host.chans0 + s.host.chans1
  | .nports => s.host.ports
  | .rev => 0x100
  | .feat => 0

/-- Reads a special register into the acting lanes. -/
def execSysr (h : Head) (d : BitVec 8) (sp : Special) (s : State) : Out :=
  .next (s.waveOp (.SYSR h d sp) h fun s =>
    let w := s.unit s.cur
    let w' := w.eachLane (lanesOf (w.destMask h)) fun v l => v.setVal sp.wide d.toNat l (s.special w sp l)
    (s.setUnit s.cur w').advance (.SYSR h d sp))

/-- Writes the leader's value to %fflags, or to %tpc inside a handler. -/
def execSysw (h : Head) (sp : Special) (r : BitVec 8) (s : State) : Out :=
  .next (s.waveOp (.SYSW h sp r) h fun s =>
    let w := s.unit s.cur
    let v := w.val sp.wide r.toNat (w.leader h)
    if sp = .tpc then
      if badAddr v 8 then s.trap (.SYSW h sp r) causeAlign
      else (s.setUnit s.cur { w with tpc := BitVec.ofNat 64 v }).advance (.SYSW h sp r)
    else (s.setUnit s.cur { w with fflags := BitVec.ofNat 32 v &&& flagMask }).advance (.SYSW h sp r))

end Sys2Proof.Machine
end

