-- ==== Sys2Proof/Machine/CrossLane.lean ====
section
/-!
DEFINITION. Cross-lane instructions, majors 0x22 and 0x23 (spec 10 R162 to R165).
-/

namespace Sys2Proof.Machine

open Sys2Proof

/-- The lane that b names (R163). -/
def execShflIdx (h : Head) (f : AluF) (s : State) : Out :=
  .next (laneShuffle (.SHFL_IDX h f) h f (fun w l => (w.srcOrImm f f.b false l : Int)) s)

/-- The lane b positions below (R163). -/
def execShflUp (h : Head) (f : AluF) (s : State) : Out :=
  .next (laneShuffle (.SHFL_UP h f) h f (fun w l => (l : Int) - w.srcOrImm f f.b false l) s)

/-- The lane b positions above (R163). -/
def execShflDown (h : Head) (f : AluF) (s : State) : Out :=
  .next (laneShuffle (.SHFL_DOWN h f) h f (fun w l => (l : Int) + w.srcOrImm f f.b false l) s)

/-- The lane at the position xor b (R163). -/
def execShflXor (h : Head) (f : AluF) (s : State) : Out :=
  .next (laneShuffle (.SHFL_XOR h f) h f (fun w l => ((l ^^^ w.srcOrImm f f.b false l : Nat) : Int)) s)

/-- The lane that the leader's b names (R163). -/
def execBcast (h : Head) (f : AluF) (s : State) : Out :=
  .next (laneShuffle (.BCAST h f) h f (fun w _ => (w.srcOrImm f f.b false (lowestLane (w.acting h)) : Int)) s)

/-- Some active lane of kA is set (R164). -/
def execVoteAny (h : Head) (f : AluF) (s : State) : Out :=
  .next (laneVote (.VOTE_ANY h f) h f (fun w => w.kreg f.a.toNat &&& w.acting h ≠ 0) s)

/-- Every active lane of kA is set (R164). -/
def execVoteAll (h : Head) (f : AluF) (s : State) : Out :=
  .next (laneVote (.VOTE_ALL h f) h f (fun w => w.kreg f.a.toNat &&& w.acting h = w.acting h) s)

/-- All active lanes hold one value (R164). -/
def execVoteEq (h : Head) (f : AluF) (s : State) : Out :=
  .next (laneVote (.VOTE_EQ h f) h f (fun w =>
    let vs := (lanesOf (w.acting h)).map fun l => w.val f.ty.wide f.a.toNat l
    vs.all fun v => some v = vs.head?) s)

/-- The mask of active lanes with an equal value, in one register (R149, R164). -/
def execMatch (h : Head) (f : AluF) (s : State) : Out :=
  .next (laneOp (.MATCH h f) h f.d false (fun w l => pure (maskOf fun q =>
    inMask (w.acting h) q && w.val f.ty.wide f.a.toNat q = w.val f.ty.wide f.a.toNat l).toNat) s)

/-- The sum over the active lanes in increasing order (R165). -/
def execRedAdd (h : Head) (f : AluF) (s : State) : Out :=
  .next (laneRed (.RED_ADD h f) h f .add s)

/-- The minimum over the active lanes in increasing order (R165). -/
def execRedMin (h : Head) (f : AluF) (s : State) : Out :=
  .next (laneRed (.RED_MIN h f) h f .min s)

/-- The maximum over the active lanes in increasing order (R165). -/
def execRedMax (h : Head) (f : AluF) (s : State) : Out :=
  .next (laneRed (.RED_MAX h f) h f .max s)

/-- The bitwise and over the active lanes in increasing order (R165). -/
def execRedAnd (h : Head) (f : AluF) (s : State) : Out :=
  .next (laneRed (.RED_AND h f) h f .and s)

/-- The bitwise or over the active lanes in increasing order (R165). -/
def execRedOr (h : Head) (f : AluF) (s : State) : Out :=
  .next (laneRed (.RED_OR h f) h f .or s)

/-- The bitwise exclusive or over the active lanes in increasing order (R165). -/
def execRedXor (h : Head) (f : AluF) (s : State) : Out :=
  .next (laneRed (.RED_XOR h f) h f .xor s)

/-- Prefixes of the sum over the active lanes in increasing order (R165). -/
def execScanAdd (h : Head) (f : AluF) (s : State) : Out :=
  .next (laneScan (.SCAN_ADD h f) h f .add s)

/-- Prefixes of the minimum over the active lanes in increasing order (R165). -/
def execScanMin (h : Head) (f : AluF) (s : State) : Out :=
  .next (laneScan (.SCAN_MIN h f) h f .min s)

/-- Prefixes of the maximum over the active lanes in increasing order (R165). -/
def execScanMax (h : Head) (f : AluF) (s : State) : Out :=
  .next (laneScan (.SCAN_MAX h f) h f .max s)

/-- Prefixes of the bitwise and over the active lanes in increasing order (R165). -/
def execScanAnd (h : Head) (f : AluF) (s : State) : Out :=
  .next (laneScan (.SCAN_AND h f) h f .and s)

/-- Prefixes of the bitwise or over the active lanes in increasing order (R165). -/
def execScanOr (h : Head) (f : AluF) (s : State) : Out :=
  .next (laneScan (.SCAN_OR h f) h f .or s)

/-- Prefixes of the bitwise exclusive or over the active lanes in increasing order (R165). -/
def execScanXor (h : Head) (f : AluF) (s : State) : Out :=
  .next (laneScan (.SCAN_XOR h f) h f .xor s)

end Sys2Proof.Machine
end

