-- ==== Sys2Proof/Machine/Crypto.lean ====
section
/-!
DEFINITION. SHAKE256 and Ed448, which the spec names and does not define (spec 04 R86 to R89): SHAKE256 is
that of FIPS 202 and Ed448 that of RFC 8032, with the cofactor in its verification (PRESUMED, log entry 12).
-/

namespace Sys2Proof.Machine

open Sys2Proof

/-! ## SHAKE256 -/

/-- The 25 lanes of a Keccak state, lane (x, y) at x + 5y. -/
abbrev Lanes := List (BitVec 64)

def Lanes.at_ (a : Lanes) (x y : Nat) : BitVec 64 := a.getD (x % 5 + 5 * (y % 5)) 0

/-- A state whose lane (x, y) is f x y. -/
def lanesBy (f : Nat → Nat → BitVec 64) : Lanes := (List.range 25).map fun i => f (i % 5) (i / 5)

/-- The rotation of lane (x, y), which step t of the walk that takes (x, y) to (y, 2x + 3y) from (1, 0) reaches
after t others, is the triangular number of t + 1; lane (0, 0), which the walk leaves out, is not rotated. -/
def keccakTurn (x y : Nat) : Nat :=
  let path := (List.range 24).foldl (fun (ps : List (Nat × Nat)) _ =>
    match ps with
    | p :: _ => (p.2, (2 * p.1 + 3 * p.2) % 5) :: ps
    | [] => [(1, 0)]) []
  match path.reverse.findIdx? fun p => p = (x % 5, y % 5) with
  | some t => (t + 1) * (t + 2) / 2 % 64
  | none => 0

/-- The next state of the register of eight bits that gives the constants' bits. -/
def keccakShift (r : Nat) : Nat := if r < 128 then 2 * r else (2 * r) ^^^ 0x171

/-- The constant of a round and the register after it, from the register before: bit 2^j - 1 is its low bit
after j shifts, for j below 7. -/
def keccakConst (r : Nat) : Nat × Nat :=
  (List.range 7).foldl (fun (c : Nat × Nat) j => (c.1 + c.2 % 2 * 2 ^ (2 ^ j - 1), keccakShift c.2)) (0, r)

/-- The column parities of a state go into its lanes. -/
def keccakTheta (a : Lanes) : Lanes :=
  let c := (List.range 5).map fun x => (List.range 5).foldl (fun v y => v ^^^ a.at_ x y) 0
  let col := fun x : Nat => c.getD (x % 5) 0
  lanesBy fun x y => a.at_ x y ^^^ (col (x + 4) ^^^ (col (x + 1)).rotateLeft 1)

/-- Every lane is rotated and goes to its place. -/
def keccakRhoPi (a : Lanes) : Lanes :=
  lanesBy fun x y =>
    let u := (x + 3 * y) % 5
    (a.at_ u x).rotateLeft (keccakTurn u x)

/-- The rows are combined. -/
def keccakChi (a : Lanes) : Lanes :=
  lanesBy fun x y => a.at_ x y ^^^ (~~~(a.at_ (x + 1) y) &&& a.at_ (x + 2) y)

/-- One round. -/
def keccakRound (a : Lanes) (k : Nat) : Lanes :=
  let b := keccakChi (keccakRhoPi (keccakTheta a))
  b.set 0 (b.at_ 0 0 ^^^ BitVec.ofNat 64 k)

/-- Keccak-f[1600]. -/
def keccak (a : Lanes) : Lanes :=
  ((List.range 24).foldl (fun (c : Lanes × Nat) _ =>
    let k := keccakConst c.2
    (keccakRound c.1 k.1, k.2)) (a, 1)).1

/-- Bytes of a block that the sponge takes or gives. -/
def shakeRate : Nat := 136

/-- The bytes of a state that the sponge gives. -/
def Lanes.out (a : Lanes) : List Byte :=
  (List.range 17).flatMap fun i => leBytes (a.getD i 0).toNat 8

/-- A state takes a block of 136 bytes. -/
def Lanes.absorb (a : Lanes) (b : List Byte) : Lanes :=
  keccak ((List.range 25).map fun i =>
    a.getD i 0 ^^^ if i < 17 then BitVec.ofNat 64 (leNat ((b.drop (8 * i)).take 8)) else 0)

/-- A message filled up to whole blocks. -/
def shakePad (m : List Byte) : List Byte :=
  let z := shakeRate - 1 - m.length % shakeRate
  if z = 0 then m ++ [0x9F] else m ++ 0x1F :: List.replicate (z - 1) 0 ++ [0x80]

/-- The state after n blocks of a padded message. -/
def shakeTake (a : Lanes) (m : List Byte) : Nat → Lanes
  | 0 => a
  | n + 1 => shakeTake (a.absorb (m.take shakeRate)) (m.drop shakeRate) n

/-- The bytes of n blocks of output. -/
def shakeGive (a : Lanes) : Nat → List Byte
  | 0 => []
  | n + 1 => a.out ++ shakeGive (keccak a) n

/-- SHAKE256 with n bytes of output. -/
def shake256 (m : List Byte) (n : Nat) : List Byte :=
  let p := shakePad m
  (shakeGive (shakeTake (List.replicate 25 0) p (p.length / shakeRate)) (n / shakeRate + 1)).take n

/-- SHAKE256 with 512 bits of output (R86). -/
def shake512 (m : List Byte) : List Byte := shake256 m 64

/-! ## Ed448 -/

/-- The prime of the field, the constant of the curve x² + y² = 1 + d x² y², and the order of its group. -/
def edP : Nat := 2 ^ 448 - 2 ^ 224 - 1
def edD : Nat := edP - 39081
def edL : Nat := 2 ^ 446 - 13818066809895115352007386748515426880336692474882178609894547503885

/-- b to the power e modulo p: the bits of e from the lowest on, at most `fuel` of them. -/
def powMod (p : Nat) : Nat → Nat → Nat → Nat
  | 0, _, _ => 1
  | fuel + 1, b, e =>
    if e = 0 then 1
    else
      let r := powMod p fuel (b * b % p) (e / 2)
      if e % 2 = 1 then r * b % p else r

/-- a − b in the field. -/
def edSub (a b : Nat) : Nat := (a + (edP - b % edP)) % edP

/-- A point in projective coordinates. -/
structure EdPoint where
  x : Nat
  y : Nat
  z : Nat
  deriving DecidableEq, Repr

/-- The neutral point and the base point. -/
def edZero : EdPoint := ⟨0, 1, 1⟩
def edBase : EdPoint :=
  { x := 224580040295924300187604334099896036246789641632564134246125461686950415467406032909029192869357953282578032075146446173674602635247710
    y := 298819210078481492676017930443930673437544040154080242095928241372331506189835876003536878655418784733982303233503462500531545062832660
    z := 1 }

/-- The sum of two points; the formula holds for every pair. -/
def EdPoint.add (u v : EdPoint) : EdPoint :=
  let a := u.z * v.z % edP
  let b := a * a % edP
  let c := u.x * v.x % edP
  let d := u.y * v.y % edP
  let e := edD * (c * d % edP) % edP
  let f := edSub b e
  let g := (b + e) % edP
  let h := (u.x + u.y) * (v.x + v.y) % edP
  { x := a * f % edP * edSub (edSub h c) d % edP, y := a * g % edP * edSub d c % edP, z := f * g % edP }

/-- n times a point, for n below 2^fuel. -/
def EdPoint.mul (u : EdPoint) : Nat → Nat → EdPoint
  | 0, _ => edZero
  | fuel + 1, n =>
    if n = 0 then edZero
    else
      let r := (u.add u).mul fuel (n / 2)
      if n % 2 = 1 then r.add u else r

/-- Whether two points are one. -/
def EdPoint.same (u v : EdPoint) : Bool :=
  u.x * v.z % edP = v.x * u.z % edP && u.y * v.z % edP = v.y * u.z % edP

/-- The point that 57 bytes encode; none where they encode no point. -/
def edDecode (b : List Byte) : Option EdPoint :=
  let n := leNat b
  let sign := n / 2 ^ 455 % 2
  let y := n % 2 ^ 455
  let u := edSub (y * y % edP) 1
  let v := edSub (edD * (y * y % edP) % edP) 1
  let u3 := u * u % edP * u % edP
  let v3 := v * v % edP * v % edP
  let root := powMod edP 448 (u3 * u % edP * u % edP * v3 % edP) ((edP - 3) / 4)
  let x := u3 * v % edP * root % edP
  if b.length ≠ 57 || edP ≤ y || v * (x * x % edP) % edP ≠ u || (x = 0 && sign = 1) then none
  else some { x := if x % 2 = sign then x else edP - x, y := y, z := 1 }

/-- The 57 bytes of a point. -/
def EdPoint.encode (u : EdPoint) : List Byte :=
  let i := powMod edP 448 u.z (edP - 2)
  leBytes (u.y * i % edP + u.x * i % edP % 2 * 2 ^ 455) 57

/-- What precedes the hashed bytes, with a context string. -/
def edDom (context : List Byte) : List Byte :=
  [0x53, 0x69, 0x67, 0x45, 0x64, 0x34, 0x34, 0x38, 0] ++ leBytes context.length 1 ++ context

/-- A hash as a number modulo the order of the group. -/
def edHash (bs : List Byte) : Nat := leNat (shake256 bs 114) % edL

/-- Whether a signature of 114 bytes by a public key holds for a message under a context string. -/
def ed448Verify (sig key msg context : List Byte) : Bool :=
  let r := sig.take 57
  let n := leNat (sig.drop 57)
  match edDecode r, edDecode key with
  | some p, some q =>
    let k := edHash (edDom context ++ r ++ key ++ msg)
    sig.length = 114 && n < edL && (edBase.mul 450 (4 * n)).same ((p.mul 3 4).add (q.mul 450 (4 * k)))
  | _, _ => false

/-- The secret number and the prefix of a seed. -/
def edSecret (seed : List Byte) : Nat × List Byte :=
  let h := shake256 seed 114
  let n := leNat (h.take 55) % 2 ^ 440
  ((n - n % 4) + (leNat ((h.drop 55).take 1) % 128 + 128) * 2 ^ 440, h.drop 57)

/-- The public key of a seed. -/
def edPublic (seed : List Byte) : List Byte := (edBase.mul 448 (edSecret seed).1).encode

/-- The signature by a seed's key of a message under a context string. -/
def edSign (seed msg context : List Byte) : List Byte :=
  let (a, front) := edSecret seed
  let r := edHash (edDom context ++ front ++ msg)
  let point := (edBase.mul 448 r).encode
  let k := edHash (edDom context ++ point ++ edPublic seed ++ msg)
  point ++ leBytes ((r + k * a) % edL) 57

/-- The device identity key: its public half, and a signature by it (R88, R89). -/
def identityKey : List Byte := edPublic (leBytes Config.identitySeed.toNat 57)

def identitySign (msg context : List Byte) : List Byte :=
  edSign (leBytes Config.identitySeed.toNat 57) msg context

end Sys2Proof.Machine
end

