-- ==== Sys2Proof/Machine/DrawEnd.lean ====
section
/-!
DEFINITION. The end of a draw: the depth decisions and target writes of its samples in primitive order,
the depth pyramid and the two counters (spec 17 R258, R260, spec 18 R276, R277, spec 19 R289 to R291).
-/

namespace Sys2Proof.Machine

open Sys2Proof

/-- Hands a fault of a draw's access to the firmware, once for a line. -/
def State.targetFault (s : State) (l object va : Nat) (c : DFault) (why : Absence) (write : Bool) :
    State :=
  let asid := (s.ctx (s.launch l).ctx).asid
  if s.mem.faults.any fun f => f.va / 128 = va / 128 && match f.who with
      | .target m _ => m = l
      | _ => false then s
  else (s.raiseFault (.target l object) asid va c why write).2

/-- The request of a draw at an address, for an object. -/
def State.targetReq (s : State) (l object va : Nat) : Req :=
  { s.storeReq l va with who := .target l object, lane := 0 }

/-- An access, a read or a write, whose fault the firmware did not resolve is made no more: the draw goes on
without it. -/
def State.passDropped (s : State) (l va : Nat) (write : Bool) : Bool × State :=
  let d := s.draw l
  if d.dropped.contains (va, write) then (true, s.setDraw l { d with dropped := d.dropped.erase (va, write) })
  else (false, s)

/-- Reads bytes of a depth buffer or target; none where the access faults or stalls. One whose fault the
firmware did not resolve reads a free value. -/
def State.targetRead (s : State) (l object va n : Nat) : Option (List Byte) × State :=
  match s.passDropped l va false with
  | (true, s) =>
    let (v, s) := s.fresh
    (some (leBytes v.toNat n), s)
  | (false, s) =>
    match s.readHome (s.targetReq l object va) n with
    | (.bytes bs, s) => (some bs, s)
    | (.fault c why, s) => (none, s.targetFault l object va c why false)
    | (.stall p, s) => (none, s.addStall p (s.targetReq l object va).asid va (.target l object) false)

/-- Writes bytes of a depth buffer or target, as weak stores; whether the write is done. -/
def State.targetWrite (s : State) (l object va : Nat) (bs : List Byte) : Bool × State :=
  match s.writeHome (s.targetReq l object va) bs 0 with
  | (.bytes _, s) => (true, s)
  | (.fault c why, s) => (false, s.targetFault l object va c why true)
  | (.stall p, s) => (false, s.addStall p (s.targetReq l object va).asid va (.target l object) true)

/-- Whether a depth's test has passed and its write waits. -/
def State.setPassing (s : State) (l va : Nat) (waits : Bool) : State :=
  let d := s.draw l
  let rest := d.passing.filter fun a => a ≠ va
  s.setDraw l { d with passing := if waits then va :: rest else rest }

/-- The depth test and the depth write of a sample; none where an access must wait (R276). A test that has passed is
not made again for a write that waits, and a write that faulted and was not resolved is dropped, the sample having
passed (R291). -/
def State.testDepth (s : State) (l object px py n : Nat) (z : Word) : Option Bool × State :=
  let b := (s.draw l).blk
  let va := b.depthAt px py n
  let put := fun s : State =>
    if !b.writes then (some true, s)
    else
      match s.targetWrite l object va (leBytes z.toNat 4) with
      | (true, t) => (some true, ((t.unsoil s).setDraw l { t.draw l with wrote := true }).setPassing l va false)
      | (false, t) => (none, t.setPassing l va true)
  match s.passDropped l va true with
  | (true, s) => (some true, s.setPassing l va false)
  | (false, s) =>
  if !b.tests || (s.draw l).passing.contains va then put s
  else
    match s.targetRead l object va 4 with
    | (none, s) => (none, s)
    | (some bs, s) => if b.passes z.toNat (leNat bs) then put s else (some false, s)

/-- The target writes of an element for a sample, in issue order. -/
def Draw.putsOf (d : Draw) (x : Sample) (e : Elem) : List Put :=
  e.colours.filterMap fun c =>
    let t := d.targets.getD c.target {}
    let bs := c.bytes t.format
    if bs = [] || t.base = 0 then none
    else
      some { addr := t.base + d.blk.sampleIndex x.px x.py x.s * bs.length, bytes := bs
             adds := t.blend = 1, object := e.object }

/-- The writes of a sample: those of its P element, then those of its S element (R291). -/
def Draw.samplePuts (d : Draw) (x : Sample) : List Put :=
  d.putsOf x (d.elems.get {} x.pelem)
    ++ if x.selem = 0 then [] else d.putsOf x (d.elems.get {} (x.selem - 1))

/-- A target write that faulted, in the read that an ADD makes or in its write, and was not resolved is dropped. -/
def State.passPut (s : State) (l : Nat) (p : Put) : Bool × State :=
  match s.passDropped l p.addr true with
  | (true, s) => (true, s)
  | (false, s) => if p.adds then s.passDropped l p.addr false else (false, s)

/-- Performs target writes up to one that must wait; those that remain. An ADD that has read its bytes keeps their sum
while its write waits, and reads no more (spec 16 R254). -/
def State.runPuts (s : State) (l : Nat) : List Put → List Put × State
  | [] => ([], s)
  | p :: rest =>
    let go := fun (s : State) (bs : List Byte) =>
      match s.targetWrite l p.object p.addr bs with
      | (true, s) => s.runPuts l rest
      | (false, s) => ({ p with bytes := bs, adds := false } :: rest, s)
    match s.passPut l p with
    | (true, s) => s.runPuts l rest
    | (false, s) =>
      if !p.adds then go s p.bytes
      else
        match s.targetRead l p.object p.addr p.bytes.length with
        | (none, s) => (p :: rest, s)
        | (some old, s) => go s (addChannels old p.bytes)

/-- The depth that zwr set for a sample: its S element's, else its P element's (R289). -/
def Draw.zwrOf (d : Draw) (x : Sample) : Option Word :=
  let s := if x.selem = 0 then none else (d.elems.get {} (x.selem - 1)).zwr
  match s with
  | some z => some z
  | none => (d.elems.get {} x.pelem).zwr

/-- Decides a sample of a draw whose entry holds zwr; none where it must wait. In other draws the sample
was decided when it was made. -/
def State.decide (s : State) (l : Nat) (x : Sample) : Option Bool × State :=
  let d := s.draw l
  if !d.hasZwr then (some true, s)
  else
    let z := (d.zwrOf x).getD x.depth
    if !depthStands z.toNat then (some false, s)
    else s.testDepth l (d.elems.get {} x.pelem).object x.px x.py x.s z

/-- Performs samples in order up to one that must wait; those that remain. -/
def State.runSamples (s : State) (l : Nat) : List Sample → List Sample × State
  | [] => ([], s)
  | x :: rest =>
    match s.decide l x with
    | (none, s) => (x :: rest, s)
    | (some false, s) => s.runSamples l rest
    | (some true, s) =>
      let d := s.draw l
      let s := if d.hasZwr then s.setDraw l { d with passed := d.passed + 1 } else s
      match s.runPuts l (d.samplePuts x) with
      | ([], s) => s.runSamples l rest
      | (puts, s) => (rest, s.setDraw l { s.draw l with puts := puts })

/-- A draw completes, once every access of it has been performed (spec 17 R260). -/
def State.completeDraw (s : State) (l : Nat) : State :=
  if s.leaves l then s
  else
    let la := s.launch l
    (s.endDraw l).finishLaunch l .completed la.finalCount

/-- Where a sample's primitive stands: object, cluster, primitive (R276). -/
def Draw.primKey (d : Draw) (p : Nat) : Nat × Nat × Nat :=
  let q : Prim := d.prims.get {} p
  let c : Elem := d.elems.get {} q.cluster
  (c.object, c.ordinal, q.index)

/-- Whether one primitive stands before another. -/
def keyBefore (a b : Nat × Nat × Nat) : Bool :=
  a.1 < b.1 || (a.1 = b.1 && (a.2.1 < b.2.1 || (a.2.1 = b.2.1 && a.2.2 < b.2.2)))

/-- Whether every primitive that stands before one has been rasterised, and no earlier one can still
come: the early depth test takes primitives in their order (R276). -/
def State.inOrder (s : State) (l p : Nat) : Bool :=
  let d := s.draw l
  let key := d.primKey p
  let open_ := fun e : Elem => e.phase = .ready || e.phase = .running
  let coming := d.elems.any fun k =>
    (k.2.rate = .O && open_ k.2 && k.2.object ≤ key.1)
      || (k.2.rate = .C && open_ k.2 && keyBefore (k.2.object, k.2.ordinal, 0) key)
      || (k.2.rate = .F && open_ k.2)
  !coming && key.1 < d.objects
    && d.prims.all fun k => !k.2.live || !keyBefore (d.primKey k.1) key || k.2.rastered

/-- The next sample of a draw with zwr that can be tested: its element has retired and its pixel's has exited, no
primitive before its own can still come, and no sample of its position stands before it (R276). -/
def State.nextSample (s : State) (l : Nat) : Option Sample :=
  let d := s.draw l
  let before := fun y x : Sample => y.px = x.px && y.py = x.py && y.s = x.s
    && keyBefore (d.primKey y.prim) (d.primKey x.prim)
  d.samples.find? fun x =>
    (d.elem (x.selem - 1)).phase = .retired
      && ((d.elem x.pelem).phase = .exited || (d.elem x.pelem).phase = .retired) && s.inOrder l x.prim && !d.samples.any fun y => before y x

/-- Tests the samples of a draw with zwr whose turn has come, and performs their writes, up to an access that
must wait. -/
def State.takeSamples (s : State) (l : Nat) : Nat → State
  | 0 => s
  | n + 1 =>
    match (if (s.draw l).hasZwr then s.nextSample l else none) with
    | none => s
    | some x =>
      match s.decide l x with
      | (none, s) => s
      | (some ok, s) =>
        let d := s.draw l
        let d := { d with samples := d.samples.filter fun y => y ≠ x, passed := d.passed + ok.toNat }
        let s := s.setDraw l d
        match s.runPuts l (if ok then d.samplePuts x else []) with
        | ([], s) => s.takeSamples l n
        | (puts, s) => s.setDraw l { s.draw l with puts := puts }

/-- A draw that waited for an access goes on: with its target writes, then with its samples; it completes after
the last once its F element has retired. -/
def State.resumeDraw (s : State) (l : Nat) : State :=
  match s.runPuts l (s.draw l).puts with
  | ([], s) =>
    let s := s.setDraw l { s.draw l with puts := [] }
    if !(s.draw l).finishing then s.takeSamples l (s.draw l).samples.length
    else
      let (rest, s) := s.runSamples l (s.draw l).todo
      let s := s.setDraw l { s.draw l with todo := rest }
      if rest = [] && (s.draw l).puts = [] then s.completeDraw l else s
  | (puts, s) => s.setDraw l { s.draw l with puts := puts }

/-- Puts a sample in its place in primitive order, after those of its own primitive. -/
def Draw.insertSample (d : Draw) (x : Sample) : List Sample → List Sample
  | [] => [x]
  | y :: rest =>
    if keyBefore (d.primKey x.prim) (d.primKey y.prim) then x :: y :: rest
    else y :: d.insertSample x rest

/-- The F element has retired: the samples of the draw are taken in primitive order. -/
def State.finishDraw (s : State) (l : Nat) : State :=
  let d := s.draw l
  let todo := d.samples.foldl (fun m x => d.insertSample x m) []
  (s.setDraw l { d with finishing := true, todo := todo }).resumeDraw l

/-- The last store that a unit has left behind is performed: the unit is gone, and its launch may complete (spec 05
R97, spec 17 R260; log entry 112). -/
def State.endLeft (s : State) (u : Nat) : State :=
  let w := s.unit u
  if w.left.isNone || w.pend ≠ [] then s
  else
    let s := s.setUnit u {}
    if (s.draw w.launch).finishing then s.resumeDraw w.launch else s.checkLaunch w.launch

end Sys2Proof.Machine
end

