-- ==== Sys2Proof/Machine/Waiting.lean ====
section
/-!
DEFINITION. waitu with the registration at a monitor, and sleep (spec 14).
-/

namespace Sys2Proof.Machine

open Sys2Proof

/-- The capacity of a monitor table (R214). -/
def tableSize : Nat := 2048

/-- Writes an entry to the table. -/
def State.addEntry (s : State) (sl : Nat) (e : MonEntry) : State :=
  let c := s.slice sl
  let t := c.table ++ [e]
  s.setSlice sl { c with table := t
                         counters := { c.counters with highWater := max c.counters.highWater t.length } }

/-- Spills an entry to its context's segment of the slice; none when the segment is full (R219). -/
def State.spillEntry (s : State) (sl : Nat) (e : MonEntry) : Option State :=
  let c := s.slice sl
  let used := (c.spilled.filter fun p => p.entry.ctx = e.ctx).map fun p => p.index
  match (List.range (used.length + 1)).find? fun i => !used.contains i with
  | some i =>
    if i < (s.ctx e.ctx).spillSeg then
      let e := { e with moved := true }
      let s := s.setSlice sl
        { c with spilled := c.spilled ++ [{ entry := e, index := i }]
                 counters := { c.counters with spills := bump c.counters.spills } }
      some (s.localWrite (s.spillPa sl e.ctx i) (e.record true))
    else none
  | none => none

/-- Counts an answer or a removal with SPILL_FULL (R226). -/
def State.countFull (s : State) (sl : Nat) : State :=
  let c := s.slice sl
  s.setSlice sl { c with counters := { c.counters with spillFull := bump c.counters.spillFull } }

/-- The entry that a class-0 registration displaces: of the largest class number present, the youngest, also
where it has ended and only waits for its wake to be taken (R215, R221). -/
def displaced (t : List MonEntry) : Option MonEntry :=
  let live := t.filter fun e => e.cls ≠ 0
  (live.filter fun e => live.all fun f => f.cls < e.cls || (f.cls = e.cls && f.stamp ≤ e.stamp)).head?

/-- An entry that finds no place in the table is spilled; none where its segment is full, which is counted. One that
has ended is never evaluated again, so it stands beside the table (R219, R221; log entry 62). -/
def State.spillOut (s : State) (sl : Nat) (e : MonEntry) : Bool × State :=
  if e.fired.isSome then
    let c := s.slice sl
    (true, s.setSlice sl { c with waking := c.waking ++ [e] })
  else
    match s.spillEntry sl e with
    | some s => (true, s)
    | none => (false, s.countFull sl)

/-- Steps 4 to 6 of a registration: the status it answers, or none where an entry stands (R215). -/
def State.place (s : State) (sl : Nat) (e : MonEntry) : Option Nat × State :=
  let c := s.slice sl
  let spill := fun s : State =>
    match s.spillOut sl e with
    | (true, s) => (none, s)
    | (false, s) => (some 2, s)
  if c.table.length < tableSize then (none, s.addEntry sl e)
  else if e.cls = 0 then
    match displaced c.table with
    | none => spill s
    | some d =>
      let s := s.setSlice sl { c with table := c.table.filter fun x => x.token ≠ d.token }
      match (s.addEntry sl e).spillOut sl d with
      | (true, s) => (none, s)
      | (false, s) => (none, s.endAside sl d 2)
  else spill s

/-- Steps 2 to 6 of a registration against the bytes of its line: the status, or none where an entry
stands (R215). -/
def State.judgeWait (s : State) (sl : Nat) (l : Line) (e : MonEntry) (limit : Nat) : Option Nat × State :=
  let now := (s.slice sl).cycle
  let (data, s) := s.blur l.asid (l.va * 128) l.data
  if e.holdsIn data then (some 0, s)
  else if limit = 0 then (some 1, s)
  else s.place sl { e with deadline := if limit = 0xFFFF_FFFF then none else some (now + 256 * limit) }

/-- What a registration answers. -/
inductive Registered
  | status (n : Nat)
  | parked (token : Nat)
  | fault (c : DFault) (why : Absence)
  | stall (at_ : StallAt)
  deriving DecidableEq, Repr

/-- The dispatch complex holds a token for a unit. -/
def State.holdToken (s : State) (token u : Nat) : State :=
  { s with work := { s.work with tokens := s.work.tokens.set 0 token (u + 1) } }

/-- Registers the wait of a unit, as one indivisible step (R215). A wait on peer memory is registered at
the serving device, where its entry stands (R214, R224). -/
def State.register (s : State) (u : Nat) (f : WaituF) (va operand limit : Nat) : Registered × State :=
  let w := s.unit u
  let q := { s.reqOf u va with r := true }
  let n := s.seq
  let (token, s) := s.newToken
  match s.access q with
  | (.fault c why, s) => (.fault c why, s)
  | (.stall p, s) => (.stall p, s)
  | (.line sl l, s) =>
    let e : MonEntry :=
      { asid := tagAsid q.asid va, va := va, wide := f.wide, signed := f.signed, cmp := f.cmp
        operand := BitVec.ofNat 64 operand, deadline := none, cls := s.classOf w.launch, ctx := w.ctx
        token := token, core := w.core, part := w.part, slot := w.slot, stamp := n, moved := false
        fired := none }
    match s.judgeWait sl l e limit with
    | (some st, s) => (.status st, s)
    | (none, s) => (.parked token, s.holdToken token u)
  | (.peer node _, s) =>
    match s.askPeer q node (.wait f.cmp f.signed f.wide operand limit (s.classOf w.launch)) 0 with
    | (.unreachable, s) => (.fault .unreachable .other, s)
    | (.wait id, s) => (.stall (.peer id), s)
    | (.answer id .parked, s) =>
      let s := s.holdToken token u
      let w : PeerWait := { id := id, token := token, node := node }
      (.parked token, { s with mem := { s.mem with peerWaits := s.mem.peerWaits ++ [w] } })
    | (.answer _ (.status n), s) => (.status n, s)
    | (.answer _ .ecc, s) => (.fault .ecc .other, s)
    | (.answer _ .perm, s) => (.fault .perm .other, s)
    | (.answer _ .notPresent, s) | (.answer _ (.data _), s) => (.fault .notPresent .other, s)

/-- A registration at another device that a unit has asked for, and that is not its own any more, is cancelled there
(R222). -/
def State.dropAsked (s : State) (u : Nat) : State :=
  let asks := fun m : PeerMsg =>
    m.who = .unit u 0 && (match m.acc with | .wait _ _ _ _ _ _ => true | _ => false)
  let open_ := (s.mem.peerOut.filter asks).filter fun m => m.answer.isNone || m.answer = some .parked
  let s := open_.foldl (fun s m => s.sendCancel (s.unit u).ctx m.node m.id) s
  { s with mem := { s.mem with peerOut := s.mem.peerOut.filter fun m => !asks m } }

/-- waitu (R223, R224). -/
def execWaitu (h : Head) (f : WaituF) (s : State) : Out :=
  let i := Instr.WAITU h f
  .next (s.waveOp i h fun s =>
    let n : Nat := if f.wide then 8 else 4
    let (r, s) := s.leaderReq fun w =>
      let l := w.leader h
      let base := w.val true (2 * f.base.toNat) l
      let limit := match f.ext with
        | some e => e.toNat
        | none => (w.reg f.limit.toNat l).toNat
      { lane := (w.destMask h).toNat, addr := wrap 64 ((base : Int) + f.disp.toInt * n)
        data := leBytes (w.val f.wide f.operand.toNat l) 8 ++ leBytes limit 4 }
    let w := s.unit s.cur
    let lanes : Mask := BitVec.ofNat 32 r.lane
    let answer := fun (s : State) (st : Nat) =>
      let w := s.unit s.cur
      let s := s.setUnit s.cur (w.setDest lanes false f.d.toNat st)
      (s.l1Drop w.core (tagAsid (s.ctx w.ctx).asid r.addr) (r.addr / 128)).advance i
    if badAddr r.addr n then s.trap i causeAlign
    else if (s.launch w.launch).cancelled then answer (s.dropAsked s.cur) 3
    else
      match s.register s.cur f r.addr (leNat (r.data.take 8)) (leNat (r.data.drop 8)) with
      | (.status st, s) => answer s st
      | (.fault c why, s) => s.leaderFault i r r.addr c why false
      | (.stall p, s) => s.leaderStall i r r.addr p false
      | (.parked token, s) =>
        let w := s.unit s.cur
        let park := Park.waitu (s.ctx w.ctx).asid r.addr token f.d.toNat lanes
        (s.setUnit s.cur { w with park := park, parkedAt := (s.core w.core).cycle }).advance i)

/-- sleep: the unit parks for a count of core cycles (R225). -/
def execSleep (h : Head) (f : AluF) (s : State) : Out :=
  .next (s.waveOp (.SLEEP h f) h fun s =>
    let w := s.unit s.cur
    let n := w.srcOrImm f f.a false (w.leader h) % 2 ^ 32
    if n = 0 then s.advance (.SLEEP h f)
    else
      (s.setUnit s.cur { w with park := .sleep n, parkedAt := (s.core w.core).cycle }).advance
        (.SLEEP h f))

end Sys2Proof.Machine
end

