-- ==== Sys2Proof/Machine/Outside.lean ====
section
/-!
DEFINITION. Accesses of the host and of other devices as the slices perform them: reads, stores, atomics,
fetches and registrations, their answers, and those that wait (spec 14 R214, R224, spec 16 R247, R254).
-/

namespace Sys2Proof.Machine

open Sys2Proof

/-- The number of contexts (spec 16 R251). -/
def maxContexts : Nat := 4096

/-- The context number that lines and entries from outside are charged to: none holds a quota, or a spill
segment, under it. -/
def outsideCtx : Nat := maxContexts

/-- Whether an access writes. -/
def accWrites : PeerAcc → Bool
  | .write _ => true
  | .atomic _ _ _ _ _ => true
  | .read _ | .fetch _ | .wait _ _ _ _ _ _ | .cancel _ => false

/-- The answer that a fault is to another device (R254). -/
def faultReply : DFault → PeerReply
  | .perm => .perm
  | .ecc => .ecc
  | .notPresent | .fetch | .starved | .unreachable => .notPresent

/-- What an access from outside gives: its answer, a fault or a stalled fill. -/
inductive OutGot
  | answer (r : PeerReply)
  | fault (c : DFault) (why : Absence)
  | stall (at_ : StallAt)
  deriving DecidableEq, Repr

/-- Bytes as an answer. -/
def Got.out : Got → OutGot
  | .bytes bs => .answer (.data bs)
  | .fault c why => .fault c why
  | .stall p => .stall p

/-- An access from outside is done with. -/
def State.dropOut (s : State) (num : Nat) : State :=
  { s with mem := { s.mem with outs := s.mem.outs.filter fun r => r.num ≠ num } }

/-- The wait that a request of a node has registered here, or is about to register, is cancelled (spec 14 R222). -/
def State.cancelThere (s : State) (node : BitVec 22) (id : Nat) : State :=
  let s := s.dropEntries fun e => e.peer = some (node, id)
  let s := { s with mem := { s.mem with wakes := s.mem.wakes.filter fun w => w.entry.peer ≠ some (node, id) } }
  (s.mem.outs.filter fun r => r.node = some node && r.id = id).foldl
    (fun s r => (s.forget fun w => w = .outside r.num).dropOut r.num) s

/-- Performs an access from outside at its home slices. A page of a third device is not present here. The
entry of a wait is that of a wave of another device: its context has no spill segment. -/
def State.outsideTry (s : State) (r : OutReq) : OutGot × State :=
  let q : Req :=
    { ctx := outsideCtx, asid := r.asid, va := r.va, who := .outside r.num, lane := 0, obs := r.obs }
  match r.acc with
  | .read n => let (got, s) := s.readRange q n; (Got.out got, s)
  | .write bs =>
    match s.writeRange q bs r.obs with
    | (.bytes _, s) => (.answer (.data []), s)
    | (.fault c why, s) => (.fault c why, s)
    | (.stall p, s) => (.stall p, s)
  | .fetch n =>
    match s.access { q with x := true } with
    | (.line _ l, s) =>
      if l.poison then (.fault .ecc .other, s)
      else
        let (bs, s) := s.lineBytesAt q l n
        (.answer (.data bs), s)
    | (.peer _ _, s) => (.fault .notPresent .other, s)
    | (.fault c why, s) => (.fault c why, s)
    | (.stall p, s) => (.stall p, s)
  | .atomic op kind wide a b =>
    let n := if wide then 8 else 4
    match s.atomHere q n fun old => atomNew op kind wide old a b with
    | (some _, _, s) => (.fault .notPresent .other, s)
    | (none, got, s) => (Got.out got, s)
  | .wait cmp signed wide operand limit cls =>
    match s.access { q with r := true } with
    | (.line sl l, s) =>
      let (n, s) := s.stamp
      let e : MonEntry :=
        { asid := tagAsid r.asid r.va, va := r.va, wide := wide, signed := signed, cmp := cmp
          operand := BitVec.ofNat 64 operand, deadline := none, cls := cls, ctx := outsideCtx
          token := 2 ^ 32 + n, core := 0, part := 0, slot := 0, stamp := n, moved := false, fired := none
          peer := some (r.node.getD 0, r.id) }
      match s.judgeWait sl l e limit with
      | (some st, s) => (.answer (.status st), s)
      | (none, s) => (.answer .parked, s)
    | (.peer _ _, s) => (.fault .notPresent .other, s)
    | (.fault c why, s) => (.fault c why, s)
    | (.stall p, s) => (.stall p, s)
  | .cancel id => (.answer (.data []), s.cancelThere (r.node.getD 0) id)

/-- Gives an answer to the host, or to a node. -/
def State.reply (s : State) (node : Option (BitVec 22)) (id : Nat) (r : PeerReply) : State :=
  { s with mem := { s.mem with replies := s.mem.replies ++ [{ node := node, id := id, r := r }] } }

/-- The bytes that an access from outside reaches. -/
def OutReq.size (r : OutReq) : Nat :=
  match r.acc with
  | .read n | .fetch n => n
  | .write bs => bs.length
  | .atomic _ _ wide _ _ | .wait _ _ wide _ _ _ => if wide then 8 else 4
  | .cancel _ => 0

/-- Whether an earlier access of the same party to a byte of an access still waits: those of one party to a byte are
performed in order (spec 13 R202). -/
def State.outBehind (s : State) (r : OutReq) : Bool :=
  s.mem.outs.any fun p => p.num < r.num && p.node = r.node
    && touches (tagAsid p.asid p.va) p.va p.size (tagAsid r.asid r.va) r.va r.size

/-- Performs an access from outside that the device holds: it is answered, or waits until its fill goes on, its
fault is resolved or the accesses before it are performed. A fault of an access of another device is answered at once,
and its issuing lane replays it (R254). -/
def State.tryOutside (s : State) (num : Nat) : State :=
  match s.mem.outs.find? fun r => r.num = num with
  | none => s
  | some r =>
    if s.outBehind r then s
    else
    match s.outsideTry r with
    | (.answer a, s) => (s.dropOut num).reply r.node r.id a
    | (.stall p, s) => s.addStall p r.asid r.va (.outside num) (accWrites r.acc)
    | (.fault c why, s) =>
      let s := (s.raiseFault (.outside num) r.asid r.va c why (accWrites r.acc)).2
      if r.node.isSome then (s.dropOut num).reply r.node r.id (faultReply c) else s

/-- Accesses of a party that waited for an earlier one of it are performed, oldest first. -/
def State.nextOutside (s : State) (node : Option (BitVec 22)) : State :=
  let waits := fun (s : State) (n : Nat) =>
    (s.mem.faults.any fun f => f.who = .outside n) || s.mem.stalls.any fun t => t.who = .outside n
  ((s.mem.outs.filter fun r => r.node = node).map fun r => r.num).foldl
    (fun s n => if waits s n then s else s.tryOutside n) s

/-- Performs an access from outside that the device holds, and those that waited for it. -/
def State.retryOutside (s : State) (num : Nat) : State :=
  match s.mem.outs.find? fun r => r.num = num with
  | none => s
  | some r =>
    let s := s.tryOutside num
    if s.mem.outs.any fun p => p.num = num then s else s.nextOutside r.node

/-- Takes an access from outside and performs it. -/
def State.outsideAccess (s : State) (node : Option (BitVec 22)) (id asid va : Nat) (obs : BitVec 5)
    (acc : PeerAcc) : State :=
  let (n, s) := s.stamp
  let r : OutReq := { num := n, node := node, id := id, asid := asid, va := va, obs := obs, acc := acc }
  ({ s with mem := { s.mem with outs := s.mem.outs ++ [r] } }).retryOutside n

end Sys2Proof.Machine
end

