-- ==== Sys2Proof/Machine/Memory.lean ====
section
/-!
DEFINITION. Loads, stores, scratchpad accesses, fences, discard and pref, majors 0x26 to 0x29, 0x2B and
0x2C (spec 12).
-/

namespace Sys2Proof.Machine

open Sys2Proof

/-- The requests of the active lanes at their addresses; `data` gives the data of a lane. -/
def Wave.laneReqs (w : Wave) (h : Head) (f : MemF) (data : Nat → List Byte) : List LaneReq :=
  (lanesOf (w.acting h)).map fun l =>
    { lane := l, addr := w.addrOf f.addr f.size.bytes l, data := data l }

/-- A memory instruction: ALIGN over every active lane first, then every lane (R181). -/
def State.memOp (s : State) (i : Instr) (f : MemF) (dst n : Nat) (reqs : List LaneReq) : State :=
  if reqs.any fun r => badAddr r.addr f.size.bytes then s.trap i causeAlign
  else s.startAccess i dst n reqs

/-- A load (R183). -/
def execLd (h : Head) (f : MemF) (s : State) : Out :=
  .next (s.issue (.LD h f) fun s =>
    s.memOp (.LD h f) f f.data.toNat f.size.regs ((s.unit s.cur).laneReqs h f fun _ => []))

/-- A polling load, which demotes the unit (R184). -/
def execLdPoll (h : Head) (f : MemF) (s : State) : Out :=
  .next (s.issue (.LD_POLL h f) fun s =>
    let reqs := (s.unit s.cur).laneReqs h f fun _ => []
    let bad : Bool := reqs.any fun r => badAddr r.addr f.size.bytes
    let s := if reqs = [] || bad then s else s.demote s.cur
    s.memOp (.LD_POLL h f) f f.data.toNat f.size.regs reqs)

/-- A store (R185). -/
def execSt (h : Head) (f : MemF) (s : State) : Out :=
  .next (s.issue (.ST h f) fun s =>
    let w := s.unit s.cur
    s.memOp (.ST h f) f 0 0 (w.laneReqs h f fun l => w.bytesOf f.data.toNat l f.size.bytes))

/-! ## Scratchpad (R186) -/

/-- The offsets of the active lanes. -/
def Wave.laneOffsets (w : Wave) (h : Head) (f : MemF) : List (Nat × Nat) :=
  (lanesOf (w.acting h)).map fun l => (l, w.offsetOf f.addr f.size.bytes l)

/-- Whether an offset raises ALIGN under R170. -/
def Group.badOffset (g : Group) (o n : Nat) : Bool := g.scratch < o + n || o % n ≠ 0

/-- Scratchpad bytes of a group. -/
def State.readScratch (s : State) (g : Group) (o n : Nat) : List Byte :=
  AMap.getRange (s.core g.core).scratch 0 (g.base + o) n

def State.writeScratch (s : State) (g : Group) (o : Nat) (bs : List Byte) : State :=
  let c := s.core g.core
  s.setCore g.core { c with scratch := AMap.setRange c.scratch 0 (g.base + o) bs }

/-- A scratchpad load. -/
def execLds (h : Head) (f : MemF) (s : State) : Out :=
  .next (s.issue (.LDS h f) fun s =>
    let w := s.unit s.cur
    let g := s.group w.group
    let os := w.laneOffsets h f
    if os.any fun o => g.badOffset o.2 f.size.bytes then s.trap (.LDS h f) causeAlign
    else
      let vs := os.map fun o => (o.1, wordsOf (s.readScratch g o.2 f.size.bytes))
      (s.setUnit s.cur (w.startResult (.LDS h f) f.data.toNat f.size.regs vs)).advance (.LDS h f))

/-- A scratchpad store: of lanes that write one byte the highest stays (R173). -/
def execSts (h : Head) (f : MemF) (s : State) : Out :=
  .next (s.issue (.STS h f) fun s =>
    let w := s.unit s.cur
    let g := s.group w.group
    let os := w.laneOffsets h f
    if os.any fun o => g.badOffset o.2 f.size.bytes then s.trap (.STS h f) causeAlign
    else
      let s := os.foldl (fun s o => s.writeScratch g o.2 (w.bytesOf f.data.toNat o.1 f.size.bytes)) s
      s.advance (.STS h f))

/-! ## Fences, discard and pref (R192 to R194) -/

/-- A fence.acq of a unit: its later accesses wait for its earlier loads and atomics, and take no line that
L1 filled before those had their values (R192, spec 13 R203). -/
def State.fenceAcq (s : State) (u : Nat) : State :=
  let s := s.acquire u
  s.setUnit u { s.unit u with fenceAt := (s.unit u).pendSeq }

/-- fence.acq (R192). -/
def execFenceAcq (h : Head) (obs : BitVec 5) (s : State) : Out :=
  .next (s.waveOp (.FENCE_ACQ h obs) h fun s => (s.fenceAcq s.cur).advance (.FENCE_ACQ h obs))

/-- fence.rel: a later store, atomic, discard or icinv waits for every earlier access that is not performed
already (R192, log entry 7). -/
def execFenceRel (h : Head) (obs : BitVec 5) (s : State) : Out :=
  .next (s.waveOp (.FENCE_REL h obs) h fun s => s.advance (.FENCE_REL h obs))

/-- Whether a stalled fill could go on: its set has room, or a line that can leave (spec 15 R240). -/
def State.stallOver (s : State) (t : Stall) : Bool :=
  match t.place with
  | .slice sl => (s.makeRoom sl t.va).isSome
  | .peer id => s.mem.peerOut.all fun m => m.id ≠ id || m.answer.isSome

/-- A stall ends: its waiter makes its access again. -/
def State.endStall (s : State) (t : Stall) : State :=
  let s := { s with mem := { s.mem with stalls := s.mem.stalls.filter fun x => x ≠ t } }
  match t.who with
  | .unit u seq =>
    match (s.unit u).pend.find? fun p => p.seq = seq with
    | some p => if p.leader then s.leaderRetry u seq else (s.retryLanes u seq).endLeft u
    | none => s
  | .msq c =>
    let k := s.core c
    s.setCore c { k with msq := { k.msq with held := false } }
  | .copy c num =>
    let k := s.core c
    s.setCore c { k with copies := k.copies.map fun p : Copy =>
      if p.num = num then { p with held := false } else p }
  | .counter _ => s.flushWrites
  | .target l _ => s.resumeDraw l
  | .outside n => s.retryOutside n
  | .fetch _ | .job _ | .record _ | .predicate _ | .coll _ _ _ | .dispatch => s

/-- Ends every stall of a place that can go on, oldest first (spec 15 R240, R241). -/
def State.endStallsAt (s : State) (place : StallAt) : State :=
  (s.mem.stalls.filter fun t => t.place = place).foldl
    (fun s t => if s.mem.stalls.contains t && s.stallOver t then s.endStall t else s) s

/-- Ends every stall of a slice that can go on. -/
def State.endStalls (s : State) (sl : Nat) : State := s.endStallsAt (.slice sl)

/-- The pages of a range, 64 KiB each. -/
def pagesOf (va n : Nat) : List Nat :=
  if n = 0 then [] else (List.range ((va + n - 1) / 65536 - va / 65536 + 1)).map fun i => va / 65536 + i

/-- The first line of a page and a range that denies writing: a line that its home slice holds is checked against its
own attributes, and any other against the leaf of the page, where it has one (spec 15 R231). -/
def State.deniedIn (s : State) (asid va n p : Nat) : Option Nat :=
  let t := tagAsid asid (p * 65536)
  let d := (s.mapDie t (p * 65536)).1
  let bare : Bool := match (s.lookup d t (p * 65536)).1 with
    | .absent _ => false
    | .leaf _ e _ => !(leafAttr e).w
  let lo := max va (p * 65536)
  let hi := min (va + n) (p * 65536 + 65536)
  (cuts lo (hi - lo) (hi - lo)).findSome? fun c =>
    let denies := match s.findLine (s.sliceOn d c.1) t (c.1 / 128) with
      | some l => !l.attr.w
      | none => bare
    if denies then some c.1 else none

/-- The first address of a range whose page denies writing (R193). -/
def State.deniedAt (s : State) (asid va n : Nat) : Option Nat :=
  (pagesOf va n).findSome? fun p => s.deniedIn asid va n p

/-- The firmware is told of reserved entries of the region home map in a range (spec 11 R177). -/
def State.tellRange (s : State) (asid va n : Nat) : State :=
  (pagesOf va n).foldl (fun s p => s.tellHome asid (p * 65536)) s

/-- What a line reads as after its copies have gone: its frame, or zeros; nothing for an absent page. -/
def State.lineAfter (s : State) (sl asid line : Nat) : Option (List Byte) :=
  match (s.lookup (s.dieOfSlice sl) asid (line * 128)).1 with
  | .absent _ => none
  | .leaf level e _ =>
    if leafFrameless e then some zeroLine
    else if leafPeer e then none
    else some (s.readPhys (leafPa level e (line * 128)) 128)

/-- Whether a line lies in a byte range of an address space. -/
def inRange (asid va n : Nat) (lasid line : Nat) : Bool :=
  va ≤ line * 128 && line * 128 < va + n && lasid = tagAsid asid (line * 128)

/-- Throws one line away at its slice, and judges its monitor entries against what it reads after. -/
def State.discardLine (s : State) (sl : Nat) (l : Line) : State :=
  let s := s.dropLine sl l.asid l.va
  match s.lineAfter sl l.asid l.va with
  | some bs => s.reevaluate sl { l with data := bs } 0 128
  | none => s

/-- Whether a cached code line, by its key, lies in a range. -/
def codeIn (asid lo n key : Nat) : Bool :=
  let line := key % 2 ^ 49
  line * 128 < lo + n && lo < line * 128 + 128 && key / 2 ^ 49 % 2 ^ 16 = tagAsid asid (line * 128)

/-- Drops the code lines of a range from every core's caches of instructions and of matrix programs. -/
def State.dropCode (s : State) (asid lo n : Nat) : State :=
  let out := fun (key : Nat) (_ : List Byte) => !codeIn asid lo n key
  { s with mem := { s.mem with icache := AMap.keep s.mem.icache out
                               msqCache := AMap.keep s.mem.msqCache out } }

/-- Throws away every cached line of a range, dirty or not (R193, spec 15 R241). -/
def State.discardRange (s : State) (asid va n : Nat) : State :=
  let hit := fun l : Line => inRange asid va n l.asid l.va
  let s := { s with mem := { s.mem with
    l1 := AMap.mapVals s.mem.l1 [] fun _ set => set.filter fun l => !inRange asid va n l.asid l.va } }
  let s := s.dropCode asid va n
  let sets := (s.mem.l2.flatMap fun e => (e.2.filter hit).map fun l => (e.1 / 24576, l))
    ++ (s.mem.slices.flatMap fun e => (e.2.stash.filter hit).map fun l => (e.1, l))
  let s := sets.foldl (fun s x => s.discardLine x.1 x.2) s
  (sets.map Prod.fst).eraseDups.foldl State.endStalls s

/-- discard (R193). -/
def execDiscard (h : Head) (base : BitVec 7) (len : BitVec 8) (s : State) : Out :=
  let i := Instr.DISCARD h base len
  .next (s.waveOp i h fun s =>
    let (r, s) := s.leaderReq fun w =>
      { lane := 0, addr := w.val true (2 * base.toNat) (w.leader h)
        data := leBytes (w.reg len.toNat (w.leader h)).toNat 4 }
    let n := leNat r.data
    let asid := (s.ctx (s.unit s.cur).ctx).asid
    if badAddr r.addr 128 || n % 128 ≠ 0 || 2 ^ 56 < r.addr + n then s.trap i causeAlign
    else
      let s := s.tellRange asid r.addr n
      match s.deniedAt asid r.addr n with
      | some va => s.leaderFault i r va .perm .other true
      | none => (s.discardRange asid r.addr n).advance i)

/-- Whether an address lies on a gilt page, as its line or else its leaf says. -/
def State.onGilt (s : State) (asid va : Nat) : Bool :=
  let t := tagAsid asid va
  let sl := s.homeSlice asid va
  match s.findLine sl t (va / 128) with
  | some l => l.attr.gilt
  | none =>
    match (s.lookup (s.dieOfSlice sl) t va).1 with
    | .leaf _ e _ => (leafAttr e).gilt
    | .absent _ => false

/-- pref: asks for the lines of its lanes, and drops a lane that cannot have one, one whose fill stalls included
(R194; log entry 46). Hint bit 45 makes it do nothing, except on a gilt page, which ignores the bit (spec 03 R40;
log entry 46). -/
def execPref (h : Head) (f : AddrF) (s : State) : Out :=
  .next (s.issue (.PREF h f) fun s =>
    let w := s.unit s.cur
    let q := (s.reqOf s.cur 0).hinted h.hints
    let one := fun (s : State) (l : Nat) =>
      let va := w.addrOf f 1 l
      if 2 ^ 56 ≤ va || (q.stream && !s.onGilt q.asid va) then s
      else
        match s.access { q with va := va, r := true } with
        | (.line _ l, s) => s.l1Return w.core l true
        | (_, s) => s
    ((lanesOf (w.acting h)).foldl one s).advance (.PREF h f))

end Sys2Proof.Machine
end

