-- ==== Sys2Proof/Machine/WorkOps.lean ====
section
/-!
DEFINITION. Creating work, triggers, cancel, ccnt and gbar: major 0x2F (spec 06 R109 to R111, spec 07
R120, R121, spec 08 R145 to R147).
-/

namespace Sys2Proof.Machine

open Sys2Proof

/-- Writes a wave-wide instruction's destination in the lanes of the acting set, and advances. -/
def State.answer (s : State) (i : Instr) (lanes : Mask) (wide : Bool) (d n : Nat) : State :=
  (s.setUnit s.cur ((s.unit s.cur).setDest lanes wide d n)).advance i

/-- spawn: the new groups take what the core has free at once (R145, spec 07 R124). In a launch that is already
cancelled it answers SPAWNED and counts the groups, and no record is made (log entry 116). Of two spawn entries with
one index the first of the table is meant (log entry 106). -/
def execSpawn (h : Head) (f : AluF) (s : State) : Out :=
  let i := Instr.SPAWN h f
  .next (s.waveOp i h fun s =>
    let w := s.unit s.cur
    let n := w.srcOrImm f f.a false (w.leader h) % 2 ^ 32
    let la := s.launch w.launch
    let done := fun (s : State) (st : Nat) => s.answer i (w.destMask h) false f.d.toNat st
    let found : Option (Obj × EntryRec) := match s.objOf w with
      | some o => (o.entries.find? fun e : EntryRec => e.kind = 1 && e.spawn = f.c.toNat).map fun e => (o, e)
      | none => none
    match found with
    | none => done s 2
    | some (o, e) =>
      let fits := ((emptyRoom la.form.bankMap).place
        { waves := e.waves, regs := e.regs, scratch := e.scratch, tiles := e.tiles }).isSome
      let c := s.core w.core
      if n = 0 then done s 0
      else if !fits then done s 2
      else if 64 ≤ c.pool.length then done s 1
      else
        let r : PoolRec :=
          { launch := w.launch, entry := o.textAt + e.text, regs := e.regs, scratch := e.scratch
            tiles := e.tiles, waves := e.waves, next := la.spawnNext, left := n }
        let s := if la.cancelled then s else s.setCore w.core { c with pool := c.pool ++ [r] }
        (done (s.setLaunch w.launch { la with spawnNext := la.spawnNext + n }) 0).offerPool w.core)

/-- A launch that device code makes: in the job, phase, graph and queue of its parent (R122). -/
def childLaunch (parent : Nat) (la : Launch) (cancelled : Bool) (addr : Nat) (bytes : List Byte)
    (stamp : Nat) : Launch :=
  { phase := .queued, ctx := la.ctx, queue := la.queue, job := la.job, jphase := la.jphase
    graph := la.graph, order := stamp, recAddr := addr, bytes := some bytes, parent := some parent
    cancelled := cancelled, form := LaunchRec.ofBytes bytes }

/-- Counts a child in the graph of its parent. -/
def State.addChild (s : State) (g : Nat) : State :=
  let l := s.work.graphs.get {} g
  { s with work := { s.work with graphs := s.work.graphs.set {} g { l with children := l.children + 1 } } }

/-- Whether the page of a place in a launch ring is mapped: it lies in memory, or the firmware has mapped it
(R121). -/
def State.ringMapped (s : State) (ctx pa : Nat) : Bool :=
  s.physOk pa || (s.ctx ctx).ringMapped.contains (pa / 65536)

/-- Queues a record of device code: the status, or the ring address whose page is not mapped. `again` says that
the firmware has since mapped that page: the record then goes to the ring (R121). -/
def State.queueChild (s : State) (parent addr : Nat) (bytes : List Byte) (again : Bool) :
    Except Nat (Nat × State) :=
  let la := s.launch parent
  let x := s.ctx la.ctx
  let cap := x.ring.size / 64
  let make := fun s : State =>
    let (n, s) := s.stamp
    (n, (s.setLaunch n (childLaunch parent la (s.work.graphs.get {} la.graph).cancelled addr bytes n)).addChild la.graph)
  if !again && x.hw.length < 256 && x.ringRecs = [] then
    let (n, s) := make s
    .ok (0, s.setCtx la.ctx { s.ctx la.ctx with hw := x.hw ++ [n] })
  else if x.ringRecs.length < cap then
    let pa := x.ring.base + 64 * (x.ringNext % cap)
    if !again && !s.ringMapped la.ctx pa then .error pa
    else
      let (n, s) := make s
      let s := s.localWrite pa bytes
      let pages := if again then (x.ringMapped ++ [pa / 65536]).eraseDups else x.ringMapped
      .ok (1, s.setCtx la.ctx
        { s.ctx la.ctx with ringRecs := x.ringRecs ++ [n], ringNext := x.ringNext + 1, ringMapped := pages })
  else .ok (2, s)

/-- The queueing of a record that has been read: where the ring's page is not mapped the record stays in the
operand log until the firmware has answered (R121); `again` says that it has mapped the page. -/
def State.launchRecord (s : State) (i : Instr) (r : LaneReq) (d : Nat) (bytes : List Byte) (again : Bool) : State :=
  match s.queueChild (s.unit s.cur).launch r.addr bytes again with
  | .ok (st, s) => s.answer i (BitVec.ofNat 32 r.lane) false d st
  | .error pa => s.leaderFault i { r with data := bytes } pa .notPresent .unreachable true

/-- launch: the record is read as a load by the leader, and queued (R146). A retry that a handler makes, of a fault
that the firmware has not resolved, finds the ring's page as it was (spec 12 R198). -/
def execLaunch (h : Head) (f : AluF) (s : State) : Out :=
  let i := Instr.LAUNCH h f
  .next (s.waveOp i h fun s =>
    let granted := s.leaderGranted
    let (r, s) := s.leaderReq fun w =>
      { lane := (w.destMask h).toNat, addr := w.val true f.a.toNat (w.leader h), data := [] }
    if badAddr r.addr 64 then s.trap i causeAlign
    else if r.data ≠ [] then s.launchRecord i r f.d.toNat r.data granted
    else
      match s.loadAt s.cur (s.reqOf s.cur r.addr) false 64 with
      | (.fault c why, s) => s.leaderFault i r r.addr c why false
      | (.stall p, s) => s.leaderStall i r r.addr p false
      | (.words ws, s) => s.launchRecord i r f.d.toNat (ws.flatMap fun w => leBytes w.toNat 4) false)

/-- The home waves of a unit's lanes. -/
def Wave.homeWaves (w : Wave) : List Nat :=
  if w.soldered then ((w.homesOf w.o).map Prod.fst).eraseDups else [w.num]

/-- trig: the home waves of the unit have triggered (R120). -/
def execTrig (h : Head) (f : AluF) (s : State) : Out :=
  .next (s.waveOp (.TRIG h f) h fun s =>
    let w := s.unit s.cur
    let g := s.group w.group
    let s := s.setGroup w.group { g with trigs := (g.trigs ++ w.homeWaves).eraseDups }
    (s.noteTrigger w.launch).advance (.TRIG h f))

/-- waitp: status 3 in a cancelled launch, 0 once the producers have triggered, else the unit parks
(R120). -/
def execWaitp (h : Head) (f : AluF) (s : State) : Out :=
  let i := Instr.WAITP h f
  .next (s.waveOp i h fun s =>
    let w := s.unit s.cur
    if (s.launch w.launch).cancelled then s.answer i (w.destMask h) false f.d.toNat 3
    else if s.waitOver w.launch then (s.answer i (w.destMask h) false f.d.toNat 0).acquire s.cur
    else
      (s.setUnit s.cur { w with park := .waitp f.d.toNat (w.destMask h)
                                parkedAt := (s.core w.core).cycle }).advance i)

/-- cancel: the unit that the leader's address names at the level (R111). -/
def execCancel (h : Head) (f : AluF) (s : State) : Out :=
  let i := Instr.CANCEL h f
  .next (s.waveOp i h fun s =>
    let w := s.unit s.cur
    let lv := WorkLevel.ofMod f.mod
    let addr := w.val true f.a.toNat (w.leader h)
    let s := (s.advance i).tellNamed w.ctx lv addr
    match s.named w.ctx lv addr with
    | some n => s.cancel lv n
    | none => s)

/-- ccnt: the hardware counter, or an acquire load, or 0 (R147). -/
def execCcnt (h : Head) (f : AluF) (s : State) : Out :=
  let i := Instr.CCNT h f
  .next (s.waveOp i h fun s =>
    let (r, s) := s.leaderReq fun w =>
      { lane := (w.destMask h).toNat, addr := w.val true f.a.toNat (w.leader h), data := [] }
    let lanes : Mask := BitVec.ofNat 32 r.lane
    let lv := WorkLevel.ofMod f.mod
    if badAddr r.addr 8 then s.trap i causeAlign
    else if r.addr = 0 then s.answer i lanes true f.d.toNat 0
    else
      let s := s.tellNamed (s.unit s.cur).ctx lv r.addr
      match s.named (s.unit s.cur).ctx lv r.addr with
      | some n => s.answer i lanes true f.d.toNat (s.hwCounter lv n)
      | none =>
        match s.loadAt s.cur { s.reqOf s.cur r.addr with obs := 1 } false 8 with
        | (.fault c why, s) => s.leaderFault i r r.addr c why false
        | (.stall p, s) => s.leaderStall i r r.addr p false
        | (.words ws, s) =>
          (s.answer i lanes true f.d.toNat (leNat (ws.flatMap fun w => leBytes w.toNat 4))).acquire s.cur)

/-- gbar: a retirement point of a cancelled launch, else the unit waits at the barrier (R109). -/
def execGbar (h : Head) (f : AluF) (s : State) : Out :=
  .next (s.issue (.GBAR h f) fun s =>
    let w := s.unit s.cur
    if (s.launch w.launch).cancelled then s.retireHere
    else
      (s.setUnit s.cur { w with park := .gbar, parkedAt := (s.core w.core).cycle }).advance (.GBAR h f))

end Sys2Proof.Machine
end

