-- ==== Sys2Proof/Machine/Rates.lean ====
section
/-!
DEFINITION. The instructions that cross rates, majors 0x30 to 0x33 (spec 19), with the elements and
reservations that they make (spec 18 R269 to R271).
-/

namespace Sys2Proof.Machine

open Sys2Proof

/-! ## Elements and reservations -/

/-- Whether a rate forms waves (spec 18 R263). -/
def Draw.formsWaves (d : Draw) (r : Rate) : Bool := d.rates / 2 ^ r.code % 2 = 1

/-- The core and FIFO bank that stage an element without a record: of the granted cores the first with room
(spec 11 R169; log entry 102). -/
def State.stagePlace (s : State) (l : Nat) : Option (Nat × Nat) :=
  let f := (s.launch l).form
  ((List.range f.cores).flatMap fun i => (s.fifoBanks (f.first + i)).map fun b => (f.first + i, b)).find?
    fun p => s.bankUsed p.1 p.2 + 16 ≤ bankSize

/-- Creates an element, which counts for its parent; at a rate that forms no waves it counts as exited
at once (spec 17 R259, spec 18 R263). Its record is reserved, with the slots given and the others 0; without a
record, an element of P or S is staged. -/
def State.newElem (s : State) (l : Nat) (e : Elem) (slots : List (Nat × Word)) : Nat × State :=
  let (n, s) := s.stamp
  let d := s.draw l
  let size := d.recSize e.rate
  let (a, s) := s.fresh
  let (b, s) := s.fresh
  let lines := d.freeLines (size / 128)
  let first := recordLines (leBytes a.toNat 8 ++ leBytes b.toNat 8) size ((d.slotsAt e.rate).headD 0) slots
  let e := { e with order := n, phase := if d.formsWaves e.rate then .ready else .exited, lines := lines
                    init := lines.zip first, staged := if size = 0 then s.stagePlace l else none }
  let d := d.setElem n e
  let s := s.setDraw l (if e.rate = .F || e.rate = .P then d else d.raise e.parent true)
  (n, lines.foldl (fun s o => (s.initLine l n o).2) s)

/-- Whether the reservation can hold n more records of a rate (spec 18 R271). -/
def Draw.fits (d : Draw) (r : Rate) (n : Nat) : Bool :=
  n * d.recSize r = 0 || d.used + n * d.recSize r + d.tail r ≤ d.space

/-- The bytes of a request: n records of a rate, and S records that go with a P record. -/
def Draw.asked (d : Draw) (r : Rate) (n subs : Nat) : Nat := n * d.recSize r + subs * d.recSize .S

/-- Whether a request fits. -/
def Draw.fitsAll (d : Draw) (r : Rate) (n subs : Nat) : Bool :=
  d.fits r n && ({ d with used := d.used + n * d.recSize r } : Draw).fits .S subs

/-- The requests that stand before one's own, or all of them where it has none. -/
def Draw.olderThan (d : Draw) (who : Asker) : List Request :=
  d.requests.takeWhile fun q => q.who ≠ who

/-- Whether a request can be met now: it fits, and no older request that waits does. Requests are met oldest first,
and one that does not fit holds no other back: else no element would retire for it (spec 18 R271; log entry 109). -/
def Draw.canMeet (d : Draw) (who : Asker) (r : Rate) (n subs : Nat) : Bool :=
  n = 0 || d.fitsAll r n subs && (d.olderThan who).all fun q => q.met || !d.fitsAll q.rate q.n q.subs

/-- Reserves records for an asker, whose request may have been met before; none where it waits. -/
def Draw.reserve (d : Draw) (who : Asker) (r : Rate) (n subs : Nat) : Option Draw :=
  let rest := { d with requests := d.requests.filter fun q => q.who ≠ who }
  if d.requests.any fun q => q.who = who && q.met then some rest
  else if d.canMeet who r n subs then some { rest with used := d.used + d.asked r n subs }
  else none

/-- Queues a request, once. -/
def Draw.ask (d : Draw) (who : Asker) (r : Rate) (n subs : Nat) : Draw :=
  if d.requests.any fun q => q.who = who then d
  else { d with requests := d.requests ++ [{ who := who, rate := r, n := n, subs := subs, met := false }] }

/-- The current unit reserves records of a rate and goes on, or parks (R271, spec 07 R129). -/
def State.withRecords (s : State) (r : Rate) (n : Nat) (go : State → State) : State :=
  let w := s.unit s.cur
  let d := s.draw w.launch
  match d.reserve (.unit s.cur) r n 0 with
  | some d => go (s.setDraw w.launch d)
  | none =>
    let s := s.setDraw w.launch (d.ask (.unit s.cur) r n 0)
    s.setUnit s.cur { w with park := .reserve, parkedAt := (s.core w.core).cycle }

/-- After an amplification: the excess is counted, and AMP_OVERFLOW is taken at the next instruction
(R269). -/
def State.excess (s : State) (i : Instr) (n : Nat) : State :=
  let w := s.unit s.cur
  let s := s.countOver w.launch n
  if n = 0 || !(s.draw w.launch).blk.traps then s
  else if w.results = [] then s.takeTrap s.cur causeAmp (firstWord i)
  else s.setUnit s.cur { s.unit s.cur with trapNext := some (causeAmp, firstWord i) }

/-- The lanes of a per-lane instruction with their elements. -/
def Wave.laneElems (w : Wave) (h : Head) : List (Nat × Nat) :=
  (lanesOf (w.acting h)).map fun l => (l, w.elems.getD l 0)

/-! ## hold, take and ipl (R281 to R284) -/

/-- The requests of the lanes of a hold, take or ipl: each names the element of its lane. -/
def Wave.slotReqs (w : Wave) (h : Head) (data : Nat → List Byte) : List LaneReq :=
  (w.laneElems h).map fun x => { lane := x.1, addr := x.2, data := data x.1 }

/-- hold writes slots of the lanes' own records. -/
def execHold (h : Head) (f : AluF) (s : State) : Out :=
  .next (s.issue (.HOLD h f) fun s =>
    let w := s.unit s.cur
    s.startAccess (.HOLD h f) 0 0 (w.slotReqs h fun l => w.bytesOf f.a.toNat l (if f.ty.wide then 8 else 4)))

/-- take reads slots of the lanes' ancestors at the rates of the slots. -/
def execTake (h : Head) (f : AluF) (s : State) : Out :=
  .next (s.issue (.TAKE h f) fun s =>
    s.startAccess (.TAKE h f) f.d.toNat (if f.ty.wide then 2 else 1) ((s.unit s.cur).slotReqs h fun _ => []))

/-- ipl interpolates a vertex slot. -/
def execIpl (h : Head) (f : AluF) (s : State) : Out :=
  .next (s.issue (.IPL h f) fun s =>
    s.startAccess (.IPL h f) f.d.toNat 1 ((s.unit s.cur).slotReqs h fun _ => []))

/-! ## amp and emit (R285, R286) -/

/-- What an amplification creates: lane, element, those it has, those created, those refused. -/
structure Plan where
  lane : Nat
  elem : Nat
  have_ : Nat
  made : Nat
  excess : Nat
  deriving DecidableEq, Repr

/-- The plan of a lane that asks for n of at most `most` children. -/
def planOf (d : Draw) (most : Nat) (x : Nat × Nat) (n : Nat) : Plan :=
  let k := (d.elem x.2).kids
  let m := min n (most - k)
  { lane := x.1, elem := x.2, have_ := k, made := m, excess := n - m }

/-- Creates the children of a plan. -/
def State.carryOut (s : State) (l : Nat) (r : Rate) (p : Plan) : State :=
  let s := (List.range p.made).foldl (fun s j =>
    (s.newElem l { rate := r, parent := p.elem, ordinal := p.have_ + j
                   object := ((s.draw l).elem p.elem).object } []).2) s
  let d := s.draw l
  s.setDraw l (d.setElem p.elem { d.elem p.elem with kids := p.have_ + p.made })

/-- amp creates clusters of the objects of its lanes. -/
def execAmp (h : Head) (f : AluF) (s : State) : Out :=
  let i := Instr.AMP h f
  .next (s.issue i fun s =>
    let w := s.unit s.cur
    let d := s.draw w.launch
    let ps := (w.laneElems h).map fun x =>
      planOf d d.blk.maxC x (w.srcOrImm f f.a false x.1 % 2 ^ 32)
    s.withRecords .C (ps.map fun p => p.made).sum fun s =>
      let s := ps.foldl (fun s p => s.carryOut w.launch .C p) s
      let w := s.unit s.cur
      let w := ps.foldl (fun w p => w.setReg f.d.toNat p.lane (BitVec.ofNat 32 p.made)) w
      ((s.setUnit s.cur w).advance i).excess i (ps.map fun p => p.excess).sum)

/-- emit.vtx creates vertices of the clusters of its lanes. -/
def execEmitVtx (h : Head) (f : AluF) (s : State) : Out :=
  let i := Instr.EMIT_VTX h f
  .next (s.issue i fun s =>
    let w := s.unit s.cur
    let d := s.draw w.launch
    let ps := (w.laneElems h).map fun x => planOf d d.blk.maxV x (w.reg f.a.toNat x.1).toNat
    s.withRecords .V (ps.map fun p => p.made).sum fun s =>
      let s := ps.foldl (fun s p => s.carryOut w.launch .V p) s
      (s.advance i).excess i (ps.map fun p => p.excess).sum)

/-- A primitive of a cluster, by the indices of a register (R286). -/
def primOf (cluster index : Nat) (v : Word) : Prim :=
  { live := true, cluster := cluster, i0 := v.toNat % 256, i1 := v.toNat / 256 % 256
    i2 := v.toNat / 65536 % 256, index := index }

/-- emit.prim creates primitives of the clusters of its lanes. -/
def execEmitPrim (h : Head) (f : AluF) (s : State) : Out :=
  let i := Instr.EMIT_PRIM h f
  .next (s.issue i fun s =>
    let w := s.unit s.cur
    let one := fun (a : Nat × State) (x : Nat × Nat) =>
      let d := a.2.draw w.launch
      let c := d.elem x.2
      if d.blk.maxP ≤ c.prims then (a.1 + 1, a.2)
      else
        let (n, s) := a.2.stamp
        let d := d.setElem x.2 { c with prims := c.prims + 1 }
        (a.1, s.setDraw w.launch
          { d with prims := d.prims.set {} n (primOf x.2 c.prims (w.reg f.a.toNat x.1)) })
    let (n, s) := (w.laneElems h).foldl one (0, s)
    (s.advance i).excess i n)

/-! ## cov, ztest, zwr and fbw (R287 to R291) -/

/-- cov writes the mask of an element's covered samples. -/
def execCov (h : Head) (f : AluF) (s : State) : Out :=
  .next (s.lanesOp (.COV h f) fun w =>
    let d := s.draw w.launch
    (w.laneElems h).foldl (fun w x => w.setReg f.d.toNat x.1 (BitVec.ofNat 32 (d.elem x.2).cov)) w)

/-- ztest tests a box against the draw's depth pyramid; a pyramid that another writer has made wrong gives free
values (R277). -/
def execZtest (h : Head) (f : AluF) (s : State) : Out :=
  .next (s.issue (.ZTEST h f) fun s =>
    let w := s.unit s.cur
    let d := s.draw w.launch
    let v := fun (r : BitVec 8) (i l : Nat) => (w.reg (r.toNat + i) l).toNat
    let (any, s) := s.fresh
    let wrong := (d.pyramid.map fun p => p.stale).getD false
    let lanes := maskOf fun l =>
      if wrong then any.getLsbD l
      else zVisible d.blk d.pyramid (v f.a 0 l) (v f.a 1 l) (v f.a 2 l) (v f.a 3 l) (v f.b 0 l)
    (s.setUnit s.cur (w.setKLanes f.d.toNat (w.acting h) lanes)).advance (.ZTEST h f))

/-- zwr sets the depth of an element. -/
def execZwr (h : Head) (f : AluF) (s : State) : Out :=
  .next (s.issue (.ZWR h f) fun s =>
    let w := s.unit s.cur
    let one := fun (d : Draw) (x : Nat × Nat) =>
      d.setElem x.2 { d.elem x.2 with zwr := some (w.reg f.a.toNat x.1) }
    (s.setDraw w.launch ((w.laneElems h).foldl one (s.draw w.launch))).advance (.ZWR h f))

/-- fbw leaves a colour for a render target. -/
def execFbw (h : Head) (f : AluF) (s : State) : Out :=
  .next (s.issue (.FBW h f) fun s =>
    let w := s.unit s.cur
    let isF : Bool := f.ty = .f32
    let one := fun (d : Draw) (x : Nat × Nat) =>
      let c : Colour :=
        { target := f.c.toNat % 8, float := isF
          words := (regsFrom f.a.toNat (if isF then 4 else 1)).map fun r => w.reg r x.1 }
      d.setElem x.2 { d.elem x.2 with colours := (d.elem x.2).colours ++ [c] }
    (s.setDraw w.launch ((w.laneElems h).foldl one (s.draw w.launch))).advance (.FBW h f))

/-! ## Rays (R292 to R295) -/

/-- The most rays of a parent. -/
def maxRays : Nat := 256

/-- Creates a ray of a lane of the current unit, which waits for its value. -/
def State.newRay (s : State) (f : AluF) (y0 : Nat) (x : Nat × Nat) : State :=
  let u := s.cur
  let w := s.unit u
  let d := s.draw w.launch
  let p := d.elem x.2
  let words := (regsFrom f.a.toNat 8).map (fun r => w.reg r x.1) ++ [w.reg f.b.toNat x.1]
  let s := s.setDraw w.launch (d.setElem x.2 { p with kids := p.kids + 1 })
  let (n, s) := s.newElem w.launch
    { rate := .Y, parent := x.2, ordinal := p.kids, object := p.object
      waiter := some (u, x.1, f.d.toNat) } ((List.range 9).map fun i => (y0 + i, words.getD i 0))
  s.setUnit u { w with awaits := w.awaits ++ [(f.d.toNat, x.1, n)] }

/-- spawny creates a ray for each lane. -/
def execSpawny (h : Head) (f : AluF) (s : State) : Out :=
  let i := Instr.SPAWNY h f
  .next (s.issue i fun s =>
    let w := s.unit s.cur
    let d := s.draw w.launch
    let xs := w.laneElems h
    let ok := xs.filter fun x => (d.elem x.2).kids < maxRays
    let no := xs.filter fun x => maxRays ≤ (d.elem x.2).kids
    s.withRecords .Y ok.length fun s =>
      let s := ok.foldl (fun s x => s.newRay f ((d.raySlots).getD 0) x) s
      let w := s.unit s.cur
      let w := no.foldl (fun w x => w.setReg f.d.toNat x.1 0xFFFF_FFFF) w
      ((s.setUnit s.cur w).advance i).excess i no.length)

/-- rayret sets the return value of a ray. -/
def execRayret (h : Head) (f : AluF) (s : State) : Out :=
  .next (s.issue (.RAYRET h f) fun s =>
    let w := s.unit s.cur
    let one := fun (d : Draw) (x : Nat × Nat) =>
      d.setElem x.2 { d.elem x.2 with ret := w.reg f.a.toNat x.1 }
    (s.setDraw w.launch ((w.laneElems h).foldl one (s.draw w.launch))).advance (.RAYRET h f))

/-- bvht tests the rays of its lanes against the nodes at their addresses. -/
def execBvht (h : Head) (f : AluF) (s : State) : Out :=
  let i := Instr.BVHT h f
  .next (s.issue i fun s =>
    let w := s.unit s.cur
    let reqs : List LaneReq := (lanesOf (w.acting h)).map fun l =>
      { lane := l, addr := w.val true f.a.toNat l, data := w.bytesOf f.b.toNat l 32 }
    if reqs.any fun r => badAddr r.addr 128 then s.trap i causeAlign
    else s.startAccess i f.d.toNat 1 reqs)

end Sys2Proof.Machine
end

