-- ==== Sys2Proof/Machine/Draws.lean ====
section
/-!
DEFINITION. The rate sequencer and the raster units: the elements of a draw from their creation to their
retirement (spec 17 R259, R260, spec 18 R263 to R277, spec 19 R292, R293).
-/

namespace Sys2Proof.Machine

open Sys2Proof

/-! ## Objects -/

/-- Creates the object elements that the reservation can hold, in order (R271). -/
def State.makeObjects (s : State) (l : Nat) (f : Nat) : Nat → State
  | 0 => s
  | n + 1 =>
    let d := s.draw l
    if !d.fits .O 1 || d.requests.any (fun q => !q.met) then s
    else
      let s := s.setDraw l { d with used := d.used + d.recSize .O, objects := d.objects + 1 }
      ((s.newElem l { rate := .O, parent := f, ordinal := d.objects, object := d.objects } []).2).makeObjects l f n

/-- The F element of a draw. -/
def Draw.root (d : Draw) : Nat :=
  ((AMap.keys (AMap.findAll d.elems fun _ e => e.rate = .F)).head?).getD 0

/-- Creates the objects that are still to come. -/
def State.moreObjects (s : State) (l : Nat) : State :=
  let d := s.draw l
  s.makeObjects l d.root ((s.launch l).form.count - d.objects)

/-! ## Waves (R263) -/

/-- The recorded paths that the waves of an element follow, coarsest first (R266). -/
def Draw.pathsOf (d : Draw) (e : Nat) : List (List Bool) :=
  let r := (d.elem e).rate
  ((Rate.ancestors r).filter fun q => (Rate.followers q).contains r).map fun q =>
    (d.elem (d.ancestor q 7 e)).path

/-- Whether an element can start: its parent's wave has exited; a ray may start at once. -/
def Draw.startable (d : Draw) (e : Nat) : Bool :=
  let x := d.elem e
  let p := (d.elem x.parent).phase
  x.phase = .ready && (x.rate = .F || x.rate = .Y || p = .exited || p = .retired)

/-- The elements of a rate that can start, in the order of their creation. -/
def Draw.startables (d : Draw) (r : Rate) : List Nat :=
  AMap.keys (AMap.findAll d.elems fun k e => e.rate = r && d.startable k)

/-- Rates finer than one, which are offered a core first. -/
def finerRates (r : Rate) : List Rate := [Rate.Y, .S, .P, .V, .C, .O, .F].filter fun q => r.code < q.code

/-- The elements of the next wave of a rate: up to 32 that can start and whose ancestors recorded the paths that the
first one's did. -/
def Draw.nextWave (d : Draw) (r : Rate) : List Nat :=
  let es := d.startables r
  let path := d.pathsOf (es.headD 0)
  (es.filter fun e => d.pathsOf e = path).take 32

/-- Starts a wave of up to 32 elements in a group of its own, on a core whose banks carry the record's map (spec
05 R93); whether it has started. -/
def State.startDrawWave (s : State) (l : Nat) (r : Rate) (es : List Nat) (c : Nat) : Bool × State :=
  let la := s.launch l
  let d := s.draw l
  let object := (d.elem (es.headD 0)).object
  let (ok, s) := s.openCore l c
  if !ok then (false, s)
  else
  match s.placeGroup l object la.form.entry
      { waves := 1, regs := la.form.regs, scratch := 0, tiles := 0 } c false with
  | none => (false, s)
  | some s =>
    let s := s.tookCore l c
    let started := AMap.findAll s.work.groups fun g x => x.launch = l && x.phase = .resident
      && (s.unitsOf g).any fun u => (s.unit u).rate = .K
    match started.head? with
    | none => (false, s)
    | some (g, _) =>
      let m := maskOf fun i => i < es.length
      let s := (s.unitsOf g).foldl (fun s u =>
        let w := s.unit u
        s.setUnit u { w with x := m, o := m, rate := r, elems := es }) s
      let d := s.draw l
      (true, s.setDraw l (es.foldl (fun d e => d.setElem e { d.elem e with phase := .running, home := g }) d))

/-- Whether a wave of a rate of a draw can be placed on a core: elements can start, none of a finer rate can, and the
core takes groups of the launch. -/
def State.canStartWave (s : State) (l : Nat) (r : Rate) (c : Nat) : Bool :=
  let la := s.launch l
  let d := s.draw l
  d.live && la.phase = .started && !la.cancelled && d.startables r ≠ []
    && (finerRates r).all (fun q => d.startables q = []) && la.form.grants c && s.mayPlace c la.ctx

/-! ## Rasterisation (R273 to R276) -/

/-- A coarse pixel by its number in row-major order. -/
def DrawBlk.coarseAt (b : DrawBlk) (i : Nat) : Nat × Nat :=
  (i % b.coarseRow * b.cw, i / b.coarseRow * b.ch)

/-- Makes the early tests of the covered samples of a coarse pixel that are still to be made; whether
all are made (R276). -/
def State.earlyTests (s : State) (l p object : Nat) : List (Nat × Nat × Nat × Nat × Nat) → Bool × State
  | [] => (true, s)
  | (bit, px, py, n, z) :: rest =>
    let d := s.draw l
    let q : Prim := d.prims.get {} p
    if q.tested.any fun t => t.1 = bit then s.earlyTests l p object rest
    else
      let (got, s) := if d.hasZwr then (some true, s)
        else s.testDepth l object px py n (BitVec.ofNat 32 z)
      match got with
      | none => (false, s)
      | some ok =>
        let d := s.draw l
        let s := s.setDraw l { d with prims := d.prims.set {} p { q with tested := q.tested ++ [(bit, ok)] } }
        s.earlyTests l p object rest

/-- Creates the P element of a coarse pixel and the S elements of its samples. -/
def State.makePixel (s : State) (l p cx cy : Nat) (xs : List (Nat × Nat × Nat × Nat × Nat)) : State :=
  let d := s.draw l
  let q : Prim := d.prims.get {} p
  let object := (d.elem q.cluster).object
  let mask := (xs.map fun x => 2 ^ x.1).sum
  let (pe, s) := s.newElem l
    { rate := .P, parent := q.cluster, prim := p, object := object, cov := mask, px := cx, py := cy } []
  let d := s.draw l
  let s := s.setDraw l
    { d with prims := d.prims.set {} p { d.prims.get {} p with count := (d.prims.get {} p).count + 1 }
             passed := d.passed + if d.hasZwr then 0 else xs.length }
  xs.foldl (fun s x =>
    let (se, s) := s.newElem l
      { rate := .S, parent := pe, prim := p, object := object, cov := 2 ^ x.1, px := x.2.1
        py := x.2.2.1, sample := x.2.2.2.1 } []
    let d := s.draw l
    let sample : Sample :=
      { prim := p, px := x.2.1, py := x.2.2.1, s := x.2.2.2.1, depth := BitVec.ofNat 32 x.2.2.2.2
        pelem := pe, selem := se + 1 }
    s.setDraw l { d with samples := d.samples ++ [sample] }) s

/-- A primitive has finished: its vertices no longer count it (spec 17 R259). -/
def State.finishPrim (s : State) (l p : Nat) : State :=
  let d := s.draw l
  let q : Prim := d.prims.get {} p
  if !q.rastered || q.count ≠ 0 || q.finished then s
  else
    let d := { d with prims := d.prims.set {} p { q with finished := true } }
    s.setDraw l ((d.vertices q).foldl (fun d v => d.raise v false) d)

/-- Takes coarse pixels in row-major order up to one whose accesses or records must wait (R274). -/
def State.rasterFrom (s : State) (l p : Nat) (t : Tri) : Nat → State
  | 0 =>
    let d := s.draw l
    let q : Prim := d.prims.get {} p
    (s.setDraw l { d with prims := d.prims.set {} p { q with rastered := true } }).finishPrim l p
  | n + 1 =>
    let d := s.draw l
    let q : Prim := d.prims.get {} p
    let c := d.blk.coarseAt q.next
    let xs := t.covered d.blk c.1 c.2
    match s.earlyTests l p (d.elem q.cluster).object xs with
    | (false, s) => s
    | (true, s) =>
      let d := s.draw l
      let q : Prim := d.prims.get {} p
      let ok := xs.filter fun x => q.tested.any fun t => t.1 = x.1 && t.2
      let more := fun s : State =>
        let d := s.draw l
        let q : Prim := d.prims.get {} p
        let d := { d with prims := d.prims.set {} p { q with next := q.next + 1, tested := [] } }
        (s.setDraw l d).rasterFrom l p t n
      if ok = [] then more s
      else
        -- the records of the P element, and of its S elements
        match d.reserve (.prim p) .P 1 ok.length with
        | none => s.setDraw l (d.ask (.prim p) .P 1 ok.length)
        | some e => more ((s.setDraw l e).makePixel l p c.1 c.2 ok)

/-- Rasterises a primitive whose vertices have exited, as far as it can go; one that names a vertex twice gives no
element (spec 19 R286). -/
def State.rasterise (s : State) (l p : Nat) : State :=
  let d := s.draw l
  let q : Prim := d.prims.get {} p
  let vs := d.cornersOf q
  let ready := vs.all fun v => (d.elem v).phase = .exited || (d.elem v).phase = .retired
  let early : Bool := !d.hasZwr && (d.blk.tests || d.blk.writes)
  if !d.live || !q.live || !q.judged || q.rastered || !ready || (early && !s.inOrder l p)
      || (s.launch l).cancelled then s
  else
    let (ws, s) := s.peekSlots l (vs.flatMap d.posSlots) []
    let t := triOf ws
    let repeats : Bool := q.i0 = q.i1 || q.i1 = q.i2 || q.i0 = q.i2
    if t.valid && !repeats then s.rasterFrom l p t (d.blk.coarseAll - q.next)
    else s.rasterFrom l p t 0

/-- RASTERISE_PRIMITIVE (R273). -/
def execRasterisePrimitive (l p : Nat) (s : State) : Out := .next (s.rasterise l p)

/-- RESERVATION_GRANT: the oldest waiting request that can be met is met (R271). -/
def execReservationGrant (l : Nat) (s : State) : Out :=
  .next <|
    let d := s.draw l
    match d.requests.find? fun q => !q.met && d.canMeet q.who q.rate q.n q.subs with
    | none => s
    | some q =>
      match q.who with
      | .prim p => s.rasterise l p
      | .unit u =>
        let up := fun r : Request => if r = q then { r with met := true } else r
        let s := s.setDraw l
          { d with requests := d.requests.map up, used := d.used + d.asked q.rate q.n q.subs }
        if (s.unit u).park = .reserve then s.unpark u else s

/-! ## Retirement (spec 17 R259) -/

/-- Delivers the value of a ray to the lane that spawned it, where its unit still waits (spec 19
R293). -/
def State.deliverRay (s : State) (e : Nat) (x : Elem) : State :=
  match x.waiter with
  | none => s
  | some (u, l, d) =>
    let w := s.unit u
    if w.live && w.awaits.contains (d, l, e) then
      let (n, s) := s.stamp
      s.setUnit u { w.setReg d l x.ret with awaits := w.awaits.filter fun a => a ≠ (d, l, e), acq := n }
    else s

/-- The draw of an element. -/
def State.drawOf (s : State) (e : Nat) : Option Nat :=
  ((AMap.findAll s.work.draws fun _ d => d.live && (d.elem e).phase ≠ .absent).head?).map Prod.fst

/-- Whether a unit that has left is still to write slots of an element. -/
def State.heldLater (s : State) (e : Nat) : Bool :=
  s.work.units.any fun u => u.2.left.isSome && u.2.pend.any fun p =>
    (match p.op with | .HOLD _ _ => true | _ => false) && (p.todo ++ p.faulted).any fun r => r.addr = e

/-- Whether an element can retire: its wave has exited and its dependants have retired. Dependants can still come for
the F element, while objects do, and for a vertex, until the wave of its cluster has exited. -/
def State.canRetire (s : State) (l e : Nat) : Bool :=
  let d := s.draw l
  let x := d.elem e
  let exited : Bool := match x.phase with | .exited => true | .absent | .ready | .running | .retired => false
  let named : Bool := x.rate ≠ .V ||
    (match (d.elem x.parent).phase with
      | .exited | .retired => true
      | .absent | .ready | .running => false)
  exited && named && x.count = 0 && !s.heldLater e
    && (x.rate ≠ .F || d.objects = (s.launch l).form.count)
    && (x.rate ≠ .C || d.prims.all fun k => !k.2.live || k.2.cluster ≠ e || k.2.judged)

/-- The record of an element is gone: its lines are discarded as discard does, and its staging is free (spec 17
R259). -/
def State.dropRecord (s : State) (l e : Nat) : State :=
  let d := s.draw l
  let x := d.elem e
  let s := s.setDraw l (d.setElem e { x with phase := .retired, lines := [], init := [], staged := none })
  x.lines.foldl (fun s o => s.discardRange (s.ctx (s.launch l).ctx).asid (d.blk.area + o) 128) s

/-- ELEMENT_RETIRE: the record is discarded, and the count of the table's last column falls. -/
def execElementRetire (e : Nat) (s : State) : Out :=
  .next <|
    match s.drawOf e with
    | none => s
    | some l =>
      if !s.canRetire l e then s
      else
        let d := s.draw l
        let x := d.elem e
        let s := s.dropRecord l e
        let d := s.draw l
        let s := s.setDraw l { d with used := d.used - d.recSize x.rate }
        let s := s.moreObjects l
        let la := s.launch l
        let down := fun s : State => s.setDraw l ((s.draw l).raise x.parent false)
        match x.rate with
        | .F => s.finishDraw l
        | .O =>
          down (s.setLaunch l { la with retired := la.retired + 1 })
        | .C | .V => down s
        | .S =>
          let s := down s
          if (s.draw l).puts = [] then s.takeSamples l (s.draw l).samples.length else s
        | .P =>
          let d := s.draw l
          let q : Prim := d.prims.get {} x.prim
          let s := (s.setDraw l { d with prims := d.prims.set {} x.prim { q with count := q.count - 1 } }).finishPrim
            l x.prim
          if (s.draw l).puts = [] then s.takeSamples l (s.draw l).samples.length else s
        | .Y => (down s).deliverRay e x
        | .K => s

/-- PYRAMID_DROP: the firmware drops a buffer's pyramid, also for draws that have not tested it (R277). -/
def execPyramidDrop (die addr : Nat) (s : State) : Out :=
  .next <|
    let other := fun p : Pyramid => !(p.die = die && p.addr = addr)
    { s with
      mem := { s.mem with pyramids := s.mem.pyramids.filter other }
      work := { s.work with
      launches := AMap.mapVals s.work.launches {} fun _ l => { l with seen := l.seen.filter other }
      draws := AMap.mapVals s.work.draws {} fun _ d => { d with pyramid := d.pyramid.filter other } } }

end Sys2Proof.Machine
end

