-- ==== Sys2Proof/Machine/Matrix.lean ====
section
/-!
DEFINITION. The arithmetic of the matrix array: shapes, operand layouts, groups with their scales and
special values, in the order of R308 (spec 20 R297, spec 21 R304 to R309, spec 22 R317 to R322).
-/

namespace Sys2Proof

/-- K and N of a type and variant (spec 03 R65). -/
def MTy.shape (t : MTy) (variant : Bool) : Nat × Nat :=
  match t, variant with
  | .e2m1, false => (192, 128)
  | .e2m1, true => (384, 64)
  | .e4m3, false | .e5m2, false => (192, 128)
  | .e4m3, true | .e5m2, true => (96, 256)
  | .bf16, false | .int8, false => (96, 128)
  | .bf16, true | .int8, true => (64, 128)

/-- Half bytes of an element. -/
def MTy.nibbles (t : MTy) : Nat := match t with | .e2m1 => 1 | .bf16 => 4 | .e4m3 | .e5m2 | .int8 => 2

/-- An integer as a value. -/
def intFl (v : Int) : Fl := .fin (v < 0) v.natAbs 0

/-- Element i of a dense run of elements (R297, R302). -/
def MTy.element (t : MTy) (data : List Byte) (i : Nat) : Fl :=
  let byte := fun j : Nat => (data.getD j 0).toNat
  match t with
  | .e2m1 => fmtE2M1.unpack (byte (i / 2) / 16 ^ (i % 2) % 16)
  | .e4m3 => fmtE4M3.unpack (byte i)
  | .e5m2 => fmtE5M2.unpack (byte i)
  | .bf16 => fmtB16.unpack (byte (2 * i) + 256 * byte (2 * i + 1))
  | .int8 => intFl (BitVec.ofNat 8 (byte i)).toInt

/-- 1.0. -/
def flOne : Fl := .fin false 1 0

/-- An exact dyadic number, v × 2^e. -/
structure Dyadic where
  v : Int
  e : Int
  deriving DecidableEq, Repr

/-- The exact sum. -/
def Dyadic.add (a b : Dyadic) : Dyadic :=
  let e := min a.e b.e
  { v := a.v * pow2 (a.e - e) + b.v * pow2 (b.e - e), e := e }

/-- A finite value; 0 for the others. -/
def Fl.dyadic : Fl → Dyadic
  | .fin s m e => { v := signedInt s m, e := e }
  | .inf _ | .nan _ _ _ => { v := 0, e := 0 }

end Sys2Proof

namespace Sys2Proof.Machine

open Sys2Proof

/-- A block scale, and a band scale, at a byte offset. -/
def blockScale (data : List Byte) (o : Nat) : Fl := unpackScale (data.getD o 0).toNat
def bandScale (data : List Byte) (o : Nat) : Fl :=
  fmtB16.unpack ((data.getD o 0).toNat + 256 * (data.getD (o + 1) 0).toNat)

/-- The code of a logical group of four and a column in a bank's metadata (spec 22 R319). -/
def metaCode (side : List Byte) (n g col : Nat) : Nat :=
  (side.getD ((g * n + col) / 2) 0).toNat / 16 ^ (col % 2) % 16

/-- Element (k, n) of a loaded bank; none where it is pruned (spec 22 R317, R320). -/
def Bank.element (b : Bank) (side : List Byte) (k col : Nat) : Option Fl :=
  let n := (b.ty.shape b.variant).2
  if !b.sparse then some (b.ty.element b.data (k * n + col))
  else
    let code := metaCode side n (k / 4) col
    if code / 2 ^ (k % 4) % 2 = 0 then none
    else
      let rank := ((List.range (k % 4)).filter fun i => code / 2 ^ i % 2 = 1).length
      some (b.ty.element b.data ((2 * (k / 4) + rank) * n + col))

/-- The sum of a group's products, finite or infinite (spec 21 R309). -/
inductive GroupSum
  | finite (p : Dyadic)
  | infinite (sign : Bool)
  deriving DecidableEq, Repr

/-- What a group adds: nothing where its sum is an exact zero, else a value with its flags
(spec 21 R308, R309). `pairs` are A and B elements, `block` the two block scales, `band` the two band
scales. -/
def groupTerm (pairs : List (Fl × Fl)) (block band : List Fl) : Option Res :=
  let scales := block ++ band
  let elems := pairs.flatMap fun p => [p.1, p.2]
  let prod := fun p : Fl × Fl => Fl.mul p.1 p.2
  let infs := pairs.filter fun p => (p.1.isInf || p.2.isInf) && !p.1.isZero && !p.2.isZero
  let signs := infs.map fun p => p.1.sign != p.2.sign
  let fins := pairs.filter fun p => !p.1.isInf && !p.2.isInf
  let sum := fins.foldl (fun (d : Dyadic) p =>
    match prod p with
    | some q => d.add (Fl.dyadic q)
    | none => d) { v := 0, e := 0 }
  let p : GroupSum := match signs with | s :: _ => .infinite s | [] => .finite sum
  let zeroByInf : Bool :=
    pairs.any (fun q => (q.1.isInf && q.2.isZero) || (q.1.isZero && q.2.isInf))
      || (match p with
          | .infinite _ => scales.any Fl.isZero
          | .finite d => d.v = 0 && scales.any Fl.isInf)
      || (scales.any Fl.isZero && scales.any Fl.isInf)
  let flip := (band.filter Fl.sign).length % 2 = 1
  if elems.any Fl.isNaN then
    some { val := fmt32.genNaN 1, flags := flagIf (elems.any Fl.signalling) flagNV }
  else if scales.any Fl.isNaN then
    some { val := fmt32.genNaN 2, flags := flagIf (scales.any Fl.signalling) flagNV }
  else if zeroByInf then some (fmt32.invalid 4)
  else if signs.any id && signs.any not then some (fmt32.invalid 3)
  else
    match p with
    | .infinite s => some { val := fmt32.signed (s != flip) fmt32.infBits }
    | .finite d =>
      if scales.any Fl.isInf then some { val := fmt32.signed ((d.v < 0 : Bool) != flip) fmt32.infBits }
      else
        let s := scales.foldl (fun (d : Dyadic) (f : Fl) =>
          let k := Fl.dyadic f
          { v := d.v * k.v, e := d.e + k.e }) d
        if s.v = 0 then none else some (fmt32.round .ieee .rn (s.v < 0) s.v.natAbs s.e)

/-- One group into an accumulator, with the flags (spec 21 R308, R309): a NaN stays, an exact zero
leaves it unchanged. -/
def accumulate (acc : Nat) (term : Option Res) : Res :=
  if (fmt32.unpack acc).isNaN then { val := acc }
  else
    match term with
    | none => { val := acc }
    | some t =>
      if (fmt32.unpack t.val).isNaN then t else (fmt32.add .rn acc t.val).raise t.flags

/-- The operands of an mma. -/
structure MmaArgs where
  ty   : MTy
  /-- M, K and N -/
  m    : Nat
  k    : Nat
  n    : Nat
  bank : Bank
  side : List Byte
  /-- the bytes of the A tile -/
  a    : List Byte
  deriving DecidableEq, Repr

/-- The bytes of the A tile that an mma reads (spec 22 R321). -/
def aBytes (ty : MTy) (m k : Nat) (scl : Bool) : Nat :=
  m * k * ty.nibbles / 2 + if ty = .e2m1 && scl then m * k / 8 + 2 * ((m + 63) / 64) else 0

/-- The pairs of a group of eight; a pruned position contributes +0 (spec 22 R320). -/
def MmaArgs.pairs (x : MmaArgs) (row col g : Nat) : List (Fl × Fl) :=
  (List.range 8).map fun j =>
    let k := 8 * g + j
    match x.bank.element x.side k col with
    | some b => (x.ty.element x.a (row * x.k + k), b)
    | none => (.fin false 0 0, .fin false 0 0)

/-- The scales of a group: the block scales of A and B, and the band scales (spec 21 R304, spec 22
R317, R318). -/
def MmaArgs.scales (x : MmaArgs) (row col g : Nat) : List Fl × List Fl :=
  if x.ty = .e2m1 && x.bank.scl then
    let a0 := x.m * x.k / 2
    let b0 := x.k * x.n / 2
    ([blockScale x.a (a0 + row * x.k / 8 + g), blockScale x.bank.data (b0 + g * x.n + col)],
      [bandScale x.a (a0 + x.m * x.k / 8 + 2 * (row / 64)),
       bandScale x.bank.data (b0 + x.k * x.n / 8 + 2 * (col / 64))])
  else ([flOne, flOne], [flOne, flOne])

/-- The groups of one element, in increasing order. -/
def MmaArgs.groups (x : MmaArgs) (row col : Nat) : List Nat → Res → Res
  | [], r => r
  | g :: rest, r =>
    let sc := x.scales row col g
    x.groups row col rest
      ((accumulate r.val (groupTerm (x.pairs row col g) sc.1 sc.2)).raise r.flags)

/-- One element of the region (spec 21 R308). -/
def MmaArgs.element (x : MmaArgs) (row col : Nat) (acc : Word) : Res :=
  x.groups row col (List.range (x.k / 8)) { val := acc.toNat }

/-- The bytes of a B set in its tile (spec 22 R317). -/
def bldBytes (ty : MTy) (k n : Nat) (scl sparse : Bool) : Nat :=
  let dense := k * n * ty.nibbles / 2
  if ty = .e2m1 then dense + if scl then k * n / 8 + 2 * (n / 64) else 0
  else if sparse then dense / 2 else dense

/-- Whether every metadata code of a shape has exactly two bits set (spec 22 R317). -/
def metaOk (side : List Byte) (k n : Nat) : Bool :=
  (List.range (k / 4)).all fun g => (List.range n).all fun col =>
    let c := metaCode side n g col
    ((List.range 4).filter fun i => c / 2 ^ i % 2 = 1).length = 2

/-- Half bytes of a target of acc.st (spec 22 R324). -/
def targetNibbles (t : Ty) : Nat :=
  match t with
  | .f32 => 8 | .f16 | .bf16 => 4 | .e4m3 | .e5m2 => 2 | .e2m1 => 1
  | .n32 | .i32 | .n64 | .i64 | .f64 => 8

/-- Converted values as bytes; two e2m1 results to a byte (spec 21 R302). -/
def packTargets (t : Ty) : List Nat → List Byte
  | [] => []
  | [v] => leBytes v (if t = .e2m1 then 1 else targetNibbles t / 2)
  | v :: w :: rest =>
    if t = .e2m1 then BitVec.ofNat 8 (v % 16 + 16 * w) :: packTargets t rest
    else leBytes v (targetNibbles t / 2) ++ leBytes w (targetNibbles t / 2) ++ packTargets t rest

end Sys2Proof.Machine
end

