-- ==== Sys2Proof/Machine/Tiles.lean ====
section
/-!
DEFINITION. Tile slots, shape records and the handing over of copies, matrix programs and collective
commands: majors 0x34 and 0x35 (spec 16 R255, R256, spec 20 R296 to R299, spec 23 R334 to R346).
-/

namespace Sys2Proof.Machine

open Sys2Proof

/-! ## Slots -/

/-- A slot that the group holds. -/
def Group.tile? (g : Group) (n : Nat) : Option Tile :=
  if n < g.ntiles then some (g.tiles.get {} n) else none

def Group.setTile (g : Group) (n : Nat) (t : Tile) : Group := { g with tiles := g.tiles.set {} n t }

/-- A byte that reaches a slot from a fill: counted while the fill is current and FILLING, else it sets
overrun; the slot becomes READY and flips its phase when the count is met (R337). -/
def Tile.count (t : Tile) (fill : Nat) : Nat → Tile
  | 0 => t
  | n + 1 =>
    let t :=
      if t.fill = fill && t.state = .filling then
        let t := { t with arrived := t.arrived + 1 }
        if t.arrived = t.expected then { t with state := .ready, phase := !t.phase } else t
      else { t with overrun := true }
    t.count fill n

/-- A unit parked in twait goes on: it acquires the slot's bytes and leaves the twait (R338). -/
def State.leaveTwait (s : State) (u : Nat) : State :=
  let s := s.acquire u
  let w := s.unit u
  (s.setUnit u { w with pc := w.pc + 8 }).unpark u

/-- The units parked in twait on a slot go on when it is READY, and raise TILE_STATE when it has
failed. -/
def State.wakeTile (s : State) (gi n : Nat) : State :=
  match (s.group gi).tile? n with
  | none => s
  | some t =>
    (s.unitsOf gi).foldl (fun s u =>
      let w := s.unit u
      match w.park with
      | .twait m word =>
        if m ≠ n then s
        else if t.failed then
          (s.setUnit u { w with trapNext := some (causeTile, word) }).unpark u
        else if t.state = .ready then s.leaveTwait u
        else s
      | _ => s) s

/-- Writes a slot and wakes its waiters. -/
def State.putTile (s : State) (gi n : Nat) (t : Tile) : State :=
  (s.setGroup gi ((s.group gi).setTile n t)).wakeTile gi n

/-- The slot number of a tile instruction. -/
def tileOf (f : AluF) : Nat := f.c.toNat

/-- tarm opens a fill (R336). -/
def execTarm (h : Head) (f : AluF) (s : State) : Out :=
  let i := Instr.TARM h f
  .next (s.waveOp i h fun s =>
    let w := s.unit s.cur
    let g := s.group w.group
    match g.tile? (tileOf f) with
    | none => s.trap i causeTile
    | some t =>
      let o := w.val false f.a.toNat (w.leader h)
      let n := w.srcOrImm f f.b false (w.leader h) % 2 ^ 32
      if t.state ≠ .empty then s.trap i causeTile
      else if o % 4 ≠ 0 || n % 4 ≠ 0 || n = 0 || g.scratch < o + n then s.trap i causeAlign
      else
        let t := { t with base := o, size := n, expected := n, arrived := 0, overrun := false
                          failed := false, fill := t.fill + 1, state := .filling }
        (s.putTile w.group (tileOf f) t).advance i)

/-- twait parks the unit until the slot is READY (R338); it is a retirement point of a cancelled
launch (spec 06 R111). -/
def execTwait (h : Head) (f : AluF) (s : State) : Out :=
  let i := Instr.TWAIT h f
  .next (s.waveOp i h fun s =>
    let w := s.unit s.cur
    if (s.launch w.launch).cancelled then s.retireHere
    else
      match (s.group w.group).tile? (tileOf f) with
      | none => s.trap i causeTile
      | some t =>
        if t.state = .empty || t.failed then s.trap i causeTile
        else if t.state = .ready then (s.acquire s.cur).advance i
        else
          s.setUnit s.cur { w with park := .twait (tileOf f) (firstWord i)
                                   parkedAt := (s.core w.core).cycle })

/-- trel empties a slot (R339). -/
def execTrel (h : Head) (f : AluF) (s : State) : Out :=
  let i := Instr.TREL h f
  .next (s.waveOp i h fun s =>
    let w := s.unit s.cur
    match (s.group w.group).tile? (tileOf f) with
    | none => s.trap i causeTile
    | some t =>
      match t.state with
      | .empty => s.advance i
      | .ready => (s.putTile w.group (tileOf f) { t with state := .empty }).advance i
      | .filling =>
        if t.failed then
          (s.putTile w.group (tileOf f) { t with state := .empty, failed := false }).advance i
        else s.trap i causeTile
      | .draining => s.trap i causeTile)

/-- The status word of tstat (R340). -/
def Tile.status (t : Tile) : Nat :=
  let st := match t.state with | .empty => 0 | .filling => 1 | .ready => 2 | .draining => 3
  st + 4 * t.phase.toNat + 8 * t.overrun.toNat + 16 * t.failed.toNat + 256 * t.arrived

/-- tstat: a snapshot of the slot (R340). -/
def execTstat (h : Head) (f : AluF) (s : State) : Out :=
  let i := Instr.TSTAT h f
  .next (s.waveOp i h fun s =>
    let w := s.unit s.cur
    match (s.group w.group).tile? (tileOf f) with
    | none => s.trap i causeTile
    | some t => s.answer i (w.destMask h) false f.d.toNat t.status)

/-! ## tcopy (R341) -/

/-- The divisor of a conversion's row bytes (R341). -/
def convDivisor (n : Nat) : Nat :=
  if n = 1 || n = 2 then 8 else if n = 3 || n = 4 then 16 else if n = 5 then 32 else 4

/-- The destination bytes of a row. -/
def convRow (conv rowBytes : Nat) : Nat :=
  match convSizes conv with
  | some (a, b) => rowBytes * b / a
  | none => rowBytes

/-- A signed 64-bit field. -/
def signed64 (n : Nat) : Int := if n / 2 ^ 63 % 2 = 1 then (n : Int) - 2 ^ 64 else n

/-- A shape record as a copy, or none where a field is outside R296 or R341. -/
def shapeCopy (bs : List Byte) (size : Nat) : Option Copy :=
  let g := fun o n : Nat => leNat ((bs.drop o).take n)
  let row := g 0x10 4
  let rows := g 0x14 4
  let dir := g 0x20 1
  let conv := g 0x21 1
  let off := g 0x18 4
  let stride := g 0x1C 4
  let tileRow := if dir = 0 then convRow conv row else row
  let bad : Bool :=
    g 0 8 % 4 ≠ 0 || g 8 8 % 4 ≠ 0 || row < 4 || 65536 < row || row % 4 ≠ 0 || rows = 0 || 65536 < rows
      || off % 4 ≠ 0 || stride % 4 ≠ 0 || 1 < dir || (convSizes conv).isNone || 32 ≤ g 0x22 1
      || g 0x23 5 ≠ 0 || g 0x30 16 ≠ 0 || g 0x28 8 % 8 ≠ 0 || row % convDivisor conv ≠ 0
      || size < off + (rows - 1) * stride + tileRow
  if bad then none
  else
    some { num := 0, ctx := 0, group := 0, tile := 0, fill := 0, mem := g 0 8
           memStride := signed64 (g 8 8), rowBytes := row, rows := rows, off := off, stride := stride
           dir := dir, conv := conv, obs := BitVec.ofNat 5 (g 0x22 1), counter := g 0x28 8, op := 0
           pos := 0, base := 0, image := [], hints := 0, held := false }

/-- The queue of a counter at a TCE. -/
def Core.queue? (c : Core) (ctx addr : Nat) : Option TQueue :=
  c.queues.find? fun q => q.ctx = ctx && q.addr = addr

/-- Accepts a copy: it is the next operation of its counter's queue (R343). -/
def Core.accept (c : Core) (p : Copy) : Core :=
  if p.counter = 0 then { c with copies := c.copies ++ [p] }
  else
    match c.queue? p.ctx p.counter with
    | some q =>
      let up := fun x : TQueue => if x = q then { x with issued := x.issued + 1 } else x
      { c with copies := c.copies ++ [{ p with op := q.issued + 1 }], queues := c.queues.map up }
    | none =>
      { c with
        copies := c.copies ++ [{ p with op := 1 }]
        queues := c.queues ++
          [{ ctx := p.ctx, addr := p.counter, c0 := none, issued := 1, done := 0 }] }

/-- The unit waits to issue. -/
def State.waitIssue (s : State) : State := s.hold s.cur

/-- Hands a checked copy to the TCE; a direction-1 copy keeps the tile as the wave can read it now and
makes the slot DRAINING (R342). -/
def State.handCopy (s : State) (i : Instr) (h : Head) (n : Nat) (t : Tile) (p : Copy) : State :=
  let w := s.unit s.cur
  let g := s.group w.group
  let (num, s) := s.stamp
  let p : Copy :=
    { p with num := num, ctx := w.ctx, group := w.group, tile := n, fill := t.fill, base := t.base
             hints := h.hints, fw := (s.ctx w.ctx).tceFw.obj
             image := if p.dir = 1 then s.readScratch g t.base t.size else [] }
  let s := if p.dir = 1 then
      s.putTile w.group n { t with state := .draining, readers := t.readers + 1 } else s
  (s.setCore w.core ((s.core w.core).accept p)).advance i

/-- tcopy: its checks in the stages of R341. -/
def execTcopy (h : Head) (f : AluF) (s : State) : Out :=
  let i := Instr.TCOPY h f
  .next (s.waveOp i h fun s =>
    let (r, s) := s.leaderReq fun w =>
      { lane := 0, addr := w.val true f.a.toNat (w.leader h), data := [] }
    let w := s.unit s.cur
    match (s.group w.group).tile? (tileOf f) with
    | none => s.trap i causeTile
    | some t =>
      if t.state = .empty then s.trap i causeTile
      else
        if badAddr r.addr 64 then s.trap i causeAlign
        else if 64 ≤ (s.core w.core).copies.length then s.waitIssue
        else
          match s.loadAt s.cur (s.reqOf s.cur r.addr) false 64 with
          | (.fault c why, s) => s.leaderFault i r r.addr c why false
          | (.stall p, s) => s.leaderStall i r r.addr p false
          | (.words ws, s) =>
            match shapeCopy (ws.flatMap fun w => leBytes w.toNat 4) t.size with
            | none => s.trap i causeShape
            | some p =>
              let suits : Bool :=
                if p.dir = 0 then t.state = .filling else t.state = .ready || t.state = .draining
              let c := s.core w.core
              if !suits then s.trap i causeTile
              else if p.counter ≠ 0 && (c.queue? w.ctx p.counter).isNone && 16 ≤ c.queues.length then
                s.waitIssue
              else s.handCopy i h (tileOf f) t p)

/-! ## mstart and coll -/

/-- mstart queues a start; with four queued it waits to issue (R346). -/
def execMstart (h : Head) (f : AluF) (s : State) : Out :=
  let i := Instr.MSTART h f
  .next (s.waveOp i h fun s =>
    let w := s.unit s.cur
    let arg := w.val true f.a.toNat (w.leader h)
    let c := s.core w.core
    if badAddr arg 8 then s.trap i causeAlign
    else if 4 ≤ c.msq.starts.length then s.waitIssue
    else
      let m : MStart :=
        { ctx := w.ctx, group := w.group, obj := ((s.objOf w).map (·.id)).getD 0
          entry := (f.ext.getD 0).toNat, arg := arg }
      (s.setCore w.core { c with msq := { c.msq with starts := c.msq.starts ++ [m] } }).advance i)

/-- The place of a collective queue's entry in the context block (spec 16 R252). -/
def State.collEntry (s : State) (ctx die q : Nat) : Nat :=
  (s.ctx ctx).block.toNat + 0x200 + die * 0x100 + q * 16

/-- The queue of a collective engine, whose entry is read when a coll first names it (spec 16 R252,
R255). -/
def State.collQueue (s : State) (ctx die q : Nat) : CollQ :=
  let x := s.ctx ctx
  let k := x.collQs.get {} (die * 16 + q)
  if k.open_ then k
  else
    let pa := s.collEntry ctx die q
    { k with open_ := true, counter := leNat (s.localRead pa 8) }

/-- coll (spec 16 R256). -/
def execColl (h : Head) (f : AluF) (s : State) : Out :=
  let i := Instr.COLL h f
  .next (s.waveOp i h fun s =>
    let (r, s) := s.leaderReq fun w =>
      { lane := (w.destMask h).toNat, addr := w.val true f.a.toNat (w.leader h), data := [] }
    if badAddr r.addr 64 then s.trap i causeAlign
    else
      match s.loadAt s.cur (s.reqOf s.cur r.addr) false 64 with
      | (.fault c why, s) => s.leaderFault i r r.addr c why false
      | (.stall p, s) => s.leaderStall i r r.addr p false
      | (.words ws, s) =>
        let bs := ws.flatMap fun w => leBytes w.toNat 4
        let g := fun o n : Nat => leNat ((bs.drop o).take n)
        let w := s.unit s.cur
        let done := fun (s : State) (st : Nat) => s.answer i (BitVec.ofNat 32 r.lane) false f.d.toNat st
        if (s.ctx w.ctx).collFw.obj = 0 then done s 3
        else if 16 ≤ g 0 1 || 32 ≤ g 1 1 || g 2 6 ≠ 0 then done s 2
        else
          let die := if w.core < s.host.cores0 then 0 else 1
          let q := s.collQueue w.ctx die (g 0 1)
          let s := s.tellLocal (s.collEntry w.ctx die (g 0 1)) 8
          let full : Bool := 64 ≤ q.cmds.length
          let cmd : CollCmd :=
            { num := q.accepted + 1, obs := g 1 1, data := bs.drop 8, fw := (s.ctx w.ctx).collFw }
          let q := if full then q else { q with accepted := q.accepted + 1, cmds := q.cmds ++ [cmd] }
          let x := s.ctx w.ctx
          done (s.setCtx w.ctx { x with collQs := x.collQs.set {} (die * 16 + g 0 1) q })
            (if full then 1 else 0))

end Sys2Proof.Machine
end

