-- ==== Sys2Proof/Machine/Sequencer.lean ====
section
/-!
DEFINITION. The words of the matrix sequencer, its program fetch and its stops (spec 20 R299, spec 21
R311, spec 22 R312 to R328).
-/

namespace Sys2Proof.Machine

open Sys2Proof

/-- A core's sequencer. -/
def State.msq (s : State) (c : Nat) : Msq := (s.core c).msq

def State.setMsq (s : State) (c : Nat) (m : Msq) : State := s.setCore c { s.core c with msq := m }

/-- The program ends; words in flight complete by themselves. -/
def Msq.stopped (m : Msq) : Msq :=
  { m with running := false, fresh := false, held := false, halted := false, inWord := false }

/-- The request of the sequencer at an address (R316). -/
def State.msqReq (s : State) (c va : Nat) : Req :=
  let m := s.msq c
  { core := some c, ctx := m.ctx, asid := (s.ctx m.ctx).asid, va := va, who := .msq c, lane := 0 }

/-- The program ends with its error record: written, dropped where its write faults, or held back where its
fill stalls, and the sequencer with it (R328). -/
def State.msqRecord (s : State) (c va : Nat) (bs : List Byte) : State :=
  match s.writeRange (s.msqReq c va) bs allObs with
  | (.stall p, s) =>
    let s := s.addStall p (s.msqReq c va).asid va (.msq c) true
    s.setMsq c { s.msq c with held := true, errRec := some (va, bs) }
  | (_, s) => s.setMsq c { (s.msq c).stopped with errRec := none }

/-- Whether the unit of a program's group has been cancelled, or its group is gone (R330). -/
def State.msqGone (s : State) (c : Nat) : Bool :=
  let g := s.group (s.msq c).group
  g.phase = .absent || (s.launch g.launch).cancelled

/-- The program stops at its word with a cause; one that a cancel has halted writes no error record (R328, R330). What
it waited for concerns it no more. -/
def State.msqStop (s : State) (c : Nat) (cause : Word) : State :=
  let s := s.forget fun w => w = .msq c
  let m := s.msq c
  if m.halted && s.msqGone c then s.setMsq c m.stopped
  else s.msqRecord c (m.counter + 0x10) (leBytes (cause.toNat % 256) 4 ++ leBytes m.j 4 ++ leBytes m.pc 8)

/-- Whether the program of a core issues a word, or makes the access of one in flight again. -/
def Msq.runs (m : Msq) : Bool :=
  m.running && !m.fresh && !m.held && m.errRec.isNone && (!m.halted || m.inWord)

/-- A word is no longer in flight: a program that a cancel has halted ends after its last (R330). -/
def State.msqSettle (s : State) (c : Nat) : State :=
  let m := { s.msq c with inWord := false }
  s.setMsq c (if m.halted && s.msqGone c && m.bg = [] then m.stopped else m)

/-- Issues a word of the current sequencer: RSV_FIELD first, then its effect (spec 03 R67). -/
def State.msqIssue (s : State) (i : Instr) (effect : State → Nat → State) : State :=
  let c := s.curMsq
  let m := s.msq c
  if !m.runs then s
  else
    match lowestCond i.conds with
    | some x => s.msqStop c (causeRsv x)
    | none => effect s c

/-- The next word. -/
def State.msqNext (s : State) (c : Nat) : State :=
  let m := s.msq c
  (s.setMsq c { m with pc := m.pc + 8 }).msqSettle c

/-- A matrix word has been performed and completes in the background (R327). -/
def State.msqBack (s : State) (c : Nat) (bank : Option Nat) (lo hi : Nat) : State :=
  let m := s.msq c
  s.setMsq c { m with bg := m.bg ++ [{ seq := m.bgSeq, bank := bank, lo := lo, hi := hi }]
                      bgSeq := m.bgSeq + 1, pc := m.pc + 8 }

/-- Whether a word in flight uses accumulators, and whether its range meets another. -/
def BgWord.acc (w : BgWord) : Bool := w.lo < w.hi
def BgWord.meets (w : BgWord) (lo hi : Nat) : Bool := w.lo < hi && lo < w.hi

/-- mend: waits for every earlier word, then the program ends (R313). -/
def execMend (s : State) : Out :=
  .next (s.msqIssue .MEND fun s c =>
    if (s.msq c).bg ≠ [] then s else s.setMsq c (s.msq c).stopped)

/-- mnop (spec 03 R66). -/
def execMnop (s : State) : Out := .next (s.msqIssue .MNOP fun s c => s.msqNext c)

/-! ## Scalar words (R315, R316) -/

/-- An MSQ register. -/
def Msq.reg (m : Msq) (r : BitVec 5) : DWord := m.m.get 0 r.toNat

/-- Writes an MSQ register. -/
def Msq.setReg (m : Msq) (r : BitVec 5) (v : DWord) : Msq := { m with m := m.m.set 0 r.toNat v }

/-- The sign-extended immediate. -/
def MsqS.sext (f : MsqS) : DWord := f.value.signExtend 64

/-- The last source. -/
def Msq.last (m : Msq) (f : MsqS) : DWord := if f.imm then f.value.signExtend 64 else m.reg f.b

/-- A scalar word. -/
def State.msqScalar (s : State) (i : Instr) (f : MsqS) (v : Msq → DWord) : State :=
  s.msqIssue i fun s c => (s.setMsq c ((s.msq c).setReg f.d (v (s.msq c)))).msqNext c

/-- mmov: a, or the immediate. -/
def execMmov (f : MsqS) (s : State) : Out :=
  .next (s.msqScalar (.MMOV f) f fun m => if f.imm then f.value.signExtend 64 else m.reg f.a)

/-- a + b. -/
def execMadd (f : MsqS) (s : State) : Out :=
  .next (s.msqScalar (.MADD f) f fun m => m.reg f.a + m.last f)

/-- a − b. -/
def execMsub (f : MsqS) (s : State) : Out :=
  .next (s.msqScalar (.MSUB f) f fun m => m.reg f.a - m.last f)

/-- The low 64 bits of a × b. -/
def execMmul (f : MsqS) (s : State) : Out :=
  .next (s.msqScalar (.MMUL f) f fun m => m.reg f.a * m.last f)

/-- Bitwise AND. -/
def execMand (f : MsqS) (s : State) : Out :=
  .next (s.msqScalar (.MAND f) f fun m => m.reg f.a &&& m.last f)

/-- Bitwise OR. -/
def execMor (f : MsqS) (s : State) : Out :=
  .next (s.msqScalar (.MOR f) f fun m => m.reg f.a ||| m.last f)

/-- Bitwise XOR. -/
def execMxor (f : MsqS) (s : State) : Out :=
  .next (s.msqScalar (.MXOR f) f fun m => m.reg f.a ^^^ m.last f)

/-- a shifted left; 0 for a count of 64 or more. -/
def execMshl (f : MsqS) (s : State) : Out :=
  .next (s.msqScalar (.MSHL f) f fun m =>
    if 64 ≤ (m.last f).toNat then 0 else m.reg f.a <<< (m.last f).toNat)

/-- a shifted right, zeros shifted in; 0 for a count of 64 or more. -/
def execMshr (f : MsqS) (s : State) : Out :=
  .next (s.msqScalar (.MSHR f) f fun m =>
    if 64 ≤ (m.last f).toNat then 0 else m.reg f.a >>> (m.last f).toNat)

/-- A branch: by words from this word when the test holds. -/
def State.msqBranch (s : State) (i : Instr) (f : MsqB) (p : DWord → DWord → Bool) : State :=
  s.msqIssue i fun s c =>
    let m := s.msq c
    if p (m.reg f.a) (m.reg f.b) then
      (s.setMsq c { m with pc := wrap 64 ((m.pc : Int) + 8 * f.off.toInt) }).msqSettle c
    else s.msqNext c

/-- Branch if equal. -/
def execMbeq (f : MsqB) (s : State) : Out := .next (s.msqBranch (.MBEQ f) f fun a b => a = b)

/-- Branch if not equal. -/
def execMbne (f : MsqB) (s : State) : Out := .next (s.msqBranch (.MBNE f) f fun a b => a ≠ b)

/-- Branch if less, unsigned. -/
def execMblt (f : MsqB) (s : State) : Out :=
  .next (s.msqBranch (.MBLT f) f fun a b => a.toNat < b.toNat)

/-- Branch if greater or equal, unsigned. -/
def execMbge (f : MsqB) (s : State) : Out :=
  .next (s.msqBranch (.MBGE f) f fun a b => b.toNat ≤ a.toNat)

/-- Branch always. -/
def execMjmp (f : MsqB) (s : State) : Out := .next (s.msqBranch (.MJMP f) f fun _ _ => true)

/-- A fault of the program goes to the firmware, and the sequencer waits. -/
def State.msqFault (s : State) (c va : Nat) (f : DFault) (why : Absence) (write : Bool) : State :=
  let (_, s) := s.raiseFault (.msq c) (s.msqReq c va).asid va f why write
  s.setMsq c { s.msq c with held := true }

/-- A fill, or a request to a peer, of the program waits, and the sequencer with it. -/
def State.msqStall (s : State) (c va : Nat) (p : StallAt) (write : Bool) : State :=
  let s := s.addStall p (s.msqReq c va).asid va (.msq c) write
  s.setMsq c { s.msq c with held := true }

/-- The word of an instruction is in flight. -/
def Msq.inFlight (m : Msq) (i : Instr) : Msq := { m with inWord := true, word := firstWord i }

/-- The access of the current word waits, which is then in flight (R330, R331). -/
def State.msqHold (s : State) (c va : Nat) (write : Bool) (i : Instr) : Got → State
  | .fault f why => let s := s.msqFault c va f why write; s.setMsq c ((s.msq c).inFlight i)
  | .stall p => let s := s.msqStall c va p write; s.setMsq c ((s.msq c).inFlight i)
  | .bytes _ => s

/-- The address of mld and mst. -/
def Msq.address (m : Msq) (f : MsqS) : Nat := (m.reg f.a + f.value.signExtend 64).toNat

/-- mld: a weak load of class M at the home slice (R316). -/
def execMld (f : MsqS) (s : State) : Out :=
  .next (s.msqIssue (.MLD f) fun s c =>
    let va := (s.msq c).address f
    if badAddr va 8 then s.msqStop c causeAlign
    else
      match s.readHome (s.msqReq c va) 8 with
      | (.bytes bs, s) =>
        (s.setMsq c ((s.msq c).setReg f.d (BitVec.ofNat 64 (leNat bs)))).msqNext c
      | (r, s) => s.msqHold c va false (.MLD f) r)

/-- mst: a weak store of class M at the home slice; its data register is in the d field (R314, R316). -/
def execMst (f : MsqS) (s : State) : Out :=
  .next (s.msqIssue (.MST f) fun s c =>
    let m := s.msq c
    let va := m.address f
    if badAddr va 8 then s.msqStop c causeAlign
    else
      match s.writeHome (s.msqReq c va) (leBytes (m.reg f.d).toNat 8) 0 with
      | (.bytes _, s) => s.msqNext c
      | (r, s) => s.msqHold c va true (.MST f) r)

/-! ## Matrix words (R317 to R326) -/

/-- The slot of the program's group, if the group holds it. -/
def State.msqTile (s : State) (c tile : Nat) : Option Tile := (s.group (s.msq c).group).tile? tile

/-- Whether bytes exceed a slot's armed size: only a held slot that is not EMPTY has one (spec 23
R334). -/
def overSize (t : Option Tile) (n : Nat) : Bool :=
  match t with
  | some t => t.state ≠ .empty && t.size < n
  | none => false

/-- Whether a slot is held and READY. -/
def isReady (t : Option Tile) : Bool := match t with | some t => t.state = .ready | none => false

/-- The first bytes of a slot. -/
def State.tileBytes (s : State) (c : Nat) (t : Option Tile) (n : Nat) : List Byte :=
  s.readScratch (s.group (s.msq c).group) ((t.map (·.base)).getD 0) n

/-- A bank, and its side-memory region. -/
def Msq.bank (m : Msq) (b : BitVec 2) : Bank := m.banks.get {} b.toNat

def Msq.setBank (m : Msq) (b : BitVec 2) (x : Bank) : Msq := { m with banks := m.banks.set {} b.toNat x }

def Msq.region (m : Msq) (b : BitVec 2) (n : Nat) : List Byte := AMap.getRange m.side 0 (b.toNat * 4096) n

/-- bld: loads a B set from a tile (R317). -/
def execBld (b : BitVec 2) (tile : BitVec 6) (ty : MTy) (variant scl : Bool) (s : State) : Out :=
  .next (s.msqIssue (.BLD b tile ty variant scl) fun s c =>
    let m := s.msq c
    if m.bg.any fun w => w.acc && w.bank = some b.toNat then s
    else
      let x := m.bank b
      let t := s.msqTile c tile.toNat
      let kn := ty.shape variant
      let sparse := x.pending && ty ≠ .e2m1
      let need := bldBytes ty kn.1 kn.2 scl sparse
      let badMeta : Bool := sparse
        && (x.bytes < kn.1 * kn.2 / 8 || !metaOk (m.region b (kn.1 * kn.2 / 8)) kn.1 kn.2)
      if overSize t need || badMeta then s.msqStop c causeShape
      else if !isReady t then s.msqStop c causeTile
      else
        let y : Bank :=
          { loaded := true, ty := ty, variant := variant, scl := scl, sparse := sparse
            pending := false, bytes := 0, data := s.tileBytes c t need }
        (s.setMsq c (m.setBank b y)).msqBack c (some b.toNat) 0 0)

/-- sbld: readies sparsity metadata for a bank (R319). -/
def execSbld (b : BitVec 2) (tile : BitVec 6) (s : State) : Out :=
  .next (s.msqIssue (.SBLD b tile) fun s c =>
    let m := s.msq c
    if m.bg.any fun w => w.acc && w.bank = some b.toNat then s
    else
      let t := s.msqTile c tile.toNat
      if !isReady t then s.msqStop c causeTile
      else
        let n := min ((t.map (·.size)).getD 0) 4096
        let m := { m with side := AMap.setRange m.side 0 (b.toNat * 4096) (s.tileBytes c t n) }
        let x := { m.bank b with loaded := false, pending := true, bytes := n }
        (s.setMsq c (m.setBank b x)).msqBack c (some b.toNat) 0 0)

/-- Whether a KiB of a range is poisoned (R329). -/
def Msq.poisoned (m : Msq) (lo hi : Nat) : Bool :=
  (List.range (hi - lo)).any fun i => m.poison.get false (lo + i)

/-- Updates an M × N region at a word offset, element by element (spec 21 R308). -/
def MmaArgs.update (x : MmaArgs) (base : Nat) (acc : AMap Word) : AMap Word × Word :=
  (List.range (x.m * x.n)).foldl (fun r i =>
    let v := x.element (i / x.n) (i % x.n) (acc.get 0 (base + i))
    (r.1.set 0 (base + i) (BitVec.ofNat 32 v.val), r.2 ||| v.flags)) (acc, 0)

/-- mma: streams A rows through a bank (R321). -/
def execMma (b : BitVec 2) (tile : BitVec 6) (mrows : BitVec 4) (variant : Bool) (ty : MTy)
    (sparse : Bool) (base : BitVec 8) (s : State) : Out :=
  .next (s.msqIssue (.MMA b tile mrows variant ty sparse base) fun s c =>
    let m := s.msq c
    let rows := 16 * (mrows.toNat + 1)
    let kn := ty.shape variant
    let lo := base.toNat
    let hi := lo + rows * kn.2 * 4 / 1024
    if m.bg.any fun w => (!w.acc && w.bank = some b.toNat) || (w.acc && w.meets lo hi) then s
    else
      let x := m.bank b
      let t := s.msqTile c tile.toNat
      let need := aBytes ty rows kn.1 x.scl
      let bad : Bool := !x.loaded || x.ty ≠ ty || x.variant ≠ variant || (sparse && ty = .e2m1)
        || sparse ≠ x.sparse || 262144 < lo * 1024 + rows * kn.2 * 4
      if bad || overSize t need then s.msqStop c causeShape
      else if !isReady t then s.msqStop c causeTile
      else if m.poisoned lo hi then s.msqStop c (BitVec.ofNat 32 DFault.ecc.code)
      else
        let args : MmaArgs :=
          { ty := ty, m := rows, k := kn.1, n := kn.2, bank := x, side := m.region b 4096
            a := s.tileBytes c t need }
        let (acc, flags) := args.update (lo * 256) m.acc
        (s.setMsq c { m with acc := acc, mflags := m.mflags ||| flags }).msqBack c (some b.toNat) lo hi)

/-- acc.clr: +0 over a range of accumulators, poison with it (R323, R329). -/
def execAccClr (base : BitVec 8) (count : BitVec 9) (s : State) : Out :=
  .next (s.msqIssue (.ACC_CLR base count) fun s c =>
    let m := s.msq c
    let lo := base.toNat
    let hi := lo + count.toNat
    if m.bg.any fun w => w.meets lo hi then s
    else if 256 < hi then s.msqStop c causeShape
    else
      let m := { m with acc := AMap.keep m.acc fun a _ => !(lo * 256 ≤ a && a < hi * 256)
                        poison := AMap.keep m.poison fun a _ => !(lo ≤ a && a < hi) }
      (s.setMsq c m).msqBack c none lo hi)

/-- acc.st: converts a region into a FILLING tile, each byte an arrival (R324, spec 23 R337). -/
def execAccSt (tile : BitVec 6) (base : BitVec 8) (ty : Ty) (rows : BitVec 4) (cols : BitVec 2)
    (s : State) : Out :=
  .next (s.msqIssue (.ACC_ST tile base ty rows cols) fun s c =>
    let m := s.msq c
    let n := 16 * (rows.toNat + 1) * (64 * (cols.toNat + 1))
    let lo := base.toNat
    let hi := lo + n * 4 / 1024
    let bytes := n * targetNibbles ty / 2
    let gi := m.group
    if m.bg.any fun w => w.acc && w.meets lo hi then s
    else
      match s.msqTile c tile.toNat with
      | none => s.msqStop c (if 262144 < lo * 1024 + n * 4 then causeShape else causeTile)
      | some t =>
        if 262144 < lo * 1024 + n * 4 || overSize (some t) bytes then s.msqStop c causeShape
        else if t.state ≠ .filling then s.msqStop c causeTile
        else if m.poisoned lo hi then s.msqStop c (BitVec.ofNat 32 DFault.ecc.code)
        else
          let rs := (AMap.getRange m.acc 0 (lo * 256) n).map fun v => matrixConvert ty v.toNat
          let flags := rs.foldl (fun f r => f ||| r.flags) 0
          let s := s.setMsq c { m with mflags := m.mflags ||| flags }
          let s := s.writeScratch (s.group gi) t.base (packTargets ty (rs.map fun r => r.val))
          (s.putTile gi tile.toNat (t.count t.fill bytes)).msqBack c none lo hi)

/-- tw: waits for a slot to be READY with a phase (R325). -/
def execTw (tile : BitVec 6) (phase : Bool) (s : State) : Out :=
  .next (s.msqIssue (.TW tile phase) fun s c =>
    match s.msqTile c tile.toNat with
    | none => s.msqStop c causeTile
    | some t =>
      if t.failed then s.msqStop c causeTile
      else if t.state = .ready && t.phase = phase then s.msqNext c
      else s)

/-- The observers of a timeline write: the word's, with M. -/
def tincObs (obs : BitVec 5) : BitVec 5 := obs ||| 4

/-- tinc: after every earlier word, j advances, once for the word; then the flag word and c0 + j are written (R326,
spec 21 R311). -/
def execTinc (obs : BitVec 5) (s : State) : Out :=
  .next (s.msqIssue (.TINC obs) fun s c =>
    let m := s.msq c
    if m.bg ≠ [] then s
    else
      let m := if m.inWord then m else { m with j := m.j + 1 }
      let s := s.setMsq c m
      match s.writeRange (s.msqReq c (m.counter + 8)) (leBytes m.mflags.toNat 8) (tincObs obs) with
      | (.bytes _, s) =>
        let v := leBytes ((m.c0 + m.j) % 2 ^ 64) 8
        match s.writeRange (s.msqReq c m.counter) v (tincObs obs) with
        | (.bytes _, s) => s.msqNext c
        | (r, s) => s.msqHold c m.counter true (.TINC obs) r
      | (r, s) => s.msqHold c (m.counter + 8) true (.TINC obs) r)

/-! ## Program fetch (R312, R313) -/

/-- What the fetch of a word gives. -/
inductive MsqFetch
  | word (w : DWord)
  /-- past the section -/
  | past
  | fault (va : Nat) (c : DFault) (why : Absence)
  | stall (va : Nat) (at_ : StallAt)
  deriving DecidableEq, Repr

/-- The object of a running program. -/
def State.msqObj (s : State) (m : Msq) : Option Obj := (s.ctx m.ctx).objs.find? fun o => o.id = m.obj

/-- The lines that a program cache holds: 64 KiB (R312). -/
def msqCacheLines : Nat := 512

/-- Keeps a line in the program cache of a core, in place of one that a free value names where the cache is full
(log entry 104). -/
def State.msqKeep (s : State) (c key : Nat) (bs : List Byte) : State :=
  let mine := (AMap.keys s.mem.msqCache).filter fun k => k / 2 ^ 65 = c
  if mine.length < msqCacheLines then { s with mem := { s.mem with msqCache := s.mem.msqCache.set [] key bs } }
  else
    let (v, s) := s.fresh
    let gone := mine.getD (v.toNat % mine.length) 0
    { s with mem := { s.mem with
      msqCache := (AMap.keep s.mem.msqCache fun k _ => k ≠ gone).set [] key bs } }

/-- Fetches the word at the program's pc, through the program cache. -/
def State.msqFetch (s : State) (c : Nat) : MsqFetch × State :=
  let m := s.msq c
  match s.msqObj m with
  | none => (.past, s)
  | some o =>
    if o.msqSize ≤ m.pc then (.past, s)
    else
      let va := o.msqAt + m.pc
      let q := s.msqReq c (va / 128 * 128)
      let key := c * 2 ^ 65 + lineKey (tagAsid q.asid va) (va / 128)
      let at_ := fun bs : List Byte => MsqFetch.word (BitVec.ofNat 64 (leNat ((bs.drop (va % 128)).take 8)))
      let cached := s.mem.msqCache.get [] key
      if cached ≠ [] then (at_ cached, s)
      else
        match s.readHome q 128 with
        | (.bytes bs, s) => (at_ bs, s.msqKeep c key bs)
        | (.fault x why, s) => (.fault va x why, s)
        | (.stall p, s) => (.stall va p, s)

end Sys2Proof.Machine
end

