-- ==== Sys2Proof/Machine/Banks.lean ====
section
/-!
DEFINITION. Bank modes, and the offering of a core's free resources: the refill, the spawn pools, the
return of saved groups and the first round of a launch (spec 05 R93 to R97, spec 07 R124, R128, R129,
R131, spec 08 R145, spec 11 R169 to R172).
-/

namespace Sys2Proof.Machine

open Sys2Proof

/-! ## Placing -/

/-- Pool records that pre-emption saved return to the core of the launch's first returning group
(spec 08 R145), all of them, also where its pool then holds more than 64 (log entry 115). -/
def State.returnPool (s : State) (l c : Nat) : State :=
  let x := s.ctx (s.launch l).ctx
  let mine := x.savedPool.filter fun r => r.launch = l
  if mine = [] then s
  else
    let s := s.setCtx (s.launch l).ctx { x with savedPool := x.savedPool.filter fun r => r.launch ≠ l }
    let k := s.core c
    (s.setCore c { k with pool := k.pool ++ mine }).offerPool c

/-- Places the lowest-numbered pending group of a launch on a core; whether it was placed. The pending groups of a
draw are the waves of its objects (spec 07 R119). -/
def State.placePending (s : State) (l c : Nat) : Bool × State :=
  let la := s.launch l
  if (s.draw l).live then
    if s.canStartWave l .O c then s.startDrawWave l .O ((s.draw l).nextWave .O) c else (false, s)
  else
  match la.pending with
  | none => (false, s)
  | some n =>
    if !la.form.grants c || !s.mayPlace c la.ctx then (false, s)
    else
      match s.openCore l c with
      | (false, s) => (false, s)
      | (true, s) =>
        match s.placeGroup l n la.form.entry la.form.needs c false with
        | none => (false, s)
        | some s =>
          let again := la.again.contains n
          let s := (s.setLaunch l ((s.launch l).took n)).tookCore l c
          (true, if again then s.returnPool l c else s)

/-- Places pending groups of a launch on a core until one does not fit (R96). -/
def State.refill (s : State) (l c : Nat) : Nat → State
  | 0 => s
  | n + 1 =>
    match s.placePending l c with
    | (true, s) => s.refill l c n
    | (false, s) => s

/-- Places one group on the first core of a list that takes it, and remembers the core after it. -/
def State.placeOn (s : State) (l : Nat) : List Nat → Bool × State
  | [] => (false, s)
  | c :: rest =>
    match s.placePending l c with
    | (true, s) => (true, s.setLaunch l { s.launch l with nextCore := c + 1 })
    | (false, s) => s.placeOn l rest

/-- The granted cores of a launch in turn, from the core after the one that took the last group. -/
def Launch.turns (la : Launch) : List Nat :=
  let cs := (List.range la.form.cores).map fun i => la.form.first + i
  (cs.filter fun c => la.nextCore ≤ c) ++ cs.filter fun c => c < la.nextCore

/-- The first round of a launch (R95). -/
def State.firstRound (s : State) (l : Nat) : Nat → State
  | 0 => s
  | n + 1 =>
    match s.placeOn l (s.launch l).turns with
    | (true, s) => s.firstRound l n
    | (false, s) => s

/-! ## Saved groups return (spec 07 R124, R128, R129, spec 22 R333, spec 23 R345) -/

/-- Whether a parked unit of a saved group can proceed. One that waits for a counter or a tile can where a save of
its group holds a program, starts or copies, which go on only where the group returns (spec 22 R333); one that
sleeps can at once: its count, which stands still while the group is saved, goes on where it returns (spec 14 R225;
log entry 114). -/
def State.canProceed (s : State) (u : Nat) : Bool :=
  let w := s.unit u
  match w.park with
  | .waitu _ _ token _ _ => ((s.ctx w.ctx).wakes.any fun k => k.1 = token) || s.savedEngines w.group
  | .waitp _ _ => s.waitOver w.launch
  | .twait n _ =>
    match (s.group w.group).tile? n with
    | some t => t.failed || t.state = .ready || s.savedEngines w.group
    | none => false
  | .sleep _ | .none | .access => true
  | .gbar | .reserve => false

/-- Whether a saved group is ready to return. -/
def State.readyBack (s : State) (gi : Nat) : Bool :=
  let g := s.group gi
  g.phase = .saved && !g.fetchHeld && !(s.launch g.launch).cancelled
    && (g.preempted || g.fetchUnit.isSome || s.unitsOf gi = [] || (s.unitsOf gi).any s.canProceed)

/-- The saved matrix state and starts of a group. -/
def State.hasMatrix (s : State) (gi : Nat) : Bool :=
  let x := s.ctx (s.group gi).ctx
  (x.savedMsq.any fun m => m.group = gi) || x.savedStarts.any fun m => m.group = gi

/-- The part of a save area that held the saves of a group is free. -/
def State.freeSave (s : State) (gi : Nat) : State :=
  let ctx := (s.group gi).ctx
  let x := s.ctx ctx
  s.setCtx ctx { x with saves := x.saves.filter fun k => k.group ≠ gi }

/-- A unit takes its place on a core again and re-enters its wait. Its core's L1 may hold lines that are older
than what it has read or written, so it takes none that it finds there (spec 13 R202, R205). -/
def State.resumeUnit (s : State) (u : Nat) : State :=
  let w := s.unit u
  let g := s.group w.group
  let a := g.allocs.getD w.alloc { part := 0, slot := 0, base := 0, unit := none }
  let (n, s) := s.stamp
  let s := s.setUnit u
    { w with core := g.core, part := a.part, slot := a.slot, stopped := false, stopLive := none, acq := n
             parkedAt := (s.core g.core).cycle, turnAt := (s.core g.core).cycle }
  match w.park with
  | .waitu _ _ token _ _ =>
    let x := s.ctx w.ctx
    match x.wakes.find? fun k => k.1 = token with
    | none => s
    | some k =>
      (s.setCtx w.ctx { x with wakes := x.wakes.filter fun e => e.1 ≠ token }).finishWait u k.2
  | _ => s

/-- Loads the saved matrix state of a group into a core's idle sequencer. -/
def State.resumeMatrix (s : State) (gi c : Nat) : State :=
  let ctx := (s.group gi).ctx
  let x := s.ctx ctx
  let m := s.msq c
  let m := { m with starts := m.starts ++ x.savedStarts.filter fun k => k.group = gi }
  let m :=
    match x.savedMsq.find? fun k => k.group = gi with
    | none => m
    | some k =>
      { m with running := true, ctx := k.ctx, group := gi, obj := k.obj, m := k.m, pc := k.pc
               counter := k.counter, c0 := k.c0, j := k.j, mflags := k.mflags, banks := k.banks
               acc := k.acc, poison := k.poison, side := k.side, prevCtx := k.ctx + 1, fresh := k.fresh, held := false
               halted := false }
  (s.setMsq c m).setCtx ctx
    { x with savedMsq := x.savedMsq.filter fun k => k.group ≠ gi
             savedStarts := x.savedStarts.filter fun k => k.group ≠ gi }

/-- A queue of another core whose copies have all gone elsewhere is free there. -/
def State.leaveQueues (s : State) (c : Nat) (mine : List TQueue) : State :=
  let stays := fun (k : Core) (q : TQueue) =>
    !(mine.any fun m => m.ctx = q.ctx && m.addr = q.addr) || k.copies.any fun p => p.ctx = q.ctx && p.counter = q.addr
  { s with cores := AMap.mapVals s.cores {} fun i k =>
    if i = c then k else { k with queues := k.queues.filter (stays k) } }

/-- The saved copies of a group run on the engine of its core, before any that it issues afterwards. -/
def State.resumeCopies (s : State) (gi c : Nat) : State :=
  let ctx := (s.group gi).ctx
  let x := s.ctx ctx
  let k := s.core c
  let mine := (x.savedQueues.filter fun q => q.1 = gi).map Prod.snd
  let fresh := mine.filter fun q => !k.queues.any fun p => p.ctx = q.ctx && p.addr = q.addr
  let s := s.setCore c
    { k with copies := k.copies ++ x.savedCopies.filter (fun p => p.group = gi)
             queues := k.queues ++ fresh }
  (s.setCtx ctx
    { x with savedCopies := x.savedCopies.filter fun p => p.group ≠ gi
             savedQueues := x.savedQueues.filter fun q => q.1 ≠ gi }).leaveQueues c mine

/-- Whether the engine of a core has room for the saved copies and queues of a group (spec 23 R343). -/
def State.copiesFit (s : State) (gi c : Nat) : Bool :=
  let x := s.ctx (s.group gi).ctx
  let k := s.core c
  let mine := x.savedCopies.filter fun p => p.group = gi
  let fresh := x.savedQueues.filter fun q =>
    q.1 = gi && !k.queues.any fun p => p.ctx = q.2.ctx && p.addr = q.2.addr
  k.copies.length + mine.length ≤ 64 && k.queues.length + fresh.length ≤ 16

/-- Returns a saved group to a core, where it may and where it fits; whether it returned. -/
def State.restore (s : State) (gi c : Nat) : Bool × State :=
  let g := s.group gi
  let la := s.launch g.launch
  let m := s.msq c
  if !s.readyBack gi || !la.form.grants c || !s.mayPlace c g.ctx
      || (s.hasMatrix gi && (m.running || m.starts ≠ [])) || !s.copiesFit gi c then (false, s)
  else
    match s.openCore g.launch c with
    | (false, s) => (false, s)
    | (true, s) =>
      match (s.room c).place { waves := g.nwaves, regs := g.nregs, scratch := g.scratch, tiles := g.ntiles } with
      | none => (false, s)
      | some (as, base) =>
        let us := s.unitsOf gi
        let at_ := fun i : Nat => us.find? fun u => (s.unit u).alloc = i
        let allocs := (List.range as.length).map fun i =>
          { as.getD i { part := 0, slot := 0, base := 0, unit := none } with unit := at_ i }
        let stay := fun banks : List (Nat × Nat) => if c = g.core then banks else []
        let s := s.setGroup gi
          { g with phase := .resident, core := c, base := base, allocs := allocs, savedScratch := []
                   fetchUnit := none, fetchInst := 0, preempted := false
                   frags := g.frags.map fun f : Frag => { f with banks := stay f.banks }
                   waits := g.waits.map fun f : WaitRec => { f with banks := stay f.banks } }
        let s := (s.tookCore g.launch c).freeSave gi
        let s := s.writeScratch (s.group gi) 0 g.savedScratch
        let s := us.foldl State.resumeUnit s
        (true, ((s.resumeMatrix gi c).resumeCopies gi c).returnPool g.launch c)

/-! ## Offering a core (R124) -/

/-- The order in which launches are served: class, rank, age of eligibility. The rank is that of the context and then
that of the queue in it (spec 07 R118; log entry 117). -/
def State.launchKey (s : State) (l : Nat) : Nat :=
  let la := s.launch l
  let x := s.ctx la.ctx
  s.classOf l * 2 ^ 256 + x.rank * 2 ^ 192 + x.ranks.get 0 la.queue * 2 ^ 128 + la.eligibleAt

/-- The saved groups that are ready, by class and then oldest first. -/
def State.returning (s : State) : List Nat :=
  let gs := AMap.findAll s.work.groups fun gi _ => s.readyBack gi
  (sortBy (fun e : Nat × Group => s.classOf e.2.launch * 2 ^ 64 + e.2.savedAt) gs).map Prod.fst

/-- The launches with pending groups, in the order in which they are served. -/
def State.waiting (s : State) : List Nat :=
  sortBy s.launchKey (AMap.keys (AMap.findAll s.work.launches fun l la =>
    if (s.draw l).live then (s.draw l).startables .O ≠ [] else la.pending.isSome))

/-- Pool records whose launch has no group that could return with them take the first core that is
offered. -/
def State.orphanPools (s : State) (c : Nat) : State :=
  let ls := (s.ctxs.flatMap fun e => e.2.savedPool.map fun r => r.launch).eraseDups
  ls.foldl (fun s l =>
    let la := s.launch l
    let others : Bool := la.again ≠ [] || (s.groupsOf l).any fun g =>
      (s.group g).phase = .saved || (s.group g).phase = .stopping
    if others || !la.form.grants c || !s.mayPlace c la.ctx then s
    else s.returnPool l c) s

/-- Offers a core: its pool, the refills of the given launches, saved groups, other pending groups. -/
def State.offerCore (s : State) (c : Nat) (refills : List Nat) : State :=
  let s := s.offerPool c
  let s := (sortBy s.launchKey refills).foldl (fun s l => s.refill l c coreGroups) s
  let s := s.returning.foldl (fun s g => (s.restore g c).2) s
  let s := s.waiting.foldl (fun s l => s.refill l c coreGroups) s
  s.orphanPools c

/-! ## The end of a pre-emption request (spec 07 R125, spec 08 R145) -/

/-- The spawn-pool records of displaced contexts leave a core. -/
def State.savePool (s : State) (c : Nat) (ctxs : List Nat) : State :=
  let k := s.core c
  let gone := k.pool.filter fun r => ctxs.contains (s.launch r.launch).ctx
  let s := s.setCore c { k with pool := k.pool.filter fun r => !ctxs.contains (s.launch r.launch).ctx }
  gone.foldl (fun s r =>
    let n := (s.launch r.launch).ctx
    s.setCtx n { s.ctx n with savedPool := (s.ctx n).savedPool ++ [r] }) s

/-- Whether a core still holds work of one of some contexts. -/
def State.holdsWork (s : State) (c : Nat) (ctxs : List Nat) : Bool :=
  ((s.residents c).any fun e => ctxs.contains e.2.ctx)
    || ((s.msq c).running && ctxs.contains (s.msq c).ctx)

/-- A request is honoured, and out of force, once every named core is free of the named contexts: records that
their waves have spawned meanwhile are saved, and the cores are offered. -/
def State.honour (s : State) : State :=
  let free := fun p : List Nat × List Nat => !p.1.any fun c => s.holdsWork c p.2
  let done := s.work.preempts.filter free
  let s := { s with work := { s.work with preempts := s.work.preempts.filter fun p => !free p } }
  let s := done.foldl (fun s p => p.1.foldl (fun s c => s.savePool c p.2) s) s
  (sortBy id (done.flatMap Prod.fst).eraseDups).foldl (fun s c => s.offerCore c []) s

/-- GROUP_RETIRE: every named group that is over leaves, and its core is offered, cores in increasing
order (R96). -/
def execGroupRetire (groups : List Nat) (s : State) : Out :=
  .next <|
    let gs := groups.eraseDups.filter s.groupOver
    let at_ := gs.map fun g => ((s.group g).core, (s.group g).launch)
    let s := gs.foldl State.retireGroup s
    ((sortBy id (at_.map Prod.fst).eraseDups).foldl (fun s c =>
      s.offerCore c ((at_.filter fun p => p.1 = c).map Prod.snd).eraseDups) s).honour

/-- GROUP_RESTORE (spec 07 R128): the core is offered to its pool first, and to each ready group that comes
before this one (R124). -/
def execGroupRestore (group core : Nat) (s : State) : Out :=
  .next <|
    let s := s.offerPool core
    let before := s.returning.takeWhile fun g => g ≠ group
    if before.any fun g => (s.restore g core).1 then s else (s.restore group core).2

/-- Before a launch takes room of a core, it is offered to its pool, to ready saved groups, and to launches with
pending groups that come before this one (R124). -/
def State.offerAhead (s : State) (l c : Nat) : State :=
  let s := s.offerPool c
  let s := s.returning.foldl (fun s g => (s.restore g c).2) s
  let before := s.waiting.filter fun m => s.launchKey m < s.launchKey l
  before.foldl (fun s m => s.refill m c coreGroups) s

/-- RATE_WAVE_START (spec 18 R263). -/
def execRateWaveStart (l : Nat) (r : Rate) (core : Nat) (s : State) : Out :=
  .next <|
    if !s.canStartWave l r core then s
    else
      let s := s.offerAhead l core
      (s.startDrawWave l r ((s.draw l).nextWave r) core).2

end Sys2Proof.Machine
end

