-- ==== Sys2Proof/Machine/Groups.lean ====
section
/-!
DEFINITION. What the hardware does to groups beside their instructions: solder and rejoin, the barrier,
the release of waitp, pre-emption, saves, swap-out and fetch faults (spec 06 R106 to R109, spec 07 R120,
R125 to R131, spec 22 R331, spec 23 R345).
-/

namespace Sys2Proof.Machine

open Sys2Proof

/-! ## Solder and rejoin (R106, R107) -/

/-- A free wave allocation of a group: its index. -/
def Group.freeAlloc (g : Group) : Option Nat :=
  (List.range g.allocs.length).find? fun i => ((g.allocs[i]?).map (·.unit.isNone)).getD false

/-- Gives an allocation to a unit. -/
def Group.give (g : Group) (i u : Nat) : Group :=
  let one := fun (j : Nat) (a : Alloc) => if j = i then { a with unit := some u } else a
  { g with allocs := List.zipWith one (List.range g.allocs.length) g.allocs }

/-- Whether a waiting record's home wave can rejoin under its token. -/
def Group.canRejoin (g : Group) (r : WaitRec) : Bool :=
  !g.opens.any fun t => t.1 = r.token && t.2.1 = r.wave

/-- The oldest waiting record that can rejoin. -/
def Group.nextRejoin (g : Group) : Option WaitRec :=
  (g.waits.filter g.canRejoin).head?

/-- Writes the registers of lanes at places of a unit. -/
def Wave.fill (w : Wave) : List (Nat × FragLane) → Wave
  | [] => w
  | (l, f) :: rest =>
    let w := f.regs.foldl (fun w r => w.setReg r.1 l r.2) w
    let w := f.k.foldl (fun w n => { w with k := w.k.set 0 n (w.k.get 0 n ||| maskOf fun i => i = l) }) w
    w.fill rest

/-- A unit that starts in an allocation of a group with the lanes of records. -/
def State.startUnit (s : State) (gi i : Nat) (w : Wave) (lanes : List (Nat × FragLane)) : State :=
  let g := s.group gi
  let a := g.allocs.getD i { part := 0, slot := 0, base := 0, unit := none }
  let (u, s) := s.stamp
  let m := maskOf fun l => lanes.any fun x => x.1 = l
  let elem := fun l : Nat => ((lanes.find? fun x => x.1 = l).map fun x => x.2.elem).getD 0
  let w : Wave :=
    { w with live := true, ctx := g.ctx, launch := g.launch, group := gi, core := g.core, part := a.part
             slot := a.slot, alloc := i, nregs := g.nregs, x := m, o := m, acq := u
             turnAt := (s.core g.core).cycle
             elems := (List.range 32).map elem }
  (s.setGroup gi (g.give i u)).setUnit u (w.fill lanes)

/-- The records that the solder unit packs: oldest first, up to one that would need a lane too many. -/
def packFrags : List Frag → Nat → List Frag
  | [], _ => []
  | f :: rest, room => if f.lanes.length ≤ room then f :: packFrags rest (room - f.lanes.length) else []

/-- Lanes in increasing order of home wave and home lane. -/
def laneOrder (f : FragLane) : Nat := f.wave * 64 + f.lane

/-- SOLDER (R107): an allocation serves a waiting record first (R112). A soldered wave begins with no trap
record and outside a handler (log entry 32). -/
def execSolder (group : Nat) (targetAt : DWord) (s : State) : Out :=
  .next <|
    let g := s.group group
    let mine := g.frags.filter fun f => f.target = targetAt.toNat
    match g.freeAlloc, mine with
    | some i, first :: _ =>
      if g.phase ≠ .resident || g.nextRejoin.isSome then s
      else
        let fs := packFrags (mine.filter fun f => f.rate = first.rate && f.pathPos = first.pathPos) 32
        let lanes := sortBy laneOrder (fs.flatMap fun f => f.lanes)
        let s := s.setGroup group { g with frags := g.frags.filter fun f => !fs.contains f }
        let w : Wave :=
          { num := (lanes.head?.map fun l => l.wave).getD 0, soldered := true
            homes := lanes.map fun l => (l.wave, l.lane), pc := targetAt
            fflags := fs.foldl (fun m f => m ||| f.fflags) 0, idem := fs.all fun f => f.idem
            rate := first.rate, pathPos := first.pathPos, age := first.order }
        s.startUnit group i w ((List.range lanes.length).zip lanes)
    | _, _ => s

/-- What a group keeps of a home wave, whose flags are joined by those of the unit that still runs it, where one does
(spec 10 R158). -/
def State.homeOf (s : State) (gi wave : Nat) : HomeRec :=
  let kept := ((s.group gi).homes.find? fun r => r.wave = wave).getD
    { wave := wave, fflags := 0, tcause := 0, tpc := 0, tinst := 0, inHandler := false, resume := 0
      log := [], pendSeq := 0, icinvs := [] }
  match (s.unitsOf gi).find? fun u => !(s.unit u).soldered && (s.unit u).num = wave with
  | some u => { kept with fflags := (s.unit u).fflags ||| kept.fflags }
  | none => kept

/-- REJOIN (R106): the group's oldest waiting record is served first (R112). The home wave has its flags with
those of the units in which its lanes ran, its trap record, its handler and its icinv operations as before
(spec 01 R20, spec 03 R57, spec 08 R143, spec 10 R158); the group keeps them no longer. -/
def execRejoin (group wave : Nat) (s : State) : Out :=
  .next <|
    let g := s.group group
    match g.freeAlloc, g.nextRejoin with
    | some i, some first =>
      if g.phase ≠ .resident || first.wave ≠ wave then s
      else
        let mine := g.waits.filter fun r => r.wave = wave && r.token = first.token
        let pc := (mine.getLast?.map fun r => r.pc).getD first.pc
        let home := s.homeOf group wave
        let s := s.setGroup group
          { g with waits := g.waits.filter fun r => !mine.contains r, homes := g.homes.filter fun r => r.wave ≠ wave }
        let w : Wave :=
          { num := wave, homes := homesOfWave wave, pc := BitVec.ofNat 64 pc
            fflags := mine.foldl (fun m r => m ||| r.fflags) home.fflags, idem := mine.all fun r => r.idem
            tcause := home.tcause, tpc := home.tpc, tinst := home.tinst, inHandler := home.inHandler
            resume := home.resume, pend := home.log, pendSeq := home.pendSeq
            icinvs := home.icinvs.filter fun n => s.work.icinvs.any fun e => e.1 = n
            rate := first.rate, pathPos := first.pathPos, age := first.order }
        s.startUnit group i w ((mine.flatMap fun r => r.lanes).map fun l => (l.lane, l))
    | _, _ => s

/-! ## The barrier and waitp (R109, spec 07 R120) -/

/-- GBAR_COMPLETE: every lane that has not exited has arrived. -/
def execGbarComplete (group : Nat) (s : State) : Out :=
  .next <|
    let g := s.group group
    let us := s.unitsOf group
    let all := us.all fun u => (s.unit u).park = .gbar
    if g.phase ≠ .resident || us = [] || !all || g.frags ≠ [] || g.waits ≠ [] then s
    else us.foldl State.unpark s

/-- Whether a unit runs on a core. -/
def State.isResident (s : State) (u : Nat) : Bool :=
  let w := s.unit u
  let p := (s.group w.group).phase
  w.live && (p = .resident || p = .stopping)

/-- WAITP_RELEASE. -/
def execWaitpRelease (launch : Nat) (s : State) : Out :=
  .next <|
    if !s.waitOver launch then s
    else
      let parked := AMap.findAll s.work.units fun u w =>
        w.launch = launch && s.isResident u && (match w.park with | .waitp _ _ => true | _ => false)
      (AMap.keys parked).foldl (fun s u => s.finishWait u 0) s

/-! ## Saving a group (R127) -/

/-- Whether a wave is parked in a wait in which a request stops it (R125). -/
def Park.stops : Park → Bool
  | .waitu _ _ _ _ _ | .sleep _ | .twait _ _ | .waitp _ _ | .gbar => true
  | .none | .access | .reserve => false

/-- In a group that stops, waves that are parked stop in place. -/
def State.stopParked (s : State) (gi : Nat) : State :=
  if (s.group gi).phase ≠ .stopping then s
  else
    (s.unitsOf gi).foldl (fun s u =>
      let w := s.unit u
      if w.park.stops then s.setUnit u { w with stopped := true } else s) s

/-- Whether every outstanding result of a unit has arrived. Stores that have only stalled are no such results, and go
on while the group is saved (spec 12 R185). -/
def Wave.drained (w : Wave) : Bool :=
  w.pend.all fun p => (p.status = .clear && p.n = 0) || p.values = [] && p.todo = []
    && (p.status = .delivered || (p.status = .declined && w.park ≠ .none) || p.faulted = [])

/-! ### The save area (R127) -/

/-- The bytes of the saved state of a core's matrix sequencer (spec 22 R332). -/
def matrixSize : Nat := 380928

/-- The most bytes that the save of a group needs beside its matrix state. -/
def State.saveSize (s : State) (gi : Nat) : Nat :=
  let g := s.group gi
  let k := s.core g.core
  64 + g.scratch + 32 * g.ntiles + g.nwaves * (192 + 128 * g.nregs)
    + 32 * (k.msq.starts.filter fun r => r.group = gi).length
    + 96 * (k.copies.filter fun p => p.group = gi).length

/-- The lowest place for n bytes in a save area; the saved records of spawn pools stand at its end (log entry
105). -/
def Ctx.savePlace (x : Ctx) (n : Nat) : Option Nat :=
  let free := fun off : Nat =>
    off + n + 32 * x.savedPool.length ≤ x.save.size && x.saves.all fun k => off + n ≤ k.off || k.off + k.size ≤ off
  ((sortBy id (0 :: x.saves.map fun k => k.off + k.size)).find? free)

/-- Takes n bytes of a context's save area for the saves of a group, and answers their address. -/
def State.claimSave (s : State) (ctx gi n : Nat) : Nat × State :=
  let x := s.ctx ctx
  let off := (x.savePlace n).getD 0
  (x.save.base + off, s.setCtx ctx { x with saves := x.saves ++ [{ group := gi, off := off, size := n }] })

/-- Whether the program of a core, where it is that of a group, has no word in flight. -/
def State.msqQuiet (s : State) (gi : Nat) : Bool :=
  let m := s.msq (s.group gi).core
  !(m.running && m.group = gi) || (m.bg = [] && !m.inWord && m.errRec.isNone)

/-- Whether a group can be saved: its waves have stopped and drained, its matrix program has no word in flight, no
copy of it completes an element of a cancelled launch, and the save area has room. -/
def State.canSave (s : State) (gi : Nat) : Bool :=
  let g := s.group gi
  let us := s.unitsOf gi
  let m := s.msq g.core
  let n := s.saveSize gi + if m.running && m.group = gi then matrixSize else 0
  g.phase = .stopping && !s.groupOver gi
    && us.all (fun u => (s.unit u).stopped && (s.unit u).drained)
    && !((s.core g.core).copies.any fun p => p.group = gi && p.ending) && s.msqQuiet gi && ((s.ctx g.ctx).savePlace n).isSome

/-- What a wave keeps in a save: under a safept's live-register entry, only the registers it names; a
sleep keeps its remaining count. -/
def State.saveUnit (s : State) (u : Nat) : State :=
  let w := s.unit u
  let w :=
    match w.stopLive with
    | none => w
    | some e =>
      { w with regs := AMap.keep w.regs fun key _ => e.1 / 2 ^ (key / 32) % 2 = 1
               k := AMap.keep w.k fun r _ => e.2 / 2 ^ r % 2 = 1 }
  let w :=
    match w.park with
    | .sleep n => { w with park := .sleep (w.parkedAt + n - (s.core w.core).cycle) }
    | _ => w
  s.setUnit u { w with ahead := [] }

/-- A bank's descriptor byte (spec 22 R332). -/
def Bank.descriptor (b : Bank) : Nat :=
  b.loaded.toNat + 2 * b.ty.code + 16 * b.variant.toNat + 32 * b.scl.toNat + 64 * b.sparse.toNat
    + 128 * b.pending.toNat

/-- The head of the saved matrix state: its first 4,096 bytes (spec 22 R332). -/
def Msq.saveHead (m : Msq) : List Byte :=
  let banks := (List.range 4).map (m.banks.get {})
  let mark := fun i : Nat => (List.range 8).foldl (fun n b => n + (m.poison.get false (8 * i + b)).toNat * 2 ^ b) 0
  leBytes 1 4 ++ leBytes m.mflags.toNat 4 ++ leBytes m.pc 8 ++ leBytes m.counter 8 ++ leBytes m.c0 8
    ++ leBytes m.j 8 ++ (banks.flatMap fun b => leBytes b.descriptor 1) ++ leBytes 0 4
    ++ (banks.flatMap fun b => leBytes b.bytes 2) ++ leBytes 0 8
    ++ ((List.range 32).flatMap fun i => leBytes (m.m.get 0 i).toNat 8)
    ++ ((List.range 32).flatMap fun i => leBytes (mark i) 1) ++ leBytes 0 3744

/-- The bank images, 24 KiB each. -/
def Msq.saveBanks (m : Msq) : List Byte :=
  (List.range 4).flatMap fun b =>
    let data := (m.banks.get {} b).data
    data ++ List.replicate (24576 - data.length) 0

/-- The saved matrix state as the save area holds it (spec 22 R332). The words of a poisoned KiB are
unpredictable: free values, from the index n on. -/
def Msq.saveImage (m : Msq) (n : Nat) : List Byte :=
  let word := fun i : Nat =>
    if m.poison.get false (i / 256) then (Config.freeValue (n + i)).toNat else (m.acc.get 0 i).toNat
  m.saveHead ++ ((List.range 65536).flatMap fun i => leBytes (word i) 4) ++ m.saveBanks
    ++ (List.range 16384).map (m.side.get 0)

/-- The matrix state of a core goes to its context's save area (spec 22 R331, R332). -/
def State.saveMatrix (s : State) (c : Nat) : State :=
  let m := s.msq c
  let (pa, s) := s.claimSave m.ctx m.group matrixSize
  let s := s.localStore pa (m.saveImage s.freeCount)
  let s := { s with freeCount := s.freeCount + 65536 }
  let s := s.forget fun w => w = .msq c
  let x := s.ctx m.ctx
  let k : MsqSaved :=
    { group := m.group, ctx := m.ctx, obj := m.obj, m := m.m, pc := m.pc, counter := m.counter
      c0 := m.c0, j := m.j, mflags := m.mflags, banks := m.banks, acc := m.acc, poison := m.poison
      side := m.side, fresh := m.fresh }
  (s.setCtx m.ctx { x with savedMsq := x.savedMsq ++ [k] }).setMsq c m.stopped

/-- The 32-byte record of a saved start: object index, entry offset, argument (spec 22 R331, log entry 105). -/
def MStart.bytes (r : MStart) : List Byte := leBytes r.obj 8 ++ leBytes r.entry 8 ++ leBytes r.arg 8 ++ leBytes 0 8

/-- The queued starts and the copies of a group go with it. A copy that a fault or a stalled fill holds is saved
at its element, and makes its access again (spec 23 R345). -/
def State.saveEngines (s : State) (gi : Nat) : State :=
  let g := s.group gi
  let c := g.core
  let m := s.msq c
  let starts := m.starts.filter fun r => r.group = gi
  let (pa, s) := s.claimSave g.ctx gi (s.saveSize gi)
  let s := s.localStore (pa + s.saveSize gi - 32 * starts.length) (starts.flatMap MStart.bytes)
  let s := if m.running && m.group = gi then s.saveMatrix c else s
  let s := s.forget fun w =>
    match w with
    | .copy d n => d = c && (s.core c).copies.any fun p => p.num = n && p.group = gi
    | _ => false
  let m := s.msq c
  let k := s.core c
  let x := s.ctx g.ctx
  let copies := (k.copies.filter fun p => p.group = gi).map fun p : Copy => { p with held := false }
  let left := k.copies.filter fun p => p.group ≠ gi
  let used := fun (cs : List Copy) (q : TQueue) => cs.any fun p => p.ctx = q.ctx && p.counter = q.addr
  let s := s.setCtx g.ctx
    { x with savedStarts := x.savedStarts ++ m.starts.filter fun r => r.group = gi
             savedCopies := x.savedCopies ++ copies
             savedQueues := (x.savedQueues.map fun e => (e.1, ((k.queue? e.2.ctx e.2.addr).getD e.2)))
               ++ (k.queues.filter (used copies)).map fun q => (gi, q) }
  s.setCore c
    { k with msq := { m with starts := m.starts.filter fun r => r.group ≠ gi }, copies := left
             queues := k.queues.filter fun q => used left q || !used copies q }

/-- Saves a group and frees its resources. -/
def State.saveGroup (s : State) (gi : Nat) : State :=
  let s := (s.unitsOf gi).foldl State.saveUnit s
  let s := s.saveEngines gi
  let g := s.group gi
  let (n, s) := s.stamp
  s.setGroup gi
    { g with phase := .saved, allocs := [], savedScratch := s.readScratch g 0 g.scratch, savedAt := n }

/-! ## Pre-emption (R125, R126) -/

/-- The program of a core issues no further word. -/
def State.haltMsq (s : State) (c : Nat) : State :=
  let m := s.msq c
  if m.running then s.setMsq c { m with halted := true } else s

/-- Whether a group is discardable (R126). One none of whose waves is resident, since all its lanes lie in fragment or
waiting records, is so whatever the region bits of the records (log entry 68). -/
def State.discardable (s : State) (gi : Nat) : Bool :=
  let g := s.group gi
  (s.unitsOf gi).all (fun u => (s.unit u).idem) && !g.idemEnded && !g.exited

/-- Discards a group: it is pending again under its own number, and starts afresh later. In a cancelled launch it is
pending no more, and counts as retired (R111, R131). -/
def State.discardGroup (s : State) (gi : Nat) : State :=
  let g := s.group gi
  let la := s.launch g.launch
  let trig := s.groupTriggered gi
  let d := s.draw g.launch
  let la := if trig && !d.live && !la.triggers.contains g.num
    then { la with triggers := la.triggers ++ [g.num] } else la
  let s := s.setLaunch g.launch la
  let s := s.dropEngines gi false
  let s := (s.unitsOf gi).foldl (fun s u =>
    let s := match (s.unit u).park with
      | .waitu _ _ token _ _ => ((s.dropEntry g.ctx token).retireToken token).dropWake g.ctx token
      | _ => s
    let s := if d.live then s.setDraw g.launch ((s.draw g.launch).forget u) else s
    s.clearUnit u) s
  if la.cancelled then s.retireGroup gi
  else
  let s := s.setGroup gi {}
  if d.live then
    let back := fun (_ : Nat) (e : Elem) =>
      if e.home = gi && e.phase = .running then
        { e with phase := ElemPhase.ready, trig := e.trig || trig
                 path := if (Rate.followers e.rate) = [] then e.path else [] }
      else e
    let d := s.draw g.launch
    s.setDraw g.launch { d with elems := AMap.mapVals d.elems {} back }
  else if g.spawned then
    let x := s.ctx g.ctx
    let r : PoolRec :=
      { launch := g.launch, entry := g.entry, regs := g.nregs, scratch := g.scratch, tiles := g.ntiles
        waves := g.nwaves, next := g.num, left := 1 }
    s.setCtx g.ctx { x with savedPool := x.savedPool ++ [r] }
  else s.setLaunch g.launch { la with again := la.again ++ [g.num] }

/-- A group stops for a request. -/
def State.stopGroup (s : State) (gi : Nat) : State :=
  (s.setGroup gi { s.group gi with phase := .stopping, preempted := true }).stopParked gi

/-- PREEMPT_REQUEST (R125). -/
def execPreemptRequest (cores ctxs : List Nat) (s : State) : Out :=
  .next <|
    let s := { s with work := { s.work with preempts := s.work.preempts ++ [(cores, ctxs)] } }
    let gs := AMap.findAll s.work.groups fun _ g =>
      (g.phase = .resident || g.phase = .stopping) && cores.contains g.core && ctxs.contains g.ctx
    let gone := (AMap.keys gs).filter s.discardable
    let s := gone.foldl State.discardGroup s
    let s := ((AMap.keys gs).filter fun g => (s.group g).phase = .resident).foldl State.stopGroup s
    let s := cores.foldl (fun s c =>
      let s := s.savePool c ctxs
      if ctxs.contains (s.msq c).ctx then s.haltMsq c else s) s
    let s := (sortBy id cores.eraseDups).foldl (fun s c => s.offerCore c []) s
    s.honour

/-- MSQ_STATE_SAVE (spec 22 R331). -/
def execMsqStateSave (core : Nat) (s : State) : Out :=
  .next <|
    let m := s.msq core
    if m.running && m.halted && s.msqQuiet m.group && s.preempting core m.ctx
        && ((s.ctx m.ctx).savePlace matrixSize).isSome
        && !(s.launch (s.group m.group).launch).cancelled then (s.saveMatrix core).honour
    else s

/-- GROUP_SAVE (R127). A cancel that arrived meanwhile takes effect now (R131). -/
def execGroupSave (group : Nat) (s : State) : Out :=
  .next <|
    if !s.canSave group then s
    else
      let g := s.group group
      let s := s.saveGroup group
      let s := if (s.launch g.launch).cancelled then s.dropSaved group else s
      (s.offerCore g.core []).honour

/-- SWAP_OUT (R129): every resident wave has been parked for the park threshold; a wait for a reservation is such a
park too (spec 18 R271). A threshold of 0, outside the range of R118, stands for none: no group of the context is
swapped out (log entry 82). -/
def execSwapOut (group : Nat) (s : State) : Out :=
  .next <|
    let g := s.group group
    let us := s.unitsOf group
    let t := (s.ctx g.ctx).park
    let long := us.all fun u =>
      let w := s.unit u
      (w.park = .reserve || (w.park.stops && w.park ≠ .gbar))
        && w.parkedAt + t ≤ (s.core g.core).cycle
    if g.phase ≠ .resident || us = [] || t = 0 || !long then s
    else
      let s := if (s.msq g.core).group = group then s.haltMsq g.core else s
      us.foldl (fun s u => s.setUnit u { s.unit u with stopped := true })
        (s.setGroup group { g with phase := .stopping })

/-! ## Fetch faults (R130) -/

/-- A wave's fetch faults: every wave of its group stops before its next issue; `inst` is the first word
where only the extension word could not be fetched. -/
def State.fetchFault (s : State) (u : Nat) (va : Nat) (c : DFault) (why : Absence) (inst : DWord) : State :=
  let w := s.unit u
  let g := s.group w.group
  let (_, s) := s.raiseFault (.fetch u) (s.ctx w.ctx).asid va c why false
  let s := if (s.msq g.core).group = w.group then s.haltMsq g.core else s
  let s := s.setGroup w.group
    { g with phase := .stopping, fetchUnit := some u, fetchHeld := true, fetchInst := inst }
  (s.unitsOf w.group).foldl (fun s v =>
    let x := s.unit v
    s.setUnit v { x with stopped := true, stopLive := if x.stopped then x.stopLive else none }) s

/-- FETCH_FAULT: the unit's next word cannot be fetched. -/
def execFetchFault (unit : Nat) (s : State) : Out :=
  .next <|
    if !s.ready unit || (s.unit unit).stopped then s
    else
      match s.fetchWord unit (s.unit unit).pc.toNat with
      | (.error (c, why), _, s') => s'.fetchFault unit (s.unit unit).pc.toNat c why 0
      | (.ok _, _, _) => s

end Sys2Proof.Machine
end

