-- ==== Sys2Proof/Machine/MemEvents.lean ====
section
/-!
DEFINITION. Events of the memory system: arriving values, code invalidation, the monitor's wakes, and the
firmware's operations on pages, quotas, frames and regions (spec 06 R102, spec 08 R142, spec 14, spec 15).
-/

namespace Sys2Proof.Machine

open Sys2Proof

/-! ## Results (spec 06 R102) -/

/-- LOAD_VALUE_ARRIVAL: the value of one lane arrives. -/
def execLoadValueArrival (unit seq lane : Nat) (s : State) : Out :=
  .next <|
    let w := s.unit unit
    match w.pend.find? fun p => p.seq = seq with
    | none => s
    | some p =>
      match p.values.find? fun v => v.1 = lane with
      | none => s
      | some v =>
        let p := { p with values := p.values.filter fun x => x.1 ≠ lane }
        let w := if p.n = 0 then w else w.setWords p.dst lane v.2
        let pend :=
          if p.values = [] && p.faulted = [] && p.todo = [] then w.pend.filter fun q => q.seq ≠ seq
          else w.pend.map fun q : Pend => if q.seq = seq then p else q
        (s.setUnit unit { w with pend := pend }).deliver unit

/-! ## Code (spec 08 R142) -/

/-- ICINV_COMPLETE. -/
def execIcinvComplete (id : Nat) (s : State) : Out :=
  .next <|
    match s.work.icinvs.find? fun e => e.1 = id with
    | none => s
    | some (_, asid, va, n) =>
      let s := s.dropCode asid va n
      { s with work := { s.work with
        icinvs := s.work.icinvs.filter fun e => e.1 ≠ id
        units := AMap.mapVals s.work.units {} fun _ w => { w with icinvs := w.icinvs.filter (· ≠ id) } } }

/-! ## Wakes (spec 14 R217, R218, R220, R221) -/

/-- The unit of a token that the dispatch complex holds. -/
def State.tokenUnit (s : State) (token : Nat) : Option Nat :=
  let n := s.work.tokens.get 0 token
  if n = 0 then none else some (n - 1)

/-- Appends a wake to the wake list of a context; none when the list is full (R221). -/
def State.appendWake (s : State) (ctx token status : Nat) : Option State :=
  let x := s.ctx ctx
  let cap := x.wake.size / 8
  if cap ≤ x.wakes.length then none
  else
    let s := s.localWrite (x.wake.base + 8 * (x.wakeNext % cap)) (leBytes token 4 ++ leBytes status 4)
    let s := s.setCtx ctx { x with wakes := x.wakes ++ [(token, status)], wakeNext := x.wakeNext + 1 }
    some (s.tell (.wakeList ctx))

/-- Whether a unit is where a wake of an entry goes: in the slot that the entry names, or, for an entry that
was spilled once, wherever the dispatch complex knows it (R217). -/
def State.wakesAt (s : State) (u : Nat) (e : MonEntry) : Bool :=
  let w := s.unit u
  s.isResident u && (e.moved || (w.core = e.core && w.part = e.part && w.slot = e.slot))

/-- A wake's unit is told, on its core or through the wake list, or the device whose wave waits; none where
the wake must be kept. -/
def State.takeWake (s : State) (e : MonEntry) (status : Nat) : Option State :=
  match e.peer, s.tokenUnit e.token with
  | some (node, id), _ => some (s.reply (some node) id (.status status))
  | none, none => some s
  | none, some u =>
    if s.wakesAt u e then some (s.finishWait u status)
    else (s.appendWake e.ctx e.token status).map fun s => s.retireToken e.token

/-- An entry of a slice that has ended leaves, since its wake has been taken. -/
def State.dropFired (s : State) (sl token : Nat) : State :=
  let c := s.slice sl
  let stays := fun e : MonEntry => e.token ≠ token || e.fired.isNone
  s.setSlice sl { c with table := c.table.filter stays, waking := c.waking.filter stays }

/-- A wake that the wake list has no room for is kept in its entry (R221, R226). -/
def State.countHeld (s : State) (sl : Nat) : State :=
  let c := s.slice sl
  s.setSlice sl { c with counters := { c.counters with wakeHeld := bump c.counters.wakeHeld } }

/-- WAKE_DELIVERY: the wake is taken, and its entry leaves; one that the wake list cannot take stays in its entry,
which has kept its place, marked as fired (R221; log entry 62). -/
def execWakeDelivery (id : Nat) (s : State) : Out :=
  .next <|
    match s.mem.wakes.find? fun w => w.id = id with
    | none => s
    | some w =>
      let s := { s with mem := { s.mem with wakes := s.mem.wakes.filter fun v => v.id ≠ id } }
      match s.takeWake w.entry w.status with
      | some s => s.dropFired w.slice w.entry.token
      | none => s.countHeld w.slice

/-- The firmware takes the records of a wake list: those of waves that no longer wait, and those of waves that
are resident, which get their statuses. Those of saved waves go with their groups' return (R221). -/
def State.takeRecords (s : State) (ctx : Nat) : State :=
  (s.ctx ctx).wakes.foldl (fun s k =>
    let waits := AMap.findAll s.work.units fun _ w =>
      w.live && w.ctx = ctx && (match w.park with | .waitu _ _ t _ _ => t = k.1 | _ => false)
    match AMap.keys waits with
    | [] => s.dropWake ctx k.1
    | u :: _ => if s.isResident u then (s.dropWake ctx k.1).finishWait u k.2 else s) s

/-- The end of a wait that stands at another device: the unit is told where it runs, else through the wake list of
its context; where that is full the status is kept beside the wait (R221, R224). -/
def State.peerWake (s : State) (token status : Nat) : State :=
  match s.tokenUnit token with
  | none => s
  | some u =>
    if s.isResident u then s.finishWait u status
    else
      match s.appendWake (s.unit u).ctx token status with
      | some s => s.retireToken token
      | none =>
        let keep := fun w : PeerWait => if w.token = token then { w with ended := some status } else w
        { s with mem := { s.mem with peerWaits := s.mem.peerWaits.map keep } }

/-- The wakes that a slice keeps: those of entries that have ended and whose wakes are not on their way, oldest
first. -/
def State.keptWakes (s : State) (sl : Nat) : List MonEntry :=
  let c := s.slice sl
  let sent := fun e : MonEntry => s.mem.wakes.any fun w => w.entry.token = e.token
  sortBy (fun e : MonEntry => e.stamp) ((c.table ++ c.waking).filter fun e => e.fired.isSome && !sent e)

/-- WAKE_LIST_RETRY: after the firmware has taken records, the wakes that the slice keeps try again, and so do the
statuses of waits at other devices. -/
def execWakeListRetry (slice : Nat) (s : State) : Out :=
  .next <|
    let s := (AMap.keys s.ctxs).foldl State.takeRecords s
    let s := (s.keptWakes slice).foldl (fun s e =>
      match s.takeWake e (e.fired.getD 0) with
      | none => s
      | some s => s.dropFired slice e.token) s
    s.mem.peerWaits.foldl (fun s w =>
      match w.ended with
      | some n => s.peerWake w.token n
      | none => s) s

/-- Moves the oldest spilled records into free table entries (R220). -/
def State.fillTable (s : State) (sl : Nat) : Nat → State
  | 0 => s
  | n + 1 =>
    let c := s.slice sl
    match c.spilled with
    | p :: _ =>
      if c.table.length < tableSize then ((s.clearSpill sl p).addEntry sl p.entry).fillTable sl n else s
    | [] => s

/-- WAITU_EXPIRY: an entry of the table whose deadline has passed ends with status 1 (R218). -/
def execWaituExpiry (slice token : Nat) (s : State) : Out :=
  .next <|
    let now := (s.slice slice).cycle
    s.endEntries slice 1 fun e => e.token = token && e.fired.isNone && e.expired now

/-- SPILL_WALK: spilled records whose deadline has passed expire, and freed entries take the oldest
records. -/
def execSpillWalk (slice : Nat) (s : State) : Out :=
  .next <|
    let c := s.slice slice
    let late := c.spilled.any fun p => p.entry.expired c.cycle
    let s := if late then s.walk slice fun _ => false else s
    s.fillTable slice tableSize

/-- MONITOR_COUNTER_CLEAR: high-water starts again at the entries in use (R226). -/
def execMonitorCounterClear (slice : Nat) (s : State) : Out :=
  .next <|
    let c := s.slice slice
    s.setSlice slice { c with counters := { highWater := c.table.length } }

/-- SLEEP_EXPIRY (R225). -/
def execSleepExpiry (unit : Nat) (s : State) : Out :=
  .next <|
    let w := s.unit unit
    match w.park with
    | .sleep n =>
      if s.isResident unit && w.parkedAt + n ≤ (s.core w.core).cycle then s.finishWait unit 0 else s
    | _ => s

/-! ## Leaves that change (spec 15 R232) -/

/-- Whether the page of a translation-unit entry, by its key, meets a range of an ASID. -/
def entryMeets (asid lo hi key : Nat) : Bool :=
  let va := key % 2 ^ 56
  let level := key / 2 ^ 56 % 8
  let sh := if level = 0 then 48 else if level = 1 then 39 else pageShift level
  key / 2 ^ 59 = tagAsid asid va && va < hi && lo < va + 2 ^ sh

/-- Every line that a slice or its stash holds, with its slice. -/
def State.allLines (s : State) : List (Nat × Line) :=
  (s.mem.l2.flatMap fun e => e.2.map fun l => (e.1 / 24576, l))
    ++ s.mem.slices.flatMap fun e => e.2.stash.map fun l => (e.1, l)

/-- What retranslate does with one line. A dirty line whose new leaf has a frame is written back. A line whose
leaf has changed, or is no longer present, is dropped; the contents of a dirty one without a new frame are lost. A
dirty line whose leaf cannot be read for damage stays, as one does whose write-back finds no leaf (R245). -/
def State.retranslateLine (s : State) (sl : Nat) (l : Line) : State :=
  let va := l.va * 128
  match (s.lookup (s.dieOfSlice sl) l.asid va).1 with
  | .absent .damaged => if l.dirty then s.tell (.writeBack l.asid va) else s.dropLine sl l.asid l.va
  | .absent .invalid | .absent .malformed | .absent .unreachable | .absent .other => s.dropLine sl l.asid l.va
  | .leaf level e _ =>
    let out := leafPa level e va
    let frame : Bool := !leafPeer e && !leafFrameless e && s.physOk out
    let s := if l.dirty && frame then s.writeFrame out l else s
    if e = l.leaf then if l.dirty && frame then s.putLine sl { l with dirty := false } else s
    else s.dropLine sl l.asid l.va

/-- Drops what translation units, slices, L1s and code caches hold of the addresses from lo up to hi, as far as
their leaves have changed; the fills that had stalled go on. -/
def State.retranslate (s : State) (asid lo hi : Nat) : State :=
  let meets := entryMeets asid lo hi
  let s := { s with mem := { s.mem with trans := AMap.mapVals s.mem.trans {} fun _ t =>
    { t.drop meets with tables := AMap.keep t.tables fun key _ => !meets key } } }
  let hit := fun (a line : Nat) =>
    lo < line * 128 + 128 && line * 128 < hi && a = tagAsid asid (line * 128)
  let lines := s.allLines.filter fun x => hit x.2.asid x.2.va
  let s := lines.foldl (fun s x => s.retranslateLine x.1 x.2) s
  let s := { s with mem := { s.mem with
    l1 := AMap.mapVals s.mem.l1 [] fun _ set => set.filter fun l => !hit l.asid l.va } }
  let s := s.dropCode asid lo (hi - lo)
  (lines.map Prod.fst).eraseDups.foldl State.endStalls s

/-- RETRANSLATE, on the addresses from lo up to hi. -/
def execRetranslate (asid lo hi : Nat) (s : State) : Out := .next (s.retranslate asid lo hi)

/-! ## Gilt and frames (spec 15 R234, R239, R240) -/

/-- The held lines of a context in a slice beyond a quota become unheld, the most recently allocated
first. -/
def State.trimHeld (s : State) (ctx sl quota : Nat) : State :=
  let held := (s.allLines.filter fun x => x.1 = sl && x.2.held && x.2.ctx = ctx).map Prod.snd
  let gone := (sortBy (fun l : Line => l.alloc) held).drop quota
  gone.foldl (fun s l => s.putLine sl { l with held := false }) s

/-- GILT_GRANT: refused where the grants of a die would exceed 1,152 units. -/
def execGiltGrant (ctx die units : Nat) (s : State) : Out :=
  .next <|
    let others := (s.ctxs.map fun e => if e.1 = ctx then 0 else e.2.gilt.get 0 die).sum
    let x := s.ctx ctx
    if 1152 < others + units then s.tell (.grantRefused ctx die)
    else
      let s := s.setCtx ctx { x with gilt := x.gilt.set 0 die units }
      let sls := ((s.allLines.map Prod.fst).eraseDups).filter fun sl => s.dieOfSlice sl = die
      sls.foldl (fun s sl => s.trimHeld ctx sl (256 * units)) s

/-- FRAME_POOL_PUSH: frames are taken in order up to 4,096. -/
def execFramePoolPush (die : Nat) (frames : List Nat) (s : State) : Out :=
  .next <|
    let d := s.die die
    let n := min frames.length (4096 - d.frames.length)
    (s.setDie die { d with frames := d.frames ++ frames.take n }).tell (.pushed die n)

/-- Writes the oldest stashed lines back, up to one for which there is no frame. -/
def State.drainStash (s : State) (sl : Nat) : List Line → State
  | [] => s
  | l :: rest =>
    match s.leave sl l with
    | .drop => (s.dropLine sl l.asid l.va).drainStash sl rest
    | .frame pa => ((s.writeFrame pa l).dropLine sl l.asid l.va).drainStash sl rest
    | .stays => (s.tell (.writeBack l.asid (l.va * 128))).drainStash sl rest
    | .frameless level e pa =>
      match s.assignFrame sl l level e pa with
      | some (fpa, s) => ((s.writeFrame fpa l).dropLine sl l.asid l.va).drainStash sl rest
      | none => s

/-- STASH_DRAIN: oldest first; the stalls that this ends go on. -/
def execStashDrain (slice : Nat) (s : State) : Out :=
  .next ((s.drainStash slice (s.slice slice).stash).endStalls slice)

/-! ## Regions that move (spec 15 R242) -/

/-- The place of a region's bit in the region home map, where its map has a leaf. -/
def State.mapBit (s : State) (asid va : Nat) : Option (Nat × Nat) :=
  let rd := fun pa => leNat (s.readPhys pa 8)
  match homeEntry (rd (s.mem.homeRoots.get 0 asid + 8 * (va / 2 ^ 44 % 4096))) with
  | .table m =>
    match homeEntry (rd (m + 8 * (va / 2 ^ 33 % 2048))) with
    | .table l =>
      let i := va / 2 ^ 21 % 4096
      some (l + i / 8, i % 8)
    | .die _ | .reserved => none
  | .die _ | .reserved => none

/-- Brings a line to a slice: held where its quota there has room. A line for which no way can be made goes
to the stash; none where that is full. -/
def State.moveLine (s : State) (sl : Nat) (l : Line) : Option State :=
  let fits : Bool := l.held && s.heldBy sl l.ctx < s.quota l.ctx (s.dieOfSlice sl)
    && ((s.mem.l2.get [] (setKey sl l.va)).filter fun m => m.held).length < 12
  let l := { l with held := fits }
  let s := s.tellStays sl l.va
  match s.makeRoom sl l.va with
  | some s =>
    let key := setKey sl l.va
    some { s with mem := { s.mem with l2 := s.mem.l2.set [] key (s.mem.l2.get [] key ++ [l]) } }
  | none =>
    let c := s.slice sl
    if c.stash.length < 32 then some (s.setSlice sl { c with stash := c.stash ++ [l] }) else none

/-- Brings lines to the slices that the region home map names; none where one has no place. -/
def State.moveLines (s : State) (asid : Nat) : List Line → Option State
  | [] => some s
  | l :: rest =>
    match s.moveLine (s.homeSlice asid (l.va * 128)) l with
    | some s => s.moveLines asid rest
    | none => none

/-- Registers a moved monitor entry at its new slice, with its remaining time (spec 14 R215, R216). -/
def State.moveEntry (s : State) (old sl : Nat) (e : MonEntry) : State :=
  let e := { e with deadline := e.deadline.map fun d => d + (s.slice sl).cycle - (s.slice old).cycle }
  match s.place sl e with
  | (none, s) => s
  | (some st, s) => s.endAside sl e st

/-- The entries of a region leave the old slices, its bit in the map changes, and every copy of its map entry and of
its leaves is dropped (log entry 66). -/
def State.turnRegion (s : State) (a region pa bit : Nat) : State :=
  let stay := fun e : MonEntry => !(e.asid = a && e.va / 2 ^ 21 = region)
  let s := { s with mem := { s.mem with slices := AMap.mapVals s.mem.slices {} fun _ c =>
    { c with table := c.table.filter stay, waking := c.waking.filter stay } } }
  let old := leNat (s.readPhys pa 1)
  let s := s.writePhys pa (leBytes (old ^^^ 2 ^ bit) 1)
  let lo := region * 2 ^ 21
  let out := entryMeets a lo (lo + 2 ^ 21)
  { s with mem := { s.mem with
    homeCache := AMap.keep s.mem.homeCache fun key _ => key % 2 ^ 51 ≠ a * 2 ^ 35 + region
    trans := AMap.mapVals s.mem.trans {} fun _ t => t.drop out } }

/-- Whether a fill of a region stalls at a slice. -/
def State.regionStalls (s : State) (a region : Nat) : Bool :=
  s.mem.stalls.any fun t =>
    (match t.place with | .slice _ => true | .peer _ => false)
      && tagAsid t.asid (t.va * 128) = a && t.va / 2 ^ 14 = region

/-- The wakes of a region's entries that are on their way belong to its new slices. -/
def State.moveWakes (s : State) (asid a region : Nat) : State :=
  let one := fun w : Wake =>
    if w.entry.asid = a && w.entry.va / 2 ^ 21 = region then { w with slice := s.homeSlice asid w.entry.va } else w
  { s with mem := { s.mem with wakes := s.mem.wakes.map one } }

/-- MIGRATE: a region of 2 MiB goes to the other die. The operation waits while a fill of the region stalls at its
old slice. Where a line of it would have no place on the other die it waits too, and the firmware is told that the
pool is empty (log entry 66). -/
def execMigrate (asid region : Nat) (s : State) : Out :=
  .next <|
    let va := region * 2 ^ 21
    let a := tagAsid asid va
    match if s.regionStalls a region then none else s.mapBit a va with
    | none => s
    | some (pa, bit) =>
      let lines := s.allLines.filter fun x => x.2.asid = a && x.2.va / 2 ^ 14 = region
      let here := fun e : MonEntry => e.asid = a && e.va / 2 ^ 21 = region
      let tabled := s.mem.slices.flatMap fun c => ((c.2.table ++ c.2.waking).filter here).map fun e => (c.1, e)
      let spilled := s.mem.slices.flatMap fun c =>
        (c.2.spilled.filter fun p => here p.entry).map fun p => (c.1, p)
      let t := lines.foldl (fun s x => s.dropLine x.1 x.2.asid x.2.va) s
      let t := spilled.foldl (fun s x => s.clearSpill x.1 x.2) t
      let t := t.turnRegion a region pa bit
      match t.moveLines asid (lines.map Prod.snd) with
      | none => s.tell (.poolEmpty (s.dieOfSlice (t.homeSlice asid va)))
      | some t =>
        let t := t.moveWakes asid a region
        let entries := tabled ++ spilled.map fun x => (x.1, x.2.entry)
        let t := entries.foldl (fun s x => s.moveEntry x.1 (s.homeSlice asid x.2.va) x.2) t
        let old := (lines.map Prod.fst).eraseDups
        (old ++ [t.homeSlice asid va]).foldl State.endStalls t

end Sys2Proof.Machine
end

