-- ==== Sys2Proof/Machine/Engines.lean ====
section
/-!
DEFINITION. The tile copy engines, the starts and stops of matrix programs, the collective engines and
soft errors (spec 15 R245, spec 16 R255, spec 20 R299, spec 22 R313, R327 to R330, spec 23 R341 to R345).
-/

namespace Sys2Proof.Machine

open Sys2Proof

/-! ## Copies (spec 23 R341 to R344) -/

/-- The memory address of the next element, modulo 2^64. -/
def Copy.memAt (p : Copy) : Nat :=
  let n := p.perRow
  let w := if p.dir = 0 then p.sizes.1 else p.sizes.2
  wrap 64 ((p.mem : Int) + (p.pos / n) * p.memStride + p.pos % n * w / 2)

/-- Its offset in the tile, from the armed base. -/
def Copy.tileAt (p : Copy) : Nat :=
  let n := p.perRow
  let w := if p.dir = 0 then p.sizes.2 else p.sizes.1
  p.off + p.pos / n * p.stride + p.pos % n * w / 2

/-- The conversion of an element. -/
def copyConvert (conv v : Nat) : Res :=
  match conv with
  | 1 => matrixConvert .bf16 v
  | 2 => matrixConvert .f16 v
  | 3 => matrixConvert .e4m3 v
  | 4 => matrixConvert .e5m2 v
  | 5 => matrixConvert .e2m1 v
  | 6 => widenTo32 fmtB16 v
  | 7 => widenTo32 fmt16 v
  | _ => pure v

/-- The request of a copy. -/
def State.copyReq (s : State) (c : Nat) (p : Copy) (va : Nat) : Req :=
  ({ core := some c, ctx := p.ctx, asid := (s.ctx p.ctx).asid, va := va, who := .copy c p.num, lane := 0
     since := some p.num } : Req).hinted p.hints

/-- Writes a copy's record. -/
def State.putCopy (s : State) (c : Nat) (p : Copy) : State :=
  let k := s.core c
  s.setCore c { k with copies := k.copies.map fun q : Copy => if q.num = p.num then p else q }

/-- A fault, or a stalled fill, holds the copy at its element (R344). -/
def State.holdCopy (s : State) (c : Nat) (p : Copy) (va : Nat) (write : Bool) : Got → State
  | .fault f why =>
    let (_, s) := s.raiseFault (.copy c p.num) (s.ctx p.ctx).asid va f why write
    s.putCopy c { p with held := true }
  | .stall sl => (s.addStall sl (s.ctx p.ctx).asid va (.copy c p.num) write).putCopy c { p with held := true }
  | .bytes _ => s

/-- ORs flags into the copy flags of a counter (spec 21 R310). -/
def State.copyFlag (s : State) (p : Copy) (f : Word) : State :=
  if p.counter = 0 then s
  else
    let x := s.ctx p.ctx
    s.setCtx p.ctx { x with copyFlags := x.copyFlags.set 0 p.counter (x.copyFlags.get 0 p.counter ||| f) }

/-- A direction-1 copy leaves its slot, which is READY again after the last (R342). -/
def State.endReader (s : State) (p : Copy) (bad : Bool) : State :=
  match (s.group p.group).tile? p.tile with
  | none => s
  | some t =>
    let t := { t with readers := t.readers - 1, badRead := t.badRead || bad }
    s.putTile p.group p.tile
      (if t.readers = 0 then { t with state := .ready, failed := t.failed || t.badRead, badRead := false }
        else t)

/-- An operation of a queue completes: the counter may now stand for every operation up to `done`
(spec 13 R211). -/
def TQueue.complete (q : TQueue) (op : Nat) : TQueue :=
  let past := q.later ++ [op]
  let run := (List.range (q.issued - q.done)).takeWhile fun i => past.contains (q.done + 1 + i)
  let done := q.done + run.length
  { q with done := done, later := past.filter fun n => done < n }

/-- Writes a queue of a core. -/
def State.putQueue (s : State) (c : Nat) (q : TQueue) : State :=
  let k := s.core c
  s.setCore c
    { k with queues := k.queues.map fun x : TQueue => if x.ctx = q.ctx && x.addr = q.addr then q else x }

/-- A copy leaves its engine; a queue of which every operation has completed is free (R343). -/
def State.removeCopy (s : State) (c : Nat) (p : Copy) : State :=
  let k := s.core c
  let live := fun q : TQueue => !(q.ctx = p.ctx && q.addr = p.counter && q.done = q.issued)
  s.setCore c { k with copies := k.copies.filter fun q => q.num ≠ p.num, queues := k.queues.filter live }

/-- A copy that has committed its last element ends: where operations 1 to n of its queue are now complete, the
counter takes the flag word and then its value for n (R343, spec 13 R211, spec 21 R311). -/
def State.endCopy (s : State) (c : Nat) (p : Copy) : State :=
  match if p.counter = 0 then none else (s.core c).queue? p.ctx p.counter with
  | none => s.removeCopy c p
  | some q =>
    let q' := q.complete p.op
    if q'.done = q.done then (s.putQueue c q').removeCopy c p
    else
      let obs := p.obs ||| 2
      let flags := ((s.ctx p.ctx).copyFlags.get 0 p.counter).toNat
      match s.writeRange (s.copyReq c p (p.counter + 8)) (leBytes flags 4) obs with
      | (.bytes _, s) =>
        let v := leBytes ((q.c0.getD 0 + q'.done) % 2 ^ 64) 8
        (match s.writeRange (s.copyReq c p p.counter) v obs with
          | (.bytes _, s) => (s.putQueue c q').removeCopy c p
          | (r, s) => s.holdCopy c p p.counter true r)
      | (r, s) => s.holdCopy c p (p.counter + 8) true r

/-- Takes n elements as committed; with its last a direction-1 copy leaves its slot (R342), and the copy
ends. One whose launch is cancelled is dropped, and its counter does not advance (R345). -/
def State.nextElement (s : State) (c : Nat) (p : Copy) (f : Word) (n : Nat) : State :=
  let s := s.copyFlag p f
  let p := { p with pos := p.pos + n }
  let s := s.putCopy c p
  if p.ending then s.setCore c ((s.core c).drop fun q => q.num = p.num)
  else if p.pos < p.total then s
  else (if p.dir = 1 then s.endReader p false else s).endCopy c p

/-- Commits one element of direction 0: memory to tile. Two elements of half a byte share a byte, which
is counted with the second. -/
def State.commitIn (s : State) (c : Nat) (p : Copy) : State :=
  let g := s.group p.group
  match s.readHome (s.copyReq c p p.memAt) (p.sizes.1 / 2) with
  | (.bytes bs, s) =>
    let r := copyConvert p.conv (leNat bs)
    let o := p.base + p.tileAt
    let half : Bool := p.sizes.2 = 1
    let low : Bool := p.pos % p.perRow % 2 = 0
    let old := leNat (s.readScratch g o 1)
    let out :=
      if !half then leBytes r.val (p.sizes.2 / 2)
      else if low then leBytes (old / 16 * 16 + r.val % 16) 1
      else leBytes (old % 16 + r.val % 16 * 16) 1
    let s := s.writeScratch g o out
    let n := if half && low then 0 else out.length
    let s :=
      match (s.group p.group).tile? p.tile with
      | some t => s.putTile p.group p.tile (t.count p.fill n)
      | none => s
    s.nextElement c p r.flags 1
  | (r, s) => s.holdCopy c p p.memAt false r

/-- Commits one element of direction 1: tile to memory. Two elements of half a byte are committed as one byte,
and a fault holds the copy at the first. -/
def State.commitOut (s : State) (c : Nat) (p : Copy) : State :=
  let src := fun o : Nat => copyConvert p.conv (leNat ((p.image.drop o).take (p.sizes.1 / 2)))
  let lo := src p.tileAt
  let hi := if p.sizes.2 = 1 then src (p.tileAt + p.sizes.1 / 2) else pure 0
  let out := if p.sizes.2 = 1 then leBytes (lo.val % 16 + hi.val % 16 * 16) 1 else leBytes lo.val (p.sizes.2 / 2)
  match s.writeHome (s.copyReq c p p.memAt) out 0 with
  | (.bytes _, s) => s.nextElement c p (lo.flags ||| hi.flags) (if p.sizes.2 = 1 then 2 else 1)
  | (r, s) => s.holdCopy c p p.memAt true r

/-- A copy that has stopped at an element leaves its engine and its slot, which has failed (R342, R344). -/
def State.leaveCopy (s : State) (c : Nat) (p : Copy) : State :=
  let s := s.removeCopy c p
  if p.pos = p.total then s
  else if p.dir = 1 then s.endReader p true
  else
    match (s.group p.group).tile? p.tile with
    | some t => s.putTile p.group p.tile { t with failed := true }
    | none => s

/-- A copy stops: its counter's block takes the report, which is dropped where its write faults (R344). -/
def State.reportCopy (s : State) (c : Nat) (p : Copy) (code : Nat) : State :=
  let bs := leBytes 0 4 ++ leBytes code 4 ++ leBytes p.op 4 ++ leBytes p.pos 8
  if p.counter = 0 then s.leaveCopy c p
  else
    match s.writeRange (s.copyReq c p (p.counter + 0xC)) bs allObs with
    | (.stall sl, s) => s.holdCopy c { p with report := some code } (p.counter + 0xC) true (.stall sl)
    | (_, s) => s.leaveCopy c p

/-- COPY_ELEMENT_COMMIT: the first copy whose group is resident goes on, or one that only completes an element of a
cancelled launch, or, where only its counter is still to be written, one whose group has gone; a counter that its
queue has not read is read first. The context's firmware can change none of this (R343). -/
def execCopyElementCommit (core : Nat) (s : State) : Out :=
  .next <|
    let k := s.core core
    let goes := fun p : Copy =>
      (s.group p.group).phase = .resident || p.ending || (p.committed && (s.group p.group).phase = .absent)
    match k.copies.find? goes with
    | none => s
    | some p =>
      if p.held then s
      else
        match p.report, (k.queue? p.ctx p.counter).filter fun q => p.counter ≠ 0 && q.c0.isNone with
        | some code, _ => s.reportCopy core p code
        | none, some q =>
          (match s.readHome (s.copyReq core p p.counter) 8 with
            | (.bytes bs, s) => s.putQueue core { q with c0 := some (leNat bs) }
            | (r, s) => s.holdCopy core p p.counter false r)
        | none, none =>
          if p.pos = p.total then s.endCopy core p
          else if p.dir = 0 then s.commitIn core p
          else s.commitOut core p

/-- The copy of a core with a number. -/
def Core.copy? (k : Core) (num : Nat) : Option Copy := k.copies.find? fun p => p.num = num

/-- A copy stops at its element (R344). -/
def State.stopCopy (s : State) (c num : Nat) (cause : DFault) : State :=
  match (s.core c).copy? num with
  | none => s
  | some p => s.reportCopy c p cause.code

/-! ## Matrix programs -/

/-- The counter of a program that begins is read once as c0 (spec 20 R299). -/
def State.readC0 (s : State) (c : Nat) : State :=
  let m := s.msq c
  match s.readHome (s.msqReq c m.counter) 8 with
  | (.bytes bs, s) => s.setMsq c { s.msq c with c0 := leNat bs, fresh := false }
  | (.fault f why, s) => s.msqFault c m.counter f why false
  | (.stall p, s) => s.msqStall c m.counter p false

/-- A context other than the previous program's finds the banks not loaded, and the accumulators and side memory
zero; metadata that is pending stays so (spec 22 R312). -/
def Msq.afresh (m : Msq) : Msq :=
  { m with banks := AMap.mapVals m.banks {} fun _ b => { b with loaded := false }, acc := [], side := [] }

/-- The program that a start begins (spec 22 R313). -/
def Msq.begin (m : Msq) (r : MStart) : Msq :=
  let m := if m.prevCtx = r.ctx + 1 || m.prevCtx = 0 then m else m.afresh
  { m with running := true, fresh := true, halted := false, held := false, ctx := r.ctx, group := r.group
           obj := r.obj, m := AMap.set [] 0 0 (BitVec.ofNat 64 r.arg), pc := r.entry, counter := r.arg
           c0 := 0, j := 0, mflags := 0, prevCtx := r.ctx + 1 }

/-- MSQ_PROGRAM_START. -/
def execMsqProgramStart (core : Nat) (s : State) : Out :=
  .next <|
    let m := s.msq core
    if m.running then (if m.fresh && !m.held && !m.halted && m.errRec.isNone then s.readC0 core else s)
    else if m.bg ≠ [] then s
    else
      match m.starts.find? fun r => (s.group r.group).phase = .resident with
      | none => s
      | some r =>
        (s.setMsq core ({ m with starts := m.starts.erase r }.begin r)).readC0 core

/-- MATRIX_WORD_COMPLETE: a program that a cancel has halted ends after its last word (R330). -/
def execMatrixWordComplete (core seq : Nat) (s : State) : Out :=
  .next <|
    let m := s.msq core
    let s := s.setMsq core { m with bg := m.bg.filter fun w => w.seq ≠ seq }
    if m.inWord then s else s.msqSettle core

/-! ## Collective engines (spec 16 R255) -/

/-- Performs the accesses of an operation, in order; the first that faults or stalls ends the pass. -/
def State.engineAccesses (s : State) (q : Req) : List EngineAcc → Option (Nat × Bool × Got) × State
  | [] => (none, s)
  | a :: rest =>
    match a.acc with
    | .read n =>
      (match s.readRange { q with va := a.va } n with
        | (.bytes _, s) => s.engineAccesses q rest
        | (r, s) => (some (a.va, false, r), s))
    | .write bs =>
      (match s.writeRange { q with va := a.va } bs 0 with
        | (.bytes _, s) => s.engineAccesses q rest
        | (r, s) => (some (a.va, true, r), s))

/-- An operation fails: the error word takes its number and the cause, and the counter stays below it. -/
def State.collFail (s : State) (ctx die q code : Nat) : State :=
  let x := s.ctx ctx
  let k := x.collQs.get {} (die * 16 + q)
  let n := k.finished + 1
  let s := s.localWrite (s.collEntry ctx die q + 8) (leBytes n 4 ++ leBytes code 4)
  s.setCtx ctx { s.ctx ctx with
    collQs := x.collQs.set {} (die * 16 + q) { k with finished := n, stuck := true, cmds := k.cmds.tail } }

/-- A held operation of a queue raises a fault, or waits for a stalled fill. -/
def State.holdColl (s : State) (ctx die q va : Nat) (write : Bool) : Got → State
  | .fault f why => (s.raiseFault (.coll ctx die q) (s.ctx ctx).asid va f why write).2
  | .stall sl => s.addStall sl (s.ctx ctx).asid va (.coll ctx die q) write
  | .bytes _ => s

/-- COLL_OPERATION: an engine serves the queue's first command with the firmware that was installed when the command
was accepted (spec 04 R84), and the accesses are those that this firmware makes (log entry 11). -/
def execCollOperation (ctx die q : Nat) (run : EngineRun) (failed : Option (BitVec 8))
    (s : State) : Out :=
  .next <|
    let x := s.ctx ctx
    let k := x.collQs.get {} (die * 16 + q)
    let who := Waiter.coll ctx die q
    match k.cmds with
    | [] => s
    | cmd :: rest =>
      if run.image ≠ cmd.fw.image || (s.mem.faults.any fun f => f.who = who)
          || s.mem.stalls.any fun t => t.who = who then s
      else
        let r : Req := { ctx := ctx, asid := x.asid, va := 0, who := who, lane := 0 }
        match s.engineAccesses r run.accesses with
        | (some (va, write, g), s) => s.holdColl ctx die q va write g
        | (none, s) =>
          match failed with
          | some code => s.collFail ctx die q code.toNat
          | none =>
            let finish := fun s : State =>
              let x := s.ctx ctx
              s.setCtx ctx { x with
                collQs := x.collQs.set {} (die * 16 + q) { k with finished := cmd.num, cmds := rest } }
            if k.stuck then finish s
            else
              match s.writeRange { r with va := k.counter } (leBytes cmd.num 8) (BitVec.ofNat 5 cmd.obs ||| 2) with
              | (.bytes _, s) => finish s
              | (g, s) => s.holdColl ctx die q k.counter true g

/-! ## Soft errors (spec 15 R245, spec 22 R329) -/

/-- The number of an island, in the order of the table of spec 00 R8; none for one that no part has. -/
def islandIndex : Island → Option Nat
  | .coreVector c => if c < 384 then some (2 * c) else none
  | .coreMatrix c => if c < 384 then some (2 * c + 1) else none
  | .slice n => if n < 128 then some (768 + n) else none
  | .channel n => if n < 64 then some (896 + n) else none
  | .port n => if n < 18 then some (960 + n) else none
  | .dispatch n => if n < 16 then some (978 + n) else none
  | .collective n => if n < 16 then some (994 + n) else none
  | .hostModule n => if n < 8 then some (1010 + n) else none
  | .bridge n => if n < 2 then some (1018 + n) else none
  | .security n => if n < 4 then some (1020 + n) else none

/-- Counts a corrected error of an island. -/
def State.corrected (s : State) (i : Island) : State :=
  match islandIndex i with
  | none => s
  | some n => { s with host := { s.host with corrected := s.host.corrected.set 0 n (s.host.corrected.get 0 n + 1) } }

/-- A group with a damaged register file or scratchpad terminates; the %tpc and %tinst of the record are
free values (log entry 6). -/
def State.softFatal (s : State) (gi : Nat) : State :=
  let g := s.group gi
  if g.phase ≠ .resident && g.phase ≠ .stopping then s
  else
    let (pc, s) := s.fresh
    let (inst, s) := s.fresh
    s.terminate gi 5 (BitVec.ofNat 32 DFault.ecc.code) pc inst

/-- The running program of a core stops with ECC_UNCORRECTED (R329); one whose error record is still to be written has
stopped. -/
def State.msqDamage (s : State) (c : Nat) (f : Msq → Msq) : State :=
  let s := s.setMsq c (f (s.msq c))
  if (s.msq c).running && (s.msq c).errRec.isNone then s.msqStop c (BitVec.ofNat 32 DFault.ecc.code) else s

/-- A bank is marked not loaded. -/
def Msq.unload (m : Msq) (b : Nat) : Msq :=
  { m with banks := m.banks.set {} b { m.banks.get {} b with loaded := false } }

/-- An L2 line with an error: a dirty one, or one of a frameless page, is poisoned; another is dropped
and fetched again. -/
def State.softL2 (s : State) (asid line : Nat) : State :=
  let sl := s.homeSlice asid (line * 128)
  match s.findLine sl asid line with
  | none => s
  | some l =>
    if l.dirty || leafFrameless l.leaf then s.putLine sl { l with poison := true }
    else (s.dropLine sl asid line).corrected (.slice sl)

/-- Whether a line's page is frameless: as its slice's line knows the page, else as its leaf says. -/
def State.bareLine (s : State) (sl asid line : Nat) : Bool :=
  match s.findLine sl asid line with
  | some m => leafFrameless m.leaf
  | none =>
    match (s.lookup (s.dieOfSlice sl) asid (line * 128)).1 with
    | .leaf _ e _ => leafFrameless e
    | .absent _ => false

/-- An L1 line with an error: one of a frameless page is poisoned, and another is dropped and fetched again. -/
def State.softL1 (s : State) (core asid line : Nat) : State :=
  let sl := s.homeSlice asid (line * 128)
  match s.l1Find core asid line with
  | none => s
  | some l =>
    if s.bareLine sl asid line then
      let set := (s.mem.l1.get [] (l1Key core line)).map fun m : L1Line =>
        if m.isAt asid line then { l with poison := true } else m
      s.l1Set core line set
    else (s.l1Drop core asid line).corrected (.coreVector core)

/-- A translation unit drops what it holds of an address. -/
def State.softTlb (s : State) (unit asid va : Nat) : State :=
  let out := entryMeets asid va (va + 1)
  let tu := (s.mem.trans.get {} unit).drop out
  let tu := { tu with tables := AMap.keep tu.tables fun key _ => !out key }
  ({ s with mem := { s.mem with trans := s.mem.trans.set {} unit tu } }).corrected (.channel unit)

/-- SOFT_ERROR. -/
def execSoftError (site : SoftSite) (s : State) : Out :=
  .next <|
    match site with
    | .corrected island => s.corrected island
    | .l1Line core asid line => s.softL1 core asid line
    | .l2Line asid line => s.softL2 asid line
    | .tlbEntry unit asid va => s.softTlb unit asid va
    | .frameLine pa => { s with mem := { s.mem with poisoned := s.mem.poisoned.set false (pa / 128) true } }
    | .registerFile group | .scratchpad group => s.softFatal group
    | .fetched unit =>
      if s.ready unit then s.fetchFault unit (s.unit unit).pc.toNat .ecc .other 0 else s
    | .msqRegister core | .msqFetched core => s.msqDamage core id
    | .accumulator core kib => s.msqDamage core fun m => { m with poison := m.poison.set false kib true }
    | .bank core bank | .sideMemory core bank => s.msqDamage core fun m => m.unload bank

end Sys2Proof.Machine
end

