-- ==== Sys2Proof/Machine/Jobs.lean ====
section
/-!
DEFINITION. Jobs and launches: doorbells, the acceptance of jobs, eligibility and start (spec 05 R90 to
R95, spec 07 R115 to R123, spec 17 R257 to R259, spec 18 R270, spec 16 R250 to R252).
-/

namespace Sys2Proof.Machine

open Sys2Proof

/-! ## Contexts and their block (spec 16 R251, R252) -/

/-- CONTEXT_BLOCK_ADDRESS: taken only while the context is disabled, and only when 4 KiB-aligned. -/
def execContextBlockAddress (ctx : Nat) (value : DWord) (s : State) : Out :=
  .next <|
    let x := s.ctx ctx
    if maxContexts ≤ ctx || x.enabled || value.toNat % 4096 ≠ 0 then s
    else s.setCtx ctx { x with block := value }

/-- An area entry of the context block. -/
def State.areaAt (s : State) (pa : Nat) : Area :=
  { base := leNat (s.localRead pa 8), size := leNat (s.localRead (pa + 8) 8) }

/-- Whether a context holds unfinished work. -/
def State.hasWork (s : State) (ctx : Nat) : Bool :=
  (s.ctx ctx).inbox ≠ [] || (s.ctx ctx).hw ≠ [] || (s.ctx ctx).ringRecs ≠ []
    || ((s.ctx ctx).collQs.any fun e => e.2.cmds ≠ [])
    || (s.work.jobLevels.any fun e => e.2.live && !e.2.done && e.2.ctx = ctx)
    || (s.work.groups.any fun e => e.2.phase ≠ .absent && e.2.ctx = ctx)
    || s.work.writes.any fun c => c.ctx = ctx

/-- The firmware creates a context under a number: no object, a log of zeros and no copy flags (spec 04 R87,
spec 21 R310); the number keeps its block address and its gilt grants. -/
def Ctx.create (x : Ctx) (fw : FwContext) : Ctx :=
  { block := x.block, gilt := x.gilt, asid := fw.asid.toNat
    key := fw.key.toNat, unsigned_ := fw.unsigned_, signers := fw.signers }

/-- What the firmware sets for a context that is enabled: its park threshold, its rank and the ranks of its queues
(spec 07 R118; log entry 82). -/
def Ctx.ruled (x : Ctx) (fw : FwContext) : Ctx :=
  { x with park := fw.park.toNat, rank := fw.rank.toNat
           ranks := fw.ranks.foldl (fun (m : AMap Nat) r => m.set 0 r.1.toNat r.2.toNat) [] }

/-- A context as the firmware sets it: created anew, with the roots of its ASID, or as it is. -/
def State.createCtx (s : State) (ctx : Nat) (fw : FwContext) : State :=
  if !fw.created then s.setCtx ctx ((s.ctx ctx).ruled fw)
  else
    let s := s.setCtx ctx (((s.ctx ctx).create fw).ruled fw)
    { s with mem := { s.mem with roots := s.mem.roots.set 0 fw.asid.toNat fw.root
                                 homeRoots := s.mem.homeRoots.set 0 fw.asid.toNat fw.homeRoot } }

/-- CONTEXT_ENABLE: enabling reads the context block; disabling with unfinished work is ignored. -/
def execContextEnable (ctx : Nat) (write : EnableWrite) (s : State) : Out :=
  .next <|
    let up := write.value.getLsbD 0
    if maxContexts ≤ ctx || up = (s.ctx ctx).enabled then s
    else if up then
      let s := s.createCtx ctx write.fw
      let x := s.ctx ctx
      let pa := x.block.toNat
      let s := s.tellLocal (pa + 0x410) 80
      let spill := s.areaAt (pa + 0x430)
      let slices := s.host.slices0 + s.host.slices1
      s.setCtx ctx
        { x with enabled := true, save := s.areaAt (pa + 0x410), spawn := s.areaAt (pa + 0x420)
                 spill := spill, ring := s.areaAt (pa + 0x440), wake := s.areaAt (pa + 0x450)
                 spillSeg := min 65535 (spill.size / (32 * slices)), ringNext := 0, wakeNext := 0
                 ringMapped := [], saves := [], collQs := [] }
    else if s.hasWork ctx then s
    else s.setCtx ctx { s.ctx ctx with enabled := false }

/-! ## Doorbells (R115) -/

/-- Whether a queue descriptor keeps its table. -/
def goodQueue (d : List Byte) : Bool :=
  let n := 2 ^ field d 8 1
  field d 0 8 % 4096 = 0 && 4 ≤ field d 8 1 && field d 8 1 ≤ 16 && field d 9 1 ≤ 3
    && field d 0x0A 6 = 0 && field d 0x18 8 = 0 && field d 0x10 4 < n && field d 0x14 4 < n

/-- DOORBELL: the descriptor is read afresh, and the entries up to the tail are announced. -/
def execDoorbell (ctx off : Nat) (q : BitVec 32) (s : State) : Out :=
  .next <|
    let x := s.ctx ctx
    let q := q.toNat
    if off ≠ 0 || 16 ≤ q || maxContexts ≤ ctx || !x.enabled then s
    else
      let d := s.localRead (x.block.toNat + 32 * q) 32
      let s := s.tellLocal (x.block.toNat + 32 * q) 32
      if !goodQueue d then s.tell (.badQueue ctx q)
      else
        let n := 2 ^ field d 8 1
        let head := field d 0x10 4
        let known := (x.inbox.filter fun j => j.queue = q && j.read = []).length
        let total := (field d 0x14 4 + n - head) % n
        let fresh := (List.range (total - known)).map fun i =>
          let index := (head + known + i) % n
          ({ queue := q, cls := field d 9 1, index := index, entry := field d 0 8 + 64 * index
             ring := n } : JobIn)
        s.setCtx ctx { x with inbox := x.inbox ++ fresh }

/-! ## Accepting a job (R116) -/

/-- The job of a queue that is to be accepted next. -/
def State.nextJob (s : State) (ctx q : Nat) : Option JobIn :=
  (s.ctx ctx).inbox.find? fun j => j.queue = q

/-- Replaces the job of a queue that is to be accepted next. -/
def State.setNextJob (s : State) (ctx : Nat) (j : JobIn) : State :=
  let x := s.ctx ctx
  let up := fun k : JobIn => if k.queue = j.queue && k.index = j.index && k.entry = j.entry then j else k
  s.setCtx ctx { x with inbox := x.inbox.map up }

/-- The job leaves the inbox. -/
def State.dropNextJob (s : State) (ctx : Nat) (j : JobIn) : State :=
  let x := s.ctx ctx
  s.setCtx ctx { x with inbox := x.inbox.filter fun k => !(k.queue = j.queue && k.index = j.index && k.entry = j.entry) }

/-- Writes the head of a queue: the entry after this one is read next. -/
def State.writeHead (s : State) (ctx : Nat) (j : JobIn) : State :=
  s.localWrite ((s.ctx ctx).block.toNat + 32 * j.queue + 0x10) (leBytes ((j.index + 1) % j.ring) 4)

/-- The waiter of a job's structure reads. -/
def jobWaiter (ctx q : Nat) : Waiter := .job (ctx * 16 + q)

/-- Reads records of a job, each once, as acquires with observer H: what has been read is kept. None where a read must
wait. -/
def State.jobReads (s : State) (ctx q n : Nat) : List Nat → List (List Byte) → Option (List (List Byte)) × State
  | [], acc => (some acc, s)
  | va :: rest, acc =>
    match s.nextJob ctx q with
    | none => (none, s)
    | some j =>
      match j.read.find? fun r => r.1 = va && r.2.length = n with
      | some r => s.jobReads ctx q n rest (acc ++ [r.2])
      | none =>
        let asid := (s.ctx ctx).asid
        match s.readRange { ctx := ctx, asid := asid, va := va, who := jobWaiter ctx q, obs := 0x11 } n with
        | (.bytes bs, s) =>
          (s.setNextJob ctx { j with read := j.read ++ [(va, bs)] }).jobReads ctx q n rest (acc ++ [bs])
        | (.fault c why, s) => (none, (s.raiseFault (jobWaiter ctx q) asid va c why false).2)
        | (.stall sl, s) => (none, s.addStall sl asid va (jobWaiter ctx q) false)

/-- Whether a job entry, a phase record and a graph record keep their tables. -/
def goodJob (b : List Byte) : Bool :=
  let n := field b 0x10 4
  0 < n && n ≤ 65535 && field b 0x14 4 = 0 && field b 0x20 32 = 0 && field b 0x18 8 % 64 = 0
    && field b 8 8 % 32 = 0

def goodPhase (b : List Byte) : Bool :=
  let n := field b 0x10 4
  0 < n && n ≤ 65535 && field b 0x14 12 = 0 && field b 8 8 % 32 = 0

def goodGraph (b : List Byte) : Bool :=
  let n := field b 0x10 2
  let e := field b 0x12 2
  0 < n && n ≤ 4096 && field b 0x14 4 = 0 && field b 0x18 8 % 4 = 0 && (e ≠ 0 || field b 0x18 8 = 0)

/-- Whether an edge of a graph keeps its table. -/
def goodEdge (launches : Nat) (b : List Byte) : Bool :=
  field b 0 2 < field b 2 2 && field b 2 2 < launches

/-- The addresses of consecutive records. -/
def tableAt (base size n : Nat) : List Nat := (List.range n).map fun i => base + size * i

/-- A new job of a queue, whose structure runs nothing yet. -/
def State.newJob (s : State) (ctx : Nat) (j : JobIn) (b : List Byte) (done : Bool) : Nat × State :=
  let (n, s) := s.stamp
  let job : Job := { queue := j.queue, cls := j.cls, entry := j.entry, errAddr := field b 0x18 8 }
  let l : Level :=
    { live := true, counter := field b 0 8, members := field b 0x10 4, done := done, ctx := ctx }
  (n, { s with work := { s.work with jobs := s.work.jobs.set {} n job
                                     jobLevels := s.work.jobLevels.set {} n l } })

/-- Refuses the whole job: its error record takes the status, and its counter 0 (R116, R117). -/
def State.refuseJob (s : State) (ctx : Nat) (j : JobIn) (b : List Byte) (status tcause addr : Nat) :
    State :=
  let (n, s) := s.newJob ctx j b true
  let s := s.recordError n
    { status := status, group := 0, addr := j.entry, tcause := tcause, tpc := addr, tinst := 0, count := 0 }
  let s := s.pushWrite n ctx (field b 0 8) (leBytes 0 8) false j.entry
  s.dropNextJob ctx j

/-- The launches of a graph, queued in index order. -/
def State.newLaunches (s : State) (ctx : Nat) (q job phase graph base : Nat) (edges : List (List Byte)) :
    List Nat → State
  | [] => s
  | i :: rest =>
    let (n, s) := s.stamp
    let l : Launch :=
      { phase := .queued, ctx := ctx, queue := q, job := job, jphase := phase, graph := graph, order := n
        recAddr := base + 64 * i, index := i
        edges := (edges.filter fun e => field e 2 2 = i).map fun e => field e 0 2 }
    (s.setLaunch n l).newLaunches ctx q job phase graph base edges rest

/-- The graphs of a phase. -/
def State.newGraphs (s : State) (ctx q job phase : Nat) : List (List Byte × List (List Byte)) → State
  | [] => s
  | (g, edges) :: rest =>
    let (n, s) := s.stamp
    let l : Level :=
      { live := true, counter := field g 0 8, members := field g 0x10 2, parent := phase, ctx := ctx }
    let s := { s with work := { s.work with graphs := s.work.graphs.set {} n l } }
    (s.newLaunches ctx q job phase n (field g 8 8) edges (List.range (field g 0x10 2))).newGraphs ctx q job
      phase rest

/-- The phases of a job. -/
def State.newPhases (s : State) (ctx q job : Nat) :
    List (List Byte × List (List Byte × List (List Byte))) → State
  | [] => s
  | (p, graphs) :: rest =>
    let (n, s) := s.stamp
    let l : Level :=
      { live := true, counter := field p 0 8, members := field p 0x10 4, parent := job, ctx := ctx }
    let s := { s with work := { s.work with phases := s.work.phases.set {} n l } }
    (s.newGraphs ctx q job n graphs).newPhases ctx q job rest

/-- What the reading of a job's structure comes to. -/
inductive JobRead (α : Type)
  | got (a : α)
  | malformed
  | waits

/-- Reads the graph records of a phase with their edges. -/
def State.readGraphs (s : State) (ctx q : Nat) :
    List Nat → List (List Byte × List (List Byte)) → JobRead (List (List Byte × List (List Byte))) × State
  | [], acc => (.got acc, s)
  | va :: rest, acc =>
    match s.jobReads ctx q 32 [va] [] with
    | (none, s) => (.waits, s)
    | (some gs, s) =>
      let g := gs.headD []
      if !goodGraph g then (.malformed, s)
      else
        match s.jobReads ctx q 4 (tableAt (field g 0x18 8) 4 (field g 0x12 2)) [] with
        | (none, s) => (.waits, s)
        | (some es, s) =>
          if es.all (goodEdge (field g 0x10 2)) then s.readGraphs ctx q rest (acc ++ [(g, es)])
          else (.malformed, s)

/-- Reads the graphs of every phase. -/
def State.readPhases (s : State) (ctx q : Nat) :
    List (List Byte) → List (List Byte × List (List Byte × List (List Byte))) →
      JobRead (List (List Byte × List (List Byte × List (List Byte)))) × State
  | [], acc => (.got acc, s)
  | p :: rest, acc =>
    match s.readGraphs ctx q (tableAt (field p 8 8) 32 (field p 0x10 4)) [] with
    | (.got gs, s) => s.readPhases ctx q rest (acc ++ [(p, gs)])
    | (.malformed, s) => (.malformed, s)
    | (.waits, s) => (.waits, s)

/-- Whether a waiter waits on the firmware or on a stalled fill. -/
def State.waits (s : State) (w : Waiter) : Bool :=
  (s.mem.faults.any fun f => f.who = w) || s.mem.stalls.any fun t => t.who = w

/-- JOB_ACCEPT: the entry, the phases, the graphs and the edges are read and checked before any launch
starts; a job that breaks their tables is refused with JOB_FORMAT. -/
def execJobAccept (ctx q : Nat) (s : State) : Out :=
  .next <|
    match s.nextJob ctx q with
    | none => s
    | some j =>
      if s.waits (jobWaiter ctx q) then s
      else
        match s.jobReads ctx q 64 [j.entry] [] with
        | (none, s) => s
        | (some bs, s) =>
          let b := bs.headD []
          let s := if j.read = [] then s.writeHead ctx j else s
          if !goodJob b then s.refuseJob ctx j b 3 0 0
          else
            match s.jobReads ctx q 32 (tableAt (field b 8 8) 32 (field b 0x10 4)) [] with
            | (none, s) => s
            | (some ps, s) =>
              if !ps.all goodPhase then s.refuseJob ctx j b 3 0 0
              else
                match s.readPhases ctx q ps [] with
                | (.waits, s) => s
                | (.malformed, s) => s.refuseJob ctx j b 3 0 0
                | (.got phases, s) =>
                  let (n, s) := s.newJob ctx j b false
                  (s.newPhases ctx q n phases).dropNextJob ctx j

/-! ## Launch records (R90, R91, spec 17 R257, R258) -/

def LaunchRec.early (f : LaunchRec) : Bool := f.flags % 2 = 1
def LaunchRec.hasPred (f : LaunchRec) : Bool := f.flags / 2 % 2 = 1
def LaunchRec.isDraw (f : LaunchRec) : Bool := f.flags / 4 % 2 = 1

/-- Whether a record passes the checks of R91, R123 and R257 on its own fields. -/
def LaunchRec.good (f : LaunchRec) (recAddr ncores : Nat) : Bool :=
  f.entry % 8 = 0 && f.counter % 8 = 0 && 1 ≤ f.count && 1 ≤ f.waves && f.waves ≤ 32 && f.tiles ≤ 64
    && 8 ≤ f.regs && f.regs ≤ 256 && f.regs % 8 = 0 && f.scratch % 4096 = 0 && f.scratch ≤ 2 ^ 20
    && 1 ≤ f.cores && f.first + f.cores ≤ ncores && (List.range 32).all (fun b => bankMode f.bankMap b ≠ 3)
    && f.flags < 8 && f.tail = 0 && recAddr % 64 = 0
    && (if f.hasPred then f.pred ≠ 0 && f.pred % 8 = 0 && !f.early else f.pred = 0)
    && (if f.isDraw then
          f.count ≤ 65536 && f.waves = 1 && f.scratch = 0 && f.tiles = 0 && f.reserve % 65536 = 0 && !f.early
        else f.reserve = 0)

/-- The fields of a draw block. -/
def DrawBlk.ofBytes (b : List Byte) : DrawBlk :=
  { table := field b 0 8, area := field b 8 8, passed := field b 0x10 8, overflow := field b 0x18 8
    depth := field b 0x20 8, width := field b 0x28 2, height := field b 0x2A 2, sppCode := field b 0x2C 1
    coarse := field b 0x2D 1, pos := field b 0x2E 1, flags := field b 0x2F 1, maxC := field b 0x30 4
    maxV := field b 0x34 2, maxP := field b 0x36 2, cmp := field b 0x38 1 }

/-- Whether a draw block keeps its table. -/
def DrawBlk.good (d : DrawBlk) (b : List Byte) : Bool :=
  let within := fun (n hi : Nat) => 1 ≤ n && n ≤ hi
  d.table % 128 = 0 && d.area % 65536 = 0 && d.passed % 8 = 0 && d.overflow % 8 = 0 && d.depth % 128 = 0
    && within d.width 16384 && within d.height 16384 && d.sppCode ≤ 3 && d.coarse ≤ 3 && d.pos ≤ 60
    && d.flags < 8 && within d.maxC 65536 && within d.maxV 256 && within d.maxP 512 && d.cmp ≤ 3
    && field b 0x39 7 = 0 && d.spp * d.cw * d.ch ≤ 16 && (d.depth ≠ 0 || (!d.tests && !d.writes))

/-- An entry of the render-target table, and whether it is sound. -/
def Target.ofBytes (b : List Byte) : Target :=
  { base := field b 0 8, format := field b 8 1, blend := field b 9 1 }

def Target.good (t : Target) (b : List Byte) : Bool :=
  t.base % 128 = 0 && field b 0x0A 6 = 0
    && (t.format = 0 || (t.format = 1 && t.blend ≤ 1) || (t.format = 2 && t.blend = 0))

/-- The render-target entries of a launch's bytes, which follow its record and draw block. -/
def targetBytes (bs : List Byte) : List (List Byte) := (List.range 8).map fun i => (bs.drop (128 + 16 * i)).take 16

/-- What is still to be read of a launch: the record, the draw block, the render-target table. -/
def Launch.unread (la : Launch) : Option (Nat × Nat) :=
  match la.bytes with
  | none => some (la.recAddr, 64)
  | some bs =>
    let f := LaunchRec.ofBytes bs
    if !f.isDraw then none
    else if bs.length = 64 then some (la.recAddr + 64, 64)
    else
      let t := field bs 64 8
      if bs.length = 128 && t % 128 = 0 then some (t, 128) else none

/-- Reads what is still to be read of a launch's record; whether all has been read. -/
def State.readRecord (s : State) (l : Nat) : Nat → Bool × State
  | 0 => (true, s)
  | n + 1 =>
    let la := s.launch l
    match la.unread with
    | none => (true, s)
    | some (va, k) =>
      let asid := (s.ctx la.ctx).asid
      match s.readRange { ctx := la.ctx, asid := asid, va := va, who := .record l, r := true } k with
      | (.bytes bs, s) =>
        let bytes := la.bytes.getD [] ++ bs
        let f := LaunchRec.ofBytes bytes
        (s.setLaunch l { la with bytes := some bytes, form := f }).readRecord l n
      | (.fault c why, s) => (false, (s.raiseFault (.record l) asid va c why false).2)
      | (.stall sl, s) => (false, s.addStall sl asid va (.record l) false)

/-- The cores of the part. -/
def State.ncores (s : State) : Nat := s.host.cores0 + s.host.cores1

/-- Whether a launch's own record passes its checks. -/
def State.recordGood (s : State) (l : Nat) : Bool :=
  let la := s.launch l
  la.form.good la.recAddr s.ncores

/-! ## The checks at the first read (R91, spec 17 R257, R258, spec 18 R270) -/

/-- The launch entry at an address: its object and record. -/
def State.entryAt (s : State) (ctx va : Nat) : Option (Obj × EntryRec) :=
  (s.ctx ctx).objs.findSome? fun o =>
    (o.entries.find? fun e => e.kind = 0 && o.textAt + e.text = va).map fun e => (o, e)

/-- The hold-slot entries of an entry record: those that name its place in the entry table, whatever its own first
index and count say, which the loader checks for their range alone (spec 04 R76; log entry 106). -/
def Obj.holdsOf (o : Obj) (e : EntryRec) : List HoldRec :=
  let i := (List.range o.entries.length).find? fun i => o.entries[i]? = some e
  o.holds.filter fun h => some h.entry = i

/-- The rate bits of the blocks of a procedure, read through the object descriptor (spec 04 R71, R73). -/
def State.ratesOf (s : State) (ctx : Nat) (o : Obj) (e : EntryRec) : Nat :=
  let lo := e.text / 64
  let hi := (e.text + e.size + 63) / 64
  (s.tableBytes ctx o Descr.presenceAt lo (hi - lo)).foldl (fun m b => m ||| b.toNat) 0

/-- Whether a procedure holds zwr (spec 18 R276), by its instructions from an address to its end. -/
def State.findsZwr (s : State) (asid hi : Nat) : Nat → Nat → Bool
  | 0, _ => false
  | n + 1, va =>
    let word := fun a : Nat => leNat (s.peek asid a 8)
    let long := hasExt (BitVec.ofNat 64 (word va))
    if hi ≤ va then false
    else
      match decodeParts (word va) (if long then some (word (va + 8)) else none) with
      | ⟨_, some (.ZWR _ _)⟩ => true
      | _ => s.findsZwr asid hi n (va + if long then 16 else 8)

/-- Whether a page can hold records: present, gilt, writable (R270). -/
def State.storePage (s : State) (asid va : Nat) : Bool :=
  let t := tagAsid asid va
  match (s.lookup (s.mapDie t va).1 t va).1 with
  | .leaf _ e _ => (leafAttr e).gilt && (leafAttr e).w && va < 2 ^ 56
  | .absent _ => false

/-- The draw of a record, from its bytes and its entry's tables; none refuses the record. It is live from its
start on. -/
def State.newDraw (s : State) (l : Nat) : Option Draw :=
  let la := s.launch l
  let bs := la.bytes.getD []
  let asid := (s.ctx la.ctx).asid
  let blk := DrawBlk.ofBytes (bs.drop 64)
  let ts := targetBytes bs
  match s.entryAt la.ctx la.form.entry with
  | none => none
  | some (o, e) =>
    let d : Draw :=
      { blk := blk, targets := ts.map Target.ofBytes, holds := o.holdsOf e, start := la.form.entry, size := e.size
        rates := s.ratesOf la.ctx o e, hasZwr := s.findsZwr asid (la.form.entry + e.size) (e.size / 8) la.form.entry
        space := la.form.reserve }
    let slots := (List.range 4).all fun i => d.slotRate (blk.pos + i) = some .V
    let pages := (List.range (la.form.reserve / 65536)).all fun i => s.storePage asid (blk.area + 65536 * i)
    if bs.length = 256 && blk.good (bs.drop 64) && ts.all (fun b => (Target.ofBytes b).good b) && slots && pages
        && e.reserve ≤ la.form.reserve then some d
    else none

/-- Whether a group fits an empty granted core that carries the record's bank map (R91). -/
def LaunchRec.fits (f : LaunchRec) : Bool := ((emptyRoom f.bankMap).place f.needs).isSome

/-- The firmware is told of reserved entries of the region home map that reading a draw's procedure, and its blocks'
rate bits, meets (spec 11 R177). -/
def State.tellCode (s : State) (l : Nat) : State :=
  let la := s.launch l
  match s.entryAt la.ctx la.form.entry with
  | none => s
  | some (o, e) =>
    let n := (e.text + e.size + 63) / 64 - e.text / 64
    (s.tellTable none la.ctx o Descr.presenceAt (e.text / 64) n).tellRange (s.ctx la.ctx).asid la.form.entry e.size

/-- Checks a record that has been read, once: it passes, with its draw, or the launch is refused (R91). One that
has been cancelled is finished in its turn (spec 06 R111). The pages of a draw's area and its procedure are looked
up, and the firmware is told of reserved entries of the region home map that this meets (spec 11 R177). -/
def State.judgeRecord (s : State) (l : Nat) : Bool × State :=
  let la := s.launch l
  let passed := fun s : State => (true, s.setLaunch l { s.launch l with checked := true })
  if la.checked || la.cancelled then (true, s)
  else if !s.recordGood l then (false, s.refuseLaunch l 1 0 0)
  else if la.form.isDraw then
    let s := s.tellRange (s.ctx la.ctx).asid (leNat (((la.bytes.getD []).drop 72).take 8)) la.form.reserve
    let s := s.tellCode l
    match s.newDraw l with
    | none => (false, s.refuseLaunch l 1 0 0)
    | some d => if la.form.fits then passed (s.setDraw l d) else (false, s.refuseLaunch l 2 0 0)
  else if la.form.fits then passed s
  else (false, s.refuseLaunch l 2 0 0)

/-! ## Eligibility (R119, R122, R123) -/

/-- Whether a launch has started and has no pending group (R119). -/
def State.allPlaced (s : State) (l : Nat) : Bool :=
  let la := s.launch l
  let d := s.draw l
  la.phase.finished || (la.phase = .started &&
    (if d.live then
        d.objects = la.form.count && d.elems.all fun e => e.2.rate ≠ .O || e.2.phase ≠ .ready
      else la.pending.isNone))

/-- The launches that stand before one in its queue. -/
def State.earlier (s : State) (l : Nat) : List Nat :=
  let la := s.launch l
  AMap.keys (AMap.findAll s.work.launches fun _ m =>
    m.phase ≠ .absent && m.ctx = la.ctx && m.queue = la.queue && m.parent.isNone && m.order < la.order)

/-- Whether every phase of its job before a launch's own has finished. -/
def State.phasesDone (s : State) (l : Nat) : Bool :=
  let la := s.launch l
  s.work.phases.all fun e => !e.2.live || e.2.parent ≠ la.job || la.jphase ≤ e.1 || e.2.done

/-- Whether a record's predicate is to be read. -/
def State.wantsPred (s : State) (l : Nat) : Bool :=
  let la := s.launch l
  la.phase = .eligible && !la.cancelled && la.form.hasPred && !la.predRead

/-- Whether a launch that stands before one in its queue still has the write of a counter to make at the address of
its predicate: the predicate reads the final count (spec 18 R279). -/
def State.countComes (s : State) (l : Nat) : Bool :=
  let la := s.launch l
  let recs := (s.earlier l).map fun m => (s.launch m).recAddr
  s.work.writes.any fun c =>
    !c.isErr && c.ctx = la.ctx && c.addr = la.form.pred && recs.contains c.recAddr

/-- Reads the predicate of an eligible launch, as an acquire load that names observer C, once no launch before it
has still to write it: 0 skips the launch (R123, spec 18 R279). -/
def State.readPred (s : State) (l : Nat) : State :=
  let la := s.launch l
  if !s.wantsPred l || s.waits (.predicate l) || s.countComes l then s
  else
    let asid := (s.ctx la.ctx).asid
    match s.readHome { ctx := la.ctx, asid := asid, va := la.form.pred, who := .predicate l, obs := 1 } 8 with
    | (.bytes bs, s) =>
      if leNat bs = 0 then s.finishLaunch l .skipped skippedBit
      else s.setLaunch l { s.launch l with predRead := true }
    | (.fault c why, s) => (s.raiseFault (.predicate l) asid la.form.pred c why false).2
    | (.stall sl, s) => s.addStall sl asid la.form.pred (.predicate l) false

/-- A launch becomes eligible; one that has been cancelled finishes at once (spec 06 R111). -/
def State.becomeEligible (s : State) (l : Nat) : State :=
  let (n, s) := s.stamp
  let la := s.launch l
  let s := s.setLaunch l
    { la with phase := .eligible, eligibleAt := n, seen := s.mem.pyramids }
  if la.cancelled then s.finishLaunch l .completed cancelledBit else s.readPred l

/-- LAUNCH_ELIGIBLE: the record is read when the launch's turn comes; a launch of device code leaves the
queue in its order. -/
def execLaunchEligible (launch : Nat) (s : State) : Out :=
  .next <|
    let l := launch
    let la := s.launch l
    if la.phase = .eligible then s.readPred l
    else if la.phase ≠ .queued || s.waits (.record l) then s
    else if la.parent.isSome then
      let x := s.ctx la.ctx
      if x.hw.head? ≠ some l then s
      else
        match s.readRecord l 3 with
        | (false, s) => s
        | (true, s) =>
          let f := LaunchRec.ofBytes (la.bytes.getD [])
          let s := s.setLaunch l { s.launch l with form := f }
          let (ok, s) := (s.setCtx la.ctx { s.ctx la.ctx with hw := x.hw.tail }).judgeRecord l
          if ok then s.becomeEligible l else s
    else
      let before := s.earlier l
      if !(before.all s.allPlaced && s.phasesDone l) then s
      else
        match s.readRecord l 3 with
        | (false, s) => s
        | (true, s) =>
          let (ok, s) := s.judgeRecord l
          let first := before.all fun m => (s.launch m).phase.finished
          if ok && ((s.launch l).form.early || first) then s.becomeEligible l else s

/-- LAUNCH_RING_DRAIN: records of the overflow ring take hardware entries, oldest first (R121). -/
def execLaunchRingDrain (ctx count : Nat) (s : State) : Out :=
  .next <|
    let x := s.ctx ctx
    let n := min count (256 - x.hw.length)
    s.setCtx ctx { x with hw := x.hw ++ x.ringRecs.take n, ringRecs := x.ringRecs.drop n }

/-! ## Starting (R95, spec 17 R259) -/

/-- Starts a draw: its F element, and the objects that the reservation can hold. -/
def State.startDraw (s : State) (l : Nat) (d : Draw) : State :=
  let la := s.launch l
  let asid := tagAsid (s.ctx la.ctx).asid d.blk.area
  let area : StoreArea := { launch := l, asid := asid, base := d.blk.area, size := d.space }
  let s := { s with mem := { s.mem with areas := s.mem.areas ++ [area] } }
  let pyramid := la.seen.find? fun p =>
    p.die = s.dieOfCore la.form.first && p.asid = s.depthAsid l d.blk.depth && p.addr = d.blk.depth
      && p.width = d.blk.width && p.height = d.blk.height
  let s := s.setDraw l { d with live := true, used := d.recSize .F, pyramid := pyramid }
  let (_, s) := s.newElem l { rate := .F } []
  s.moreObjects l

/-- LAUNCH_START: the first round of its groups, after what comes before it on each granted core (R95, spec 07
R124), or the draw. -/
def execLaunchStart (launch : Nat) (s : State) : Out :=
  .next <|
    let l := launch
    let la := s.launch l
    if la.phase ≠ .eligible || s.wantsPred l then s
    else if la.cancelled then s.finishLaunch l .completed cancelledBit
    else
      match s.judgeRecord l with
      | (false, s) => s
      | (true, s) =>
        let s := s.setLaunch l
          { s.launch l with phase := .started, spawnNext := la.form.count, nextCore := la.form.first }
        if la.form.isDraw then s.startDraw l (s.draw l)
        else
          let cores := (List.range la.form.cores).map fun i => la.form.first + i
          (cores.foldl (fun s c => s.offerAhead l c) s).firstRound l (coreGroups * la.form.cores + 1)

/-- SPAWN_AREA_GROW (spec 06 R108). -/
def execSpawnAreaGrow (ctx bytes : Nat) (s : State) : Out :=
  .next <|
    let x := s.ctx ctx
    let s := s.setCtx ctx { x with spawn := { x.spawn with size := x.spawn.size + bytes } }
    { s with host := { s.host with events := s.host.events.filter fun e => e ≠ .spawnArea ctx } }

end Sys2Proof.Machine
end

