-- ==== Sys2Proof/Machine/Loader.lean ====
section
/-!
DEFINITION. The loader: the checks of a code object in their order, the commit of a load, unloading, and
the attestation report (spec 04, spec 01 R12).
-/

namespace Sys2Proof.Machine

open Sys2Proof

/-! ## The object's parts (R69 to R78, R84, R86) -/

/-- An entry of the section table (R70). -/
structure Sect where
  kind  : Nat
  flags : Nat
  log2  : Nat
  zero  : Nat
  off   : Nat
  size  : Nat
  load  : Nat
  deriving DecidableEq, Repr

def Sect.ofBytes (b : List Byte) : Sect :=
  { kind := field b 0 2, flags := field b 2 2, log2 := field b 4 1, zero := field b 5 3, off := field b 8 8
    size := field b 0x10 8, load := field b 0x18 8 }

/-- Records of a size that fill a byte string. -/
def recordsOf (size : Nat) (b : List Byte) : List (List Byte) :=
  (List.range (b.length / size)).map fun i => (b.drop (size * i)).take size

/-- The sections of a file. -/
def sectsOf (f : List Byte) : List Sect :=
  (recordsOf 32 ((f.drop (field f 8 8)).take (32 * field f 6 2))).map Sect.ofBytes

/-- The section of a kind. -/
def sectOf? (ss : List Sect) (kind : Nat) : Option Sect := ss.find? fun x => x.kind = kind

/-- The stored bytes of the section of a kind; none where it is absent. -/
def sectBytes (f : List Byte) (ss : List Sect) (kind : Nat) : List Byte :=
  match sectOf? ss kind with
  | some x => (f.drop x.off).take x.size
  | none => []

/-- The flags that the table of R71 gives a kind. -/
def kindFlags (kind : Nat) : Nat :=
  match kind with
  | 1 => 5 | 2 => 1 | 3 => 3 | 4 => 1 | 5 => 1 | 6 => 1 | _ => 0

def Sect.mapped (x : Sect) : Bool := x.flags % 2 = 1

/-- A zero-terminated string of a table. -/
def stringAt (strings : List Byte) (o : Nat) : List Byte := (strings.drop o).takeWhile fun b => b ≠ 0

/-- Whether bytes are UTF-8, where `need` bytes of a character are still to come and the next lies from lo up to
hi. -/
def utf8From (need lo hi : Nat) : List Byte → Bool
  | [] => need = 0
  | b :: rest =>
    let n := b.toNat
    if need ≠ 0 then lo ≤ n && n ≤ hi && utf8From (need - 1) 0x80 0xBF rest
    else if n < 0x80 then utf8From 0 0x80 0xBF rest
    else if 0xC2 ≤ n && n < 0xE0 then utf8From 1 0x80 0xBF rest
    else if n = 0xE0 then utf8From 2 0xA0 0xBF rest
    else if n = 0xED then utf8From 2 0x80 0x9F rest
    else if 0xE0 ≤ n && n < 0xF0 then utf8From 2 0x80 0xBF rest
    else if n = 0xF0 then utf8From 3 0x90 0xBF rest
    else if n = 0xF4 then utf8From 3 0x80 0x8F rest
    else 0xF0 ≤ n && n < 0xF4 && utf8From 3 0x80 0xBF rest

/-- Whether an offset names a terminated string of UTF-8. Only the strings that a record names are held to R78, not
the rest of the strings section (log entry 106). -/
def goodString (strings : List Byte) (o : Nat) : Bool :=
  (strings.drop o).contains 0 && utf8From 0 0x80 0xBF (stringAt strings o)

/-- A hold-slot entry (R75). -/
def HoldRec.ofBytes (b : List Byte) : HoldRec :=
  { rate := field b 0 1, first := field b 1 1, count := field b 2 1, entry := field b 4 2 }

/-- An entry record (R76). -/
def EntryRec.ofBytes (b : List Byte) : EntryRec :=
  { name := field b 0 4, kind := field b 4 1, spawn := field b 5 1, regs := field b 6 2, text := field b 8 8
    scratch := field b 0x10 4, tiles := field b 0x14 1, waves := field b 0x15 1, reserve := field b 0x18 8
    hold := field b 0x20 4, holds := field b 0x24 4, size := field b 0x28 4 }

/-- A symbol record (R78). -/
structure Sym where
  name    : List Byte
  binding : Nat
  sect    : Nat
  off     : Nat
  size    : Nat
  deriving DecidableEq, Repr

def Sym.ofBytes (strings b : List Byte) : Sym :=
  { name := stringAt strings (field b 0 4), binding := field b 4 1, sect := field b 5 1, off := field b 8 8
    size := field b 0x10 8 }

/-- A relocation record (R78). -/
structure Rel where
  place  : Nat
  sect   : Nat
  kind   : Nat
  sym    : Nat
  addend : Int
  deriving DecidableEq, Repr

def Rel.ofBytes (b : List Byte) : Rel :=
  { place := field b 0 8, sect := field b 8 1, kind := field b 9 1, sym := field b 0x0C 4
    addend := signed64 (field b 0x10 8) }

/-- A code object as its file gives it. -/
structure Parts where
  sects   : List Sect
  entries : List EntryRec
  holds   : List HoldRec
  syms    : List Sym
  rels    : List Rel

def partsOf (f : List Byte) : Parts :=
  let ss := sectsOf f
  let strings := sectBytes f ss 0x0B
  { sects := ss, entries := (recordsOf 48 (sectBytes f ss 7)).map EntryRec.ofBytes
    holds := (recordsOf 8 (sectBytes f ss 6)).map HoldRec.ofBytes
    syms := (recordsOf 24 (sectBytes f ss 9)).map (Sym.ofBytes strings)
    rels := (recordsOf 24 (sectBytes f ss 0x0A)).map Rel.ofBytes }

/-! ## LOAD_FORMAT -/

/-- The header (R69). -/
def goodHeader (f : List Byte) : Bool :=
  let n := field f 6 2
  32 ≤ f.length && field f 0 4 = 0x014F4350 && field f 4 2 = 1 && 1 ≤ n && n ≤ 32 && field f 0x10 8 = f.length
    && field f 0x18 8 = 0 && field f 8 8 + 32 * n ≤ f.length

/-- Whether two ranges meet. -/
def meet2 (a n b m : Nat) : Bool := a < b + m && b < a + n

/-- Whether every pair of a list keeps a symmetric test. -/
def pairwise {α : Type} (p : α → α → Bool) : List α → Bool
  | [] => true
  | x :: rest => rest.all (p x) && pairwise p rest

/-- The section table (R70, R71). A section's alignment is that of its load offset, and a mapped section of size 0
whose load offset lies strictly inside another's range overlaps it (log entry 106). -/
def goodSects (f : List Byte) (ss : List Sect) : Bool :=
  let each := fun x : Sect =>
    1 ≤ x.kind && x.kind ≤ 0x0E && x.flags = kindFlags x.kind && 3 ≤ x.log2 && x.log2 ≤ 16 && x.zero = 0
      && x.off + x.size ≤ f.length && (x.mapped || x.load = 0) && x.load % 2 ^ x.log2 = 0
      && (x.kind ≠ 1 || x.load % 64 = 0)
  let last :=
    match sectOf? ss 0x0E with
    | none => true
    | some x => x.size = 256 && x.off + x.size = f.length
        && ss.all fun y => y.kind = 0x0E || y.off + y.size ≤ x.off
  ss.all each && pairwise (fun a b => a.kind ≠ b.kind) ss && last
    && [1, 4, 5, 7, 8].all (fun k => (sectOf? ss k).isSome)
    && pairwise (fun a b => !meet2 a.load a.size b.load b.size) (ss.filter Sect.mapped)

/-- The tables (R72 to R76). A hold-slot entry of count 0 meets an entry whose range its first slot lies inside, and
one whose entry-table index is not below the entry count breaks the format (log entry 106). -/
def goodTables (f : List Byte) (p : Parts) : Bool :=
  let size := fun k => (sectBytes f p.sects k).length
  let strings := sectBytes f p.sects 0x0B
  let note := sectBytes f p.sects 8
  let live := (recordsOf 40 (sectBytes f p.sects 5)).all fun b => field b 34 6 = 0
  let holdRaw := (recordsOf 8 (sectBytes f p.sects 6)).all fun b => field b 3 1 = 0 && field b 6 2 = 0
  let entryRaw := (recordsOf 48 (sectBytes f p.sects 7)).all fun b => field b 0x16 2 = 0 && field b 0x2C 4 = 0
  let hold := fun h : HoldRec => h.rate ≤ 7 && h.first + h.count ≤ 64 && h.entry < p.entries.length
  let entry := fun e : EntryRec =>
    goodString strings e.name && e.kind ≤ 2 && (e.kind = 1 || e.spawn = 0) && 8 ≤ e.regs && e.regs ≤ 256
      && e.regs % 8 = 0 && e.text % 8 = 0 && e.scratch % 4096 = 0 && e.scratch ≤ 2 ^ 20 && e.tiles ≤ 64
      && 1 ≤ e.waves && e.waves ≤ 32 && e.hold + e.holds ≤ p.holds.length && e.size % 8 = 0 && e.size ≠ 0
      && e.text + e.size ≤ size 1
  note.length = 16 && field note 0x0C 4 = 0 && size 4 = (size 1 + 63) / 64 && size 5 % 40 = 0
    && size 5 / 40 ≤ 4096 && live && size 6 % 8 = 0 && holdRaw && p.holds.all hold
    && pairwise (fun a b => a.entry ≠ b.entry || !meet2 a.first a.count b.first b.count) p.holds
    && size 7 % 48 = 0 && entryRaw && p.entries.all entry
    && (p.entries.filter fun e => e.kind = 2).length ≤ 1

/-- The symbols, the relocations and the firmware headers (R78, R79, R84). A symbol of a section that the object
lacks, a relocation in a section that is not mapped, and an image that is empty, too long or entered outside itself
break the format. A symbol may have any offset and size, and one of a section that is not mapped stands at the base
plus its offset (log entry 106). -/
def goodLinks (f : List Byte) (p : Parts) : Bool :=
  let strings := sectBytes f p.sects 0x0B
  let symBytes := sectBytes f p.sects 9
  let relBytes := sectBytes f p.sects 0x0A
  let sym := fun b : List Byte =>
    goodString strings (field b 0 4) && field b 4 1 ≤ 2 && field b 6 2 = 0
      && (field b 5 1 = 0 || (sectOf? p.sects (field b 5 1)).isSome)
  let rel := fun b : List Byte =>
    let r := Rel.ofBytes b
    1 ≤ r.kind && r.kind ≤ 4 && field b 0x0A 2 = 0 && r.sym < p.syms.length
      && match sectOf? p.sects r.sect with
         | some x => x.mapped && r.place + (if r.kind = 1 then 8 else 4) ≤ x.size
         | none => false
  let fw := fun k : Nat =>
    match sectOf? p.sects k with
    | none => true
    | some _ =>
      let b := sectBytes f p.sects k
      16 ≤ b.length && field b 8 8 = 0 && field b 4 4 ≤ 49152 && 16 + field b 4 4 ≤ b.length
        && field b 0 4 < field b 4 4
  symBytes.length % 24 = 0 && (recordsOf 24 symBytes).all sym && relBytes.length % 24 = 0
    && (recordsOf 24 relBytes).all rel && fw 0x0C && fw 0x0D

/-- The signature section (R86). A reserved value of the algorithm breaks the format (log entry 106). -/
def goodSig (f : List Byte) (p : Parts) : Bool :=
  match sectOf? p.sects 0x0E with
  | none => true
  | some _ =>
    let b := sectBytes f p.sects 0x0E
    field b 0 1 = 1 && field b 1 7 = 0 && field b 0x81 7 = 0 && field b 0xFA 6 = 0

/-! ## Binding (R79, R80) -/

/-- The relocations that fall inside a symbol's body: kind, offset, addend and target name. -/
def Parts.relsIn (p : Parts) (y : Sym) : List (Nat × Nat × Nat × List Byte) :=
  (p.rels.filter fun r => r.sect = y.sect && y.off ≤ r.place && r.place < y.off + y.size).map fun r =>
    (r.kind, r.place - y.off, wrap 64 r.addend, ((p.syms[r.sym]?).map fun t => t.name).getD [])

/-- The address of a defined symbol in this object. -/
def Parts.addrOf (p : Parts) (base : Nat) (y : Sym) : Nat :=
  base + ((sectOf? p.sects y.sect).map fun x => x.load).getD 0 + y.off

/-- What a global or weak symbol would bind in the context. -/
def Parts.boundOf (p : Parts) (f : List Byte) (base : Nat) (y : Sym) : Bound :=
  { name := y.name, weak := y.binding = 2, addr := p.addrOf base y, size := y.size
    body := ((sectBytes f p.sects y.sect).drop y.off).take y.size, rels := p.relsIn y }

/-- Whether two bodies are byte-identical, the order of their relocations aside. -/
def Bound.same (a b : Bound) : Bool :=
  a.size = b.size && a.body = b.body && a.rels.length = b.rels.length
    && a.rels.all fun r => a.rels.count r = b.rels.count r

/-- The symbol of a name that the context has bound, with its object. -/
def Ctx.bound? (x : Ctx) (name : List Byte) : Option (Obj × Bound) :=
  x.objs.findSome? fun o => (o.bound.find? fun b => b.name = name).map fun b => (o, b)

/-- The decision of R80 for a definition. -/
inductive BindTo
  | own
  | shared (o addr : Nat)
  | dup
  deriving DecidableEq, Repr

def Ctx.bindDef (x : Ctx) (b : Bound) : BindTo :=
  match x.bound? b.name with
  | none => .own
  | some (o, e) => if b.same e || (b.weak && e.weak) then .shared o.id e.addr else .dup

/-- The address that a symbol has for the object's references, with the object that defines it where that
is another one; none when no object defines it. Of two definitions of one name within the object the first counts
(log entry 106). -/
def Parts.resolve (p : Parts) (x : Ctx) (f : List Byte) (base : Nat) (y : Sym) : Option (Nat × Option Nat) :=
  let ofDef := fun y : Sym =>
    if y.binding = 0 then (p.addrOf base y, none)
    else
      match x.bindDef (p.boundOf f base y) with
      | .shared o a => (a, some o)
      | .own | .dup => (p.addrOf base y, none)
  if y.sect ≠ 0 then some (ofDef y)
  else
    match p.syms.find? fun t => t.name = y.name && t.sect ≠ 0 && t.binding ≠ 0 with
    | some t => some (ofDef t)
    | none =>
      match x.bound? y.name with
      | some (o, b) => some (b.addr, some o.id)
      | none => if y.binding = 2 then some (0, none) else none

/-- What a relocation writes: the place's address, the bytes, or the failures LOAD_FORMAT and
LINK_RANGE. -/
inductive Patch
  | write (va : Nat) (bytes : List Byte)
  | format
  | range
  deriving DecidableEq, Repr

/-- One relocation (R79). An MSQ32 whose symbol lies in the msq section and whose sum does not is out of range
(log entry 106). -/
def Parts.patch (p : Parts) (base : Nat) (s : Nat) (r : Rel) : Patch :=
  let sect := (sectOf? p.sects r.sect).getD ⟨0, 0, 0, 0, 0, 0, 0⟩
  let place := base + sect.load + r.place
  let v := (s : Int) + r.addend
  let words := fun origin : Int =>
    if (v - origin) % 8 ≠ 0 then Patch.format
    else
      let n := (v - origin) / 8
      if n < -(2 ^ 31) || (2 ^ 31 : Int) ≤ n then Patch.range else Patch.write place (leBytes (wrap 32 n) 4)
  match r.kind with
  | 1 => .write place (leBytes (wrap 64 v) 8)
  | 2 => words place
  | 3 =>
    (match sectOf? p.sects 2 with
      | none => .range
      | some m =>
        let lo := base + m.load
        let n := v - (lo : Nat)
        if n % 8 ≠ 0 then .format
        else if s < lo || lo + m.size ≤ s || n < 0 || (m.size : Int) ≤ n then .range
        else .write place (leBytes n.toNat 4))
  | _ => words ((place : Int) - 8)

/-- The patches of an object's relocations; a symbol that nothing defines gives none. -/
def Parts.patches (p : Parts) (x : Ctx) (f : List Byte) (base : Nat) : List Patch :=
  p.rels.filterMap fun r =>
    match (p.syms[r.sym]?).bind fun y => p.resolve x f base y with
    | some a => some (p.patch base a.1 r)
    | none => none

/-! ## The order of the checks (R81) -/

/-- The ranges that an object maps. -/
def Parts.ranges (p : Parts) (base : Nat) : List (Nat × Nat) :=
  (p.sects.filter Sect.mapped).map fun x => (base + x.load, x.size)

/-- The permissions of a page, bit 0 R, 1 W, 2 X: those that every mapped section with bytes in it has, so that none
goes beyond a section's own (R71; log entry 107). -/
def Parts.pagePerm (p : Parts) (base page : Nat) : Nat :=
  (p.sects.filter fun x => x.mapped && meet2 (base + x.load) x.size (page * 65536) 65536).foldl
    (fun m x => m &&& x.flags) 7

/-- The pages of ranges. -/
def rangePages (rs : List (Nat × Nat)) : List Nat := (rs.flatMap fun r => pagesOf r.1 r.2).eraseDups

/-- Whether a page is mapped: a copy of its leaf or a leaf in memory stands (R71, spec 15 R227). -/
def State.isMapped (s : State) (asid page : Nat) : Bool :=
  let va := page * 65536
  let t := tagAsid asid va
  match (s.lookup (s.mapDie t va).1 t va).1 with
  | .leaf _ _ _ => true
  | .absent _ => false

/-- A page-table level of zeros. -/
def State.zeroTable (s : State) (pa : Nat) : State :=
  { s with mem := { s.mem with
    phys := AMap.keep s.mem.phys fun k _ => !(pa ≤ k && k < pa + 4096)
    poisoned := AMap.keep s.mem.poisoned fun k _ => !(pa / 128 ≤ k && k < pa / 128 + 32) } }

/-- Writes the leaf of a page beneath a table, over the levels that remain, with the levels that it lacks made of the
driver's memory; none where an entry stands already, is malformed, or no memory is left (spec 15 R227, R228; log
entry 107). -/
def State.mapFrom (s : State) (va leaf : Nat) :
    List (Nat × Nat × Nat) → Nat → List Nat → Option (State × List Nat)
  | [], _, _ => none
  | (level, shift, width) :: rest, table, more =>
    let pa := table + 8 * (va / 2 ^ shift % 2 ^ width)
    let e : DWord := BitVec.ofNat 64 (leNat (s.readPhys pa 8))
    if !s.physOk pa || s.badPhys pa then none
    else if level = 4 then if ebits e 0 1 = 0 then some (s.writePhys pa (leBytes leaf 8), more) else none
    else if ebits e 0 1 = 1 then
      if s.malformed level e || ebits e 1 2 ≠ 0 then none
      else s.mapFrom va leaf rest (ebits e 12 40 * 2 ^ 12) more
    else
      match more with
      | [] => none
      | t :: more =>
        if t % 4096 ≠ 0 || !s.physOk t then none
        else ((s.zeroTable t).writePhys pa (leBytes (t + 1) 8)).mapFrom va leaf rest t more

/-- The leaf of a page of the loader: its frame and its permissions (spec 15 R228). -/
def loadLeaf (frame perm : Nat) : Nat := frame * 2 ^ 16 + 8 * perm + 3

/-- Maps pages, each onto the next of the driver's frames; none where one is mapped already or the driver has not
given enough (R71; log entry 107). -/
def State.mapPages (s : State) (asid : Nat) (perm : Nat → Nat) : List Nat → List Nat → List Nat → Option State
  | [], _, _ => some s
  | _ :: _, [], _ => none
  | page :: pages, frame :: frames, tables =>
    if s.isMapped asid page || !s.physOk (frame * 65536) then none
    else
      match s.mapFrom (page * 65536) (loadLeaf frame (perm page)) levels (s.mem.roots.get 0 asid) tables with
      | none => none
      | some (s, tables) => s.mapPages asid perm pages frames tables

/-- Clears the leaf of a page. -/
def State.clearLeaf (s : State) (asid page : Nat) : State :=
  let va := page * 65536
  let t := tagAsid asid va
  match (s.lookup (s.mapDie t va).1 t va).1 with
  | .leaf _ _ pa => s.writePhys pa (leBytes 0 8)
  | .absent _ => s

/-- The lookups of pages, whose copies of the leaves before go: the firmware is told of reserved entries of the
region home map (spec 11 R177). -/
def State.renew (s : State) (asid : Nat) (pages : List Nat) : State :=
  pages.foldl (fun s pg => (s.tellHome asid (pg * 65536)).retranslate asid (pg * 65536) (pg * 65536 + 65536)) s

/-- The mapping of an object's ranges; none where there is no room for it (R71). -/
def State.mapped (s : State) (x : Ctx) (p : Parts) (place : LoadPlace) : Option State :=
  let rs := p.ranges place.base
  if rs.all fun r => r.1 + r.2 ≤ 2 ^ 55 then
    s.mapPages x.asid (p.pagePerm place.base) (rangePages rs) place.frames place.tables
  else none

/-- Whether the engine memory has room for n more bytes of images (log entry 108). -/
def State.engineRoom (s : State) (n : Nat) : Bool :=
  let used := (s.ctxs.map fun e => e.2.tceFw.image.length + e.2.collFw.image.length).sum
  n = 0 || used + n ≤ Config.engineMemory

/-- The engine-firmware image of a kind. -/
def fwImage (f : List Byte) (p : Parts) (kind : Nat) : List Byte :=
  let b := sectBytes f p.sects kind
  (b.drop 16).take (field b 4 4)

/-- The measurement of an object (R86). -/
def measurementOf (f : List Byte) (p : Parts) : List Byte :=
  match sectOf? p.sects 0x0E with
  | some x => shake512 (f.take x.off)
  | none => shake512 f

/-- The context strings of signatures: "PCO" and "ATT". -/
def pcoString : List Byte := [0x50, 0x43, 0x4F]
def attString : List Byte := [0x41, 0x54, 0x54]

/-- The revision of the DZ9, 1.0, and its features (R12, R72). -/
def deviceRev : Nat := 0x0100
def deviceFeatures : Nat := 0

/-- The status of a load: the first failing check of the table (R81). An undefined symbol counts as a reference,
whether a relocation uses it or not (log entry 106). -/
def State.loadStatus (s : State) (x : Ctx) (f : List Byte) (place : LoadPlace) (replaceTrap : Bool) : Nat :=
  let p := partsOf f
  let base := place.base
  let sig := sectBytes f p.sects 0x0E
  let signed : Bool := sig ≠ []
  let note := sectBytes f p.sects 8
  let patches := p.patches x f base
  let tce := fwImage f p 0x0C
  let coll := fwImage f p 0x0D
  let hasFw := (sectOf? p.sects 0x0C).isSome || (sectOf? p.sects 0x0D).isSome
  let defs := p.syms.filter fun y => y.sect ≠ 0 && y.binding ≠ 0
  let key := (sig.drop 0x48).take 57
  let clash := fun (new old : List Byte) => new ≠ [] && old ≠ [] && new ≠ old
  let more := fun (new old : List Byte) => if old = [] then new.length else 0
  if !(goodHeader f && goodSects f p.sects && goodTables f p && goodLinks f p && goodSig f p)
      || patches.contains .format then 1
  else if !signed && (!x.unsigned_ || hasFw) then 2
  else if signed && !((sig.drop 8).take 64 = measurementOf f p
      && ed448Verify ((sig.drop 0x88).take 114) key ((sig.drop 8).take 64) pcoString) then 3
  else if signed && !x.signers.contains key then 4
  else if deviceRev < field note 0 4 then 5
  else if field note 4 4 &&& deviceFeatures ≠ field note 4 4 then 6
  else if (s.mapped x p place).isNone || !s.engineRoom (more tce x.tceFw.image + more coll x.collFw.image) then 7
  else if defs.any fun y => x.bindDef (p.boundOf f base y) = .dup then 8
  else if p.syms.any fun y => (p.resolve x f base y).isNone then 9
  else if patches.contains .range then 10
  else if (p.entries.any fun e => e.kind = 2) && x.trap.isSome && !replaceTrap then 11
  else if clash tce x.tceFw.image || clash coll x.collFw.image then 12
  else 0

/-! ## Commit (R82) -/

/-- Writes bytes of one line where the device keeps them: the cached line, else the frame. -/
def State.poke (s : State) (asid va : Nat) (bs : List Byte) : State :=
  let t := tagAsid asid va
  let sl := s.homeSlice asid va
  match s.findLine sl t (va / 128) with
  | some l => s.writeLine sl l (va % 128) bs
  | none =>
    match (s.lookup (s.dieOfSlice sl) t va).1 with
    | .leaf level e _ => s.writeChannel (leafPa level e va) bs
    | .absent _ => s

/-- Writes bytes that may span lines. -/
def State.pokeAll (s : State) (asid : Nat) (va : Nat) (bs : List Byte) : State :=
  ((cuts va bs.length bs.length).foldl
    (fun a c => ((a.1.poke asid c.1 (a.2.take c.2)), a.2.drop c.2)) (s, bs)).1

/-- The loaded object. -/
def objOfParts (f : List Byte) (p : Parts) (x : Ctx) (base id : Nat) : Obj :=
  let at_ := fun k => ((sectOf? p.sects k).map fun y => base + y.load).getD 0
  let defs := (p.syms.filter fun y => y.sect ≠ 0 && y.binding ≠ 0).map (p.boundOf f base)
  { id := id, base := base, ranges := p.ranges base, textAt := at_ 1
    textSize := (sectBytes f p.sects 1).length, msqAt := at_ 2, msqSize := (sectBytes f p.sects 2).length
    lives := (sectBytes f p.sects 5).length / 40, holds := p.holds, entries := p.entries
    bound := defs.filter fun b => x.bindDef b = .own
    uses := ((p.syms.filterMap fun y => p.resolve x f base y).filterMap fun a => a.2).eraseDups
    hasTrap := p.entries.any fun e => e.kind = 2
    tceFw := (sectOf? p.sects 0x0C).isSome, collFw := (sectOf? p.sects 0x0D).isSome
    measurement := measurementOf f p }

/-- What the object descriptor takes of an object (R71). -/
def descrOf (p : Parts) (base id : Nat) : Descr :=
  let at_ := fun k => ((sectOf? p.sects k).map fun y => base + y.load).getD 0
  { obj := id, textAt := at_ 1, msqAt := at_ 2, dataAt := at_ 3, presenceAt := at_ 4, liveAt := at_ 5, holdAt := at_ 6 }

/-- The firmware of a kind after a commit: the object's, where it carries one and the context has none. -/
def Firmware.install (old : Firmware) (f : List Byte) (p : Parts) (kind id : Nat) : Firmware :=
  if (sectOf? p.sects kind).isNone || old.obj ≠ 0 then old
  else { obj := id, entry := field (sectBytes f p.sects kind) 0 4, image := fwImage f p kind }

/-- The object descriptor of a context has a place from its first commit on, which the context block names: a
free value (spec 16 R252, log entry 107). -/
def State.placeDescr (s : State) (ctx : Nat) : State :=
  if (s.ctx ctx).descr ≠ [] then s
  else
    let (a, s) := s.fresh
    s.localWrite ((s.ctx ctx).block.toNat + 0x400) (leBytes a.toNat 8)

/-- Maps an object's sections and writes their bytes and patches. -/
def State.mapObject (s : State) (x : Ctx) (p : Parts) (file : List Byte) (place : LoadPlace) : State :=
  let base := place.base
  let s := ((s.mapped x p place).getD s).renew x.asid (rangePages (p.ranges base))
  let s := (p.sects.filter Sect.mapped).foldl (fun s y =>
    s.pokeAll x.asid (base + y.load) ((file.drop y.off).take y.size)) s
  (p.patches x file base).foldl (fun s k =>
    match k with
    | .write va bs => s.pokeAll x.asid va bs
    | .format | .range => s) s

/-- LOAD_OBJECT: a refused load leaves no trace; a load that passes every check commits at once. The driver chooses
a base that is a multiple of 64 KiB: with another nothing is loaded (log entry 106). -/
def execLoadObject (ctx : Nat) (file : List Byte) (place : LoadPlace) (replaceTrap : Bool) (s : State) : Out :=
  .next <|
    let x := s.ctx ctx
    let base := place.base
    let st := s.loadStatus x file place replaceTrap
    if base % 65536 ≠ 0 || maxContexts ≤ ctx then s
    else if st ≠ 0 then s.tell (.loaded ctx st)
    else
      let p := partsOf file
      let (id, s) := s.stamp
      let o := objOfParts file p x base id
      let trap := (p.entries.find? fun e => e.kind = 2).map fun e => o.textAt + e.text
      let reused := x.codeRanges.any fun r => meet2 r.1 r.2 o.textAt o.textSize
      let s := if reused then s.dropCode x.asid o.textAt o.textSize else s
      let s := (s.mapObject x p file place).placeDescr ctx
      let slots := s.peek x.asid (descrOf p base id).holdAt (8 * o.holds.length)
      let o := { o with holds := (recordsOf 8 slots).map HoldRec.ofBytes }
      (s.setCtx ctx
        { s.ctx ctx with
          objs := x.objs ++ [o], codeRanges := x.codeRanges ++ [(o.textAt, o.textSize)]
          trap := match trap with | some t => some t | none => x.trap
          descr := x.descr ++ [descrOf p base id]
          tceFw := x.tceFw.install file p 0x0C id, collFw := x.collFw.install file p 0x0D id
          log := shake512 (x.log ++ o.measurement), logCount := x.logCount + 1 }).tell (.loaded ctx 0)

/-! ## Unloading and attestation (R83, R89) -/

/-- The entry address of a launch's record: of one that has not been read yet, the bytes that stand in memory
now (log entry 39). -/
def State.launchEntry (s : State) (l : Nat) : Nat :=
  let la := s.launch l
  match la.bytes with
  | some bs => field bs 0 8
  | none => leNat (s.peek (s.ctx la.ctx).asid la.recAddr 8)

/-- Whether an object is busy: another binds to it, or unfinished work uses one of its entries or its firmware. Groups
still to be spawned, waves that run in its text, as in its trap handler, and matrix programs use its entries. -/
def State.busy (s : State) (ctx : Nat) (o : Obj) : Bool :=
  let holds := fun va : Nat => o.textAt ≤ va && va < o.textAt + o.textSize
  let fw := o.tceFw || o.collFw
  (s.ctx ctx).objs.any (fun p => p.id ≠ o.id && p.uses.contains o.id)
    || (s.work.launches.any fun e =>
      e.2.ctx = ctx && (e.2.phase = .queued || e.2.phase = .eligible || e.2.phase = .started)
        && (fw || holds (s.launchEntry e.1)))
    || (s.work.groups.any fun e => e.2.phase ≠ .absent && e.2.ctx = ctx && holds e.2.entry)
    || (s.work.units.any fun e => e.2.live && e.2.ctx = ctx && (holds e.2.pc.toNat || holds e.2.resume.toNat))
    || (s.cores.any fun e => e.2.pool.any fun r => (s.launch r.launch).ctx = ctx && holds r.entry)
    || ((s.ctx ctx).savedPool.any fun r => holds r.entry)
    || (s.cores.any fun e => (e.2.msq.running && e.2.msq.ctx = ctx && e.2.msq.obj = o.id)
          || e.2.msq.starts.any fun m => m.ctx = ctx && m.obj = o.id)
    || ((s.ctx ctx).savedMsq.any fun m => m.obj = o.id) || ((s.ctx ctx).savedStarts.any fun m => m.obj = o.id)
    || (s.ctx ctx).collQs.any fun e => e.2.cmds.any fun c => c.fw.obj = o.id

/-- The firmware of a kind after an object has gone: that of another object with the same image, or none. -/
def Firmware.without (old : Firmware) (id : Nat) (left : List Obj) (has : Obj → Bool) : Firmware :=
  if old.obj ≠ id then old
  else
    match left.find? has with
    | some o => { old with obj := o.id }
    | none => {}

/-- UNLOAD_OBJECT: the bindings and the mappings of the object go with it. -/
def execUnloadObject (ctx obj : Nat) (s : State) : Out :=
  .next <|
    let x := s.ctx ctx
    match x.objs.find? fun o => o.id = obj with
    | none => s
    | some o =>
      let s := s.tellRecords ctx 0
      if s.busy ctx o then s.tell (.unloaded ctx true)
      else
        let left := x.objs.filter fun p => p.id ≠ obj
        let inText := fun va : Nat => o.textAt ≤ va && va < o.textAt + o.textSize
        let pages := rangePages o.ranges
        let s := (pages.foldl (fun s pg => s.clearLeaf x.asid pg) s).renew x.asid pages
        (s.setCtx ctx
          { s.ctx ctx with
            objs := left, descr := x.descr.filter fun d => d.obj ≠ obj, trap := x.trap.filter fun t => !inText t
            tceFw := x.tceFw.without obj left fun p => p.tceFw
            collFw := x.collFw.without obj left fun p => p.collFw }).tell (.unloaded ctx false)

/-- The bytes of a report up to its signature. -/
def State.reportBody (s : State) (x : Ctx) (nonce : List Byte) : List Byte :=
  leBytes 1 8 ++ nonce ++ identityKey ++ leBytes 0 7 ++ s.host.secMeasure ++ s.host.dispMeasure
    ++ x.log ++ leBytes x.logCount 8 ++ leBytes x.asid 8

/-- ATTESTATION_REPORT. -/
def execAttestationReport (ctx : Nat) (nonce : List Byte) (s : State) : Out :=
  .next <|
    let body := s.reportBody (s.ctx ctx) nonce
    if nonce.length ≠ 64 then s
    else s.tell (.report (body ++ identitySign body attString ++ leBytes 0 6))

end Sys2Proof.Machine
end

