-- ==== Sys2Proof/Machine/Faults.lean ====
section
/-!
DEFINITION. What the firmware does about a fault, and the starvation of stalled fills (spec 12 R195 to
R198, spec 07 R117, R130, spec 15 R240, R243, R244).
-/

namespace Sys2Proof.Machine

open Sys2Proof

/-- The fault that the firmware holds under a number. -/
def State.faultNum (s : State) (id : Nat) : Option FaultRec := s.mem.faults.find? fun f => f.id = id

/-- The firmware is done with a fault. -/
def State.dropFault (s : State) (id : Nat) : State :=
  { s with mem := { s.mem with faults := s.mem.faults.filter fun f => f.id ≠ id } }

/-- Whether the firmware holds a fault of a waiter. -/
def State.faultOf (s : State) (w : Waiter) : Bool := s.mem.faults.any fun f => f.who = w

/-- Sets the status of an instruction of a unit that is outstanding. -/
def State.setStatus (s : State) (u seq : Nat) (st : LogStatus) : State :=
  let w := s.unit u
  s.setUnit u { w with pend := w.pend.map fun p : Pend => if p.seq = seq then { p with status := st } else p }

/-- The saved or stopping group of a unit is no longer kept from returning by its fetch fault. -/
def State.fetchGoesOn (s : State) (u : Nat) : State :=
  let gi := (s.unit u).group
  s.setGroup gi { s.group gi with fetchHeld := false }

/-! ## A fault that the firmware resolves -/

/-- The faulted lanes of an instruction replay once every fault of it is resolved (R197). -/
def State.resolveUnit (s : State) (u seq : Nat) : State :=
  match (s.unit u).pend.find? fun p => p.seq = seq with
  | none => s
  | some p =>
    if p.status ≠ .raised || s.faultOf (.unit u seq) then s
    else if p.leader then s.leaderRetry u seq
    else (((s.setStatus u seq .resolved).replay u 8).deliver u).endLeft u

/-- A resolved fault's access is made again, or can be. -/
def State.resolveFault (s : State) : Waiter → State
  | .unit u seq => s.resolveUnit u seq
  | .fetch u => s.fetchGoesOn u
  | .msq c => s.setMsq c { s.msq c with held := false }
  | .copy c num =>
    let k := s.core c
    s.setCore c { k with copies := k.copies.map fun p : Copy =>
      if p.num = num then { p with held := false } else p }
  | .counter num =>
    ({ s with work := { s.work with writes := s.work.writes.map fun w : CtrWrite =>
      if w.num = num then { w with held := false } else w } }).flushWrites
  | .target l _ => s.resumeDraw l
  | .outside n => s.retryOutside n
  | .job _ | .record _ | .predicate _ | .coll _ _ _ | .dispatch => s

/-- FAULT_RESOLVE: no soft error is ever resolved (R195, R244). -/
def execFaultResolve (id : Nat) (s : State) : Out :=
  .next <|
    match s.faultNum id with
    | none => s
    | some f => if f.cause = .ecc then s else (s.dropFault id).resolveFault f.who

/-! ## A fault that the firmware does not resolve -/

/-- A saved group that has no unit any more is dropped, but for one whose saved engines have still to
run (spec 08 R139). -/
def State.dropEmpty (s : State) (gi : Nat) : State :=
  if s.unitsOf gi = [] && (s.group gi).phase = .saved && !s.savedEngines gi then s.dropSaved gi else s

/-- The code of a fetch fault: 0x15 for a soft error in the bytes fetched, and 0x12 for any other, an entry of a
page table or of the region home map that cannot be corrected included (R244). -/
def fetchCode (c : DFault) (why : Absence) : Nat := if c = .ecc && why ≠ .damaged then 0x15 else 0x12

/-- The faulting wave takes FETCH at its trap entry, or its group terminates (R130). -/
def State.declineFetch (s : State) (u : Nat) (c : DFault) (why : Absence) : State :=
  let s := s.fetchGoesOn u
  let w := s.unit u
  if !w.live then s
  else
    let gi := w.group
    let s := s.enterHandler u (BitVec.ofNat 32 (fetchCode c why)) w.pc (s.group gi).fetchInst
    s.dropEmpty gi

/-- A counter or error-record write is not made (R117). -/
def State.declineWrite (s : State) (num : Nat) (c : DFault) : State :=
  match s.work.writes.find? fun w => w.num = num with
  | none => s
  | some w =>
    let s := { s with work := { s.work with writes := s.work.writes.filter fun x => x.num ≠ num } }
    let s := if w.isErr then s
      else s.recordError w.job
        { status := 6, group := 0, addr := w.recAddr, tcause := c.code, tpc := w.addr, tinst := 0, count := 0 }
    s.flushWrites

/-- A job whose structure cannot be read is refused; one whose entry cannot be read has no error record,
and its entry is passed over (R116, R117). -/
def State.declineJob (s : State) (ctx q va : Nat) (c : DFault) : State :=
  match s.nextJob ctx q with
  | none => s
  | some j =>
    match j.read with
    | [] => (s.writeHead ctx j).dropNextJob ctx j
    | r :: _ => s.refuseJob ctx j r.2 6 c.code va

/-- A launch whose record or predicate cannot be read is refused (R91, R117, R123). -/
def State.declineLaunch (s : State) (l : Nat) (phase : LaunchPhase) (va : Nat) (c : DFault) : State :=
  let la := s.launch l
  if la.phase ≠ phase then s
  else
    let x := s.ctx la.ctx
    (s.setCtx la.ctx { x with hw := x.hw.filter fun n => n ≠ l }).refuseLaunch l 6 c.code va

/-- The access of a draw is dropped, a read or a write as its fault says; the job's error record takes FAULT_FATAL
with the object's index (spec 19 R291). Its %tpc and %tinst are free values (log entry 6). -/
def State.declineTarget (s : State) (l object va : Nat) (write : Bool) (c : DFault) : State :=
  let d := s.draw l
  if !d.live then s
  else
    let s := s.setDraw l { d with dropped := d.dropped ++ [(va, write)] }
    let la := s.launch l
    let (pc, s) := s.fresh
    let (inst, s) := s.fresh
    (s.recordError la.job
      { status := 5, group := object, addr := la.recAddr, tcause := c.code, tpc := pc.toNat
        tinst := inst.toNat, count := 0 }).resumeDraw l

/-- A store that a unit has left behind takes a fault which is not resolved: its faulted lanes are not performed, and
its group ends as without a trap entry, or, where it is gone, its job records the error (log entry 112). -/
def State.declineLeft (s : State) (u seq num : Nat) (c : DFault) : State :=
  let w := s.unit u
  let la := s.launch w.launch
  let (inst, pc) := ((w.pend.find? fun p => p.seq = seq).map fun p =>
    (firstWord p.op, BitVec.ofNat 64 p.pc)).getD (0, 0)
  let pend := w.pend.filterMap fun p =>
    if p.seq ≠ seq then some p
    else if p.todo = [] then none
    else some { p with faulted := [], status := LogStatus.clear }
  let s := s.setUnit u { w with pend := pend }
  let s :=
    if (s.group w.group).phase = .absent then
      s.recordError la.job
        { status := 5, group := num, addr := la.recAddr, tcause := c.code, tpc := pc.toNat, tinst := inst.toNat
          count := 0 }
    else s.terminate w.group 5 (BitVec.ofNat 32 c.code) pc inst
  (s.replay u 8).endLeft u

/-- The faults of an instruction are not resolved: its other lanes go on, and so do the replays that it held
back (spec 12 R195, R198). -/
def State.declineUnit (s : State) (u seq : Nat) (c : DFault) : State :=
  let leads := (s.unit u).pend.any fun p => p.seq = seq && p.leader
  let gi := (s.unit u).group
  let s := { s with mem := { s.mem with
    faults := s.mem.faults.filter fun f => f.who ≠ Waiter.unit u seq
    peerOut := s.mem.peerOut.filter fun m => !(leads && m.who = Waiter.unit u 0) } }
  match (s.unit u).left with
  | some num => (s.declineLeft u seq num c).dropEmpty gi
  | none => (((s.setStatus u seq .declined).replay u 8).deliver u).dropEmpty gi

/-- A fault of an access from outside is not resolved: another device is told of it. -/
def State.declineOutside (s : State) (num : Nat) (cause : DFault) : State :=
  match s.mem.outs.find? fun r => r.num = num with
  | none => s
  | some r => ((s.dropOut num).reply r.node r.id (faultReply cause)).nextOutside r.node

/-- What becomes of an access whose fault is not resolved. -/
def State.declineFault (s : State) (f : FaultRec) : State :=
  match f.who with
  | .unit u seq => s.declineUnit u seq f.cause
  | .fetch u => s.declineFetch u f.cause f.why
  | .msq c => s.msqStop c (BitVec.ofNat 32 f.cause.code)
  | .copy c num => s.stopCopy c num f.cause
  | .job n => s.declineJob (n / 16) (n % 16) f.va f.cause
  | .record l => s.declineLaunch l .queued f.va f.cause
  | .predicate l => s.declineLaunch l .eligible f.va f.cause
  | .counter num => s.declineWrite num f.cause
  | .coll ctx die q => s.collFail ctx die q f.cause.code
  | .target l object => s.declineTarget l object f.va f.write f.cause
  | .outside n => s.declineOutside n f.cause
  | .dispatch => s

/-- FAULT_DELIVER. -/
def execFaultDeliver (id : Nat) (s : State) : Out :=
  .next <|
    match s.faultNum id with
    | none => s
    | some f => (s.dropFault id).declineFault f

/-! ## Starvation (R240) -/

/-- The starvation limit in slice cycles. -/
def State.starveAfter (s : State) : Nat :=
  if s.mem.starvation = 0 || 16777216 < s.mem.starvation then 16777216 else s.mem.starvation

/-- The lanes of an instruction that wait at a stall take a fault. -/
def State.failUnit (s : State) (t : Stall) (u seq : Nat) (cause : DFault) (hit : LaneReq → Bool) : State :=
  match (s.unit u).pend.find? fun p => p.seq = seq with
  | none => s
  | some p =>
    let (n, s) := s.raiseFault t.who t.asid t.addr cause .other t.write
    let p := { p with faulted := p.faulted ++ if p.leader then [] else p.todo.filter hit
                      todo := if p.leader then [] else p.todo.filter fun r => !hit r
                      order := if p.status = LogStatus.clear || p.leader then n else p.order
                      status := LogStatus.raised, cause := cause }
    let w := s.unit u
    s.setUnit u { w with pend := w.pend.map fun q : Pend => if q.seq = seq then p else q }

/-- The wait of a program at a stall fails: the fetch of a word takes FETCH (spec 22 R313), and an error record
is dropped (R328). -/
def State.failMsq (s : State) (t : Stall) (c : Nat) (cause : DFault) : State :=
  let m := s.msq c
  if m.errRec.isSome then s.setMsq c { m.stopped with errRec := none }
  else
    let cause := if m.fresh || m.inWord then cause else .fetch
    (s.raiseFault t.who t.asid t.addr cause .other t.write).2

/-- The wait of a copy at a stall fails; a report is dropped (spec 23 R344). -/
def State.failCopy (s : State) (t : Stall) (c num : Nat) (cause : DFault) : State :=
  match ((s.core c).copy? num).filter fun p => p.report.isSome with
  | some p => s.leaveCopy c p
  | none => (s.raiseFault t.who t.asid t.addr cause .other t.write).2

/-- An access that waits takes a fault: its fill has stalled for the limit (R240), or its request to a peer has had
no answer (R243). The fetch of an extension word keeps the first word, which was fetched (spec 03 R41). `hit` says
which lanes of an instruction wait there. -/
def State.failStall (s : State) (t : Stall) (cause : DFault) (hit : LaneReq → Bool) : State :=
  let s := { s with mem := { s.mem with stalls := s.mem.stalls.filter fun x => x ≠ t } }
  let s' := (s.raiseFault t.who t.asid t.addr cause .other t.write).2
  match t.who with
  | .unit u seq => s.failUnit t u seq cause hit
  | .fetch u => if s.ready u then s.fetchFault u t.addr cause .other t.inst else s
  | .counter num =>
    { s' with work := { s'.work with writes := s'.work.writes.map fun w : CtrWrite =>
      if w.num = num then { w with held := true } else w } }
  | .msq c => s.failMsq t c cause
  | .copy c num => s.failCopy t c num cause
  | .outside n =>
    if s.mem.outs.any fun r => r.num = n && r.node.isSome then s'.declineOutside n cause else s'
  | .job _ | .record _ | .predicate _ | .coll _ _ _ | .target _ _ => s'
  | .dispatch => s

/-- The lanes of a unit's instruction whose access reaches a line first. -/
def State.onLine (s : State) (t : Stall) (r : LaneReq) : Bool :=
  match t.who with
  | .unit u seq =>
    match (s.unit u).pend.find? fun p => p.seq = seq with
    | some p => s.reqVa u p.op r / 128 = t.va
    | none => false
  | _ => false

/-- GILT_STARVATION: the fills of a slice that have stalled for the limit. -/
def execGiltStarvation (slice : Nat) (s : State) : Out :=
  .next <|
    let late := s.mem.stalls.filter fun t =>
      t.place = .slice slice && t.start + s.starveAfter ≤ (s.slice slice).cycle
    late.foldl (fun s t => s.failStall t .starved (s.onLine t)) s

end Sys2Proof.Machine
end

