-- ==== Sys2Proof/Machine/HostEvents.lean ====
section
/-!
DEFINITION. Bring-up, the register window, and the accesses of the host and of peers (spec 00 R8, R9,
spec 11 R180, spec 14 R216, R224, spec 15 R243, spec 16).
-/

namespace Sys2Proof.Machine

open Sys2Proof

/-! ## Bring-up (R249) -/

/-- DEVICE_RESET: the device leaves reset in RESET; memory stays (log entry 27). -/
def execDeviceReset (s : State) : Out :=
  .next
    { State.reset with
      mem := { phys := s.mem.phys, poisoned := s.mem.poisoned }
      agenda := s.agenda, freeCount := s.freeCount, seq := s.seq }

/-- Whether the security islands accept a firmware image: its signature, by the key that they hold, is over its
measurement (spec 04 R88; the context string is empty, log entry 12). -/
def firmwareOk (image signature : List Byte) : Bool :=
  ed448Verify signature (leBytes Config.firmwareKey.toNat 57) (shake512 image) []

/-- SECURE_BOOT: a device in RESET goes to SECURE_BOOT; there the security firmware is verified
(spec 04 R88). -/
def execSecureBoot (image signature : List Byte) (s : State) : Out :=
  .next <|
    let h := s.host
    match h.bringUp with
    | .reset => { s with host := { h with bringUp := .secureBoot } }
    | .secureBoot =>
      if firmwareOk image signature then
        { s with host := { h with bringUp := .fwWait, secMeasure := shake512 image } }
      else { s with host := { h with bringUp := .failed, cause := 1 } }
    | .fwWait | .training | .ready | .failed => s

/-- The dispatch-firmware image that the registers name: bytes of host memory (R251). -/
def State.fwBytes (s : State) : List Byte := s.readPhys (2 ^ 51 + s.host.fwAddr.toNat) s.host.fwSize.toNat

/-- FIRMWARE_LOAD: a refused image leaves the state in FW_WAIT with cause 2. -/
def execFirmwareLoad (value : BitVec 32) (point number : List Byte) (s : State) : Out :=
  .next <|
    let h := s.host
    if h.bringUp ≠ .fwWait || value ≠ 1 then s
    else if firmwareOk s.fwBytes (point ++ number) then
      { s with host := { h with bringUp := .training, cause := 0, dispMeasure := shake512 s.fwBytes } }
    else { s with host := { h with cause := 2 } }

/-- Whether counts are those of a part (R3, R4, R9). -/
def TrainResult.within (r : TrainResult) : Bool :=
  r.cores0 ≤ 192 && r.cores1 ≤ 192 && r.slices0 ≤ 64 && r.slices1 ≤ 64 && r.chans0 ≤ 32 && r.chans1 ≤ 32
    && r.ports ≤ 18

/-- What the management firmware sets at bring-up: the node, the routes and exports (R253, R254), the roots of
ASID 0, the starvation limit and the low-water marks. -/
def State.manage (s : State) (r : TrainResult) : State :=
  let m := s.mem
  let s := { s with mem := { m with
    node := r.node, exports := r.exports
    routes := r.routes.foldl (fun t (p : BitVec 22 × Nat) => AMap.set t 0 p.1.toNat (p.2 + 1)) m.routes
    roots := m.roots.set 0 0 r.root0, homeRoots := m.homeRoots.set 0 0 r.homeRoot0
    starvation := r.starvation } }
  (s.setDie 0 { s.die 0 with lowWater := r.lowWater0 }).setDie 1 { s.die 1 with lowWater := r.lowWater1 }

/-- TRAINING: causes 3 to 5 fail; else the counts are set and the device is READY. -/
def execTraining (r : TrainResult) (s : State) : Out :=
  .next <|
    let h := s.host
    if h.bringUp ≠ .training then s
    else if 3 ≤ r.cause.toNat && r.cause.toNat ≤ 5 then
      { s with host := { h with bringUp := .failed, cause := r.cause.toNat } }
    else if r.cause = 0 && TrainResult.within r then
      ({ s with host := { h with
        bringUp := .ready, cores0 := r.cores0, cores1 := r.cores1, slices0 := r.slices0
        slices1 := r.slices1, chans0 := r.chans0, chans1 := r.chans1, ports := r.ports } }).manage r
    else s

/-! ## The register window (R251) -/

/-- The code of a state of bring-up (R249). -/
def BringUp.code : BringUp → Nat
  | .reset => 0 | .secureBoot => 1 | .fwWait => 2 | .training => 3 | .ready => 4 | .failed => 15

/-- The bring-up register: the state, and the cause in bits 15:8 where it is held (R249). -/
def HostState.register (h : HostState) : Nat := h.bringUp.code + 256 * h.cause

/-- The context of a doorbell or control page, and the offset in the page. -/
def barPage (off : Nat) : Nat × Nat := (off % 2 ^ 24 / 4096, off % 4096)

/-- What the host reads at a register's offset in the BAR; every other offset, and a doorbell, reads 0. -/
def State.barRead (s : State) (off : Nat) : Nat :=
  let (n, o) := barPage off
  if off = 0 then s.host.register
  else if off = 8 then s.host.fwAddr.toNat
  else if off = 0x10 then s.host.fwSize.toNat
  else if off / 2 ^ 24 = 2 && o = 0 then (s.ctx n).block.toNat
  else if off / 2 ^ 24 = 2 && o = 8 then (s.ctx n).enabled.toNat
  else 0

/-- REGISTER_WRITE: the image's address and size; other offsets ignore writes (R251). -/
def execRegisterWrite (off : Nat) (value : DWord) (s : State) : Out :=
  .next <|
    if off = 0x8 then { s with host := { s.host with fwAddr := value } }
    else if off = 0x10 then { s with host := { s.host with fwSize := value.setWidth 32 } }
    else s

/-! ## Operating points (spec 00 R7, R8) -/

/-- Whether a class-0 queue holds unfinished work. -/
def State.classZero (s : State) : Bool :=
  (s.ctxs.any fun e => e.2.inbox.any fun j => j.cls = 0)
    || s.work.jobs.any fun e => e.2.cls = 0 &&
      (let l := s.work.jobLevels.get {} e.1; l.live && !l.done)

/-- Whether a core holds a class-0 wave. -/
def State.coreZero (s : State) (c : Nat) : Bool :=
  s.work.units.any fun e => e.2.live && e.2.core = c && s.isResident e.1 && s.classOf e.2.launch = 0

/-- Whether the power manager keeps an island at its nominal point (R7). -/
def State.nominal (s : State) (i : Island) : Bool :=
  s.classZero &&
    match i with
    | .dispatch _ | .bridge _ => true
    | .slice sl => (s.slice sl).table.any fun e => e.cls = 0
    | .coreVector c | .coreMatrix c => s.coreZero c
    | .channel _ | .port _ | .collective _ | .hostModule _ | .security _ => false

/-- The operating point of an island: the nominal one, 0, where the power manager keeps it there, else the point
that was last set. -/
def State.pointOf (s : State) (i : Island) : Nat :=
  match islandIndex i with
  | some n => if s.nominal i then 0 else s.host.points.get 0 n
  | none => 0

/-- ISLAND_OPERATING_POINT: speed alone changes (R8). -/
def execIslandOperatingPoint (island : Island) (point : Nat) (s : State) : Out :=
  .next <|
    match islandIndex island with
    | none => s
    | some n => { s with host := { s.host with points := s.host.points.set 0 n point } }

/-! ## Accesses of the host (R247) -/

/-- One piece of a host access, within a line: under the leaf that maps its frame in ASID 0, else at its
channel. -/
def State.hostPiece (s : State) (pa : Nat) (acc : OutAcc) : State :=
  match s.frameVa pa, acc with
  | some va, .read n => s.outsideAccess none pa 0 va 0 (.read n)
  | some va, .write bs => s.outsideAccess none pa 0 va 0 (.write bs)
  | none, .read n =>
    s.reply none pa (if s.mem.poisoned.get false (pa / 128) then .ecc else .data (s.readPhys pa n))
  | none, .write bs => (s.writeChannel pa bs).reply none pa (.data [])

/-- HOST_ACCESS: offset o of the range is physical address o. -/
def execHostAccess (off : Nat) (acc : OutAcc) (s : State) : Out :=
  .next <|
    match acc with
    | .read n =>
      if s.localEnd < off + n then s
      else (cuts off n n).foldl (fun s c => s.hostPiece c.1 (.read c.2)) s
    | .write bs =>
      if s.localEnd < off + bs.length then s
      else
        ((cuts off bs.length bs.length).foldl (fun a c =>
          (a.1.hostPiece c.1 (.write (a.2.take c.2)), a.2.drop c.2)) (s, bs)).1

/-! ## The Ibene link (R253, R254) -/

/-- Whether an export entry grants an access. -/
def exportGrants (e : Export) : PeerAcc → Bool
  | .read _ | .wait _ _ _ _ _ _ | .cancel _ => e.r
  | .write _ => e.w
  | .atomic _ _ _ _ _ => e.r && e.w
  | .fetch _ => e.x

/-- An access of another device: the export table gives its ASID; one without a match is refused. -/
def State.serve (s : State) (node : BitVec 22) (id key va : Nat) (obs : BitVec 5) (acc : PeerAcc) : State :=
  match s.mem.exports.find? fun e => e.node = node && e.key = key with
  | none => s.reply (some node) id .perm
  | some e =>
    if exportGrants e acc then s.outsideAccess (some node) id e.asid va obs acc
    else s.reply (some node) id .perm

/-- A request that has been sent takes its answer. -/
def State.putAnswer (s : State) (id : Nat) (r : PeerReply) : State :=
  let up := fun m : PeerMsg => if m.id = id then { m with answer := some r } else m
  { s with mem := { s.mem with peerOut := s.mem.peerOut.map up } }

/-- Whether a message asks for the cancel of a wait. -/
def PeerMsg.cancels (m : PeerMsg) : Bool := match m.acc with | .cancel _ => true | _ => false

/-- An answer to a request of the device: the access that waits for it is made again. The end of a wait that stands
at the other device ends it here: where its wave has not taken the registration's answer yet, in its place. -/
def State.answered (s : State) (id : Nat) (r : PeerReply) : State :=
  match s.mem.peerOut.find? fun m => m.id = id with
  | some m =>
    if m.cancels then s.dropPeer id
    else if m.answer.isNone then (s.putAnswer id r).endStallsAt (.peer id)
    else
      match m.answer, r with
      | some .parked, .status _ => s.putAnswer id r
      | _, _ => s
  | none =>
    match r, s.mem.peerWaits.find? fun w => w.id = id && w.ended.isNone with
    | .status n, some w => s.peerWake w.token n
    | _, _ => s

/-- PEER_ACCESS. -/
def execPeerAccess (node : BitVec 22) (id key : Nat) (msg : PeerMsgIn) (s : State) : Out :=
  .next <|
    match msg with
    | .access va obs acc => s.serve node id key va obs acc
    | .answer r => s.answered id r

/-- The slice cycles after which a request without an answer fails (spec 15 R243). -/
def peerLimit : Nat := 4194304

/-- PEER_TIMEOUT: what waits for the answer takes PEER_UNREACHABLE. -/
def execPeerTimeout (id : Nat) (s : State) : Out :=
  .next <|
    match s.mem.peerOut.find? fun m => m.id = id && m.answer.isNone with
    | none => s
    | some m =>
      if (s.slice m.slice).cycle < m.start + peerLimit then s
      else
        let ts := s.mem.stalls.filter fun t => t.place = .peer id
        ts.foldl (fun s t => s.failStall t .unreachable fun r => r.lane = m.lane) (s.dropPeer id)

/-- PEER_PATH_LOSS: the waits that stand at the node end with status 1, those too whose waves have not taken their
registration's answer yet (spec 14 R224, spec 16 R253). -/
def execPeerPathLoss (node : BitVec 22) (s : State) : Out :=
  .next <|
    let s := { s with mem := { s.mem with routes := s.mem.routes.set 0 node.toNat 0 } }
    let answered := s.mem.peerOut.filter fun m => m.node = node && m.answer = some .parked
    let s := answered.foldl (fun s m => s.putAnswer m.id (.status 1)) s
    let lost := s.mem.peerWaits.filter fun w => w.node = node && w.ended.isNone
    lost.foldl (fun s w => s.peerWake w.token 1) s

/-! ## Host writes to host memory (spec 11 R180, spec 14 R216) -/

/-- The slices, ASIDs and lines that hold, or watch, a physical line: a copy holds the frame that it was filled from
or has been given, and a watched line without a copy that of its leaf. -/
def State.namesOf (s : State) (pa : Nat) : List (Nat × Nat × Nat) :=
  let cached := (s.allLines.filter fun x => x.2.frame.any fun f => f / 128 = pa / 128).map fun x =>
    (x.1, x.2.asid, x.2.va)
  let watched := s.mem.slices.flatMap fun e =>
    (e.2.table ++ e.2.spilled.map fun p => p.entry).map fun m => (e.1, m.asid, m.va / 128)
  let here := fun x : Nat × Nat × Nat =>
    (s.findLine x.1 x.2.1 x.2.2).isNone
      && match (s.lookup (s.dieOfSlice x.1) x.2.1 (x.2.2 * 128)).1 with
         | .leaf level e _ =>
           !leafPeer e && !leafFrameless e && leafPa level e (x.2.2 * 128) / 128 = pa / 128
         | .absent _ => false
  cached ++ watched.eraseDups.filter here

/-- A slice drops its copy of a line after a write of some of its bytes, fetches it again under its present leaf, and
re-evaluates its monitor entries, against the bytes written where it cannot hold it (spec 15 R231, R232). -/
def State.refetch (s : State) (pa lo n : Nat) (x : Nat × Nat × Nat) : State :=
  let s := s.soil x.2.1 (x.2.2 * 128 + lo) n
  let written : Line :=
    { asid := x.2.1, va := x.2.2, data := s.readPhys (pa / 128 * 128) 128, dirty := false, held := false
      ctx := 0, attr := {}, retain := false, stream := false, poison := false, leaf := 0, used := 0, alloc := 0 }
  match s.findLine x.1 x.2.1 x.2.2 with
  | none => s.reevaluate x.1 written lo n
  | some l =>
    match (s.dropLine x.1 l.asid l.va).fill x.1 { ctx := l.ctx, asid := l.asid, va := l.va * 128 } with
    | (.line sl l, s) => s.reevaluate sl l lo n
    | (_, s) => s.reevaluate x.1 written lo n

/-- A host write of bytes within a line: dirty copies go to host memory first. -/
def State.hostWritePiece (s : State) (pa : Nat) (bs : List Byte) : State :=
  let names := s.namesOf pa
  let s := names.foldl (fun s x =>
    match s.findLine x.1 x.2.1 x.2.2 with
    | some l => if l.dirty then s.writeFrame (pa / 128 * 128) l else s
    | none => s) s
  names.foldl (fun s x => s.refetch pa (pa % 128) bs.length x) (s.writeChannel pa bs)

/-- HOST_WRITE_INVALIDATE, on host memory alone. -/
def execHostWriteInvalidate (pa : Nat) (bytes : List Byte) (s : State) : Out :=
  .next <|
    if pa / 2 ^ 51 ≠ 1 then s
    else
      ((cuts pa bytes.length bytes.length).foldl (fun a c =>
        (a.1.hostWritePiece c.1 (a.2.take c.2), a.2.drop c.2)) (s, bytes)).1

end Sys2Proof.Machine
end

