-- ==== Sys2Proof/Machine/LaneCompare.lean ====
section
/-!
DEFINITION. Comparisons, major 0x0F (spec 08 R138).
-/

namespace Sys2Proof.Machine

open Sys2Proof

/-- a equals b (R138). -/
def execCmpEq (h : Head) (f : AluF) (s : State) : Out :=
  .next (laneCmp (.CMP_EQ h f) h f .eq s)

/-- a differs from b (R138). -/
def execCmpNe (h : Head) (f : AluF) (s : State) : Out :=
  .next (laneCmp (.CMP_NE h f) h f .ne s)

/-- a is less than b (R138). -/
def execCmpLt (h : Head) (f : AluF) (s : State) : Out :=
  .next (laneCmp (.CMP_LT h f) h f .lt s)

/-- a is at most b (R138). -/
def execCmpLe (h : Head) (f : AluF) (s : State) : Out :=
  .next (laneCmp (.CMP_LE h f) h f .le s)

/-- a is greater than b (R138). -/
def execCmpGt (h : Head) (f : AluF) (s : State) : Out :=
  .next (laneCmp (.CMP_GT h f) h f .gt s)

/-- a is at least b (R138). -/
def execCmpGe (h : Head) (f : AluF) (s : State) : Out :=
  .next (laneCmp (.CMP_GE h f) h f .ge s)

/-- Neither operand is a NaN (R138). -/
def execCmpNum (h : Head) (f : AluF) (s : State) : Out :=
  .next (laneCmp (.CMP_NUM h f) h f .num s)

/-- Either operand is a NaN (R138). -/
def execCmpNan (h : Head) (f : AluF) (s : State) : Out :=
  .next (laneCmp (.CMP_NAN h f) h f .nan s)

end Sys2Proof.Machine
end

