-- ==== Sys2Proof/Machine/LaneFloat.lean ====
section
/-!
DEFINITION. Floating point in the lanes, majors 0x18 to 0x1B (spec 10 R156 to R161).
-/

namespace Sys2Proof.Machine

open Sys2Proof

/-- a + b (R159). -/
def execFadd (h : Head) (f : AluF) (s : State) : Out :=
  .next (lane2 (.FADD h f) h f ((fmtOf f).add (rndOf f)) s)

/-- a − b (R159). -/
def execFsub (h : Head) (f : AluF) (s : State) : Out :=
  .next (lane2 (.FSUB h f) h f ((fmtOf f).sub (rndOf f)) s)

/-- a × b (R159). -/
def execFmul (h : Head) (f : AluF) (s : State) : Out :=
  .next (lane2 (.FMUL h f) h f ((fmtOf f).mul (rndOf f)) s)

/-- a × b + c with one rounding (R159). -/
def execFfma (h : Head) (f : AluF) (s : State) : Out :=
  .next (lane3 (.FFMA h f) h f ((fmtOf f).fma (rndOf f)) s)

/-- minimumNumber (R159). -/
def execFmin (h : Head) (f : AluF) (s : State) : Out :=
  .next (lane2 (.FMIN h f) h f ((fmtOf f).minMax false) s)

/-- maximumNumber (R159). -/
def execFmax (h : Head) (f : AluF) (s : State) : Out :=
  .next (lane2 (.FMAX h f) h f ((fmtOf f).minMax true) s)

/-- The sign cleared, even of a NaN (R157, R159). -/
def execFabs (h : Head) (f : AluF) (s : State) : Out :=
  .next (lane1 (.FABS h f) h f (fun a => pure (a % 2 ^ (fmtOf f).signBit)) s)

/-- The sign inverted, even of a NaN (R157, R159). -/
def execFneg (h : Head) (f : AluF) (s : State) : Out :=
  .next (lane1 (.FNEG h f) h f (fun a => pure (a ^^^ 2 ^ (fmtOf f).signBit)) s)

/-- An integral value in the mod direction (R159). -/
def execFrnd (h : Head) (f : AluF) (s : State) : Out :=
  .next (lane1 (.FRND h f) h f ((fmtOf f).rint (rndOf f)) s)

/-- The ordering code in one register (R149, R159). -/
def execFcmp (h : Head) (f : AluF) (s : State) : Out :=
  .next (laneOp (.FCMP h f) h f.d false (fun w l => (fmtOf f).order
    (w.val f.ty.wide f.a.toNat l) (w.srcOrImm f f.b f.ty.wide l)) s)

/-- A conversion from the type in c (R160, R161). -/
def execFcvt (h : Head) (f : AluF) (s : State) : Out :=
  .next (laneOp (.FCVT h f) h f.d f.ty.wide (fun w l =>
    let src := (Ty.ofCode (f.c.toNat % 16)).getD .n32
    convert f.ty src (rndOf f) (w.val src.wide f.a.toNat l % 2 ^ src.bits)) s)

/-- FP64 a + b (R159). -/
def execDadd (h : Head) (f : AluF) (s : State) : Out :=
  .next (lane2 (.DADD h f) h f ((fmtOf f).add (rndOf f)) s)

/-- FP64 a − b (R159). -/
def execDsub (h : Head) (f : AluF) (s : State) : Out :=
  .next (lane2 (.DSUB h f) h f ((fmtOf f).sub (rndOf f)) s)

/-- FP64 a × b (R159). -/
def execDmul (h : Head) (f : AluF) (s : State) : Out :=
  .next (lane2 (.DMUL h f) h f ((fmtOf f).mul (rndOf f)) s)

/-- FP64 a × b + c with one rounding (R159). -/
def execDfma (h : Head) (f : AluF) (s : State) : Out :=
  .next (lane3 (.DFMA h f) h f ((fmtOf f).fma (rndOf f)) s)

/-- Two half-precision fused multiply-adds; an immediate stands in both halves (R159). -/
def execHfma2 (h : Head) (f : AluF) (s : State) : Out :=
  .next (laneOp (.HFMA2 h f) h f.d false (fun w l =>
    let a := w.val false f.a.toNat l
    let b := w.val false f.b.toNat l
    let c := if f.imm then f.immVal f.c % 2 ^ 16 * (2 ^ 16 + 1) else w.val false f.c.toNat l
    let lo := (fmtOf f).fma (rndOf f) (a % 2 ^ 16) (b % 2 ^ 16) (c % 2 ^ 16)
    let hi := (fmtOf f).fma (rndOf f) (a / 2 ^ 16) (b / 2 ^ 16) (c / 2 ^ 16)
    { val := hi.val * 2 ^ 16 + lo.val, flags := hi.flags ||| lo.flags }) s)

end Sys2Proof.Machine
end

