-- ==== Sys2Proof/Machine/LaneInt.lean ====
section
/-!
DEFINITION. Integer arithmetic in the lanes, major 0x0C (spec 10 R151, R152).
-/

namespace Sys2Proof.Machine

open Sys2Proof

/-- An add or subtract through a carry mask in the c field: every lane's sum from the exact value `g`
of a, b and the carry in, and the carry out where `out` holds of it. -/
def laneCarry (i : Instr) (h : Head) (f : AluF) (g : Nat → Nat → Nat → Int) (out : Int → Bool)
    (s : State) : State :=
  s.lanesOp i fun w =>
    let k := w.kreg f.c.toNat
    let v := fun l => g (w.val f.ty.wide f.a.toNat l) (w.val f.ty.wide f.b.toNat l) (inMask k l).toNat
    let a := w.acting h
    let w' := w.writeRes f.ty.wide f.d.toNat
      ((lanesOf a).map fun l => (l, pure (wrap f.ty.width (v l))))
    w'.setKLanes f.c.toNat a (maskOf fun l => out (v l))

/-- a + b, wrapping, or clamped with .sat (R151). -/
def execAdd (h : Head) (f : AluF) (s : State) : Out :=
  .next (lane2 (.ADD h f) h f (fun a b => intRes f.ty (f.mod.getLsbD 0) (f.ty.toInt a + f.ty.toInt b)) s)

/-- a − b, wrapping, or clamped with .sat (R151). -/
def execSub (h : Head) (f : AluF) (s : State) : Out :=
  .next (lane2 (.SUB h f) h f (fun a b => intRes f.ty (f.mod.getLsbD 0) (f.ty.toInt a - f.ty.toInt b)) s)

/-- a + b + carry; the carry mask is read before it is written (R152). -/
def execAddc (h : Head) (f : AluF) (s : State) : Out :=
  .next (laneCarry (.ADDC h f) h f (fun a b c => (a : Int) + b + c)
    (fun v => (2 : Int) ^ f.ty.width ≤ v) s)

/-- a − b − borrow; the borrow mask is read before it is written (R152). -/
def execSubb (h : Head) (f : AluF) (s : State) : Out :=
  .next (laneCarry (.SUBB h f) h f (fun a b c => (a : Int) - b - c)
    (fun v => v < 0) s)

/-- −a modulo 2^W (R151). -/
def execNeg (h : Head) (f : AluF) (s : State) : Out :=
  .next (lane1 (.NEG h f) h f (fun a => intRes f.ty false (-(f.ty.toInt a))) s)

/-- The absolute value modulo 2^W (R151). -/
def execAbs (h : Head) (f : AluF) (s : State) : Out :=
  .next (lane1 (.ABS h f) h f (fun a => intRes f.ty false (f.ty.toInt a).natAbs) s)

/-- The smaller by type (R151). -/
def execMin (h : Head) (f : AluF) (s : State) : Out :=
  .next (lane2 (.MIN h f) h f (fun a b => pure (intMin f.ty a b)) s)

/-- The larger by type (R151). -/
def execMax (h : Head) (f : AluF) (s : State) : Out :=
  .next (lane2 (.MAX h f) h f (fun a b => pure (intMax f.ty a b)) s)

/-- The low W bits of the product (R151). -/
def execMulLo (h : Head) (f : AluF) (s : State) : Out :=
  .next (lane2 (.MUL_LO h f) h f (fun a b => intRes f.ty false ((a : Int) * b)) s)

/-- The high W bits of the exact product (R151). -/
def execMulHi (h : Head) (f : AluF) (s : State) : Out :=
  .next (lane2 (.MUL_HI h f) h f (fun a b => pure (mulHi f.ty a b)) s)

/-- a × b + c modulo 2^W (R151). -/
def execMad (h : Head) (f : AluF) (s : State) : Out :=
  .next (lane3 (.MAD h f) h f (fun a b c => intRes f.ty false ((a : Int) * b + c)) s)

end Sys2Proof.Machine
end

