-- ==== Sys2Proof/Machine/LaneLogic.lean ====
section
/-!
DEFINITION. Logic, shifts and bit fields in the lanes, major 0x0D (spec 10 R153, R154).
-/

namespace Sys2Proof.Machine

open Sys2Proof

/-- Bitwise and (R153). -/
def execAnd (h : Head) (f : AluF) (s : State) : Out :=
  .next (lane2 (.AND h f) h f (fun a b => pure (a &&& b)) s)

/-- Bitwise or (R153). -/
def execOr (h : Head) (f : AluF) (s : State) : Out :=
  .next (lane2 (.OR h f) h f (fun a b => pure (a ||| b)) s)

/-- Bitwise exclusive or (R153). -/
def execXor (h : Head) (f : AluF) (s : State) : Out :=
  .next (lane2 (.XOR h f) h f (fun a b => pure (a ^^^ b)) s)

/-- Bitwise complement (R153). -/
def execNot (h : Head) (f : AluF) (s : State) : Out :=
  .next (lane1 (.NOT h f) h f (fun a => pure (2 ^ f.ty.width - 1 - a)) s)

/-- Shift left; a count of W or more gives 0 (R153). -/
def execShl (h : Head) (f : AluF) (s : State) : Out :=
  .next (laneOp (.SHL h f) h f.d f.ty.wide (fun w l => pure (shlRes f.ty.width (w.val f.ty.wide f.a.toNat l) (w.srcOrImm f f.b false l))) s)

/-- Shift right with zeros; a count of W or more gives 0 (R153). -/
def execShr (h : Head) (f : AluF) (s : State) : Out :=
  .next (laneOp (.SHR h f) h f.d f.ty.wide (fun w l => pure (shrRes f.ty.width (w.val f.ty.wide f.a.toNat l) (w.srcOrImm f f.b false l))) s)

/-- Shift right with copies of the sign (R153). -/
def execSra (h : Head) (f : AluF) (s : State) : Out :=
  .next (laneOp (.SRA h f) h f.d f.ty.wide (fun w l => pure (sraRes f.ty.width (w.val f.ty.wide f.a.toNat l) (w.srcOrImm f f.b false l))) s)

/-- Extracts a field (R154). -/
def execBfe (h : Head) (f : AluF) (s : State) : Out :=
  .next (laneOp (.BFE h f) h f.d f.ty.wide (fun w l => pure (bfeRes f.ty
    (w.val f.ty.wide f.a.toNat l) (w.val false f.b.toNat l) (w.srcOrImm f f.c false l))) s)

/-- Inserts a field into the destination (R154). -/
def execBfi (h : Head) (f : AluF) (s : State) : Out :=
  .next (laneOp (.BFI h f) h f.d f.ty.wide (fun w l => pure (bfiRes f.ty.width (w.val f.ty.wide f.d.toNat l)
    (w.val f.ty.wide f.a.toNat l) (w.val false f.b.toNat l) (w.srcOrImm f f.c false l))) s)

/-- The number of set bits, in one register (R149, R153). -/
def execPopc (h : Head) (f : AluF) (s : State) : Out :=
  .next (laneOp (.POPC h f) h f.d false (fun w l => pure (popCount f.ty.width (w.val f.ty.wide f.a.toNat l))) s)

/-- The zero bits above the highest set bit (R153). -/
def execClz (h : Head) (f : AluF) (s : State) : Out :=
  .next (laneOp (.CLZ h f) h f.d false (fun w l => pure (clzRes f.ty.width (w.val f.ty.wide f.a.toNat l))) s)

/-- The zero bits below the lowest set bit (R153). -/
def execCtz (h : Head) (f : AluF) (s : State) : Out :=
  .next (laneOp (.CTZ h f) h f.d false (fun w l => pure (ctzRes f.ty.width (w.val f.ty.wide f.a.toNat l))) s)

/-- The bits in reverse order (R153). -/
def execBrev (h : Head) (f : AluF) (s : State) : Out :=
  .next (lane1 (.BREV h f) h f (fun a => pure (brevRes f.ty.width a)) s)

end Sys2Proof.Machine
end

