-- ==== Sys2Proof/Machine/LaneMove.lean ====
section
/-!
DEFINITION. Moves and addresses, major 0x0E (spec 10 R155).
-/

namespace Sys2Proof.Machine

open Sys2Proof

/-- A copy of a register or pair (R155). -/
def execMov (h : Head) (f : AluF) (s : State) : Out :=
  .next (lane1 (.MOV h f) h f pure s)

/-- The immediate, or the pattern in the extension word (R150, R155). -/
def execMovi (h : Head) (f : AluF) (s : State) : Out :=
  .next (laneOp (.MOVI h f) h f.d f.ty.wide (fun _ _ => pure (f.immVal f.a)) s)

/-- a where the lane of kC is set, else b (R155). -/
def execSel (h : Head) (f : AluF) (s : State) : Out :=
  .next (laneOp (.SEL h f) h f.d f.ty.wide (fun w l => pure
    (if inMask (w.kreg f.c.toNat) l then w.val f.ty.wide f.a.toNat l else w.val f.ty.wide f.b.toNat l)) s)

/-- a + (b << s) modulo 2^64 as a pair (R155). -/
def execLea (h : Head) (f : AluF) (s : State) : Out :=
  .next (laneOp (.LEA h f) h f.d true (fun w l => pure
    ((w.val true f.a.toNat l + w.val false f.b.toNat l * 2 ^ f.mod.toNat) % 2 ^ 64)) s)

/-- The relocated address in the extension word (R155). -/
def execLeaSymbol (h : Head) (f : AluF) (s : State) : Out :=
  .next (laneOp (.LEA_SYMBOL h f) h f.d true (fun _ _ => pure ((f.ext.getD 0).toNat)) s)

end Sys2Proof.Machine
end

