-- ==== Sys2Proof/Machine/Masks.lean ====
section
/-!
DEFINITION. Mask instructions, major 0x08 (spec 08 R136, R137): wave-wide under R133.
-/

namespace Sys2Proof.Machine

open Sys2Proof

/-- kD = kA and kB (R136). -/
def execKand (h : Head) (f : AluF) (s : State) : Out :=
  .next (s.waveOp (.KAND h f) h fun s =>
    let w := s.unit s.cur
    (s.setUnit s.cur (w.setK f.d.toNat (w.kreg f.a.toNat &&& w.kreg f.b.toNat))).advance (.KAND h f))

/-- kD = kA or kB (R136). -/
def execKor (h : Head) (f : AluF) (s : State) : Out :=
  .next (s.waveOp (.KOR h f) h fun s =>
    let w := s.unit s.cur
    (s.setUnit s.cur (w.setK f.d.toNat (w.kreg f.a.toNat ||| w.kreg f.b.toNat))).advance (.KOR h f))

/-- kD = kA xor kB (R136). -/
def execKxor (h : Head) (f : AluF) (s : State) : Out :=
  .next (s.waveOp (.KXOR h f) h fun s =>
    let w := s.unit s.cur
    (s.setUnit s.cur (w.setK f.d.toNat (w.kreg f.a.toNat ^^^ w.kreg f.b.toNat))).advance (.KXOR h f))

/-- kD = not kA (R136). -/
def execKnot (h : Head) (f : AluF) (s : State) : Out :=
  .next (s.waveOp (.KNOT h f) h fun s =>
    let w := s.unit s.cur
    (s.setUnit s.cur (w.setK f.d.toNat (~~~(w.kreg f.a.toNat)))).advance (.KNOT h f))

/-- kD = kA (R136). -/
def execKmovKK (h : Head) (f : AluF) (s : State) : Out :=
  .next (s.waveOp (.KMOV_K_K h f) h fun s =>
    let w := s.unit s.cur
    (s.setUnit s.cur (w.setK f.d.toNat (w.kreg f.a.toNat))).advance (.KMOV_K_K h f))

/-- kD = the leader's vA (R136). -/
def execKmovKV (h : Head) (f : AluF) (s : State) : Out :=
  .next (s.waveOp (.KMOV_K_V h f) h fun s =>
    let w := s.unit s.cur
    (s.setUnit s.cur (w.setK f.d.toNat (w.reg f.a.toNat (w.leader h)))).advance (.KMOV_K_V h f))

/-- The lanes of the acting set receive kA (R136). -/
def execKmovVK (h : Head) (f : AluF) (s : State) : Out :=
  .next (s.waveOp (.KMOV_V_K h f) h fun s =>
    let w := s.unit s.cur
    (s.setUnit s.cur (w.setDest (w.destMask h) false f.d.toNat ((w.kreg f.a.toNat).toNat))).advance (.KMOV_V_K h f))

/-- The population count of kA (R136). -/
def execKpop (h : Head) (f : AluF) (s : State) : Out :=
  .next (s.waveOp (.KPOP h f) h fun s =>
    let w := s.unit s.cur
    (s.setUnit s.cur (w.setDest (w.destMask h) false f.d.toNat (popCount 32 (w.kreg f.a.toNat).toNat))).advance (.KPOP h f))

/-- The lowest set lane of kA, or 32 (R136). -/
def execKffs (h : Head) (f : AluF) (s : State) : Out :=
  .next (s.waveOp (.KFFS h f) h fun s =>
    let w := s.unit s.cur
    (s.setUnit s.cur (w.setDest (w.destMask h) false f.d.toNat (ctzRes 32 (w.kreg f.a.toNat).toNat))).advance (.KFFS h f))

/-- kD = x (R137). -/
def execXget (h : Head) (f : AluF) (s : State) : Out :=
  .next (s.waveOp (.XGET h f) h fun s =>
    let w := s.unit s.cur
    (s.setUnit s.cur (w.setK f.d.toNat (w.x))).advance (.XGET h f))

/-- x = kA and the own-mask (R137). -/
def execXset (h : Head) (f : AluF) (s : State) : Out :=
  .next (s.waveOp (.XSET h f) h fun s =>
    let w := s.unit s.cur
    (s.setUnit s.cur { w with x := w.kreg f.a.toNat &&& w.o }).advance (.XSET h f))

/-- x = x and kA (R137). -/
def execXand (h : Head) (f : AluF) (s : State) : Out :=
  .next (s.waveOp (.XAND h f) h fun s =>
    let w := s.unit s.cur
    (s.setUnit s.cur { w with x := w.x &&& w.kreg f.a.toNat }).advance (.XAND h f))

end Sys2Proof.Machine
end

