-- ==== Sys2Proof/Machine/Sweeps.lean ====
section
/-!
DEFINITION. Sweeps, major 0x37 (spec 10 R166 to R168).
-/

namespace Sys2Proof.Machine

open Sys2Proof

/-- The bytes of a sweep's element (R166). -/
def sweepBytes (t : Ty) : Nat := if t = .f16 || t = .bf16 then 2 else 4

/-- The function of a sweep (R167). -/
def sweepFn (o : SweepOp) (t : Ty) (x y z : Nat) : Res :=
  match t.fmt? with
  | some f =>
    match o with
    | .add => f.add .rn x y
    | .sub => f.sub .rn x y
    | .mul => f.mul .rn x y
    | .fma => f.fma .rn x y z
    | .min => f.minMax false x y
    | .max => f.minMax true x y
    | .mov => pure x
  | none =>
    match o with
    | .add => pure (wrap 32 ((x : Int) + y))
    | .sub => pure (wrap 32 ((x : Int) - y))
    | .mul => pure (wrap 32 ((x : Int) * y))
    | .fma => pure (wrap 32 ((x : Int) * y + z))
    | .min => pure (intMin t x y)
    | .max => pure (intMax t x y)
    | .mov => pure x

/-- Whether a segment's bytes lie outside the group's scratchpad. -/
def Group.outside (g : Group) (o : Int) (n : Nat) : Bool := o < 0 || (g.scratch : Int) < o + n

/-- One segment: every read precedes every write (R167). -/
def State.sweepSegment (s : State) (g : Group) (op : SweepOp) (t : Ty) (d a b : Nat) : Word × State :=
  let e := sweepBytes t
  let at_ := fun (o i : Nat) => leNat (s.readScratch g (o + i * e) e)
  let rs := (List.range 32).map fun i =>
    sweepFn op t (at_ a i) (if op = .mov then 0 else at_ b i) (at_ d i)
  (rs.foldl (fun m r => m ||| r.flags) 0, s.writeScratch g d (rs.flatMap fun r => leBytes r.val e))

/-- The segments of a sweep, in order. -/
def State.sweepFrom (s : State) (g : Group) (op : SweepOp) (f : SweepF) (d a b : Int) :
    Nat → Word → Word × State
  | 0, flags => (flags, s)
  | n + 1, flags =>
    let (fl, s) := s.sweepSegment g op f.ty d.toNat a.toNat b.toNat
    s.sweepFrom g op f (d + f.stepD.toInt) (a + f.stepA.toInt) (b + f.stepB.toInt) n (flags ||| fl)

/-- A sweep: the range check of every segment, then the segments, which are all written as it issues (R166 to
R168). -/
def State.sweep (s : State) (i : Instr) (h : Head) (op : SweepOp) (f : SweepF) : State :=
  s.issue i fun s =>
    let w := s.unit s.cur
    if w.acting h = 0 then s.advance i
    else
      let g := s.group w.group
      let e := sweepBytes f.ty
      let off := fun r : BitVec 8 => (w.reg r.toNat (lowestLane (w.acting h))).toNat
      let d := off f.d
      let a := off f.a
      let b := if op = .mov then a else off f.b
      let stepB := if op = .mov then f.stepA else f.stepB
      let wrong := fun (o : Nat) (step : BitVec 16) =>
        o % e ≠ 0 || (List.range f.count.toNat).any fun j =>
          g.outside (o + j * step.toInt) (32 * e) || ((o : Int) + j * step.toInt) % e ≠ 0
      if wrong d f.stepD || wrong a f.stepA || wrong b stepB then s.trap i causeAlign
      else
        let (flags, s) := s.sweepFrom g op f d a b f.count.toNat 0
        let w := s.unit s.cur
        (s.setUnit s.cur { w with fflags := w.fflags ||| flags }).advance i

/-- x + y over segments of the scratchpad (R167). -/
def execSwpAdd (h : Head) (f : SweepF) (s : State) : Out :=
  .next (s.sweep (.SWP_ADD h f) h .add f)

/-- x - y over segments of the scratchpad (R167). -/
def execSwpSub (h : Head) (f : SweepF) (s : State) : Out :=
  .next (s.sweep (.SWP_SUB h f) h .sub f)

/-- x × y over segments of the scratchpad (R167). -/
def execSwpMul (h : Head) (f : SweepF) (s : State) : Out :=
  .next (s.sweep (.SWP_MUL h f) h .mul f)

/-- x × y + z over segments of the scratchpad (R167). -/
def execSwpFma (h : Head) (f : SweepF) (s : State) : Out :=
  .next (s.sweep (.SWP_FMA h f) h .fma f)

/-- min(x, y) over segments of the scratchpad (R167). -/
def execSwpMin (h : Head) (f : SweepF) (s : State) : Out :=
  .next (s.sweep (.SWP_MIN h f) h .min f)

/-- max(x, y) over segments of the scratchpad (R167). -/
def execSwpMax (h : Head) (f : SweepF) (s : State) : Out :=
  .next (s.sweep (.SWP_MAX h f) h .max f)

/-- x over segments of the scratchpad (R167). -/
def execSwpMov (h : Head) (f : SweepF) (s : State) : Out :=
  .next (s.sweep (.SWP_MOV h f) h .mov f)

end Sys2Proof.Machine
end

