-- ==== Sys2Proof/Machine/TransformPipe.lean ====
section
/-!
DEFINITION. The transform pipe and the decoders, major 0x36 (spec 23 R347 to R351).
-/

namespace Sys2Proof.Machine

open Sys2Proof

/-- 1 / a (R348). -/
def execTrcp (h : Head) (f : AluF) (s : State) : Out :=
  .next (pipe1 (.TRCP h f) h f trcp s)

/-- 1 / √a (R348). -/
def execTrsq (h : Head) (f : AluF) (s : State) : Out :=
  .next (pipe1 (.TRSQ h f) h f trsq s)

/-- √a (R348). -/
def execTsqrt (h : Head) (f : AluF) (s : State) : Out :=
  .next (pipe1 (.TSQRT h f) h f tsqrt s)

/-- a / b (R348). -/
def execTdiv (h : Head) (f : AluF) (s : State) : Out :=
  .next (pipe2 (.TDIV h f) h f tdiv s)

/-- 2^a (R348). -/
def execTexp2 (h : Head) (f : AluF) (s : State) : Out :=
  .next (pipe1 (.TEXP2 h f) h f texp2 s)

/-- log2 a (R348). -/
def execTlog2 (h : Head) (f : AluF) (s : State) : Out :=
  .next (pipe1 (.TLOG2 h f) h f tlog2 s)

/-- sin a (R348). -/
def execTsin (h : Head) (f : AluF) (s : State) : Out :=
  .next (pipe1 (.TSIN h f) h f tsin s)

/-- cos a (R348). -/
def execTcos (h : Head) (f : AluF) (s : State) : Out :=
  .next (pipe1 (.TCOS h f) h f tcos s)

/-- The quotient truncated toward zero (R349). -/
def execIdiv (h : Head) (f : AluF) (s : State) : Out :=
  .next (pipe2 (.IDIV h f) h f (idiv f.ty) s)

/-- Run-length pairs expanded into 32 bytes (R351). -/
def execDecRle (h : Head) (f : AluF) (s : State) : Out :=
  .next (decoderOp (.DEC_RLE h f) h f (fun w l => decRle
    ((List.range 8).map fun j => (w.byteOf f.a.toNat l (2 * j), w.byteOf f.a.toNat l (2 * j + 1)))
    (w.val false f.b.toNat l)) s)

/-- Eight bit fields of a 64-bit stream (R351). -/
def execDecBits (h : Head) (f : AluF) (s : State) : Out :=
  .next (decoderOp (.DEC_BITS h f) h f (fun w l => decBits (w.val true f.a.toNat l) (w.val false f.b.toNat l)) s)

/-- Eight scaled E2M1 codes (R351). -/
def execDecFp4 (h : Head) (f : AluF) (s : State) : Out :=
  .next (decoderOp (.DEC_FP4 h f) h f (fun w l => decFp4 (w.val false f.a.toNat l) (w.val false f.b.toNat l)) s)

end Sys2Proof.Machine
end

