-- ==== Sys2Proof/Machine/Dispatch.lean ====
section
/-!
DEFINITION. The meaning of every instruction of spec/opcode_table.json: one direct call each.
-/

namespace Sys2Proof.Machine

open Sys2Proof

/-- The meaning of an instruction: of the current unit (State.cur), of the current matrix sequencer
(State.curMsq), or an event of the device. -/
def exec (i : Instr) (s : State) : Host.Outcome State Fault Refusal :=
  match i with
  | .NOP h => Sys2Proof.Machine.execNop h s
  | .EXIT h => Sys2Proof.Machine.execExit h s
  | .TRAP h code => Sys2Proof.Machine.execTrap h code s
  | .BRK h code => Sys2Proof.Machine.execBrk h code s
  | .TRET h => Sys2Proof.Machine.execTret h s
  | .SAFEPT h idx => Sys2Proof.Machine.execSafept h idx s
  | .IDEM_BEGIN h => Sys2Proof.Machine.execIdemBegin h s
  | .IDEM_END h => Sys2Proof.Machine.execIdemEnd h s
  | .MEET h token => Sys2Proof.Machine.execMeet h token s
  | .ICINV h base len => Sys2Proof.Machine.execIcinv h base len s
  | .IFENCE h => Sys2Proof.Machine.execIfence h s
  | .BRA h off => Sys2Proof.Machine.execBra h off s
  | .CALL h link off => Sys2Proof.Machine.execCall h link off s
  | .JMP h target => Sys2Proof.Machine.execJmp h target s
  | .RET h link => Sys2Proof.Machine.execRet h link s
  | .BRX h index off => Sys2Proof.Machine.execBrx h index off s
  | .FORK h k live join off => Sys2Proof.Machine.execFork h k live join off s
  | .SYSR h d sp => Sys2Proof.Machine.execSysr h d sp s
  | .SYSW h sp r => Sys2Proof.Machine.execSysw h sp r s
  | .KAND h f => Sys2Proof.Machine.execKand h f s
  | .KOR h f => Sys2Proof.Machine.execKor h f s
  | .KXOR h f => Sys2Proof.Machine.execKxor h f s
  | .KNOT h f => Sys2Proof.Machine.execKnot h f s
  | .KMOV_K_K h f => Sys2Proof.Machine.execKmovKK h f s
  | .KMOV_K_V h f => Sys2Proof.Machine.execKmovKV h f s
  | .KMOV_V_K h f => Sys2Proof.Machine.execKmovVK h f s
  | .KPOP h f => Sys2Proof.Machine.execKpop h f s
  | .KFFS h f => Sys2Proof.Machine.execKffs h f s
  | .XGET h f => Sys2Proof.Machine.execXget h f s
  | .XSET h f => Sys2Proof.Machine.execXset h f s
  | .XAND h f => Sys2Proof.Machine.execXand h f s
  | .ADD h f => Sys2Proof.Machine.execAdd h f s
  | .SUB h f => Sys2Proof.Machine.execSub h f s
  | .ADDC h f => Sys2Proof.Machine.execAddc h f s
  | .SUBB h f => Sys2Proof.Machine.execSubb h f s
  | .NEG h f => Sys2Proof.Machine.execNeg h f s
  | .ABS h f => Sys2Proof.Machine.execAbs h f s
  | .MIN h f => Sys2Proof.Machine.execMin h f s
  | .MAX h f => Sys2Proof.Machine.execMax h f s
  | .MUL_LO h f => Sys2Proof.Machine.execMulLo h f s
  | .MUL_HI h f => Sys2Proof.Machine.execMulHi h f s
  | .MAD h f => Sys2Proof.Machine.execMad h f s
  | .AND h f => Sys2Proof.Machine.execAnd h f s
  | .OR h f => Sys2Proof.Machine.execOr h f s
  | .XOR h f => Sys2Proof.Machine.execXor h f s
  | .NOT h f => Sys2Proof.Machine.execNot h f s
  | .SHL h f => Sys2Proof.Machine.execShl h f s
  | .SHR h f => Sys2Proof.Machine.execShr h f s
  | .SRA h f => Sys2Proof.Machine.execSra h f s
  | .BFE h f => Sys2Proof.Machine.execBfe h f s
  | .BFI h f => Sys2Proof.Machine.execBfi h f s
  | .POPC h f => Sys2Proof.Machine.execPopc h f s
  | .CLZ h f => Sys2Proof.Machine.execClz h f s
  | .CTZ h f => Sys2Proof.Machine.execCtz h f s
  | .BREV h f => Sys2Proof.Machine.execBrev h f s
  | .MOV h f => Sys2Proof.Machine.execMov h f s
  | .MOVI h f => Sys2Proof.Machine.execMovi h f s
  | .SEL h f => Sys2Proof.Machine.execSel h f s
  | .LEA h f => Sys2Proof.Machine.execLea h f s
  | .LEA_SYMBOL h f => Sys2Proof.Machine.execLeaSymbol h f s
  | .CMP_EQ h f => Sys2Proof.Machine.execCmpEq h f s
  | .CMP_NE h f => Sys2Proof.Machine.execCmpNe h f s
  | .CMP_LT h f => Sys2Proof.Machine.execCmpLt h f s
  | .CMP_LE h f => Sys2Proof.Machine.execCmpLe h f s
  | .CMP_GT h f => Sys2Proof.Machine.execCmpGt h f s
  | .CMP_GE h f => Sys2Proof.Machine.execCmpGe h f s
  | .CMP_NUM h f => Sys2Proof.Machine.execCmpNum h f s
  | .CMP_NAN h f => Sys2Proof.Machine.execCmpNan h f s
  | .FADD h f => Sys2Proof.Machine.execFadd h f s
  | .FSUB h f => Sys2Proof.Machine.execFsub h f s
  | .FMUL h f => Sys2Proof.Machine.execFmul h f s
  | .FFMA h f => Sys2Proof.Machine.execFfma h f s
  | .FMIN h f => Sys2Proof.Machine.execFmin h f s
  | .FMAX h f => Sys2Proof.Machine.execFmax h f s
  | .FABS h f => Sys2Proof.Machine.execFabs h f s
  | .FNEG h f => Sys2Proof.Machine.execFneg h f s
  | .FRND h f => Sys2Proof.Machine.execFrnd h f s
  | .FCMP h f => Sys2Proof.Machine.execFcmp h f s
  | .FCVT h f => Sys2Proof.Machine.execFcvt h f s
  | .DADD h f => Sys2Proof.Machine.execDadd h f s
  | .DSUB h f => Sys2Proof.Machine.execDsub h f s
  | .DMUL h f => Sys2Proof.Machine.execDmul h f s
  | .DFMA h f => Sys2Proof.Machine.execDfma h f s
  | .HFMA2 h f => Sys2Proof.Machine.execHfma2 h f s
  | .SHFL_IDX h f => Sys2Proof.Machine.execShflIdx h f s
  | .SHFL_UP h f => Sys2Proof.Machine.execShflUp h f s
  | .SHFL_DOWN h f => Sys2Proof.Machine.execShflDown h f s
  | .SHFL_XOR h f => Sys2Proof.Machine.execShflXor h f s
  | .BCAST h f => Sys2Proof.Machine.execBcast h f s
  | .VOTE_ANY h f => Sys2Proof.Machine.execVoteAny h f s
  | .VOTE_ALL h f => Sys2Proof.Machine.execVoteAll h f s
  | .VOTE_EQ h f => Sys2Proof.Machine.execVoteEq h f s
  | .MATCH h f => Sys2Proof.Machine.execMatch h f s
  | .RED_ADD h f => Sys2Proof.Machine.execRedAdd h f s
  | .RED_MIN h f => Sys2Proof.Machine.execRedMin h f s
  | .RED_MAX h f => Sys2Proof.Machine.execRedMax h f s
  | .RED_AND h f => Sys2Proof.Machine.execRedAnd h f s
  | .RED_OR h f => Sys2Proof.Machine.execRedOr h f s
  | .RED_XOR h f => Sys2Proof.Machine.execRedXor h f s
  | .SCAN_ADD h f => Sys2Proof.Machine.execScanAdd h f s
  | .SCAN_MIN h f => Sys2Proof.Machine.execScanMin h f s
  | .SCAN_MAX h f => Sys2Proof.Machine.execScanMax h f s
  | .SCAN_AND h f => Sys2Proof.Machine.execScanAnd h f s
  | .SCAN_OR h f => Sys2Proof.Machine.execScanOr h f s
  | .SCAN_XOR h f => Sys2Proof.Machine.execScanXor h f s
  | .LD h f => Sys2Proof.Machine.execLd h f s
  | .ST h f => Sys2Proof.Machine.execSt h f s
  | .LDS h f => Sys2Proof.Machine.execLds h f s
  | .STS h f => Sys2Proof.Machine.execSts h f s
  | .ATOM_ADD h f x => Sys2Proof.Machine.execAtomAdd h f x s
  | .ATOM_SUB h f x => Sys2Proof.Machine.execAtomSub h f x s
  | .ATOM_MIN h f x => Sys2Proof.Machine.execAtomMin h f x s
  | .ATOM_MAX h f x => Sys2Proof.Machine.execAtomMax h f x s
  | .ATOM_AND h f x => Sys2Proof.Machine.execAtomAnd h f x s
  | .ATOM_OR h f x => Sys2Proof.Machine.execAtomOr h f x s
  | .ATOM_XOR h f x => Sys2Proof.Machine.execAtomXor h f x s
  | .ATOM_EXCH h f x => Sys2Proof.Machine.execAtomExch h f x s
  | .ATOM_CAS h f x => Sys2Proof.Machine.execAtomCas h f x s
  | .ATOM_INC h f x => Sys2Proof.Machine.execAtomInc h f x s
  | .ATOM_DEC h f x => Sys2Proof.Machine.execAtomDec h f x s
  | .FENCE_ACQ h obs => Sys2Proof.Machine.execFenceAcq h obs s
  | .FENCE_REL h obs => Sys2Proof.Machine.execFenceRel h obs s
  | .DISCARD h base len => Sys2Proof.Machine.execDiscard h base len s
  | .PREF h f => Sys2Proof.Machine.execPref h f s
  | .LD_POLL h f => Sys2Proof.Machine.execLdPoll h f s
  | .WAITU h f => Sys2Proof.Machine.execWaitu h f s
  | .SLEEP h f => Sys2Proof.Machine.execSleep h f s
  | .SPAWN h f => Sys2Proof.Machine.execSpawn h f s
  | .LAUNCH h f => Sys2Proof.Machine.execLaunch h f s
  | .TRIG h f => Sys2Proof.Machine.execTrig h f s
  | .WAITP h f => Sys2Proof.Machine.execWaitp h f s
  | .CANCEL h f => Sys2Proof.Machine.execCancel h f s
  | .CCNT h f => Sys2Proof.Machine.execCcnt h f s
  | .GBAR h f => Sys2Proof.Machine.execGbar h f s
  | .HOLD h f => Sys2Proof.Machine.execHold h f s
  | .TAKE h f => Sys2Proof.Machine.execTake h f s
  | .IPL h f => Sys2Proof.Machine.execIpl h f s
  | .AMP h f => Sys2Proof.Machine.execAmp h f s
  | .EMIT_VTX h f => Sys2Proof.Machine.execEmitVtx h f s
  | .EMIT_PRIM h f => Sys2Proof.Machine.execEmitPrim h f s
  | .COV h f => Sys2Proof.Machine.execCov h f s
  | .ZTEST h f => Sys2Proof.Machine.execZtest h f s
  | .ZWR h f => Sys2Proof.Machine.execZwr h f s
  | .FBW h f => Sys2Proof.Machine.execFbw h f s
  | .SPAWNY h f => Sys2Proof.Machine.execSpawny h f s
  | .RAYRET h f => Sys2Proof.Machine.execRayret h f s
  | .BVHT h f => Sys2Proof.Machine.execBvht h f s
  | .TARM h f => Sys2Proof.Machine.execTarm h f s
  | .TWAIT h f => Sys2Proof.Machine.execTwait h f s
  | .TREL h f => Sys2Proof.Machine.execTrel h f s
  | .TSTAT h f => Sys2Proof.Machine.execTstat h f s
  | .TCOPY h f => Sys2Proof.Machine.execTcopy h f s
  | .MSTART h f => Sys2Proof.Machine.execMstart h f s
  | .COLL h f => Sys2Proof.Machine.execColl h f s
  | .TRCP h f => Sys2Proof.Machine.execTrcp h f s
  | .TRSQ h f => Sys2Proof.Machine.execTrsq h f s
  | .TSQRT h f => Sys2Proof.Machine.execTsqrt h f s
  | .TDIV h f => Sys2Proof.Machine.execTdiv h f s
  | .TEXP2 h f => Sys2Proof.Machine.execTexp2 h f s
  | .TLOG2 h f => Sys2Proof.Machine.execTlog2 h f s
  | .TSIN h f => Sys2Proof.Machine.execTsin h f s
  | .TCOS h f => Sys2Proof.Machine.execTcos h f s
  | .IDIV h f => Sys2Proof.Machine.execIdiv h f s
  | .DEC_RLE h f => Sys2Proof.Machine.execDecRle h f s
  | .DEC_BITS h f => Sys2Proof.Machine.execDecBits h f s
  | .DEC_FP4 h f => Sys2Proof.Machine.execDecFp4 h f s
  | .SWP_ADD h f => Sys2Proof.Machine.execSwpAdd h f s
  | .SWP_SUB h f => Sys2Proof.Machine.execSwpSub h f s
  | .SWP_MUL h f => Sys2Proof.Machine.execSwpMul h f s
  | .SWP_FMA h f => Sys2Proof.Machine.execSwpFma h f s
  | .SWP_MIN h f => Sys2Proof.Machine.execSwpMin h f s
  | .SWP_MAX h f => Sys2Proof.Machine.execSwpMax h f s
  | .SWP_MOV h f => Sys2Proof.Machine.execSwpMov h f s
  | .MEND => Sys2Proof.Machine.execMend s
  | .MNOP => Sys2Proof.Machine.execMnop s
  | .MMOV f => Sys2Proof.Machine.execMmov f s
  | .MADD f => Sys2Proof.Machine.execMadd f s
  | .MSUB f => Sys2Proof.Machine.execMsub f s
  | .MMUL f => Sys2Proof.Machine.execMmul f s
  | .MAND f => Sys2Proof.Machine.execMand f s
  | .MOR f => Sys2Proof.Machine.execMor f s
  | .MXOR f => Sys2Proof.Machine.execMxor f s
  | .MSHL f => Sys2Proof.Machine.execMshl f s
  | .MSHR f => Sys2Proof.Machine.execMshr f s
  | .MBEQ f => Sys2Proof.Machine.execMbeq f s
  | .MBNE f => Sys2Proof.Machine.execMbne f s
  | .MBLT f => Sys2Proof.Machine.execMblt f s
  | .MBGE f => Sys2Proof.Machine.execMbge f s
  | .MJMP f => Sys2Proof.Machine.execMjmp f s
  | .MLD f => Sys2Proof.Machine.execMld f s
  | .MST f => Sys2Proof.Machine.execMst f s
  | .BLD bank tile ty variant scl => Sys2Proof.Machine.execBld bank tile ty variant scl s
  | .SBLD bank tile => Sys2Proof.Machine.execSbld bank tile s
  | .MMA bank tile m variant ty sparse base => Sys2Proof.Machine.execMma bank tile m variant ty sparse base s
  | .ACC_CLR base count => Sys2Proof.Machine.execAccClr base count s
  | .ACC_ST tile base ty rows cols => Sys2Proof.Machine.execAccSt tile base ty rows cols s
  | .TW tile phase => Sys2Proof.Machine.execTw tile phase s
  | .TINC obs => Sys2Proof.Machine.execTinc obs s
  | .LOAD_VALUE_ARRIVAL unit seq lane => Sys2Proof.Machine.execLoadValueArrival unit seq lane s
  | .ICINV_COMPLETE id => Sys2Proof.Machine.execIcinvComplete id s
  | .MATRIX_WORD_COMPLETE core seq => Sys2Proof.Machine.execMatrixWordComplete core seq s
  | .MSQ_PROGRAM_START core => Sys2Proof.Machine.execMsqProgramStart core s
  | .MSQ_STATE_SAVE core => Sys2Proof.Machine.execMsqStateSave core s
  | .LOAD_OBJECT ctx file place replaceTrap => Sys2Proof.Machine.execLoadObject ctx file place replaceTrap s
  | .UNLOAD_OBJECT ctx obj => Sys2Proof.Machine.execUnloadObject ctx obj s
  | .ATTESTATION_REPORT ctx nonce => Sys2Proof.Machine.execAttestationReport ctx nonce s
  | .DEVICE_RESET => Sys2Proof.Machine.execDeviceReset s
  | .SECURE_BOOT image signature => Sys2Proof.Machine.execSecureBoot image signature s
  | .FIRMWARE_LOAD value point number => Sys2Proof.Machine.execFirmwareLoad value point number s
  | .TRAINING r => Sys2Proof.Machine.execTraining r s
  | .DOORBELL ctx off q => Sys2Proof.Machine.execDoorbell ctx off q s
  | .CONTEXT_BLOCK_ADDRESS ctx value => Sys2Proof.Machine.execContextBlockAddress ctx value s
  | .CONTEXT_ENABLE ctx write => Sys2Proof.Machine.execContextEnable ctx write s
  | .REGISTER_WRITE off value => Sys2Proof.Machine.execRegisterWrite off value s
  | .JOB_ACCEPT ctx q => Sys2Proof.Machine.execJobAccept ctx q s
  | .LAUNCH_ELIGIBLE launch => Sys2Proof.Machine.execLaunchEligible launch s
  | .LAUNCH_START launch => Sys2Proof.Machine.execLaunchStart launch s
  | .BANK_MODE_CHANGE core bank mode => Sys2Proof.Machine.execBankModeChange core bank mode s
  | .LAUNCH_RING_DRAIN ctx count => Sys2Proof.Machine.execLaunchRingDrain ctx count s
  | .GROUP_RETIRE groups => Sys2Proof.Machine.execGroupRetire groups s
  | .SOLDER group target => Sys2Proof.Machine.execSolder group target s
  | .REJOIN group wave => Sys2Proof.Machine.execRejoin group wave s
  | .GBAR_COMPLETE group => Sys2Proof.Machine.execGbarComplete group s
  | .WAITP_RELEASE launch => Sys2Proof.Machine.execWaitpRelease launch s
  | .PREEMPT_REQUEST cores ctxs => Sys2Proof.Machine.execPreemptRequest cores ctxs s
  | .GROUP_SAVE group => Sys2Proof.Machine.execGroupSave group s
  | .SWAP_OUT group => Sys2Proof.Machine.execSwapOut group s
  | .GROUP_RESTORE group core => Sys2Proof.Machine.execGroupRestore group core s
  | .FETCH_FAULT unit => Sys2Proof.Machine.execFetchFault unit s
  | .FAULT_RESOLVE id => Sys2Proof.Machine.execFaultResolve id s
  | .FAULT_DELIVER id => Sys2Proof.Machine.execFaultDeliver id s
  | .WAKE_DELIVERY id => Sys2Proof.Machine.execWakeDelivery id s
  | .WAITU_EXPIRY slice token => Sys2Proof.Machine.execWaituExpiry slice token s
  | .SLEEP_EXPIRY unit => Sys2Proof.Machine.execSleepExpiry unit s
  | .SPILL_WALK slice => Sys2Proof.Machine.execSpillWalk slice s
  | .WAKE_LIST_RETRY slice => Sys2Proof.Machine.execWakeListRetry slice s
  | .MONITOR_COUNTER_CLEAR slice => Sys2Proof.Machine.execMonitorCounterClear slice s
  | .RETRANSLATE asid lo hi => Sys2Proof.Machine.execRetranslate asid lo hi s
  | .GILT_GRANT ctx die units => Sys2Proof.Machine.execGiltGrant ctx die units s
  | .FRAME_POOL_PUSH die frames => Sys2Proof.Machine.execFramePoolPush die frames s
  | .STASH_DRAIN slice => Sys2Proof.Machine.execStashDrain slice s
  | .GILT_STARVATION slice => Sys2Proof.Machine.execGiltStarvation slice s
  | .MIGRATE asid region => Sys2Proof.Machine.execMigrate asid region s
  | .HOST_ACCESS off acc => Sys2Proof.Machine.execHostAccess off acc s
  | .PEER_ACCESS node id key msg => Sys2Proof.Machine.execPeerAccess node id key msg s
  | .PEER_TIMEOUT id => Sys2Proof.Machine.execPeerTimeout id s
  | .PEER_PATH_LOSS node => Sys2Proof.Machine.execPeerPathLoss node s
  | .SOFT_ERROR site => Sys2Proof.Machine.execSoftError site s
  | .COPY_ELEMENT_COMMIT core => Sys2Proof.Machine.execCopyElementCommit core s
  | .COLL_OPERATION ctx die q run failed => Sys2Proof.Machine.execCollOperation ctx die q run failed s
  | .RESERVATION_GRANT launch => Sys2Proof.Machine.execReservationGrant launch s
  | .RATE_WAVE_START launch rate core => Sys2Proof.Machine.execRateWaveStart launch rate core s
  | .RASTERISE_PRIMITIVE launch prim => Sys2Proof.Machine.execRasterisePrimitive launch prim s
  | .ELEMENT_RETIRE elem => Sys2Proof.Machine.execElementRetire elem s
  | .PYRAMID_DROP die addr => Sys2Proof.Machine.execPyramidDrop die addr s
  | .ISLAND_OPERATING_POINT island point => Sys2Proof.Machine.execIslandOperatingPoint island point s
  | .HOST_WRITE_INVALIDATE pa bytes => Sys2Proof.Machine.execHostWriteInvalidate pa bytes s
  | .SPAWN_AREA_GROW ctx bytes => Sys2Proof.Machine.execSpawnAreaGrow ctx bytes s

end Sys2Proof.Machine
end

