-- ==== Sys2Proof/Machine/Turn.lean ====
section
/-!
DEFINITION. A turn of a unit or of a matrix sequencer: the fetch of its next instruction, its decoding
and its execution; the order in which a partition offers issue (spec 03 R41, R60, spec 06 R112, spec 08
R143, spec 15 R244, spec 18 R263, R264, spec 22 R313).
-/

namespace Sys2Proof.Machine

open Sys2Proof

/-! ## Fetching -/

/-- What the fetch of a unit's next instruction gives: its first word and the word that follows it where
bit 48 is set. -/
inductive Fetched
  | words (w next : DWord)
  /-- the faulting address, and the first word where only the extension word could not be fetched -/
  | fault (va : Nat) (c : DFault) (why : Absence) (inst : DWord)
  /-- the same of a fill that stalls -/
  | stall (va : Nat) (at_ : StallAt) (inst : DWord)
  deriving DecidableEq, Repr

/-- Fetches the instruction at a unit's pc (spec 03 R41). -/
def State.fetchInstr (s : State) (u : Nat) : Fetched × State :=
  let pc := (s.unit u).pc.toNat
  match s.fetchWord u pc with
  | (.error (c, why), _, s) => (.fault pc c why 0, s)
  | (.ok _, some p, s) => (.stall pc p 0, s)
  | (.ok w, none, s) =>
    if !hasExt w then (.words w 0, s)
    else
      match s.fetchWord u (pc + 8) with
      | (.error (c, why), _, s) => (.fault (pc + 8) c why w, s)
      | (.ok _, some p, s) => (.stall (pc + 8) p w, s)
      | (.ok e, none, s) => (.words w e, s)

/-! ## Decoding and issuing -/

/-- The bytes of an instruction whose first word is known (spec 03 R41). -/
def sizeOfWord (w : DWord) : Nat := if hasExt w then 16 else 8

/-- The instruction that words hold where a unit runs them, or the trap of R46, the conditions of the
code object's tables included (spec 04 R77, spec 06 R106). -/
def State.decodeFor (s : State) (u : Nat) (w next : DWord) : Except DecodeError Instr :=
  let extra :=
    match (decodeParts w.toNat (if hasExt w then some next.toNat else none)).2 with
    | some i => s.tableConds (s.unit u) i
    | none => []
  decodeWith extra w next

/-- The trap of a word that is no instruction (spec 01 R19). -/
def DecodeError.cause (e : DecodeError) : Word :=
  match e with
  | .illegalOp => causeIllegal
  | .rsvField c => causeRsv c

/-- A word that is no instruction: a draw skips one of another rate (spec 18 R264); any other raises its
trap once every earlier result has arrived (spec 01 R17). -/
def State.badWord (s : State) (w : DWord) (cause : Word) : State :=
  let x := s.unit s.cur
  if (s.draw x.launch).live && (headOf w.toNat).rate ≠ x.rate then
    s.setUnit s.cur { x with pc := x.pc + BitVec.ofNat 64 (sizeOfWord w) }
  else if x.results = [] then s.takeTrap s.cur cause w
  else (s.setUnit s.cur { x with trapNext := some (cause, w) }).hold s.cur

/-- The current unit issues the words that have been fetched. -/
def State.runWords (s : State) (w next : DWord) : Out :=
  match s.decodeFor s.cur w next with
  | .ok i => exec i s
  | .error e => .next (s.badWord w (DecodeError.cause e))

/-- The rate-presence byte of the block of a draw wave's pc is read (spec 11 R177). -/
def State.readBlock (s : State) (u : Nat) : State :=
  let w := s.unit u
  if (s.draw w.launch).live then s.tellPresence w.core w.ctx w.pc.toNat else s

/-- What a draw wave does in place of a fetch: past the end of its procedure it exits, and it passes over
a block without instructions of its rate (spec 18 R263, R264). -/
def State.drawSkip (s : State) (u : Nat) : Option State :=
  let w := s.unit u
  let d := s.draw w.launch
  let pc := w.pc.toNat
  if !d.live then none
  else if !w.inHandler && d.start + d.size ≤ pc then
    some (s.retire u)
  else if s.presence w.ctx pc / 2 ^ w.rate.code % 2 = 0 then
    some (s.setUnit u { w with pc := BitVec.ofNat 64 (wrap 56 ((pc : Int) / 64 * 64 + 64)) })
  else none

/-! ## Turns -/

/-- A core's cycle count advances. -/
def State.tickCore (s : State) (c n : Nat) : State :=
  let k := s.core c
  s.setCore c { k with cycle := k.cycle + n }

/-- A slice's cycle count advances. -/
def State.tickSlice (s : State) (sl n : Nat) : State :=
  let k := s.slice sl
  s.setSlice sl { k with cycle := k.cycle + n }

/-- The unit that issues next: it takes one cycle of its core, in which it was offered issue last. -/
def State.offer (s : State) (u : Nat) : State :=
  let s := s.tickCore (s.unit u).core 1
  { s.setUnit u { s.unit u with turnAt := (s.core (s.unit u).core).cycle } with cur := u }

/-- The fetch stalls, and keeps the first word where it has come: the unit tries again in a later turn. -/
def State.fetchStall (s : State) (u va : Nat) (at_ : StallAt) (inst : DWord) : State :=
  s.addStall at_ (s.ctx (s.unit u).ctx).asid va (.fetch u) false inst

/-- After a turn: in a group that stops, a wave that has parked stops in place (spec 07 R125). -/
def settleTurn (gi : Nat) (o : Out) : Out :=
  match o with
  | .next s => .next (s.stopParked gi)
  | .fault r => .fault r
  | .refused r => .refused r

/-- The current unit fetches its next instruction and issues it. -/
def State.fetchAndRun (s : State) : Out :=
  match s.fetchInstr s.cur with
  | (.fault va c why inst, s) => .next (s.fetchFault s.cur va c why inst)
  | (.stall va p inst, s) => .next (s.fetchStall s.cur va p inst)
  | (.words w next, s) => (s.forget fun p => p = .fetch s.cur).runWords w next

/-! ## The order in which a partition offers issue (spec 00 R6, spec 06 R112; log entry 1) -/

/-- Whether one list of numbers comes before another, the first number counting most. -/
def lexBefore : List Nat → List Nat → Bool
  | [], _ => true
  | _ :: _, [] => false
  | a :: as, b :: bs => a < b || (a = b && lexBefore as bs)

/-- The core cycles after which a unit that has not been offered issue goes first. -/
def longWait : Nat := 1024

/-- Whether a unit has not been offered issue for long. -/
def State.late (s : State) (u : Nat) : Bool :=
  (s.unit u).turnAt + longWait ≤ (s.core (s.unit u).core).cycle

/-- The scheduler's order of a unit in its partition: one that has waited long; else by class, then age, then,
round-robin, the turn in which it was offered issue last. -/
def State.rank (s : State) (u : Nat) : List Nat :=
  let w := s.unit u
  if s.late u then [0, w.turnAt, u] else [1 + s.classOf w.launch, w.age, w.turnAt, u]

/-- The units that the scheduler offers issue: those that do not wait at their next instruction, and each that does
and has not tried for long. -/
def State.offered (s : State) : List Nat :=
  (AMap.keys s.work.units).filter fun u => s.ready u && (!(s.unit u).held || s.late u)

/-- The partition of a unit. -/
def State.partOf (s : State) (u : Nat) : Nat × Nat := ((s.unit u).core, (s.unit u).part)

/-- Whether no unit that its partition offers issue comes before a unit. -/
def State.isFirst (s : State) (u : Nat) : Bool :=
  s.offered.all fun v => s.partOf v ≠ s.partOf u || lexBefore (s.rank u) (s.rank v)

/-- A turn of a unit that is the first of its partition: a trap that waits is taken first (spec 12 R198). -/
def State.unitTurn (s : State) (u : Nat) : Out :=
  if !(s.ready u && s.isFirst u) then .fault .noSuchTurn
  else
    let s := s.offer u
    let w := s.unit u
    match w.trapNext with
    | some (c, inst) => .next (if w.results = [] then s.takeTrap u c inst else s.hold u)
    | none =>
      let s := s.readBlock u
      match s.drawSkip u with
      | some s => .next s
      | none => settleTurn w.group s.fetchAndRun

/-- The cause that the firmware learns of a fault of a program's fetch (spec 22 R313). -/
def msqFetchCause (c : DFault) : DFault := if c = .ecc then .ecc else .fetch

/-- The word that a program issues next: the one that is in flight, or the one that it fetches. -/
def State.msqWord (s : State) (c : Nat) : MsqFetch × State :=
  if (s.msq c).inWord then (.word (s.msq c).word, s) else s.msqFetch c

/-- A running program issues its next word. -/
def State.msqRun (s : State) (c : Nat) : Out :=
  match ({ s with curMsq := c }).msqWord c with
  | (.past, s) => .next (s.msqStop c 0x12)
  | (.fault va x why, s) => .next (s.msqFault c va (msqFetchCause x) why false)
  | (.stall va p, s) => .next (s.msqStall c va p false)
  | (.word w, s) =>
    match decodeMsq w with
    | .ok i => exec i s
    | .error e => .next (s.msqStop c (causeRsv e))

/-- A turn of a matrix sequencer: an error record that a stall held back is written first (spec 22 R328). -/
def State.msqTurn (s : State) (c : Nat) : Out :=
  let s := s.setMsq c { s.msq c with turnAt := (s.core c).cycle }
  let m := s.msq c
  match m.errRec with
  | some (va, bs) => if m.held then .fault .noSuchTurn else .next (s.msqRecord c va bs)
  | none => if m.runs then s.msqRun c else .fault .noSuchTurn

/-- Whether an instruction is an event of the device, which has no words. -/
def Instr.isEvent (i : Instr) : Bool := encode i = []

/-- Every unit that waits at its next instruction is offered issue again: what it waits for may have come, and from
this cycle of its core on it is ready. -/
def State.unhold (s : State) : State :=
  { s with work := { s.work with units := AMap.mapVals s.work.units {} fun _ w =>
    if w.held then { w with held := false, turnAt := (s.core w.core).cycle } else w } }

/-- After an event or a turn of a matrix sequencer: units that waited try again, writes of counters whose wait this
has ended are made, and a pre-emption request that this has honoured is out of force (spec 06 R112, spec 07 R125, spec
13 R213). -/
def settleEvent (o : Out) : Out :=
  match o with
  | .next s => .next s.unhold.flushWrites.honour
  | .fault r => .fault r
  | .refused r => .refused r

/-- Performs a turn. -/
def State.turn (s : State) (t : Turn) : Out :=
  match t with
  | .unit u => s.unitTurn u
  | .msq c => settleEvent (s.msqTurn c)
  | .event i => if Instr.isEvent i then settleEvent (exec i s) else .fault .noSuchTurn
  | .coreClock c n => .next (s.tickCore c n)
  | .sliceClock sl n => .next (s.tickSlice sl n)

/-! ## The default scheduler (log entry 1) -/

/-- The item of the least rank. -/
def firstBy (rank : Nat → List Nat) : List Nat → Option Nat
  | [] => none
  | u :: rest =>
    match firstBy rank rest with
    | none => some u
    | some v => if lexBefore (rank u) (rank v) then some u else some v

/-- The first unit of each partition. -/
def State.firsts (s : State) (us : List Nat) : List Nat :=
  ((us.map s.partOf).eraseDups).filterMap fun p => firstBy s.rank (us.filter fun u => s.partOf u = p)

/-- The unit that is offered issue: of the partitions' first ones, that of the core whose cycle count is least, and
there the one whose last turn is oldest. -/
def State.nextUnit (s : State) (us : List Nat) : Option Nat :=
  firstBy (fun u => [(s.core (s.unit u).core).cycle, (s.unit u).turnAt, u]) (s.firsts us)

/-- A result of an outstanding instruction that is on its way. -/
def State.arrival (s : State) : Option Turn :=
  s.work.units.findSome? fun e =>
    e.2.pend.findSome? fun p =>
      (p.values.head?).map fun v => .event (.LOAD_VALUE_ARRIVAL e.1 p.seq v.1)

/-- What the hardware does to a group as soon as it can: a waiting record takes a free allocation, then a fragment
record does; a barrier that all have reached opens; a group that is over retires (spec 06 R109, R112). -/
def State.groupEvent (s : State) (gi : Nat) : Option Turn :=
  let g := s.group gi
  let us := s.unitsOf gi
  if s.groupOver gi then some (.event (.GROUP_RETIRE [gi]))
  else if g.phase ≠ .resident then none
  else
    match g.freeAlloc, g.nextRejoin, g.frags.head? with
    | some _, some r, _ => some (.event (.REJOIN gi r.wave))
    | some _, none, some f => some (.event (.SOLDER gi (BitVec.ofNat 64 f.target)))
    | _, _, _ =>
      if us ≠ [] && g.frags = [] && g.waits = [] && us.all fun u => (s.unit u).park = .gbar then
        some (.event (.GBAR_COMPLETE gi))
      else none

/-- Whether the matrix sequencer of a core has a word, or an error record, to perform. -/
def Msq.wants (m : Msq) : Bool := m.runs || (m.errRec.isSome && !m.held)

/-- The core whose matrix sequencer takes a turn before the units: it has taken none in this cycle of its core. -/
def State.msqDue (s : State) : Option Nat :=
  (AMap.keys s.cores).find? fun c => (s.msq c).wants && (s.msq c).turnAt < (s.core c).cycle

/-- The turn that comes where no unit is offered issue: that of a matrix sequencer, or of a unit that waits and tries
again, in turn. -/
def State.idleTurn (s : State) : Option Turn :=
  match (AMap.keys s.cores).find? fun c => (s.msq c).wants with
  | some c => some (.msq c)
  | none =>
    let waiting := (AMap.keys s.work.units).filter fun u => s.ready u
    match waiting.find? fun u => s.cur < u with
    | some u => some (.unit u)
    | none => (waiting.head?).map .unit

/-- The turn that comes where the agenda is empty: a result that is on its way arrives; else the hardware does
what a group waits for; else a matrix sequencer takes its turn of the cycle; else a unit issues. -/
def State.defaultTurn (s : State) : Option Turn :=
  match s.arrival, (AMap.keys s.work.groups).findSome? s.groupEvent, s.msqDue, s.nextUnit s.offered with
  | some t, _, _, _ => some t
  | none, some t, _, _ => some t
  | none, none, some c, _ => some (.msq c)
  | none, none, none, some u => some (.unit u)
  | none, none, none, none => s.idleTurn

end Sys2Proof.Machine
end

