-- ==== Sys2Proof/Machine/Bench.lean ====
section
/-!
DEFINITION. A program that is placed from outside: the unit, the matrix program and the code that the
very next step runs (log entry 20).
-/

namespace Sys2Proof.Machine

open Sys2Proof

/-- The bytes of a line that begins with some words' bits. -/
def lineOfWord (w : Nat) : List Byte := leBytes w 128

/-- A loaded object whose text is the line at 0 and whose matrix program is the line at 128; it has one
live-register entry and one spawn entry. -/
def benchObj : Obj :=
  { id := 1, base := 0, ranges := [(0, 256)], textAt := 0, textSize := 128, msqAt := 128, msqSize := 128
    lives := 1, holds := []
    entries := [{ name := 0, kind := 1, spawn := 0, regs := 8, text := 0, scratch := 0, tiles := 0
                  waves := 1, reserve := 0, hold := 0, holds := 0, size := 128 }]
    bound := [], uses := [], hasTrap := false, tceFw := false, collFw := false, measurement := [] }

/-- A unit that runs all lanes of wave 0 of group 1, with every register, from address 0. -/
def benchWave : Wave :=
  { live := true, group := 1, nregs := 256, x := BitVec.allOnes 32, o := BitVec.allOnes 32
    homes := homesOfWave 0, elems := List.replicate 32 0 }

/-- Its group, on core 0. -/
def benchGroup : Group :=
  { phase := .resident, nwaves := 1, nregs := 256, ntiles := 64, scratch := 32768
    allocs := [{ part := 0, slot := 0, base := 0, unit := some 1 }] }

/-- Places an instruction as the next of a unit and of the matrix program of core 0. -/
def State.placeCode (s : State) (w : Nat) : State :=
  let s := s.setCtx 0 { s.ctx 0 with objs := [benchObj] }
  let s := { s with mem := { s.mem with
    icache := s.mem.icache.set [] 0 (lineOfWord w), msqCache := s.mem.msqCache.set [] 1 (lineOfWord w) } }
  let s := (s.setGroup 1 benchGroup).setUnit 1 benchWave
  s.setMsq 0 { s.msq 0 with running := true, fresh := false, held := false, halted := false, pc := 0
                            obj := 1, group := 1, ctx := 0 }

/-- Whether the table's bits are read as a word of the matrix sequencer: no wave decodes them. -/
def isMsqWord (w : Nat) : Bool :=
  match decodeBytes (leBytes w 16) with
  | some (.ok _, _) => false
  | _ => match decodeMsq (BitVec.ofNat 64 w) with
    | .ok _ => true
    | .error _ => false

/-- A state whose next step runs the instruction of the bits. -/
def State.placeWord (s : State) (_nbits w : Nat) : State :=
  let s := s.placeCode w
  { s with agenda := (if isMsqWord w then Turn.msq 0 else Turn.unit 1) :: s.agenda, cur := 1, curMsq := 0 }

end Sys2Proof.Machine
end

