-- ==== Sys2Proof/Machine/Step.lean ====
section
/-!
DEFINITION. One step: the first turn of the agenda, or that of the default scheduler where the agenda is
empty (log entry 1).
-/

namespace Sys2Proof.Machine

open Sys2Proof

/-- One step of the device; with no turn to take it stands still. -/
def step (s : State) : Host.Outcome State Fault Refusal :=
  match s.agenda with
  | t :: rest => ({ s with agenda := rest }).turn t
  | [] =>
    match s.defaultTurn with
    | some t => s.turn t
    | none => .next s

/-- A state whose next step fetches and runs the instruction of a table row's bits (log entry 20). -/
def State.withFetchWord (s : State) (nbits w : Nat) : State := s.placeWord nbits w

end Sys2Proof.Machine
end

