-- ==== Sys2Proof/Safety.lean ====
section
/-!
DEFINITION. What counts as a safe run, and the conditions in whose terms claims are stated.
-/

/-! ## Rounding, said by what it gives (spec 10 R156, R161) -/

namespace Sys2Proof

/-- The number ± m × 2^e. -/
def dyadic (s : Bool) (m : Nat) (e : Int) : ℚ := (if s then -1 else 1) * m * 2 ^ e

/-- A format has a finite value. -/
def Fmt.Has (f : Fmt) (z : ℚ) : Prop := ∃ n s k j, f.unpack n = .fin s k j ∧ z = dyadic s k j

/-- The largest finite value of a format, the step of its values there, and its least normal value. -/
def Fmt.topStep (f : Fmt) : ℚ := 2 ^ (((f.maxFin / 2 ^ f.frac : Nat) : Int) - f.bias - f.frac)
def Fmt.largest (f : Fmt) : ℚ := (2 ^ f.frac + f.maxFin % 2 ^ f.frac : Nat) * f.topStep
def Fmt.leastNormal (f : Fmt) : ℚ := 2 ^ (1 - (f.bias : Int))

/-- Whether a direction takes numbers of a sign towards zero. -/
def Rnd.toZero (rnd : Rnd) (sg : Bool) : Prop :=
  match rnd with | .rn => False | .rz => True | .rm => sg = false | .rp => sg = true

/-- A number that rounds to a magnitude beyond the largest finite one: with more exponents the format would
have the value one step further. -/
def Fmt.Overflows (f : Fmt) (rnd : Rnd) (sg : Bool) (x : ℚ) : Prop :=
  match rnd with
  | .rn => f.largest + f.topStep / 2 < |x| ∨ f.largest + f.topStep / 2 = |x| ∧ f.maxFin % 2 = 1
  | _ => rnd.toZero sg ∧ f.largest + f.topStep ≤ |x| ∨ ¬rnd.toZero sg ∧ f.largest < |x|

/-- A number that is tiny after rounding: with more exponents it would not round to the least normal
value. -/
def Fmt.Tiny (f : Fmt) (rnd : Rnd) (sg : Bool) (x : ℚ) : Prop :=
  let step := f.leastNormal / 2 ^ (f.frac + 1)
  |x| < f.leastNormal ∧
    match rnd with
    | .rn => |x| < f.leastNormal - step / 2
    | _ => rnd.toZero sg ∨ |x| ≤ f.leastNormal - step

/-- Among the finite values of a format, y is the one that a direction rounds x to; `even` says that its last
bit is clear. -/
def Fmt.Best (f : Fmt) (rnd : Rnd) (x y : ℚ) (even : Prop) : Prop :=
  match rnd with
  | .rn => ∀ z, f.Has z → |x - y| ≤ |x - z| ∧ (|x - y| = |x - z| → z = y ∨ even)
  | .rz => |y| ≤ |x| ∧ ∀ z, f.Has z → |z| ≤ |x| → |z| ≤ |y|
  | .rm => y ≤ x ∧ ∀ z, f.Has z → z ≤ x → z ≤ y
  | .rp => x ≤ y ∧ ∀ z, f.Has z → x ≤ z → y ≤ z

/-- A result is a number, of a sign, rounded once (R156), or saturated in place of an overflow (R161). -/
structure RoundsTo (f : Fmt) (ov : Over) (rnd : Rnd) (sg : Bool) (x : ℚ) (r : Res) : Prop where
  beyond : f.Overflows rnd sg x →
    (ov = .saturate → r = { val := f.signed sg f.maxFin, flags := flagOF ||| flagNX ||| flagSAT }) ∧
    (ov = .ieee → r.flags = flagOF ||| flagNX ∧
      (rnd.toZero sg → r.val = f.signed sg f.maxFin) ∧ (¬rnd.toZero sg → r.val = f.signed sg f.infBits))
  within : ¬f.Overflows rnd sg x → ∃ k j, f.unpack r.val = .fin sg k j ∧ r.val < 2 ^ (f.signBit + 1) ∧
    f.Best rnd x (dyadic sg k j) (r.val % 2 = 0) ∧
    (dyadic sg k j = x → r.flags = 0) ∧
    (dyadic sg k j ≠ x → (f.Tiny rnd sg x → r.flags = flagNX ||| flagUF) ∧
      (¬f.Tiny rnd sg x → r.flags = flagNX))

/-- An integer is a number rounded in a direction (spec 03 R48). -/
def IntRounds (rnd : Rnd) (x : ℚ) (i : Int) : Prop :=
  match rnd with
  | .rn => |x - i| ≤ 1 / 2 ∧ (|x - i| = 1 / 2 → i % 2 = 0)
  | .rz => |(i : ℚ)| ≤ |x| ∧ |x| < |(i : ℚ)| + 1 ∧ 0 ≤ x * i
  | .rm => i ≤ x ∧ x < i + 1
  | .rp => (i : ℚ) - 1 < x ∧ x ≤ i

end Sys2Proof

namespace Sys2Proof.Machine

open Sys2Proof

/-- Memory in its canonical form: addresses rise strictly, and no entry equals what an unlisted address
reads as (log entry 5). -/
def Memory.wf (m : List Host.Cell) : Bool := AMap.wf m 0

/-- A step that neither faults nor refuses. -/
def Safe (s : State) : Prop := ∃ t, step s = .next t

/-- The states that a run reaches from a state. -/
inductive Reaches (s : State) : State → Prop
  | here : Reaches s s
  | step (t v : State) : Reaches s t → Machine.step t = .next v → Reaches s v

/-- A safe run: no state that it reaches stops. -/
def SafeRun (s : State) : Prop := ∀ t, Reaches s t → Safe t

/-- A unit past an instruction that it has issued: it is not held, and its pc is that of the next word. -/
def Wave.after (w : Wave) (i : Instr) : Wave :=
  { w with held := false, pc := w.pc + BitVec.ofNat 64 i.size }

/-- Nothing keeps the current unit from the effect of an instruction: it can be offered issue, no trap of
it waits, in a draw the instruction is of its rate, it is not the replay of a leader's access, the gate
and the operand log let it pass (spec 06 R102, R103, spec 12 R196, R197), and no check at issue fails
(spec 01 R16, R18). -/
structure Issues (s : State) (i : Instr) (h : Head) : Prop where
  ready  : s.ready s.cur = true
  clear  : (s.unit s.cur).trapNext = none
  head   : i.head? = some h
  rate   : (s.draw (s.unit s.cur).launch).live = true → h.rate = (s.unit s.cur).rate
  fresh  : (s.unit s.cur).replaying = false
  passes : s.mustWait (s.unit s.cur) h i = false
  sound  : s.issueTrap (s.unit s.cur) h i = none

/-- A wave-wide instruction that issues and acts (spec 08 R133). -/
def Acts (s : State) (i : Instr) (h : Head) : Prop := Issues s i h ∧ (s.unit s.cur).acts h = true

/-- Nothing keeps the current matrix sequencer from a word's effect (spec 03 R67, spec 22 R312). -/
def MsqIssues (s : State) (i : Instr) : Prop := (s.msq s.curMsq).runs = true ∧ i.conds = []

/-! ## The forms in which claims about lane instructions are stated -/

/-- The values of a lane's a, b and c, an immediate standing for the last source, and a count of one
32-bit register (spec 10 R149, R150). -/
def Wave.opA (w : Wave) (f : AluF) (l : Nat) : Nat := w.val f.ty.wide f.a.toNat l
def Wave.opB (w : Wave) (f : AluF) (l : Nat) : Nat := w.srcOrImm f f.b f.ty.wide l
def Wave.opC (w : Wave) (f : AluF) (l : Nat) : Nat := w.srcOrImm f f.c f.ty.wide l
def Wave.countB (w : Wave) (f : AluF) (l : Nat) : Nat := w.srcOrImm f f.b false l

/-- An instruction completes and writes the lanes of a mask in one destination: it answers the same state
but for its unit, which is past the instruction; every written lane holds a value that satisfies `P`; the
lanes' flags are ORed into %fflags; and every other lane and register of the unit is as it was. -/
def LaneResult (s : State) (i : Instr) (lanes : Mask) (d : Nat) (wide : Bool) (P : Nat → Nat → Prop)
    (fl : Nat → Word) : Prop :=
  let w := s.unit s.cur
  ∃ w' : Wave,
    exec i s = .next (s.setUnit s.cur w') ∧
    w' = { w.after i with
           regs := w'.regs
           fflags := (lanesOf lanes).foldl (fun m l => m ||| fl l) w.fflags } ∧
    (∀ l, l < 32 → inMask lanes l = true → P l (w'.val wide d l)) ∧
    (∀ q l, l < 32 → ¬(inMask lanes l = true ∧ (q = d ∨ wide = true ∧ q = d + 1)) →
      w'.reg q l = w.reg q l)

/-- Every use of a per-lane instruction that issues completes with the values that `P` describes, from the
unit as it was. -/
def LaneLaw (mk : Head → AluF → Instr) (wide : AluF → Bool)
    (P : Wave → Head → AluF → Nat → Nat → Prop) (fl : Wave → Head → AluF → Nat → Word) : Prop :=
  ∀ (s : State) (h : Head) (f : AluF), Issues s (mk h f) h →
    LaneResult s (mk h f) ((s.unit s.cur).acting h) f.d.toNat (wide f) (P (s.unit s.cur) h f)
      (fl (s.unit s.cur) h f)

/-- A destination as wide as the instruction's type, and one register whatever the type (spec 10 R149). -/
def asTyped (f : AluF) : Bool := f.ty.wide
def oneReg (_ : AluF) : Bool := false

/-- No flag. -/
def noFlags (_ : Wave) (_ : Head) (_ : AluF) (_ : Nat) : Word := 0

/-- The bits of a destination. -/
def destBits (wide : Bool) : Nat := if wide then 64 else 32

/-- A lane instruction whose value and flags are those of a result. -/
def ResLaw (mk : Head → AluF → Instr) (wide : AluF → Bool) (r : Wave → AluF → Nat → Res) : Prop :=
  LaneLaw mk wide (fun w _ f l n => n = (r w f l).val % 2 ^ destBits (wide f))
    (fun w _ f l => (r w f l).flags)

/-- A wave-wide instruction that issues and acts writes the lanes of its acting set (spec 08 R133). -/
def WaveLaw (mk : Head → AluF → Instr) (wide : AluF → Bool) (P : Wave → Head → AluF → Nat → Nat → Prop) :
    Prop :=
  ∀ (s : State) (h : Head) (f : AluF), Acts s (mk h f) h →
    LaneResult s (mk h f) ((s.unit s.cur).destMask h) f.d.toNat (wide f) (P (s.unit s.cur) h f) fun _ => 0

/-- An instruction completes and writes the bits of some lanes in one k register, where writes to k0 are
ignored; every other bit of the unit's k registers is as it was. -/
def MaskResult (s : State) (i : Instr) (lanes : Mask) (d : Nat) (p : Nat → Bool) (fl : Nat → Word) : Prop :=
  let w := s.unit s.cur
  ∃ w' : Wave,
    exec i s = .next (s.setUnit s.cur w') ∧
    w' = { w.after i with
           k := w'.k
           fflags := (lanesOf lanes).foldl (fun m l => m ||| fl l) w.fflags } ∧
    (d = 0 → w'.k = w.k) ∧
    (∀ j, j ≠ d → w'.kreg j = w.kreg j) ∧
    (d ≠ 0 → ∀ l, l < 32 →
      inMask (w'.kreg d) l = if inMask lanes l then p l else inMask (w.kreg d) l)

/-- Every use of a per-lane test that issues completes with the truths of `p`. -/
def TestLaw (mk : Head → AluF → Instr) (p : Wave → Head → AluF → Nat → Bool)
    (fl : Wave → Head → AluF → Nat → Word) : Prop :=
  ∀ (s : State) (h : Head) (f : AluF), Issues s (mk h f) h →
    MaskResult s (mk h f) ((s.unit s.cur).acting h) f.d.toNat (p (s.unit s.cur) h f)
      (fl (s.unit s.cur) h f)

/-- The outstanding result that an instruction of a unit starts (spec 06 R102). -/
def Wave.started (w : Wave) (i : Instr) (d n : Nat) (values : List (Nat × List Word)) : Wave :=
  if values = [] then w.after i
  else
    { w.after i with
      pend := w.pend ++ [{ seq := w.pendSeq, op := i, pc := w.pc.toNat, dst := d, n := n
                           values := values }]
      pendSeq := w.pendSeq + 1 }

/-- Every use of a long-latency instruction that issues completes with its lanes' words on their way, and
its flags ORed into %fflags. -/
def LongLaw (mk : Head → AluF → Instr) (n : Nat) (words : Wave → Head → AluF → Nat → List Word)
    (fl : Wave → Head → AluF → Nat → Word) : Prop :=
  ∀ (s : State) (h : Head) (f : AluF), Issues s (mk h f) h →
    let w := s.unit s.cur
    let ls := lanesOf (w.acting h)
    let w' := w.started (mk h f) f.d.toNat n (ls.map fun l => (l, words w h f l))
    exec (mk h f) s = .next (s.setUnit s.cur
      { w' with fflags := ls.foldl (fun m l => m ||| fl w h f l) w.fflags })

/-! ## The forms in which claims about wave-wide and memory instructions are stated -/

/-- An instruction of the current unit answers the same state but for that unit. -/
def UnitTo (s : State) (i : Instr) (w' : Wave) : Prop := exec i s = .next (s.setUnit s.cur w')

/-- A unit that has taken a precise trap (spec 01 R17, R19). -/
def Wave.trapped (w : Wave) (i : Instr) (cause : Word) (entry : Nat) : Wave :=
  { w with tcause := cause, tpc := w.pc, tinst := firstWord i, resume := w.pc
           pc := BitVec.ofNat 64 entry, inHandler := true, held := false, park := .none
           trapNext := none }

/-- Where the context has a trap entry, the unit is not in its handler and every earlier result has
arrived, the instruction takes the precise trap: only the unit changes (spec 01 R17). A store or atomic that still
waits to be performed is no result (spec 06 R102). -/
def TakesTrap (s : State) (i : Instr) (cause : Word) : Prop :=
  let w := s.unit s.cur
  ∀ entry, (s.ctx w.ctx).trap = some entry → w.inHandler = false → w.results = [] →
    UnitTo s i (w.trapped i cause entry)

/-- An instruction ends in the termination of its unit's group: each of its units runs no more, and of their
accesses those that exit would still have performed are left (spec 07 R117, spec 08 R139); its open lanes, fragments
and waiting lanes are gone; an empty error record of its job takes a status and the record of a trap; and no other
unit changes. -/
def GroupEnds (s : State) (i : Instr) (status : Nat) (tcause : Word) (tpc tinst : DWord) : Prop :=
  let w := s.unit s.cur
  let g := s.group w.group
  let l := s.launch g.launch
  ∃ t, exec i s = .next t ∧
    (∀ u ∈ s.unitsOf w.group, (t.unit u).live = false ∧ (u ≠ s.cur → (t.unit u).pend = (s.unit u).remains)) ∧
    (∀ u, u ∉ s.unitsOf w.group → u ≠ s.cur → t.unit u = s.unit u) ∧
    (t.group w.group).opens = [] ∧ (t.group w.group).frags = [] ∧ (t.group w.group).waits = [] ∧
    ((s.work.jobs.get {} l.job).err = none →
      (t.work.jobs.get {} l.job).err = some
        { status := status, group := g.num, addr := l.recAddr, tcause := tcause.toNat, tpc := tpc.toNat
          tinst := tinst.toNat, count := 0 })

/-- A unit that differs in one written destination: the lanes of a mask hold a value there, and every other
lane and register is as before. -/
def Wrote (w w' : Wave) (lanes : Mask) (d : Nat) (wide : Bool) (n : Nat) : Prop :=
  w' = { w with regs := w'.regs } ∧
  (∀ l, l < 32 → inMask lanes l = true → w'.val wide d l = n % 2 ^ destBits wide) ∧
  (∀ q l, l < 32 → ¬(inMask lanes l = true ∧ (q = d ∨ wide = true ∧ q = d + 1)) →
    w'.reg q l = w.reg q l)

/-- The unit, its launch and its group are of a compute launch. -/
def Computes (s : State) : Prop := (s.draw (s.unit s.cur).launch).live = false

/-- The home slice that a unit's access to an address goes to, and the line that it holds for it
(spec 11 R176, R177). -/
def State.sliceFor (s : State) (u va : Nat) : Nat :=
  let q := s.reqOf u va
  s.sliceOn (s.homeDie q.core (tagAsid q.asid va) va).1 va
def State.lineFor (s : State) (u va : Nat) : Option Line :=
  s.findLine (s.sliceFor u va) (tagAsid (s.reqOf u va).asid va) (va / 128)

/-- The home slice of a request can be named: the lookup in the region home map reads no damaged bytes (spec 15
R245). -/
def State.Homed (s : State) (q : Req) : Prop := s.homeDamaged q.core (tagAsid q.asid q.va) q.va = false

/-- Bytes are not those of the record area of a draw that runs, once something else has written it; and bytes are
those of no record area (spec 17 R259). -/
def State.Plain (s : State) (tag va n : Nat) : Prop :=
  ∀ a ∈ s.mem.areas, a.tainted = true → touches tag va n a.asid a.base a.size = false
def State.Apart (s : State) (tag va n : Nat) : Prop :=
  ∀ a ∈ s.mem.areas, touches tag va n a.asid a.base a.size = false

/-- The home slice of an address holds its line, which grants reading and is not poisoned, with the given
bytes there. -/
def State.Holds (s : State) (u va n : Nat) (bs : List Byte) : Prop :=
  va < 2 ^ 56 ∧ va % n = 0 ∧ s.Homed (s.reqOf u va) ∧ s.Plain (tagAsid (s.reqOf u va).asid va) va n ∧
  ∃ l, s.lineFor u va = some l ∧ l.data.length = 128 ∧ l.attr.r = true ∧ l.poison = false ∧
    bs = (l.data.drop (va % 128)).take n

/-- A load of a unit reads the bytes that the home slice holds: a copy in L1 that it could take instead
holds the same line. -/
def State.Reads (s : State) (u va n : Nat) (bs : List Byte) : Prop :=
  s.Holds u va n bs ∧
  ∀ m, s.l1Find (s.unit u).core (tagAsid (s.reqOf u va).asid va) (va / 128) = some m →
    m.attr.r = true ∧ m.poison = false ∧ (s.lineFor u va).map Line.data = some m.data

/-- A store or atomic of a unit at an address goes to a line that its home slice holds with the grants. -/
def State.Writes (s : State) (u va n : Nat) (r : Bool) : Prop :=
  va < 2 ^ 56 ∧ va % n = 0 ∧ s.Homed (s.reqOf u va) ∧
  (r = true → s.Apart (tagAsid (s.reqOf u va).asid va) va n) ∧
  ∃ l, s.lineFor u va = some l ∧ l.data.length = 128 ∧ l.attr.w = true ∧
    (r = true → l.attr.r = true ∧ l.poison = false)

/-- What memory reads as at a byte of a line that a slice holds. -/
def State.byteIn (s : State) (sl asid va : Nat) : Option Byte :=
  (s.findLine sl asid (va / 128)).map fun l => l.data.getD (va % 128) 0

/-- A unit that has issued a memory instruction: it is past the instruction, and its outstanding
instructions, its latest acquire with what that holds back, and its age may have changed. -/
def Issued (w w' : Wave) (i : Instr) : Prop :=
  w' = { w.after i with
    pend := w'.pend, pendSeq := w.pendSeq + 1, acq := w'.acq, fenceAt := w'.fenceAt, age := w'.age } ∧
  ∀ q : Pend, q.seq ≠ w.pendSeq → (q ∈ w'.pend ↔ q ∈ w.pend)

/-- Everything but the unit, the caches' bookkeeping and the firmware's events is as before: the other
units, the rest of the work, the cores and the contexts. -/
def SameWork (s t : State) : Prop :=
  (∀ u, u ≠ s.cur → t.unit u = s.unit u) ∧ t.work = { s.work with units := t.work.units } ∧
    t.cores = s.cores ∧ t.ctxs = s.ctxs ∧ t.cur = s.cur ∧ t.curMsq = s.curMsq

/-- Every byte of memory reads as before: in physical memory and in the lines that slices hold. -/
def SameBytes (s t : State) : Prop :=
  t.mem.phys = s.mem.phys ∧ ∀ sl asid va, t.byteIn sl asid va = s.byteIn sl asid va

/-- An instruction of a draw completes by changing the element of each active lane as `P` says of the element
before and after, where no other active lane has that element; nothing else of the draw changes. -/
def ElemLaw (s : State) (i : Instr) (h : Head) (P : Nat → Elem → Elem → Prop) : Prop :=
  let w := s.unit s.cur
  let d := s.draw w.launch
  let ls := lanesOf (w.acting h)
  Issues s i h → ∃ d' : Draw,
    exec i s = .next ((s.setDraw w.launch d').setUnit s.cur (w.after i)) ∧
    d' = { d with elems := d'.elems } ∧
    (∀ l ∈ ls, (∀ m ∈ ls, m ≠ l → w.elems.getD m 0 ≠ w.elems.getD l 0) →
      P l (d.elem (w.elems.getD l 0)) (d'.elem (w.elems.getD l 0))) ∧
    ∀ e, (∀ l ∈ ls, w.elems.getD l 0 ≠ e) → d'.elem e = d.elem e

/-! ## The forms in which claims about matrix words are stated -/

/-- A word of the current matrix sequencer answers the same state but for that sequencer. -/
def MsqTo (s : State) (i : Instr) (m' : Msq) : Prop := exec i s = .next (s.setMsq s.curMsq m')

/-- The home slice that the current sequencer's access to an address goes to, its tag and its line. -/
def State.msqTag (s : State) (va : Nat) : Nat := tagAsid (s.msqReq s.curMsq va).asid va
def State.msqSlice (s : State) (va : Nat) : Nat :=
  s.sliceOn (s.homeDie (some s.curMsq) (s.msqTag va) va).1 va
def State.msqLine (s : State) (va : Nat) : Option Line :=
  s.findLine (s.msqSlice va) (s.msqTag va) (va / 128)

/-- The home slice of an address holds its line for the sequencer with the grants, and without poison. -/
def State.MsqReads (s : State) (va : Nat) (bs : List Byte) : Prop :=
  va < 2 ^ 56 ∧ va % 8 = 0 ∧ s.Homed (s.msqReq s.curMsq va) ∧ s.Plain (s.msqTag va) va 8 ∧
  ∃ l, s.msqLine va = some l ∧ l.data.length = 128 ∧ l.attr.r = true ∧ l.poison = false ∧
    bs = (l.data.drop (va % 128)).take 8
def State.MsqWrites (s : State) (va : Nat) : Prop :=
  va < 2 ^ 56 ∧ va % 8 = 0 ∧ s.Homed (s.msqReq s.curMsq va) ∧
    ∃ l, s.msqLine va = some l ∧ l.data.length = 128 ∧ l.attr.w = true

/-- A sequencer's word leaves everything as it was but the sequencer, the caches and the firmware's
events. -/
def SameButMsq (s t : State) : Prop :=
  t.work = s.work ∧ t.ctxs = s.ctxs ∧ t.cur = s.cur ∧ t.curMsq = s.curMsq ∧ t.mem.phys = s.mem.phys ∧
  (∀ c, c ≠ s.curMsq → t.core c = s.core c) ∧
  t.core s.curMsq = { s.core s.curMsq with msq := t.msq s.curMsq }

/-- The current sequencer past a word: it ends there where a cancel has halted it and no word of it is in
flight (spec 22 R330). -/
def State.msqPast (s : State) (m : Msq) : Msq :=
  if m.halted = true ∧ s.msqGone s.curMsq = true ∧ m.bg = [] then m.stopped else { m with inWord := false }

/-- The program stops at its word: no further word issues, everything of the sequencer stays as it was,
and the error record of 16 bytes beyond its counter holds the cause, the writes so far and the word's
place, where the slice holds both its words and no cancel has halted the program; a record whose fill stalls is
written when that ends (spec 22 R328, R330). -/
def MsqStops (s : State) (i : Instr) (cause : Word) : Prop :=
  let m := s.msq s.curMsq
  let bs := leBytes (cause.toNat % 256) 4 ++ leBytes m.j 4 ++ leBytes m.pc 8
  ∃ t : State, exec i s = .next t ∧
    (t.msq s.curMsq = m.stopped ∨
      t.msq s.curMsq = { m with held := true, errRec := some (m.counter + 0x10, bs) }) ∧
    (m.halted = false → (∀ sl, (s.slice sl).spilled = []) → m.counter % 8 = 0 → s.MsqWrites (m.counter + 0x10) →
      s.MsqWrites (m.counter + 0x18) → t.msq s.curMsq = m.stopped ∧ ∀ j, j < 16 →
      t.byteIn (s.msqSlice (m.counter + 0x10 + j)) (s.msqTag (m.counter + 0x10 + j))
        (m.counter + 0x10 + j) = some (bs.getD j 0))

/-! ## Lines of a request -/

/-- The home slice, the tag and the held line of a request. -/
def State.reqTag (_ : State) (q : Req) : Nat := tagAsid q.asid q.va
def State.reqSlice (s : State) (q : Req) : Nat := s.sliceOn (s.homeDie q.core (s.reqTag q) q.va).1 q.va
def State.reqLine (s : State) (q : Req) : Option Line :=
  s.findLine (s.reqSlice q) (s.reqTag q) (q.va / 128)

/-- The home slice holds the line of a request, with the given bytes from its address on; and one that it
may write. -/
def State.ReqReads (s : State) (q : Req) (bs : List Byte) : Prop :=
  q.va < 2 ^ 56 ∧ q.va % 128 + bs.length ≤ 128 ∧ s.Homed q ∧ s.Plain (s.reqTag q) q.va bs.length ∧
  ∃ l, s.reqLine q = some l ∧ l.data.length = 128 ∧ l.attr.r = true ∧ l.poison = false ∧
    bs = (l.data.drop (q.va % 128)).take bs.length
def State.ReqWrites (s : State) (q : Req) (n : Nat) : Prop :=
  q.va < 2 ^ 56 ∧ q.va % 128 + n ≤ 128 ∧ s.Homed q ∧
  ∃ l, s.reqLine q = some l ∧ l.data.length = 128 ∧ l.attr.w = true

/-! ## The arithmetic of the raster and ray units, as the rules write it (spec 18 R272 to R278, spec 19 R295) -/

/-- The order of FP32 patterns: false with a NaN. -/
def below (a b : Nat) : Bool :=
  !(fmt32.unpack a).isNaN && !(fmt32.unpack b).isNaN && (fmt32.unpack a).lt (fmt32.unpack b)
def upTo (a b : Nat) : Bool :=
  !(fmt32.unpack a).isNaN && !(fmt32.unpack b).isNaN && !(fmt32.unpack b).lt (fmt32.unpack a)

/-- n/16 as FP32, and the place of a sample in sixteenths from the corner of its pixel (R272). -/
def per16 (n : Nat) : Nat := (fmt32.round .ieee .rn false n (-4)).val
def samplePlace (code s : Nat) : Nat × Nat :=
  ((#[[(8, 8)], [(12, 4), (4, 12)], [(6, 2), (14, 6), (2, 10), (10, 14)],
      [(9, 5), (7, 11), (13, 9), (5, 3), (3, 13), (1, 7), (11, 15), (15, 1)]].getD code []).getD s (8, 8))

/-- Edge value i of R273 at a point, for the screen values x and y of three vertices, and twice the signed area. -/
def edgeAt (x y : Nat → Nat) (sx sy i : Nat) : Nat :=
  let a := fun j => rSub (x (j % 3)) sx
  let b := fun j => rSub (y (j % 3)) sy
  rFma (a (i + 1)) (b (i + 2)) (rNeg (rMul (a (i + 2)) (b (i + 1))))
def areaOf (x y : Nat → Nat) : Nat :=
  rFma (rSub (x 1) (x 0)) (rSub (y 2) (y 0)) (rNeg (rMul (rSub (x 2) (x 0)) (rSub (y 1) (y 0))))

/-- Whether a primitive can produce an element (R273). -/
def produces (x y z w : Nat → Nat) : Bool :=
  let finite := fun a : Nat => a / 2 ^ 23 % 2 ^ 8 ≠ 255
  (List.range 3).all (fun i => finite (x i) && finite (y i) && finite (z i) && finite (w i) && below 0 (w i))
    && finite (areaOf x y) && areaOf x y % 2 ^ 31 ≠ 0

/-- Whether a point is inside (R273): its edge values that are not zero share one sign, and each edge whose value is
zero owns it. -/
def coversPoint (x y : Nat → Nat) (sx sy : Nat) : Bool :=
  let e := edgeAt x y sx sy
  let zero := fun a : Nat => a % 2 ^ 31 = 0
  let sign := fun a : Nat => a / 2 ^ 31 % 2
  let first := fun (a rest : Nat) => if zero a then rest else sign a
  let common := first (e 0) (first (e 1) (first (e 2) (sign (areaOf x y))))
  let less := fun (a b : Nat) => if common = 0 then below a b else below b a
  (List.range 3).all fun i =>
    let j := (i + 1) % 3
    let k := (i + 2) % 3
    if zero (e i) then
      less (y j) (y k) || (!below (y j) (y k) && !below (y k) (y j) && less (x k) (x j))
    else !(fmt32.unpack (e i)).isNaN && sign (e i) = common

/-- The depth of a point, and the value there of a slot v of the vertices (R275). -/
def depthAt (x y z : Nat → Nat) (sx sy : Nat) : Nat :=
  let e := edgeAt x y sx sy
  let t := rAdd (rAdd (e 0) (e 1)) (e 2)
  let l := fun i => rDiv (e i) t
  rFma (l 2) (z 2) (rFma (l 1) (z 1) (rMul (l 0) (z 0)))
def slotAt (x y w v : Nat → Nat) (sx sy : Nat) : Nat :=
  let q := fun i => rDiv (edgeAt x y sx sy i) (w i)
  let t := rAdd (rAdd (q 0) (q 1)) (q 2)
  let b := fun i => rDiv (q i) t
  rFma (b 2) (v 2) (rFma (b 1) (v 1) (rMul (b 0) (v 0)))

/-- The samples of a coarse pixel at (cx, cy) that a primitive covers: its bit of the cov mask, pixel and sample, for
each that lies in the target and whose depth is in [0, 1], of a coarse pixel that its bounding box meets (R273,
R274). -/
def coveredAt (b : DrawBlk) (x y z : Nat → Nat) (cx cy : Nat) : List (Nat × Nat × Nat × Nat × Nat) :=
  let cw := if b.coarse % 2 = 1 then 2 else 1
  let ch := if b.coarse / 2 % 2 = 1 then 2 else 1
  let spp := 2 ^ b.sppCode
  let box := fun (v : Nat → Nat) (at_ n : Nat) =>
    below (rMin (rMin (v 0) (v 1)) (v 2)) (per16 (16 * (at_ + n)))
      && upTo (per16 (16 * at_)) (rMax (rMax (v 0) (v 1)) (v 2))
  (List.range (cw * ch * spp)).filterMap fun i =>
    let px := cx + i / spp % cw
    let py := cy + i / spp / cw
    let o := samplePlace b.sppCode (i % spp)
    let sx := per16 (16 * px + o.1)
    let sy := per16 (16 * py + o.2)
    let depth := depthAt x y z sx sy
    if box x cx cw && box y cy ch && px < b.width && py < b.height && coversPoint x y sx sy && upTo 0 depth
        && upTo depth 0x3F80_0000 then some (i, px, py, i % spp, depth)
    else none

/-- Whether ztest finds a box visible (R278); of a pyramid, where a pixel of the box in the target lies in a tile of 8
× 8 whose bound does not fail the comparison with the depth. -/
def boxSeen (b : DrawBlk) (pyr : Option Pyramid) (x0 y0 x1 y1 z : Nat) : Prop :=
  let nan := fun a : Nat => (fmt32.unpack a).isNaN = true
  let on := fun (p lo hi : Nat) => below lo (per16 (16 * (p + 1))) = true ∧ upTo (per16 (16 * p)) hi = true
  let stands := fun least most : Nat =>
    match b.cmp with
    | 0 => below z most
    | 1 => upTo z most
    | 2 => below least z
    | _ => upTo least z
  nan x0 ∨ nan y0 ∨ nan x1 ∨ nan y1 ∨ nan z ∨ below x1 x0 = true ∨ below y1 y0 = true ∨
  (below x1 0 = false ∧ below y1 0 = false ∧ below x0 (per16 (16 * b.width)) = true ∧
    below y0 (per16 (16 * b.height)) = true ∧
    (b.flags / 2 % 2 = 1 → ∀ p, pyr = some p → ∃ px py : Nat, px < b.width ∧ py < b.height ∧
      on px x0 x1 ∧ on py y0 y1 ∧ px / 8 < (p.width + 7) / 8 ∧
      ∃ bound : Word × Word, (p.levels.headD [])[py / 8 * ((p.width + 7) / 8) + px / 8]? = some bound ∧
        stands bound.1.toNat bound.2.toNat = true))

/-- The tests of R295 of a box, and of a triangle: t, or infinity. -/
def hitsBox (r : Ray) (lo hi : Vec3) : Bool :=
  let near := fun (l h o d : Nat) => rMin (rDiv (rSub l o) d) (rDiv (rSub h o) d)
  let far := fun (l h o d : Nat) => rMax (rDiv (rSub l o) d) (rDiv (rSub h o) d)
  upTo (rMax (rMax (rMax r.tmin (near lo.x hi.x r.o.x r.d.x)) (near lo.y hi.y r.o.y r.d.y))
      (near lo.z hi.z r.o.z r.d.z))
    (rMin (rMin (rMin r.tmax (far lo.x hi.x r.o.x r.d.x)) (far lo.y hi.y r.o.y r.d.y))
      (far lo.z hi.z r.o.z r.d.z))
    && upTo lo.x hi.x && upTo lo.y hi.y && upTo lo.z hi.z
def hitsTriangle (r : Ray) (p0 p1 p2 : Vec3) : Nat :=
  let less := fun a b : Vec3 => (⟨rSub a.x b.x, rSub a.y b.y, rSub a.z b.z⟩ : Vec3)
  let dot := fun a b : Vec3 => rFma a.z b.z (rFma a.y b.y (rMul a.x b.x))
  let cross := fun a b : Vec3 => (⟨rFma a.y b.z (rNeg (rMul a.z b.y)), rFma a.z b.x (rNeg (rMul a.x b.z)),
    rFma a.x b.y (rNeg (rMul a.y b.x))⟩ : Vec3)
  let e1 := less p1 p0
  let e2 := less p2 p0
  let s := less r.o p0
  let h := cross r.d e2
  let det := dot e1 h
  let u := rDiv (dot s h) det
  let q := cross s e1
  let v := rDiv (dot r.d q) det
  let t := rDiv (dot e2 q) det
  if (below det 0 || below 0 det) && upTo 0 u && upTo 0 v && upTo (rAdd u v) 0x3F80_0000
      && upTo r.tmin t && upTo t r.tmax then t else 0x7F80_0000

end Sys2Proof.Machine
end

