-- ==== Sys2Proof/Certificates/Slice0/Obligations.lean ====
section
/-!
DEFINITION. The statements for the provers. Each docstring names the rules of the spec that the statement
follows.
-/

open Sys2Proof Sys2Proof.Machine

/-! ## Lanes: integers (spec 10 R151 to R155) -/

/-- Integer arithmetic: a ± b modulo 2^W, or clamped to the type's range with .sat; −a, |a|, the smaller,
the larger, the low and the high W bits of the product and a × b + c, modulo 2^W (R151). addc and subb: the
sum or difference with the lane's bit of kC, modulo 2^W, and the carry or borrow in the active lanes of kC,
whose other lanes keep their bits; of k0 the carry in is 1 and the carry out is discarded (R152). -/
def Obligations.IntegerArithmetic : Prop :=
  LaneLaw .ADD asTyped (fun w _ f l n =>
    if f.mod.getLsbD 0 then
      f.ty.toInt n = max f.ty.minInt (min f.ty.maxInt (f.ty.toInt (w.opA f l) + f.ty.toInt (w.opB f l)))
    else n = (w.opA f l + w.opB f l) % 2 ^ f.ty.width) noFlags ∧
  LaneLaw .SUB asTyped (fun w _ f l n =>
    if f.mod.getLsbD 0 then
      f.ty.toInt n = max f.ty.minInt (min f.ty.maxInt (f.ty.toInt (w.opA f l) - f.ty.toInt (w.opB f l)))
    else (n : Int) = ((w.opA f l : Int) - w.opB f l) % 2 ^ f.ty.width) noFlags ∧
  LaneLaw .NEG asTyped (fun w _ f l n => (n : Int) = (-(w.opA f l : Int)) % 2 ^ f.ty.width) noFlags ∧
  LaneLaw .ABS asTyped (fun w _ f l n => (n : Int) = |f.ty.toInt (w.opA f l)| % 2 ^ f.ty.width) noFlags ∧
  LaneLaw .MIN asTyped (fun w _ f l n =>
    n = (if f.ty.toInt (w.opA f l) ≤ f.ty.toInt (w.opB f l) then w.opA f l else w.opB f l)
      % 2 ^ f.ty.width) noFlags ∧
  LaneLaw .MAX asTyped (fun w _ f l n =>
    n = (if f.ty.toInt (w.opA f l) ≤ f.ty.toInt (w.opB f l) then w.opB f l else w.opA f l)
      % 2 ^ f.ty.width) noFlags ∧
  LaneLaw .MUL_LO asTyped (fun w _ f l n => n = w.opA f l * w.opB f l % 2 ^ f.ty.width) noFlags ∧
  LaneLaw .MUL_HI asTyped (fun w _ f l n =>
    (n : Int) = f.ty.toInt (w.opA f l) * f.ty.toInt (w.opB f l) / 2 ^ f.ty.width % 2 ^ f.ty.width)
    noFlags ∧
  LaneLaw .MAD asTyped (fun w _ f l n =>
    n = (w.opA f l * w.val f.ty.wide f.b.toNat l + w.opC f l) % 2 ^ f.ty.width) noFlags ∧
  ∀ (s : State) (h : Head) (f : AluF),
    let w := s.unit s.cur
    let a := w.acting h
    let x := fun l => w.val f.ty.wide f.a.toNat l
    let y := fun l => w.val f.ty.wide f.b.toNat l
    let k := fun l => (inMask (w.kreg f.c.toNat) l).toNat
    let law := fun (i : Instr) (v : Nat → Int) (out : Nat → Bool) =>
      Issues s i h → ∃ w' : Wave,
        exec i s = .next (s.setUnit s.cur w') ∧
        w' = { w.after i with regs := w'.regs, k := w'.k } ∧
        (∀ l, l < 32 → inMask a l = true →
          (w'.val f.ty.wide f.d.toNat l : Int) = v l % 2 ^ f.ty.width) ∧
        (∀ q l, l < 32 →
          ¬(inMask a l = true ∧ (q = f.d.toNat ∨ f.ty.wide = true ∧ q = f.d.toNat + 1)) →
          w'.reg q l = w.reg q l) ∧
        (∀ j, j ≠ f.c.toNat → w'.kreg j = w.kreg j) ∧
        (f.c.toNat = 0 → w'.k = w.k) ∧
        (f.c.toNat ≠ 0 → ∀ l, l < 32 →
          inMask (w'.kreg f.c.toNat) l = if inMask a l then out l else inMask (w.kreg f.c.toNat) l)
    law (.ADDC h f) (fun l => (x l : Int) + y l + k l) (fun l => 2 ^ f.ty.width ≤ x l + y l + k l) ∧
    law (.SUBB h f) (fun l => (x l : Int) - y l - k l) (fun l => x l < y l + k l)

/-- Logic, shifts and bit counts: bitwise results on W bits; shifts whose count of W or more leaves 0, or
copies of the sign; the number of set bits, of zero bits above the highest and below the lowest set bit,
W for 0; and the bits in reverse. Every minor of 0x0D except bfe and bfi needs mod zero, and a word of one with
another mod raises RSV_FIELD with offending bit 0 (R153). -/
def Obligations.LogicAndShifts : Prop :=
  LaneLaw .AND asTyped (fun w _ f l n => n = (w.opA f l &&& w.opB f l) % 2 ^ f.ty.width) noFlags ∧
  LaneLaw .OR asTyped (fun w _ f l n => n = (w.opA f l ||| w.opB f l) % 2 ^ f.ty.width) noFlags ∧
  LaneLaw .XOR asTyped (fun w _ f l n => n = (w.opA f l ^^^ w.opB f l) % 2 ^ f.ty.width) noFlags ∧
  LaneLaw .NOT asTyped (fun w _ f l n => n + w.opA f l = 2 ^ f.ty.width - 1) noFlags ∧
  LaneLaw .SHL asTyped (fun w _ f l n => n = w.opA f l * 2 ^ w.countB f l % 2 ^ f.ty.width) noFlags ∧
  LaneLaw .SHR asTyped (fun w _ f l n => n = w.opA f l / 2 ^ w.countB f l) noFlags ∧
  LaneLaw .SRA asTyped (fun w _ f l n =>
    (n : Int) = (if 2 ^ (f.ty.width - 1) ≤ w.opA f l then (w.opA f l : Int) - 2 ^ f.ty.width
      else w.opA f l) / 2 ^ w.countB f l % 2 ^ f.ty.width) noFlags ∧
  LaneLaw .POPC oneReg (fun w _ f l n =>
    n = ((List.range f.ty.width).filter fun i => (w.opA f l).testBit i).length) noFlags ∧
  LaneLaw .CLZ oneReg (fun w _ f l n =>
    n ≤ f.ty.width ∧ w.opA f l < 2 ^ (f.ty.width - n) ∧
      (n < f.ty.width → 2 ^ (f.ty.width - n - 1) ≤ w.opA f l)) noFlags ∧
  LaneLaw .CTZ oneReg (fun w _ f l n =>
    n ≤ f.ty.width ∧ 2 ^ n ∣ w.opA f l ∧ (n < f.ty.width → (w.opA f l).testBit n = true)) noFlags ∧
  LaneLaw .BREV asTyped (fun w _ f l n =>
    ∀ i, i < f.ty.width → n.testBit i = (w.opA f l).testBit (f.ty.width - 1 - i)) noFlags ∧
  ∀ w next : DWord, w.toNat / 2 ^ 58 = 0x0D →
    w.toNat / 2 ^ 8 % 16 ∈ [0, 1, 2, 3, 4, 5, 6, 9, 10, 11, 12] → w.toNat % 8 ≠ 0 →
    decode w next = .error (.rsvField (false, 0))

/-- Bit fields with their offset and width clamped (R154), and moves, selection and addresses (R155). -/
def Obligations.FieldsAndMoves : Prop :=
  LaneLaw .BFE asTyped (fun w _ f l n =>
    let o := min (w.val false f.b.toNat l) f.ty.width
    let m := min (w.srcOrImm f f.c false l) (f.ty.width - o)
    let v := w.opA f l / 2 ^ o % 2 ^ m
    (n : Int) = if m = 0 then 0
      else if f.ty.signed = true ∧ 2 ^ (m - 1) ≤ v then ((v : Int) - 2 ^ m) % 2 ^ f.ty.width else v)
    noFlags ∧
  LaneLaw .BFI asTyped (fun w _ f l n =>
    let o := min (w.val false f.b.toNat l) f.ty.width
    let m := min (w.srcOrImm f f.c false l) (f.ty.width - o)
    ∀ i, i < f.ty.width → n.testBit i =
      if o ≤ i ∧ i < o + m then (w.opA f l).testBit (i - o)
      else (w.val f.ty.wide f.d.toNat l).testBit i) noFlags ∧
  LaneLaw .MOV asTyped (fun w _ f l n => n = w.opA f l) noFlags ∧
  LaneLaw .MOVI asTyped (fun _ _ f _ n => n = f.immVal f.a % 2 ^ f.ty.width) noFlags ∧
  LaneLaw .SEL asTyped (fun w _ f l n =>
    n = if inMask (w.kreg f.c.toNat) l then w.opA f l else w.val f.ty.wide f.b.toNat l) noFlags ∧
  LaneLaw .LEA (fun _ => true) (fun w _ f l n =>
    n = (w.val true f.a.toNat l + w.val false f.b.toNat l * 2 ^ f.mod.toNat) % 2 ^ 64) noFlags ∧
  LaneLaw .LEA_SYMBOL (fun _ => true) (fun _ _ f _ n => n = (f.ext.getD 0).toNat) noFlags

/-! ## Lanes: comparisons and floats -/

/-- cmp: the truth of the comparison in the active lanes of kD, by the integers of an integer type or the
values of a float type; NV for any NaN operand of an ordering, and of the others for a signalling one
(spec 08 R138). -/
def Obligations.Comparisons : Prop :=
  let onInts := fun (p : Int → Int → Bool) (w : Wave) (_ : Head) (f : AluF) (l : Nat) =>
    p (f.ty.toInt (w.opA f l)) (f.ty.toInt (w.opB f l))
  let law := fun (mk : Head → AluF → Instr) (p : Int → Int → Bool) (q : Fl → Fl → Bool) (quiet : Bool) =>
    TestLaw mk (fun w h f l => match f.ty.fmt? with
        | none => onInts p w h f l
        | some t => q (t.unpack (w.opA f l)) (t.unpack (w.opB f l)))
      (fun w _ f l => match f.ty.fmt? with
        | none => 0
        | some t =>
          let x := t.unpack (w.opA f l)
          let y := t.unpack (w.opB f l)
          if (if quiet then x.signalling || y.signalling else x.isNaN || y.isNaN) then flagNV else 0)
  let num := fun (p : Fl → Fl → Bool) (x y : Fl) => !x.isNaN && !y.isNaN && p x y
  law .CMP_EQ (fun a b => a = b) (fun x y => num (fun x y => !x.lt y && !y.lt x) x y) true ∧
  law .CMP_NE (fun a b => a ≠ b) (fun x y => !num (fun x y => !x.lt y && !y.lt x) x y) true ∧
  law .CMP_LT (fun a b => a < b) (num fun x y => x.lt y) false ∧
  law .CMP_LE (fun a b => a ≤ b) (num fun x y => !y.lt x) false ∧
  law .CMP_GT (fun a b => b < a) (num fun x y => y.lt x) false ∧
  law .CMP_GE (fun a b => b ≤ a) (num fun x y => !x.lt y) false ∧
  law .CMP_NUM (fun _ _ => true) (num fun _ _ => true) true ∧
  law .CMP_NAN (fun _ _ => false) (fun x y => x.isNaN || y.isNaN) true

/-- Every float instruction computes its one-rounding result in each active lane and ORs its flags into
%fflags; fabs and fneg change the sign bit alone and raise no flag; fcvt reads the type in c; each half
of hfma2 is computed by itself and their flags are ORed (R157 to R161). -/
def Obligations.FloatInstructions : Prop :=
  let fmt := fun f : AluF => fmtOf f
  ResLaw .FADD asTyped (fun w f l => (fmt f).add (rndOf f) (w.opA f l) (w.opB f l)) ∧
  ResLaw .FSUB asTyped (fun w f l => (fmt f).sub (rndOf f) (w.opA f l) (w.opB f l)) ∧
  ResLaw .FMUL asTyped (fun w f l => (fmt f).mul (rndOf f) (w.opA f l) (w.opB f l)) ∧
  ResLaw .FFMA asTyped (fun w f l =>
    (fmt f).fma (rndOf f) (w.opA f l) (w.val f.ty.wide f.b.toNat l) (w.opC f l)) ∧
  ResLaw .DADD asTyped (fun w f l => (fmt f).add (rndOf f) (w.opA f l) (w.opB f l)) ∧
  ResLaw .DSUB asTyped (fun w f l => (fmt f).sub (rndOf f) (w.opA f l) (w.opB f l)) ∧
  ResLaw .DMUL asTyped (fun w f l => (fmt f).mul (rndOf f) (w.opA f l) (w.opB f l)) ∧
  ResLaw .DFMA asTyped (fun w f l =>
    (fmt f).fma (rndOf f) (w.opA f l) (w.val f.ty.wide f.b.toNat l) (w.opC f l)) ∧
  ResLaw .FMIN asTyped (fun w f l => (fmt f).minMax false (w.opA f l) (w.opB f l)) ∧
  ResLaw .FMAX asTyped (fun w f l => (fmt f).minMax true (w.opA f l) (w.opB f l)) ∧
  LaneLaw .FABS asTyped (fun w _ f l n => ∀ j, j < destBits f.ty.wide →
    n.testBit j = ((w.opA f l).testBit j && decide (j < (fmt f).signBit))) noFlags ∧
  LaneLaw .FNEG asTyped (fun w _ f l n => ∀ j, j < destBits f.ty.wide →
    n.testBit j = ((w.opA f l).testBit j ^^ decide (j = (fmt f).signBit))) noFlags ∧
  ResLaw .FRND asTyped (fun w f l => (fmt f).rint (rndOf f) (w.opA f l)) ∧
  ResLaw .FCMP oneReg (fun w f l => (fmt f).order (w.opA f l) (w.opB f l)) ∧
  ResLaw .FCVT asTyped (fun w f l =>
    let src := (Ty.ofCode (f.c.toNat % 16)).getD .n32
    convert f.ty src (rndOf f) (w.val src.wide f.a.toNat l % 2 ^ src.bits)) ∧
  ResLaw .HFMA2 oneReg (fun w f l =>
    let half := fun (x i : Nat) => x / 2 ^ (16 * i) % 2 ^ 16
    let c := fun i => if f.imm then f.immVal f.c % 2 ^ 16 else half (w.val false f.c.toNat l) i
    let r := fun i => (fmt f).fma (rndOf f) (half (w.val false f.a.toNat l) i)
      (half (w.val false f.b.toNat l) i) (c i)
    { val := (r 1).val * 2 ^ 16 + (r 0).val, flags := (r 0).flags ||| (r 1).flags })

/-- NaNs and invalid operations of the four arithmetic formats (R157): the first NaN operand is the result,
quieted with its sign and payload kept, and NV is set where an operand signals; infinity minus infinity
and zero times infinity give the NaNs of causes 3 and 4 with NV; a fused multiply-add of zero times
infinity sets NV even when c is a quiet NaN, which is then the result. A value that a format holds is its own
rounding, in every direction and with no flag: an exact result, subnormal ones included, is neither flushed
nor flagged. Every other number is rounded once: to the nearest value, of two the even one, or to the next
one in the direction; beyond the largest finite value to infinity, or to that value, with OF and NX, and in a
narrow format to that value with SAT too; NX and, for a tiny result, UF say that it differs (R156, R161).
Sums, differences, products and fused products of finite operands are the rounded exact numbers, with the
zero signs of R156. fmin and fmax order −0 below +0 and prefer a number to a NaN; comparisons and fcmp order
by value; frnd gives the integral value in the direction (R138, R159); and conversions clamp, round and carry
NaNs as R160 and R161 say. -/
def Obligations.NaNsAndExactResults : Prop :=
  let arith := [fmt16, fmtB16, fmt32, fmt64]
  let narrow := [fmtE4M3, fmtE5M2, fmtE2M1]
  (∀ f ∈ arith, ∀ (rnd : Rnd) (a b c : Nat),
    let quiet := 2 ^ (f.frac - 1)
    let inf := f.infBits
    (∀ g ∈ [f.add rnd, f.sub rnd, f.mul rnd],
      ((f.unpack a).isNaN = true → a < 2 ^ (f.signBit + 1) →
        (g a b).val = a ||| quiet ∧
          (g a b).flags = flagIf ((f.unpack a).signalling || (f.unpack b).signalling) flagNV) ∧
      ((f.unpack a).isNaN = false → (f.unpack b).isNaN = true → b < 2 ^ (f.signBit + 1) →
        (g a b).val = b ||| quiet ∧ (g a b).flags = flagIf (f.unpack b).signalling flagNV)) ∧
    f.add rnd inf (inf + 2 ^ f.signBit) = { val := inf + quiet + 3, flags := flagNV } ∧
    f.sub rnd inf inf = { val := inf + quiet + 3, flags := flagNV } ∧
    f.mul rnd 0 inf = { val := inf + quiet + 4, flags := flagNV } ∧
    f.mul rnd inf 0 = { val := inf + quiet + 4, flags := flagNV } ∧
    ((f.unpack c).isNaN = false → f.fma rnd 0 inf c = { val := inf + quiet + 4, flags := flagNV }) ∧
    ((f.unpack c).isNaN = true → c < 2 ^ (f.signBit + 1) →
      f.fma rnd 0 inf c = { val := c ||| quiet, flags := flagNV })) ∧
  (∀ f ∈ arith, ∀ (rnd : Rnd) (n m : Nat) (sg : Bool) (e : Int),
    n < 2 ^ (f.signBit + 1) → f.unpack n = .fin sg m e → f.round .ieee rnd sg m e = { val := n }) ∧
  -- rounding once
  (∀ (rnd : Rnd) (sg : Bool) (m : Nat) (e : Int),
    (∀ f ∈ arith, RoundsTo f .ieee rnd sg (dyadic sg m e) (f.round .ieee rnd sg m e)) ∧
    ∀ f ∈ narrow, RoundsTo f .saturate rnd sg (dyadic sg m e) (f.round .saturate rnd sg m e)) ∧
  -- sums and products of finite operands
  (∀ f ∈ arith, ∀ (rnd : Rnd) (a b c : Nat) (sa sb sc : Bool) (ma mb mc : Nat) (ea eb ec : Int),
    f.unpack a = .fin sa ma ea → f.unpack b = .fin sb mb eb → f.unpack c = .fin sc mc ec →
    let x := dyadic sa ma ea
    let y := dyadic sb mb eb
    let z := dyadic sc mc ec
    let signOf := fun (s t : Bool) (u v : ℚ) =>
      if u + v = 0 then (if u = 0 ∧ s = t then s else decide (rnd = .rm)) else decide (u + v < 0)
    RoundsTo f .ieee rnd (signOf sa sb x y) (x + y) (f.add rnd a b) ∧
    RoundsTo f .ieee rnd (signOf sa (!sb) x (-y)) (x - y) (f.sub rnd a b) ∧
    RoundsTo f .ieee rnd (sa != sb) (x * y) (f.mul rnd a b) ∧
    RoundsTo f .ieee rnd (signOf (sa != sb) sc (x * y) z) (x * y + z) (f.fma rnd a b c)) ∧
  -- the order of values
  (∀ f ∈ arith, ∀ a b : Nat, a < 2 ^ (f.signBit + 1) → b < 2 ^ (f.signBit + 1) →
    let neg := fun n : Nat => 2 ^ f.signBit ≤ n
    let mag := fun n : Nat => (n : Int) % 2 ^ f.signBit
    let key := fun n : Nat => if neg n then -1 - mag n else mag n
    let value := fun n : Nat => if neg n then -mag n else mag n
    let nan := fun n : Nat => (f.unpack n).isNaN = true
    let nv := flagIf ((f.unpack a).signalling || (f.unpack b).signalling) flagNV
    let quiet := 2 ^ (f.frac - 1)
    (¬nan a → ¬nan b →
      ((f.unpack a).lt (f.unpack b) = decide (value a < value b)) ∧
      f.minMax false a b = { val := if key a ≤ key b then a else b } ∧
      f.minMax true a b = { val := if key a ≤ key b then b else a } ∧
      f.order a b = { val := if value a = value b then 0 else if value a < value b then 1 else 2 }) ∧
    ∀ up : Bool,
      (nan a → ¬nan b → f.minMax up a b = { val := b, flags := nv }) ∧
      (¬nan a → nan b → f.minMax up a b = { val := a, flags := nv }) ∧
      (nan a → nan b → f.minMax up a b = { val := a ||| quiet, flags := nv }) ∧
      (nan a ∨ nan b → f.order a b = { val := 3, flags := nv })) ∧
  -- integral values
  (∀ f ∈ arith, ∀ (rnd : Rnd) (a : Nat), a < 2 ^ (f.signBit + 1) →
    (∀ s m e, f.unpack a = .fin s m e → ∃ k j i, f.unpack (f.rint rnd a).val = .fin s k j ∧
      dyadic s k j = (i : Int) ∧ IntRounds rnd (dyadic s m e) i ∧ (f.rint rnd a).flags = 0) ∧
    ((f.unpack a).isInf = true → f.rint rnd a = { val := a }) ∧
    ((f.unpack a).isNaN = true → f.rint rnd a =
      { val := a ||| 2 ^ (f.frac - 1), flags := flagIf (f.unpack a).signalling flagNV })) ∧
  -- conversions
  ∀ (dst src : Ty) (rnd : Rnd) (a : Nat),
    let r := convert dst src rnd a
    let clamps := fun (i : Int) (out exact : Word) =>
      (dst.minInt ≤ i → i ≤ dst.maxInt → dst.toInt r.val = i ∧ r.flags = exact) ∧
      (i < dst.minInt → dst.toInt r.val = dst.minInt ∧ r.flags = out) ∧
      (dst.maxInt < i → dst.toInt r.val = dst.maxInt ∧ r.flags = out)
    let ends := fun d : Fmt => if d ∈ narrow then Over.saturate else .ieee
    (dst.fmt? = none → src.fmt? = none → clamps (src.toInt a) flagSAT 0) ∧
    (∀ d, dst.fmt? = some d → src.fmt? = none →
      RoundsTo d (ends d) rnd (decide (src.toInt a < 0)) (src.toInt a) r) ∧
    (∀ t, dst.fmt? = none → src.fmt? = some t →
      (∀ s m e, t.unpack a = .fin s m e → ∃ i, IntRounds rnd (dyadic s m e) i ∧
        (dyadic s m e = i → clamps i flagNV 0) ∧ (dyadic s m e ≠ i → clamps i flagNV flagNX)) ∧
      (∀ s, t.unpack a = .inf s →
        dst.toInt r.val = (if s then dst.minInt else dst.maxInt) ∧ r.flags = flagNV) ∧
      ((t.unpack a).isNaN = true → r = { val := 0, flags := flagNV })) ∧
    ∀ d t, dst.fmt? = some d → src.fmt? = some t →
      (∀ s m e, t.unpack a = .fin s m e → RoundsTo d (ends d) rnd s (dyadic s m e) r) ∧
      (∀ s, t.unpack a = .inf s → (d ∉ narrow → r = { val := d.signed s d.infBits }) ∧
        (d ∈ narrow → r = { val := d.signed s d.maxFin, flags := flagSAT })) ∧
      ∀ s p q, t.unpack a = .nan s p q →
        let nv := flagIf (!q) flagNV
        let pay := p % 2 ^ (t.frac - 1)
        (d ∉ narrow → r = { val := d.signed s (d.infBits + 2 ^ (d.frac - 1)
            + (if t.frac ≤ d.frac then pay * 2 ^ (d.frac - t.frac) else pay / 2 ^ (t.frac - d.frac)))
                            flags := nv }) ∧
        (d = fmtE4M3 → r = { val := d.signed s 0x7F, flags := nv }) ∧
        (d = fmtE5M2 → 2 ≤ t.frac → r = { val := d.signed s (0x7E + p / 2 ^ (t.frac - 2) % 2), flags := nv }) ∧
        (d = fmtE2M1 → r = { val := 0, flags := flagNV })

/-! ## Lanes: crossing lanes (spec 10 R162 to R165) -/

/-- shfl and bcast read the named lane where it is active, else their own; vote writes one truth to the
active lanes of kD; match writes the mask of the active lanes with an equal value (R163, R164). -/
def Obligations.LanesReadLanes : Prop :=
  let moves := fun (mk : Head → AluF → Instr) (src : Wave → Head → AluF → Nat → Int) =>
    LaneLaw mk asTyped (fun w h f l n =>
      (∀ j : Nat, src w h f l = j → j < 32 → inMask (w.acting h) j = true → n = w.opA f j) ∧
      ((¬∃ j : Nat, src w h f l = j ∧ j < 32 ∧ inMask (w.acting h) j = true) → n = w.opA f l)) noFlags
  let active := fun (w : Wave) (h : Head) (q : Nat) => q < 32 ∧ inMask (w.acting h) q = true
  moves .SHFL_IDX (fun w _ f l => w.countB f l) ∧
  moves .SHFL_UP (fun w _ f l => (l : Int) - w.countB f l) ∧
  moves .SHFL_DOWN (fun w _ f l => (l : Int) + w.countB f l) ∧
  moves .SHFL_XOR (fun w _ f l => ((l ^^^ w.countB f l : Nat) : Int)) ∧
  moves .BCAST (fun w h f _ => w.countB f (lowestLane (w.acting h))) ∧
  TestLaw .VOTE_ANY (fun w h f _ => (w.kreg f.a.toNat &&& w.acting h) ≠ 0) noFlags ∧
  TestLaw .VOTE_ALL (fun w h f _ => (w.kreg f.a.toNat &&& w.acting h) = w.acting h) noFlags ∧
  (∀ (s : State) (h : Head) (f : AluF), Issues s (.VOTE_EQ h f) h →
    ∃ r : Bool, (r = true ↔ ∀ p q, active (s.unit s.cur) h p → active (s.unit s.cur) h q →
        (s.unit s.cur).opA f p = (s.unit s.cur).opA f q) ∧
      MaskResult s (.VOTE_EQ h f) ((s.unit s.cur).acting h) f.d.toNat (fun _ => r) fun _ => 0) ∧
  LaneLaw .MATCH oneReg (fun w h f l n => n < 2 ^ 32 ∧
    ∀ q, q < 32 → (n.testBit q = true ↔ active w h q ∧ w.opA f q = w.opA f l)) noFlags

/-- red and scan fold the active lanes in increasing order: every active lane receives the fold of all of them, or
that of the lanes up to its own, or with .ex of those before it, from the identity. Integer steps are exact; a float
step is that of fadd to nearest, fmin or fmax, and flags gather from every step that a written value needs; and, or
and xor of .f32 raise RSV_FIELD at bit 4; and the spec's word of scan.add.ex is that instruction (R165). Of words
that are red or scan otherwise, one with imm set raises RSV_FIELD at bit 3: that it is this bit, which R50 names,
and not bit 4 is the model's choice (log entry 100). -/
def Obligations.FoldsInLaneOrder : Prop :=
  let foldl := fun (op : Nat → Nat → Res) (vs : List Nat) =>
    vs.tail.foldl (fun (r : Res) v => (op r.val v).raise r.flags) { val := vs.headD 0 }
  let values := fun (w : Wave) (h : Head) (f : AluF) => (lanesOf (w.acting h)).map fun l => w.opA f l
  let upto := fun (w : Wave) (h : Head) (f : AluF) (l : Nat) =>
    ((lanesOf (w.acting h)).filter (· ≤ l)).map fun l => w.opA f l
  let before := fun (w : Wave) (h : Head) (f : AluF) (l : Nat) =>
    ((lanesOf (w.acting h)).filter (· < l)).map fun l => w.opA f l
  let law := fun (red scan : Head → AluF → Instr) (ints : Ty → Nat → Nat → Nat)
      (floats : Option (Fmt → Nat → Nat → Res)) (ident : Ty → Nat) =>
    let op := fun (f : AluF) (a b : Nat) => match f.ty.fmt?, floats with
      | some t, some g => g t a b
      | _, _ => { val := ints f.ty a b % 2 ^ f.ty.width }
    let fits := fun f : AluF => f.ty.fmt? = none ∨ floats.isSome = true
    (∀ (s : State) (h : Head) (f : AluF), fits f → Issues s (red h f) h →
      let w := s.unit s.cur
      LaneResult s (red h f) (w.acting h) f.d.toNat f.ty.wide
        (fun _ n => n = (foldl (op f) (values w h f)).val % 2 ^ destBits f.ty.wide)
        (fun _ => (foldl (op f) (values w h f)).flags)) ∧
    (∀ (s : State) (h : Head) (f : AluF), fits f → Issues s (scan h f) h →
      let w := s.unit s.cur
      let ex := f.mod.getLsbD 1
      let part := fun l => foldl (op f) (if ex then before w h f l else upto w h f l)
      LaneResult s (scan h f) (w.acting h) f.d.toNat f.ty.wide
        (fun l n => n = (if ex = true ∧ before w h f l = [] then ident f.ty else (part l).val)
          % 2 ^ destBits f.ty.wide)
        (fun l => if ex = true ∧ before w h f l = [] then 0 else (part l).flags))
  let ofInt := fun (t : Ty) (v : Int) => (v % 2 ^ t.width).toNat
  law .RED_ADD .SCAN_ADD (fun _ a b => a + b) (some fun t => t.add .rn) (fun _ => 0) ∧
  law .RED_MIN .SCAN_MIN (fun t a b => if t.toInt a ≤ t.toInt b then a else b)
    (some fun t => t.minMax false)
    (fun t => match t.fmt? with | some u => u.infBits | none => ofInt t t.maxInt) ∧
  law .RED_MAX .SCAN_MAX (fun t a b => if t.toInt a ≤ t.toInt b then b else a)
    (some fun t => t.minMax true)
    (fun t => match t.fmt? with | some u => u.infBits + 2 ^ u.signBit | none => ofInt t t.minInt) ∧
  law .RED_AND .SCAN_AND (fun _ a b => a &&& b) none (fun t => 2 ^ t.width - 1) ∧
  law .RED_OR .SCAN_OR (fun _ a b => a ||| b) none (fun _ => 0) ∧
  law .RED_XOR .SCAN_XOR (fun _ a b => a ^^^ b) none (fun _ => 0) ∧
  (∀ w next : DWord,
    let n := w.toNat
    let at_ := fun lo len => n / 2 ^ lo % 2 ^ len
    n / 2 ^ 58 = 0x23 → at_ 8 4 ≤ 5 → at_ 0 3 ∈ [0, 1, 3] →
      (n.testBit 3 = true → decode w next = .error (.rsvField (false, 3))) ∧
      (n.testBit 3 = false → at_ 4 4 = 6 → 3 ≤ at_ 8 4 → decode w next = .error (.rsvField (false, 4)))) ∧
  decode 0x8C00_00B0_A000_0003 0 = .ok (.SCAN_ADD { gate := false, rate := .K, guard := 0, gneg := false, hints := 0 }
    { d := 11, a := 10, b := 0, c := 0, ty := .n32, imm := false, mod := 3, ext := none })

/-! ## The transform pipe (spec 23 R347 to R351) -/

/-- The transform pipe: an instruction completes with its rounded results outstanding, one register of each
active lane, and its flags in %fflags; the division of integers and the decoders likewise, a decoder with
eight words and the mask of the lanes whose chunk fails, whose words are zero (R347, R350). Reciprocals,
quotients and roots are the exact numbers rounded once to nearest-even, special operands and NaNs give what
R348 names, the quotient of integers is truncated toward zero with the corner cases of R349, and each decoder
fails where R351 says and else gives the bytes, fields or products that it describes. -/
def Obligations.TransformPipeResults : Prop :=
  let one := fun (mk : Head → AluF → Instr) (g : Wave → AluF → Nat → Res) =>
    LongLaw mk 1 (fun w _ f l => [BitVec.ofNat 32 (g w f l).val]) (fun w _ f l => (g w f l).flags)
  let a := fun (w : Wave) (f : AluF) (l : Nat) => w.val false f.a.toNat l
  let b := fun (w : Wave) (f : AluF) (l : Nat) => w.srcOrImm f f.b false l
  let dec := fun (mk : Head → AluF → Instr) (g : Wave → AluF → Nat → Option (List Res)) =>
    let lost := fun (w : Wave) (h : Head) (f : AluF) (q : Nat) =>
      inMask (w.acting h) q && (g w f q).isNone
    LongLaw mk 9
      (fun w h f l => (match g w f l with
          | some rs => rs.map fun r => BitVec.ofNat 32 r.val
          | none => List.replicate 8 (0 : Word)) ++ [maskOf (lost w h f)])
      (fun w _ f l => match g w f l with
          | some rs => rs.foldl (fun m r => m ||| r.flags) 0
          | none => 0)
  one .TRCP (fun w f l => trcp (a w f l)) ∧
  one .TRSQ (fun w f l => trsq (a w f l)) ∧
  one .TSQRT (fun w f l => tsqrt (a w f l)) ∧
  one .TDIV (fun w f l => tdiv (a w f l) (b w f l)) ∧
  one .TEXP2 (fun w f l => texp2 (a w f l)) ∧
  one .TLOG2 (fun w f l => tlog2 (a w f l)) ∧
  one .TSIN (fun w f l => tsin (a w f l)) ∧
  one .TCOS (fun w f l => tcos (a w f l)) ∧
  one .IDIV (fun w f l => idiv f.ty (a w f l) (b w f l)) ∧
  dec .DEC_RLE (fun w f l => decRle
    ((List.range 8).map fun j => (w.byteOf f.a.toNat l (2 * j), w.byteOf f.a.toNat l (2 * j + 1)))
    (w.reg f.b.toNat l).toNat) ∧
  dec .DEC_BITS (fun w f l => decBits (w.val true f.a.toNat l) (w.reg f.b.toNat l).toNat) ∧
  dec .DEC_FP4 (fun w f l => decFp4 (w.reg f.a.toNat l).toNat (w.reg f.b.toNat l).toNat) ∧
  -- the special operands of R348
  (let inf := 0x7F80_0000
   let neg := 0x8000_0000
   let bad : Res := { val := 0x7FC0_0005, flags := flagNV }
   let dz := fun n : Nat => ({ val := n, flags := flagDZ } : Res)
   let is := fun n : Nat => ({ val := n } : Res)
   trcp 0 = dz inf ∧ trcp neg = dz (inf + neg) ∧ trcp inf = is 0 ∧ trcp (inf + neg) = is neg ∧
   trcp 0x4040_0000 = { val := 0x3EAA_AAAB, flags := flagNX } ∧
   trsq 0 = dz inf ∧ trsq neg = dz (inf + neg) ∧ trsq inf = is 0 ∧ tsqrt 0 = is 0 ∧ tsqrt neg = is neg ∧
   tsqrt inf = is inf ∧ texp2 (inf + neg) = is 0 ∧ texp2 inf = is inf ∧ texp2 0x4040_0000 = is 0x4100_0000 ∧
   tlog2 0 = dz (inf + neg) ∧ tlog2 neg = dz (inf + neg) ∧ tlog2 0x3F80_0000 = is 0 ∧ tlog2 inf = is inf ∧
   tlog2 0x3E80_0000 = is 0xC000_0000 ∧ tsin 0 = is 0 ∧ tsin neg = is neg ∧
   tcos 0 = is 0x3F80_0000 ∧
   (∀ g ∈ [tsin, tcos], ∀ a ∈ [inf, inf + neg], g a = bad) ∧
   (∀ a, neg < a → a ≤ inf + neg → ∀ g ∈ [trsq, tsqrt, tlog2], g a = bad) ∧
   (∀ a, a < 2 ^ 32 → (fmt32.unpack a).isNaN = true →
     ∀ g ∈ [trcp, trsq, tsqrt, texp2, tlog2, tsin, tcos, fun a => tdiv a 0, fun a => tdiv 0 a],
       g a = { val := a ||| 2 ^ 22, flags := flagIf (fmt32.unpack a).signalling flagNV }) ∧
   (∀ s t, tdiv (fmt32.signed s 0) (fmt32.signed t 0) = bad ∧
     tdiv (fmt32.signed s inf) (fmt32.signed t inf) = bad) ∧
   ∀ (a b m n : Nat) (s t : Bool) (e g : Int), fmt32.unpack a = .fin s m e → m ≠ 0 →
     tdiv a (fmt32.signed t 0) = dz (fmt32.signed (s != t) inf) ∧
     (fmt32.unpack b = .fin t n g → n ≠ 0 →
       RoundsTo fmt32 .ieee .rn (s != t) (dyadic s m e / dyadic t n g) (tdiv a b)) ∧
     RoundsTo fmt32 .ieee .rn s (1 / dyadic s m e) (trcp a) ∧
     -- the positive root of q / p
     let root := fun (r : Res) (p q : ℚ) => ∃ k j, fmt32.unpack r.val = .fin false k j ∧ r.val < inf ∧
       let y := dyadic false k j
       r.flags = (if y * y * p = q then 0 else flagNX) ∧
       ∀ z, fmt32.Has z → 0 ≤ z →
         (y < z → q ≤ ((y + z) / 2) ^ 2 * p) ∧ (z < y → ((y + z) / 2) ^ 2 * p ≤ q)
     (s = false → root (tsqrt a) 1 (dyadic s m e) ∧ root (trsq a) (dyadic s m e) 1)) ∧
  -- the quotients of R349
  (∀ t ∈ [Ty.n32, .i32], ∀ a b : Nat, a < 2 ^ 32 → b < 2 ^ 32 →
    let x := t.toInt a
    let y := t.toInt b
    let r := idiv t a b
    (y = 0 → t = .n32 → r = { val := 0xFFFF_FFFF, flags := flagDZ }) ∧
    (y = 0 → t = .i32 → r = { val := if x < 0 then 0x8000_0000 else 0x7FFF_FFFF, flags := flagDZ }) ∧
    (y ≠ 0 → r.flags = 0 ∧ r.val < 2 ^ 32 ∧
      ((x = -2 ^ 31 ∧ y = -1) → r.val = 0x8000_0000) ∧
      (¬(x = -2 ^ 31 ∧ y = -1) → let rest := x - t.toInt r.val * y
        |rest| < |y| ∧ 0 ≤ rest * x))) ∧
  -- the chunks of R351
  (∀ (pairs : List (Nat × Nat)) (p : Nat), pairs.length = 8 → (∀ q ∈ pairs, q.1 < 256) →
    let len := fun k => (pairs.getD k (0, 0)).2
    let before := fun k => ((List.range k).map len).sum
    (decRle pairs p = none ↔ 8 < p ∨ (∃ k, k < p ∧ len k = 0) ∨ 32 < before p) ∧
    ∀ rs, decRle pairs p = some rs → rs.length = 8 ∧ (∀ r ∈ rs, r.flags = 0 ∧ r.val < 2 ^ 32) ∧
      ∀ j, j < 32 →
        let byte := (rs.getD (j / 4) { val := 0 }).val / 2 ^ (8 * (j % 4)) % 256
        (∀ k, k < p → before k ≤ j → j < before (k + 1) → byte = (pairs.getD k (0, 0)).1) ∧
        (before p ≤ j → byte = 0)) ∧
  (∀ stream b : Nat, b < 2 ^ 32 →
    let w := b % 2 ^ 8
    let o := b / 2 ^ 16 % 2 ^ 6
    (decBits stream b = none ↔ w = 0 ∨ 8 < w ∨ 64 < o + 8 * w ∨ b / 2 ^ 9 % 2 ^ 7 ≠ 0 ∨ b / 2 ^ 22 ≠ 0) ∧
    ∀ rs, decBits stream b = some rs → rs.length = 8 ∧ ∀ i, i < 8 →
      let v := stream / 2 ^ (o + i * w) % 2 ^ w
      rs[i]? = some { val := if b.testBit 8 ∧ 2 ^ (w - 1) ≤ v then 2 ^ 32 - 2 ^ w + v else v }) ∧
  ∀ a b : Nat, b < 2 ^ 32 →
    (decFp4 a b = none ↔ b % 2 ^ 8 = 0xFF ∨ b / 2 ^ 23 % 2 ^ 8 = 0xFF ∨ b / 2 ^ 8 % 2 ^ 8 ≠ 0) ∧
    ∀ rs, decFp4 a b = some rs → rs.length = 8 ∧ ∀ i, i < 8 → ∀ (s t : Bool) (m n k : Nat) (e g j : Int),
      fmtE2M1.unpack (a / 2 ^ (4 * i) % 16) = .fin s m e → fmtE3M5.unpack (b % 2 ^ 8) = .fin false n g →
      fmtB16.unpack (b / 2 ^ 16) = .fin t k j →
      ∃ r, rs[i]? = some r ∧
        RoundsTo fmt32 .ieee .rn (s != t) (dyadic s m e * dyadic false n g * dyadic t k j) r

/-! ## Long-latency results -/

/-- LOAD_VALUE_ARRIVAL: a lane's words go to its destination registers, in that lane alone, and nothing else
of the device changes; the instruction stops being outstanding once no lane is left. An arrival of a
result that is not on its way changes nothing (spec 06 R102). No fault that the firmware has declined
waits for this result, as spec 12 R198 would then deliver it. -/
def Obligations.ResultsArrive : Prop :=
  ∀ (s : State) (u seq lane : Nat), lane < 32 →
    let w := s.unit u
    let i := Instr.LOAD_VALUE_ARRIVAL u seq lane
    (∀ (p : Pend) (ws : List Word), w.pend.find? (fun p => p.seq = seq) = some p →
      (p.values.find? fun v => v.1 = lane) = some (lane, ws) → ws.length = p.n →
      (∀ q ∈ w.pend, q.status ≠ .declined) →
      ∃ w' : Wave, exec i s = .next (s.setUnit u w') ∧
        w' = { w with regs := w'.regs, pend := w'.pend } ∧
        (∀ j, j < p.n → w'.reg (p.dst + j) lane = ws.getD j 0) ∧
        (∀ q m, m < 32 → ¬(m = lane ∧ p.dst ≤ q ∧ q < p.dst + p.n) → w'.reg q m = w.reg q m) ∧
        (∀ q : Pend, q.seq ≠ seq → (q ∈ w'.pend ↔ q ∈ w.pend)) ∧
        (p.values.length = 1 → p.faulted = [] → p.todo = [] → ∀ q ∈ w'.pend, q.seq ≠ seq)) ∧
    ((w.pend.find? fun p => p.seq = seq) = none → exec i s = .next s)

/-! ## k registers and x (spec 02 R24, spec 08 R133, R136, R137) -/

/-- k0 reads as all lanes set and writes to it are ignored; a write of any other k register reads back and leaves
the others (R24). The wave-wide mask instructions where they act: kD receives the combination of kA and kB, kA, the
leader's vA, or x; x becomes kA and the own-mask, or x and kA; and the lanes of the acting set receive kA, its
population count, or its lowest set lane, 32 when it is empty (R136, R137). -/
def Obligations.MaskInstructions : Prop :=
  (∀ (w : Wave) (i j : Nat) (m : Mask),
    w.kreg 0 = allLanes ∧ w.setK 0 m = w ∧
    (i ≠ 0 → (w.setK i m).kreg i = m) ∧ (j ≠ i → (w.setK i m).kreg j = w.kreg j)) ∧
  (∀ (s : State) (h : Head) (f : AluF),
    let w := s.unit s.cur
    let a := w.kreg f.a.toNat
    let b := w.kreg f.b.toNat
    let sets := fun (i : Instr) (m : Mask) =>
      Acts s i h → UnitTo s i ((w.after i).setK f.d.toNat m)
    sets (.KAND h f) (a &&& b) ∧ sets (.KOR h f) (a ||| b) ∧ sets (.KXOR h f) (a ^^^ b) ∧
    sets (.KNOT h f) (~~~a) ∧ sets (.KMOV_K_K h f) a ∧
    sets (.KMOV_K_V h f) (w.reg f.a.toNat (w.leader h)) ∧ sets (.XGET h f) w.x ∧
    (Acts s (.XSET h f) h → UnitTo s (.XSET h f) { w.after (.XSET h f) with x := a &&& w.o }) ∧
    (Acts s (.XAND h f) h → UnitTo s (.XAND h f) { w.after (.XAND h f) with x := w.x &&& a })) ∧
  WaveLaw .KMOV_V_K oneReg (fun w _ f _ n => n = (w.kreg f.a.toNat).toNat) ∧
  WaveLaw .KPOP oneReg (fun w _ f _ n => n = (lanesOf (w.kreg f.a.toNat)).length) ∧
  WaveLaw .KFFS oneReg (fun w _ f _ n =>
    n ≤ 32 ∧ (∀ l, l < n → inMask (w.kreg f.a.toNat) l = false) ∧
      (n < 32 → inMask (w.kreg f.a.toNat) n = true))

/-- A wave-wide instruction that issues and does not act has no effect except the advance of the program
counter (R133). -/
def Obligations.NotActingOnlyAdvances : Prop :=
  ∀ (s : State) (h : Head) (f : AluF) (g : WaituF) (code : BitVec 16) (base : BitVec 7)
    (r q : BitVec 8) (off : BitVec 32) (sp : Special) (obs : BitVec 5),
    (s.unit s.cur).acts h = false → Computes s →
    ∀ i ∈ [.EXIT h, .TRAP h code, .BRK h code, .ICINV h base r, .BRA h off, .CALL h r off, .JMP h r,
        .RET h r, .BRX h r off, .SYSR h r sp, .SYSW h sp r, .KAND h f, .KOR h f, .KXOR h f, .KNOT h f,
        .KMOV_K_K h f, .KMOV_K_V h f, .KMOV_V_K h f, .KPOP h f, .KFFS h f, .XGET h f, .XSET h f,
        .XAND h f, .FENCE_ACQ h obs, .FENCE_REL h obs, .DISCARD h base q, .WAITU h g, .SLEEP h f,
        .SPAWN h f, .LAUNCH h f, .TRIG h f, .WAITP h f, .CANCEL h f, .CCNT h f, .TARM h f, .TWAIT h f,
        .TREL h f, .TSTAT h f, .TCOPY h f, .MSTART h f, .COLL h f],
      Issues s i h → UnitTo s i ((s.unit s.cur).after i)

/-! ## Traps (spec 01 R16 to R20) -/

/-- Every wave instruction that meets a trap condition at issue takes the precise trap: its unit continues at the
context's trap entry with %tcause, %tpc and %tinst holding the record and its registers, masks and flags unchanged,
and nothing else changes, so that it has had no effect in any lane (R17, R18). The order of the checks that no
operand decides: a condition on a field that the code object decides, then REG_RANGE, PRIV, RATE and HAZARD (R18,
R104). A word that is no instruction: majors 0x38 to 0x3F are ILLEGAL_OP, unused majors and minors, must-be-zero
bits and reserved values of the formats named here RSV_FIELD with the lowest offending bit, one of the extension
word only where the first word has none (R15, R19, R42, R46; of an unused minor's other fields by log entry 99). The
check needs no active lane, and a step whose words do not decode takes that trap with the first word in %tinst
(R16); the unit that takes the turn is the first of its partition (spec 06 R112, log entry 1). -/
def Obligations.ChecksAtIssue : Prop :=
  (∀ (s : State) (i : Instr) (h : Head) (c : Word),
    let w := s.unit s.cur
    i.head? = some h → s.ready s.cur = true → w.trapNext = none → w.replaying = false →
    ((s.draw w.launch).live = true → h.rate = w.rate) → s.mustWait w h i = false →
    s.issueTrap w h i = some c → TakesTrap s i c) ∧
  (∀ (s : State) (w : Wave) (h : Head) (i : Instr),
    let table := lowestCond (s.tableConds w i)
    let range := ∃ r ∈ i.vregs, w.nregs ≤ r
    let hazard := h.gate = false ∧ i.asGated = false ∧ ∃ r ∈ i.vregs, r ∈ w.outstanding
    (∀ c, table = some c → s.issueTrap w h i = some (causeRsv c)) ∧
    (table = none → range → s.issueTrap w h i = some causeRegRange) ∧
    (table = none → ¬range → w.privileged i = true → s.issueTrap w h i = some causePriv) ∧
    (table = none → ¬range → w.privileged i = false → s.raisesRate w h i = true →
      s.issueTrap w h i = some causeRate) ∧
    (table = none → ¬range → w.privileged i = false → s.raisesRate w h i = false → hazard →
      s.issueTrap w h i = some causeHazard) ∧
    (table = none → ¬range → w.privileged i = false → s.raisesRate w h i = false → ¬hazard →
      s.issueTrap w h i = none)) ∧
  (∀ w next : DWord,
    let n := w.toNat
    let major := n / 2 ^ 58
    let at_ := fun lo len => n / 2 ^ lo % 2 ^ len
    let set := fun lo len => ((List.range len).map (· + lo)).filter fun k => n.testBit k
    let size := at_ 16 3
    let order := at_ 14 2
    let data := at_ 36 8
    let report := fun bits : List Nat => decode w next = .error (.rsvField (false, bits.foldl min 63))
    let ext := fun lo => decode w next = .error (.rsvField (true, lo))
    let runs := ∃ i, decode w next = .ok i
    (0x38 ≤ major → decode w next = .error .illegalOp) ∧
    (major ∈ [0x04, 0x05, 0x06, 0x07, 0x09, 0x0A, 0x0B, 0x10, 0x11, 0x12, 0x13, 0x14, 0x15, 0x16, 0x17, 0x1C,
      0x1D, 0x1E, 0x1F, 0x20, 0x21, 0x24, 0x25, 0x2D] → report [58]) ∧
    (major = 0x00 → 0x0B ≤ at_ 38 6 → report (set 0 38 ++ [38])) ∧
    (major = 0x01 → 5 ≤ at_ 40 4 → report (set 0 40 ++ [40])) ∧
    (major = 0x02 →
      let bits := set 0 16 ++ set 49 5 ++ if n.testBit 48 then [] else [48]
      (bits ≠ [] → report bits) ∧ (bits = [] → 2 ^ 32 ≤ next.toNat → ext 32) ∧
        (bits = [] → next.toNat < 2 ^ 32 → runs)) ∧
    (major = 0x26 ∨ major = 0x27 →
      let bits := set 8 1 ++ set 48 1 ++ (if n.testBit 28 then [] else set 19 9)
        ++ (if 5 ≤ size then [16] else []) ++ (if order = 0 then set 9 5 else [])
        ++ (if order = 3 ∨ major = 0x26 ∧ order = 2 ∨ major = 0x27 ∧ order = 1 then [14] else [])
        ++ (if size = 3 ∧ data % 2 = 1 ∨ size = 4 ∧ (data % 2 = 1 ∨ data = 254) then [36] else [])
      (bits ≠ [] → report bits) ∧ (bits = [] → runs))) ∧
  ∀ (s v : State) (u entry : Nat) (rest : List Turn) (w next : DWord) (e : DecodeError),
    let x := s.unit u
    let k := s.core x.core
    let offered : State :=
      { (({ s with agenda := rest } : State).setCore x.core { k with cycle := k.cycle + 1 }).setUnit u
          { x with turnAt := k.cycle + 1 } with cur := u }
    let done := v.forget fun p => p = .fetch u
    let cause := match e with | .illegalOp => (0x01 : Word) | .rsvField c => causeRsv c
    s.agenda = .unit u :: rest → s.ready u = true → ({ s with agenda := rest } : State).isFirst u = true →
    x.trapNext = none → (s.draw x.launch).live = false →
    offered.fetchInstr u = (.words w next, v) → v.decodeFor u w next = .error e →
    (s.ctx x.ctx).trap = some entry → x.inHandler = false → x.results = [] →
    step s = settleTurn x.group (.next (done.setUnit u
      { v.unit u with tcause := cause, tpc := x.pc, tinst := w, resume := x.pc
                      pc := BitVec.ofNat 64 entry, inHandler := true, held := false, park := .none
                      trapNext := none }))

/-- trap and brk raise their causes, TRAP with its code in bits 31:16 (R19). A trap inside the handler, or in a
context with no trap entry, terminates the group: none of its units runs on, its open lanes, fragments and waiting
lanes are gone, and an empty error record of its job takes status TRAP_FATAL with the record; what its waves have
stored is still performed, as at exit (R17, spec 07 R117, spec 08 R139; log entry 112). -/
def Obligations.TrapsAreTakenOrFatal : Prop :=
  ∀ (s : State) (i : Instr) (h : Head) (c : Word),
    let w := s.unit s.cur
    Acts s i h → (i = .TRAP h (BitVec.ofNat 16 (c.toNat / 2 ^ 16)) ∧ c.toNat % 2 ^ 16 = 8 ∨
      (∃ code, i = .BRK h code) ∧ c = 9) →
    TakesTrap s i c ∧
    (((s.ctx w.ctx).trap = none ∨ w.inHandler = true) → w.results = [] → Computes s →
      (s.group w.group).launch = w.launch → GroupEnds s i 4 c w.pc (firstWord i))

/-- tret ends the handler: the unit resumes at the address in %tpc with the registers and masks as the
handler left them, so that with %tpc unchanged it is at the trapping instruction again. Of a delivered fault
(spec 12 R198), with %tpc unchanged the faulted lanes are retried from the log, a leader's access as its unit's next
instruction, and the unit goes on with the first instruction that it had not issued; where %tpc has changed its entry
is released. While results of the unit are outstanding tret waits; and where all of them are faults that the firmware
has declined, the oldest is delivered while the handler still runs, which terminates the group with FAULT_FATAL (R17,
spec 06 R103). sysw writes %tpc inside the handler; an address that is misaligned or beyond the address space raises
ALIGN there, which terminates the group with TRAP_FATAL (R17, spec 08 R141). Outside a handler both raise PRIV
(R20). -/
def Obligations.TheHandlerReturns : Prop :=
  ∀ (s : State) (h : Head) (r : BitVec 8) (sp : Special),
    let w := s.unit s.cur
    let v := w.val true r.toNat (w.leader h)
    let sysw := Instr.SYSW h sp r
    let calm := Computes s ∧ (s.group w.group).launch = w.launch
    (Issues s (.TRET h) h → w.inHandler = true ∧ (w.pend.find? (fun p => p.status = .delivered) = none →
      UnitTo s (.TRET h) { w with pc := w.tpc, inHandler := false, held := false })) ∧
    (∀ p, Issues s (.TRET h) h → w.pend.find? (fun p => p.status = .delivered) = some p →
      w.tpc.toNat ≠ p.pc →
      UnitTo s (.TRET h) { w with pc := w.tpc, inHandler := false, held := false
                                  pend := w.pend.filter fun q => q.seq ≠ p.seq }) ∧
    (∀ p, Issues s (.TRET h) h → w.pend.find? (fun p => p.status = .delivered) = some p →
      w.tpc.toNat = p.pc → p.leader = true → (∀ q ∈ w.pend, q.seq = p.seq → q = p) →
      exec (.TRET h) s = .next (({ s with seq := s.seq + 1 } : State).setUnit s.cur
        { w with pc := w.resume, inHandler := false, held := false
                 pend := w.pend.map fun q =>
                   if q.seq = p.seq then { q with status := .resolved, order := s.seq } else q })) ∧
    (∀ (p : Pend) (d : Head) (m : MemF) (bs : LaneReq → List Byte), Issues s (.TRET h) h → w.pend = [p] →
      p.status = .delivered → w.tpc.toNat = p.pc → p.leader = false → p.op = .LD d m → p.n = m.size.regs →
      p.todo = [] → p.faulted ≠ [] → (∀ x ∈ p.faulted, s.Reads s.cur x.addr m.size.bytes (bs x)) →
      ∃ t, exec (.TRET h) s = .next t ∧ SameBytes s t ∧ (∀ u, u ≠ s.cur → t.unit u = s.unit u) ∧
        t.unit s.cur = { w with
          pc := w.resume, inHandler := false, held := false, acq := (t.unit s.cur).acq
          pend := [{ p with status := .clear, order := s.seq, faulted := []
                            values := p.values ++ p.faulted.map fun x => (x.lane, wordsOf (bs x)) }] }) ∧
    (let settled := ∀ q ∈ w.results, q.status = .declined ∧ q.values = [] ∧ q.todo = []
     s.ready s.cur = true → w.inHandler = true → w.trapNext = none → w.replaying = false →
      ((s.draw w.launch).live = true → h.rate = w.rate) → w.results ≠ [] →
      (¬settled → UnitTo s (.TRET h) { w with held := true }) ∧
      ∀ p, settled → calm → (w.results.find? fun q => w.results.all fun x => q.order ≤ x.order) = some p →
        GroupEnds s (.TRET h) 5 (BitVec.ofNat 32 p.cause.code) (BitVec.ofNat 64 p.pc) (firstWord p.op)) ∧
    (sp = .tpc → Acts s sysw h → w.inHandler = true) ∧
    (sp = .tpc → Acts s sysw h → v < 2 ^ 56 → v % 8 = 0 →
      UnitTo s sysw { w.after sysw with tpc := BitVec.ofNat 64 v }) ∧
    (sp = .tpc → Acts s sysw h → (2 ^ 56 ≤ v ∨ v % 8 ≠ 0) → w.results = [] → calm →
      GroupEnds s sysw 4 causeAlign w.pc (firstWord sysw)) ∧
    ∀ i ∈ [Instr.TRET h, .SYSW h .tpc r], w.inHandler = false → s.ready s.cur = true →
      w.trapNext = none → w.replaying = false → ((s.draw w.launch).live = true → h.rate = w.rate) →
      s.mustWait w h i = false → (∀ q ∈ i.vregs, q < w.nregs) → TakesTrap s i causePriv

/-! ## Control (spec 08 R134 to R143) -/

/-- nop does nothing, whatever its guard; idem.begin sets the region bit and idem.end clears it, which its group
remembers, and has no effect with the bit clear; safept stops the unit for a pre-emption of its core and context
with what its table entry gives as live (spec 04 R74), the firmware being told of reserved home-map entries that the
reading of the table meets (spec 11 R177), and otherwise does nothing; ifence waits for the unit's icinv
operations and then discards the words fetched ahead; icinv starts an operation on its range, and raises ALIGN where
the range leaves the address space (R139, R140, R142, R143, spec 07 R126). -/
def Obligations.ControlWords : Prop :=
  ∀ (s : State) (h : Head) (idx : BitVec 12) (base : BitVec 7) (len : BitVec 8),
    let w := s.unit s.cur
    let va := w.val true (2 * base.toNat) (w.leader h)
    let n := (w.reg len.toNat (w.leader h)).toNat
    let icinv := Instr.ICINV h base len
    (Issues s (.NOP h) h → UnitTo s (.NOP h) (w.after (.NOP h))) ∧
    (Issues s (.IDEM_BEGIN h) h →
      UnitTo s (.IDEM_BEGIN h) { w.after (.IDEM_BEGIN h) with idem := true }) ∧
    (Issues s (.IDEM_END h) h → w.idem = false → UnitTo s (.IDEM_END h) (w.after (.IDEM_END h))) ∧
    (Issues s (.IDEM_END h) h → w.idem = true →
      exec (.IDEM_END h) s = .next
        ((s.setGroup w.group { s.group w.group with idemEnded := true }).setUnit s.cur
          { w.after (.IDEM_END h) with idem := false })) ∧
    (Issues s (.SAFEPT h idx) h → s.preempting w.core w.ctx = true →
      exec (.SAFEPT h idx) s = .next (((s.setUnit s.cur { w with held := false }).tellLive w idx.toNat).setUnit s.cur
        { w.after (.SAFEPT h idx) with stopped := true, stopLive := some (s.liveEntry w idx.toNat) })) ∧
    (Issues s (.SAFEPT h idx) h → s.preempting w.core w.ctx = false →
      (s.launch w.launch).cancelled = false →
      UnitTo s (.SAFEPT h idx) (w.after (.SAFEPT h idx))) ∧
    (Issues s (.SAFEPT h idx) h → s.preempting w.core w.ctx = false →
      (s.launch w.launch).cancelled = true → s.performed w = false →
      UnitTo s (.SAFEPT h idx) { w with held := true }) ∧
    (Issues s (.IFENCE h) h → w.icinvs ≠ [] → w.pend = [] → UnitTo s (.IFENCE h) { w with held := true }) ∧
    (Issues s (.IFENCE h) h → w.icinvs = [] →
      UnitTo s (.IFENCE h) { w.after (.IFENCE h) with ahead := [] }) ∧
    (Acts s icinv h → (2 ^ 56 ≤ va ∨ 2 ^ 56 < va + n) → TakesTrap s icinv causeAlign) ∧
    (Acts s icinv h → va < 2 ^ 56 → n = 0 → UnitTo s icinv (w.after icinv)) ∧
    (Acts s icinv h → va + n ≤ 2 ^ 56 → n ≠ 0 →
      exec icinv s = .next
        (({ s with seq := s.seq + 1
                   work := { s.work with
                     icinvs := s.work.icinvs ++ [(s.seq, (s.ctx w.ctx).asid, va, n)] } } : State).setUnit s.cur
          { w.after icinv with icinvs := w.icinvs ++ [s.seq] }))

/-- exit: every lane of the own-mask exits, the unit's allocation is freed for its group, and nothing else
of the group or of memory changes; a safept retires a unit of a cancelled launch likewise, and waits before it until
every access of the unit has been performed (R139, R140, spec 06 R106, R107, R111). -/
def Obligations.ExitFreesTheUnit : Prop :=
  ∀ (s : State) (i : Instr) (h : Head),
    let w := s.unit s.cur
    let g := s.group w.group
    ((i = .EXIT h ∧ Acts s i h) ∨ (∃ idx, i = .SAFEPT h idx ∧ Issues s i h ∧
        s.preempting w.core w.ctx = false ∧ (s.launch w.launch).cancelled = true ∧ s.performed w = true)) →
      Computes s → g.launch = w.launch →
    ∃ t, exec i s = .next t ∧ t.unit s.cur = {} ∧ (∀ u, u ≠ s.cur → t.unit u = s.unit u) ∧
      (∀ a ∈ (t.group w.group).allocs, a.unit ≠ some s.cur) ∧
      (∀ j : Nat, ((t.group w.group).allocs[j]?).map (fun a => (a.part, a.slot, a.base))
        = (g.allocs[j]?).map fun a => (a.part, a.slot, a.base)) ∧
      (∀ x, x ∈ (t.group w.group).opens ↔ x ∈ g.opens ∧ x.2 ∉ w.homesOf w.o) ∧
      (t.group w.group).frags = g.frags ∧ (t.group w.group).waits = g.waits ∧
      (∀ j, j ≠ w.group → t.group j = s.group j) ∧ t.mem.phys = s.mem.phys ∧ t.mem.l2 = s.mem.l2 ∧
      t.cores = s.cores ∧ t.ctxs = s.ctxs

/-- Branches: an acting bra, call and brx go to a PC-relative target modulo 2^56, jmp and ret to the
leader's pair, and a misaligned pair raises ALIGN; call writes PC + 8 to the link pair of the lanes of the
acting set (R134). -/
def Obligations.Branches : Prop :=
  ∀ (s : State) (h : Head) (r : BitVec 8) (off : BitVec 32),
    let w := s.unit s.cur
    let t := w.val true r.toNat (w.leader h)
    let goes := fun (w' : Wave) (d : Int) => (w'.pc.toNat : Int) = ((w.pc.toNat : Int) + d) % 2 ^ 56
    let moved := fun (w' : Wave) => w' = { w with held := false, pc := w'.pc }
    (Acts s (.BRA h off) h → Computes s →
      ∃ w', UnitTo s (.BRA h off) w' ∧ moved w' ∧ goes w' (8 * off.toInt)) ∧
    (Acts s (.CALL h r off) h →
      ∃ w', UnitTo s (.CALL h r off) w' ∧ goes w' (8 * off.toInt) ∧
        Wrote { w with held := false, pc := w'.pc } w' (w.destMask h) r.toNat true (w.pc.toNat + 8)) ∧
    (Acts s (.BRX h r off) h →
      ∃ w', UnitTo s (.BRX h r off) w' ∧ moved w' ∧
        goes w' (8 * (off.toInt + (w.reg r.toNat (w.leader h)).toNat))) ∧
    ∀ i ∈ [Instr.JMP h r, .RET h r], Acts s i h →
      (t < 2 ^ 56 → t % 8 = 0 → UnitTo s i { w with held := false, pc := BitVec.ofNat 64 t }) ∧
      ((2 ^ 56 ≤ t ∨ t % 8 ≠ 0) → TakesTrap s i causeAlign)

/-- sysr writes the special register's value to the lanes of the acting set; sysw writes the leader's value
to %fflags, whose bits 31:6 stay zero (R141, spec 10 R158). -/
def Obligations.SpecialRegisters : Prop :=
  ∀ (s : State) (h : Head) (r : BitVec 8) (sp : Special),
    let w := s.unit s.cur
    let g := s.group w.group
    let home := fun l : Nat => w.homes.getD l (0, l)
    let value : Nat → Nat := fun l => match sp with
      | .lane => (home l).2
      | .wave => (home l).1
      | .grp => g.num
      | .ngrp => (s.launch w.launch).form.count
      | .gsize => 32 * g.nwaves
      | .gw => 32
      | .elem => g.num * (32 * g.nwaves) + 32 * (home l).1 + (home l).2
      | .core => w.core
      | .die => if w.core < s.host.cores0 then 0 else 1
      | .cyc => (s.core w.core).cycle
      | .fflags => w.fflags.toNat
      | .tcause => w.tcause.toNat
      | .tpc => w.tpc.toNat
      | .tinst => w.tinst.toNat
      | .ncores => s.host.cores0 + s.host.cores1
      | .nslices => s.host.slices0 + s.host.slices1
      | .nchans => s.host.chans0 + s.host.chans1
      | .nports => s.host.ports
      | .rev => 0x100
      | .feat => 0
    (Acts s (.SYSR h r sp) h → Computes s →
      LaneResult s (.SYSR h r sp) (w.destMask h) r.toNat sp.wide
        (fun l n => n = value l % 2 ^ destBits sp.wide) fun _ => 0) ∧
    (Acts s (.SYSW h .fflags r) h →
      UnitTo s (.SYSW h .fflags r)
        { w.after (.SYSW h .fflags r) with fflags := w.reg r.toNat (w.leader h) &&& 0x3F })

/-- fork with no lane to detach goes on; with every executing lane it moves the whole wave to the target
and opens its lanes under the join token; otherwise it opens them, writes a record of the detached lanes
and goes on with the others (R135). meet passes lanes that are not open under its token; lanes that are
the last of their home wave go on in place, o being they and the active lanes that pass, and read 0 in every register
outside the token's entry; the passing lanes keep theirs, every other lane reads 0, is no longer open and leaves, and
the flags that the group keeps of the home wave are joined to the unit's. Lanes that others still hold open wait in a
record. Where every active lane arrives, the unit's allocation is then free, its other lanes leaving with it, and the
group keeps what belongs to its home wave; else the passing lanes go on (spec 04 R74, spec 06 R105, R106, spec 10
R158). The firmware is told of reserved home-map entries that the reading of the live-register table meets (spec 11
R177). Going on in place, and what the group keeps, by log entry 23, a unit's lanes that do not arrive by log entry
101. -/
def Obligations.ForkAndMeet : Prop :=
  ∀ (s : State) (h : Head) (k : BitVec 4) (live join token : BitVec 12) (off : BitVec 32),
    let w := s.unit s.cur
    let g := s.group w.group
    let i := Instr.FORK h k live join off
    let gone := w.kreg k.toNat &&& w.x
    let opened := g.open_ (s.tokenKey w join.toNat) (w.homesOf w.x)
    let entry := s.liveEntry w live.toNat
    let dest := ((w.pc.toNat : Int) + 8 * off.toInt) % 2 ^ 56
    let size := recordBytes (lanesOf gone).length ((bitsOf entry.1 256).filter (· < w.nregs)).length
    let m := Instr.MEET h token
    let kept := s.liveEntry w token.toNat
    let key := s.tokenKey w token.toNat
    let arr := maskOf fun l => inMask w.x l && g.opens.contains (key, w.homes.getD l (0, l))
    let told := fun n : Nat => (s.setUnit s.cur { w with held := false }).tellLive w n
    let met := g.opens.filter fun t => !(t.1 = key && (w.homesOf arr).contains t.2)
    let open_ := met.filter fun t => !(w.homesOf (w.o &&& ~~~w.x)).contains t.2
    let left := if arr = w.x then open_ else met
    let stay := w.x &&& ~~~arr
    let inPlace := w.soldered = false ∧ (∀ t ∈ left, ¬(t.1 = key ∧ t.2.1 = w.num)) ∧
      ∀ r ∈ g.waits, ¬(r.token = key ∧ r.wave = w.num)
    (Issues s i h → Computes s → gone = 0 → UnitTo s i (w.after i)) ∧
    (Issues s i h → Computes s → gone ≠ 0 → gone = w.x →
      exec i s = .next ((s.setGroup w.group opened).setUnit s.cur
        { w with held := false, pc := BitVec.ofNat 64 dest.toNat })) ∧
    (∀ banks, Issues s i h → Computes s → gone ≠ 0 → gone ≠ w.x →
      (told live.toNat).spawnPlace w.core w.ctx size = some banks →
      exec i s = .next ((({ told live.toNat with seq := s.seq + 1 } : State).setGroup w.group
          { opened with frags := g.frags ++ [
            { order := s.seq, target := dest.toNat, token := s.tokenKey w join.toNat, idem := w.idem
              fflags := w.fflags, banks := banks, size := size, rate := w.rate, pathPos := w.pathPos
              lanes := (lanesOf gone).map fun l => w.fragLane entry l }] }).setUnit s.cur
        { w.after i with x := w.x &&& ~~~gone, o := w.o &&& ~~~gone })) ∧
    (Issues s m h → arr = 0 → UnitTo s m (w.after m)) ∧
    (Issues s m h → arr ≠ 0 → inPlace →
      ∃ w' : Wave,
        exec m s = .next (((told token.toNat).setGroup w.group
          { g with opens := open_, homes := g.homes.filter fun r => r.wave ≠ w.num }).setUnit s.cur w') ∧
        w' = { w.after m with
          o := w.x, regs := w'.regs, k := w'.k
          fflags := w.fflags ||| ((g.homes.find? fun r => r.wave = w.num).map fun r => r.fflags).getD 0 } ∧
        (∀ r l, l < 32 → w'.reg r l =
          if inMask stay l ∨ inMask arr l ∧ r < 256 ∧ r < w.nregs ∧ kept.1.testBit r then w.reg r l else 0) ∧
        ∀ r l, r ≠ 0 → l < 32 → inMask (w'.kreg r) l =
          (inMask (w.kreg r) l && (inMask stay l || inMask arr l && decide (r < 16) && kept.2.testBit r))) ∧
    ∀ (r : WaitRec) (banks : List (Nat × Nat)), Issues s m h → arr ≠ 0 → ¬inPlace →
      w.waitRecs kept key (w.pc.toNat + m.size) arr = [r] →
      ((told token.toNat).setGroup w.group { g with opens := left }).spawnPlace g.core g.ctx r.size = some banks →
      let waits := g.waits ++ [{ r with order := s.seq, banks := banks }]
      (arr = w.x → ∃ t, exec m s = .next t ∧ (t.unit s.cur).live = false ∧ (t.unit s.cur).pend = w.remains ∧
        t.group w.group = (({ g with opens := left, waits := waits } : Group).keepHome w).release s.cur ∧
        (∀ u, u ≠ s.cur → t.unit u = s.unit u) ∧ (∀ j, j ≠ w.group → t.group j = s.group j) ∧
        t.cores = s.cores ∧ t.ctxs = s.ctxs ∧ t.mem.phys = s.mem.phys ∧ t.mem.l2 = s.mem.l2) ∧
      (arr ≠ w.x → ∃ t, exec m s = .next t ∧
        t.unit s.cur = { w.after m with o := w.o &&& ~~~arr, x := w.x &&& ~~~arr } ∧
        t.group w.group = ({ g with opens := left, waits := waits } : Group).keepHome { w with fflags := 0 } ∧
        (∀ u, u ≠ s.cur → t.unit u = s.unit u) ∧ (∀ j, j ≠ w.group → t.group j = s.group j) ∧
        t.cores = s.cores ∧ t.ctxs = s.ctxs ∧ t.mem.phys = s.mem.phys ∧ t.mem.l2 = s.mem.l2)
/-! ## Memory instructions (spec 12) -/

/-- ld and ld.poll, of lines that their home slices hold: every active lane's bytes are fixed as the line
holds them, zero-extended in its registers, and are on their way to the destination, in increasing lane
order; only an acquiring load acquires and holds back what the unit issues later; a polling load with an active lane
demotes the unit, which is then younger than every unit there is (spec 06 R113), and no other load does; and no byte
of memory and nothing of the rest of the work changes (R181 to R184). A
polling load reads the home slice whatever L1 holds; a load may take its bytes from a copy in L1, which is
taken to hold the same line here. -/
def Obligations.LoadsReadTheLines : Prop :=
  ∀ (s : State) (h : Head) (f : MemF) (bs : Nat → List Byte),
    let w := s.unit s.cur
    let ls := lanesOf (w.acting h)
    ∀ i ∈ [Instr.LD h f, .LD_POLL h f], Issues s i h →
    (∀ l ∈ ls, s.Holds s.cur (w.addrOf f.addr f.size.bytes l) f.size.bytes (bs l)) →
    (i = .LD h f → ∀ l ∈ ls, s.Reads s.cur (w.addrOf f.addr f.size.bytes l) f.size.bytes (bs l)) →
    ∃ (t : State) (w' : Wave), exec i s = .next t ∧ t.unit s.cur = w' ∧ Issued w w' i ∧
      (ls ≠ [] → ∃ p ∈ w'.pend, p.seq = w.pendSeq ∧ p.op = i ∧ p.dst = f.data.toNat ∧
        p.n = f.size.regs ∧ p.values = ls.map (fun l => (l, wordsOf (bs l))) ∧ p.faulted = [] ∧
        p.todo = []) ∧
      (f.order ≠ .acq → w'.acq = w.acq ∧ (w.fenceAt ≤ w.pendSeq → w'.fenceAt = w.fenceAt)) ∧
      (f.order = .acq → ls ≠ [] → s.seq ≤ w'.acq ∧ w'.fenceAt = w.pendSeq + 1) ∧
      (i = .LD h f ∨ ls = [] → w'.age = w.age) ∧ (i = .LD_POLL h f → ls ≠ [] → s.seq ≤ w'.age) ∧
      SameWork s t ∧ SameBytes s t

/-- st, of lines that their home slices hold with permission: the unit goes on with nothing outstanding of
it, the bytes of each active lane stand in memory where no higher active lane stores to the same address,
and every other byte reads as before (R181, R182, R185). The lanes' addresses are those that the meaning
computes. -/
def Obligations.StoresWriteTheirBytes : Prop :=
  ∀ (s : State) (h : Head) (f : MemF),
    let w := s.unit s.cur
    let i := Instr.ST h f
    let n := f.size.bytes
    let ls := lanesOf (w.acting h)
    let at_ := fun l => w.addrOf f.addr n l
    let tag := fun l => tagAsid (s.reqOf s.cur (at_ l)).asid (at_ l)
    Issues s i h → (∀ l ∈ ls, s.Writes s.cur (at_ l) n false) → (∀ sl, (s.slice sl).spilled = []) →
    ∃ (t : State) (w' : Wave), exec i s = .next t ∧ t.unit s.cur = w' ∧ Issued w w' i ∧
      w'.acq = w.acq ∧ w'.age = w.age ∧
      (∀ p ∈ w'.pend, p.seq ≠ w.pendSeq) ∧ SameWork s t ∧ t.mem.phys = s.mem.phys ∧
      (∀ l ∈ ls, ∀ j, j < n → (∀ m ∈ ls, l < m → at_ m ≠ at_ l) →
        t.byteIn (s.sliceFor s.cur (at_ l)) (tag l) (at_ l + j)
          = some ((w.bytesOf f.data.toNat l n).getD j 0)) ∧
      (∀ sl asid va, (∀ l ∈ ls, ¬(sl = s.sliceFor s.cur (at_ l) ∧ asid = tag l ∧ at_ l ≤ va ∧
          va < at_ l + n)) → t.byteIn sl asid va = s.byteIn sl asid va)

/-- The eleven atomics, on lines that their home slices hold with both permissions and that are placed at their
slice: the active lanes act in increasing order, each returning the value before its own operation where ret is set,
each leaving the new value, and every other byte reads as before (R187). The operations are those of R187, a float
add, min or max that of R188. A cas whose comparison fails in an active lane demotes the unit, which is then younger
than every unit there is, whether or not ret is set, and no other atomic does (spec 06 R113, R187). That a float add
with ret clear too rounds lane by lane, where R189 and R190 let a core or a router sum operands first, is the
model's choice (log entry 10). -/
def Obligations.AtomicsReadModifyWrite : Prop :=
  ∀ (s : State) (h : Head) (f : MemF) (x : AtomF),
    let w := s.unit s.cur
    let n := f.size.bytes
    let wide : Bool := f.size = .b64
    let ls := lanesOf (w.acting h)
    let at_ := fun l => w.addrOf f.addr n l
    let tag := fun l => tagAsid (s.reqOf s.cur (at_ l)).asid (at_ l)
    let imm := atomImm x wide % 2 ^ (8 * n)
    let signed := fun v : Nat => if 2 ^ (8 * n - 1) ≤ v then (v : Int) - 2 ^ (8 * n) else v
    let less := fun a b : Nat => if x.kind = .signed then signed a < signed b else a < b
    let fmt := if wide then fmt64 else fmt32
    let float := fun (g : Nat → Nat → Res) (p : Nat → Nat → Nat) (o a : Nat) =>
      if x.kind = .float then (g o a).val else p o a
    let law := fun (mk : Head → MemF → AtomF → Instr) (cas : Bool) (new : Nat → Nat → Nat → Nat) =>
      let i := mk h f x
      let a := fun l => if x.imm && !cas then imm else leNat (w.bytesOf x.a.toNat l n)
      let b := fun l => if cas then (if x.imm then imm else leNat (w.bytesOf x.b.toNat l n)) else 0
      let value := fun (st : State) (l : Nat) =>
        leNat ((List.range n).map fun j =>
          (st.byteIn (s.sliceFor s.cur (at_ l)) (tag l) (at_ l + j)).getD 0)
      let run := fun (upto : List Nat) (l : Nat) =>
        (upto.filter fun m => at_ m = at_ l).foldl (fun o m => new o (a m) (b m)) (value s l)
      Issues s i h → (f.size = .b32 ∨ f.size = .b64) →
      (∀ l ∈ ls, s.Writes s.cur (at_ l) n true ∧
        s.farPlace (s.sliceFor s.cur (at_ l)) (tag l) (at_ l) = none) →
      (∀ sl, (s.slice sl).spilled = []) →
      ∃ (t : State) (w' : Wave), exec i s = .next t ∧ t.unit s.cur = w' ∧ Issued w w' i ∧ SameWork s t ∧
        t.mem.phys = s.mem.phys ∧
        (x.ret = true → ls ≠ [] → ∃ p ∈ w'.pend, p.seq = w.pendSeq ∧ p.op = i ∧
          p.dst = f.data.toNat ∧ p.n = f.size.regs ∧
          p.values = ls.map fun l =>
            (l, wordsOf (leBytes (run (ls.filter (· < l)) l) n))) ∧
        (x.ret = false → ∀ p ∈ w'.pend, p.seq ≠ w.pendSeq) ∧
        (let failed := cas = true ∧ ∃ l ∈ ls, run (ls.filter (· < l)) l ≠ a l
         (failed → s.seq ≤ w'.age) ∧ (¬failed → w'.age = w.age)) ∧
        (∀ l ∈ ls, value t l = run ls l % 2 ^ (8 * n)) ∧
        (∀ sl asid va, (∀ l ∈ ls, ¬(sl = s.sliceFor s.cur (at_ l) ∧ asid = tag l ∧ at_ l ≤ va ∧
            va < at_ l + n)) → t.byteIn sl asid va = s.byteIn sl asid va)
    law .ATOM_ADD false
      (fun o a _ => float (fmt.add .rn) (fun o a => (o + a) % 2 ^ (8 * n)) o a) ∧
    law .ATOM_SUB false (fun o a _ => (o + 2 ^ (8 * n) - a) % 2 ^ (8 * n)) ∧
    law .ATOM_MIN false
      (fun o a _ => float (fmt.minMax false) (fun o a => if less a o then a else o) o a) ∧
    law .ATOM_MAX false
      (fun o a _ => float (fmt.minMax true) (fun o a => if less a o then o else a) o a) ∧
    law .ATOM_AND false (fun o a _ => o &&& a) ∧
    law .ATOM_OR false (fun o a _ => o ||| a) ∧
    law .ATOM_XOR false (fun o a _ => o ^^^ a) ∧
    law .ATOM_EXCH false (fun _ a _ => a) ∧
    law .ATOM_CAS true (fun o a b => if o = a then b else o) ∧
    law .ATOM_INC false (fun o a _ => if a ≤ o then 0 else o + 1) ∧
    law .ATOM_DEC false (fun o a _ => if o = 0 ∨ a < o then a else o - 1)

/-- A memory instruction with an active lane whose address leaves the address space or is not a multiple of
the size raises ALIGN, and no lane accesses memory (R181); an acquiring or polling load does so before it
acquires, and bvht for a node that is not aligned to 128 bytes. A scratchpad access likewise beyond the
group's range (R186). -/
def Obligations.MisalignedAccessesTrap : Prop :=
  ∀ (s : State) (h : Head) (f : MemF) (x : AtomF) (g : AluF),
    let w := s.unit s.cur
    let bad := ∃ l ∈ lanesOf (w.acting h),
      2 ^ 56 ≤ w.addrOf f.addr f.size.bytes l ∨ w.addrOf f.addr f.size.bytes l % f.size.bytes ≠ 0
    let out := ∃ l ∈ lanesOf (w.acting h),
      (s.group w.group).scratch < w.offsetOf f.addr f.size.bytes l + f.size.bytes ∨
        w.offsetOf f.addr f.size.bytes l % f.size.bytes ≠ 0
    (∀ i ∈ [Instr.LD h f, .LD_POLL h f, .ST h f, .ATOM_ADD h f x, .ATOM_SUB h f x, .ATOM_MIN h f x,
        .ATOM_MAX h f x, .ATOM_AND h f x, .ATOM_OR h f x, .ATOM_XOR h f x, .ATOM_EXCH h f x,
        .ATOM_CAS h f x, .ATOM_INC h f x, .ATOM_DEC h f x],
      Issues s i h → bad → TakesTrap s i causeAlign) ∧
    (∀ i ∈ [Instr.LDS h f, .STS h f], Issues s i h → out → TakesTrap s i causeAlign) ∧
    (Issues s (.BVHT h g) h →
      (∃ l ∈ lanesOf (w.acting h), 2 ^ 56 ≤ w.val true g.a.toNat l ∨ w.val true g.a.toNat l % 128 ≠ 0) →
      TakesTrap s (.BVHT h g) causeAlign)

/-- lds fixes each active lane's bytes from the group's scratchpad range, on their way to its registers; sts
writes each active lane's bytes there, a byte that several lanes write keeping that of the highest, and
every other scratchpad byte, every byte of memory and the rest of the device stay (R186, spec 11 R173). -/
def Obligations.ScratchpadAccesses : Prop :=
  ∀ (s : State) (h : Head) (f : MemF),
    let w := s.unit s.cur
    let g := s.group w.group
    let n := f.size.bytes
    let ls := lanesOf (w.acting h)
    let o := fun l => w.offsetOf f.addr n l
    let byte := fun (st : State) (k : Nat) => (st.core g.core).scratch.get 0 k
    let inside := ∀ l ∈ ls, o l + n ≤ g.scratch ∧ o l % n = 0
    (Issues s (.LDS h f) h → inside →
      UnitTo s (.LDS h f) (w.started (.LDS h f) f.data.toNat f.size.regs
        (ls.map fun l => (l, wordsOf ((List.range n).map fun j => byte s (g.base + o l + j)))))) ∧
    (Issues s (.STS h f) h → inside →
      ∃ t, exec (.STS h f) s = .next t ∧ t.unit s.cur = w.after (.STS h f) ∧
        (∀ u, u ≠ s.cur → t.unit u = s.unit u) ∧ t.mem = s.mem ∧ t.ctxs = s.ctxs ∧
        (∀ c, c ≠ g.core → t.core c = s.core c) ∧
        t.core g.core = { s.core g.core with scratch := (t.core g.core).scratch } ∧
        (∀ l ∈ ls, ∀ j, j < n → (∀ m ∈ ls, l < m → o m ≠ o l) →
          byte t (g.base + o l + j) = (w.bytesOf f.data.toNat l n).getD j 0) ∧
        (∀ k, (∀ l ∈ ls, ¬(g.base + o l ≤ k ∧ k < g.base + o l + n)) → byte t k = byte s k))

/-- Each of the four completes where it acts. fence.acq acquires, and what the unit issues later waits for what it
has issued before; fence.rel only goes on; pref goes on with every register of its unit as it was; discard, of an
aligned range no line or page of which denies writing, throws away every cached line of the range, dirty or not, and
no other, in L1, in the slices and of the code caches (R192 to R194). A discard of a misaligned range, or of one
beyond the address space, raises ALIGN. -/
def Obligations.FencesDiscardAndPref : Prop :=
  ∀ (s : State) (h : Head) (obs : BitVec 5) (f : AddrF) (base : BitVec 7) (len : BitVec 8),
    let w := s.unit s.cur
    let acq := Instr.FENCE_ACQ h obs
    let rel := Instr.FENCE_REL h obs
    let pref := Instr.PREF h f
    let drop := Instr.DISCARD h base len
    let va := w.val true (2 * base.toNat) (w.leader h)
    let n := (w.reg len.toNat (w.leader h)).toNat
    let asid := (s.ctx w.ctx).asid
    let inside := fun (a line : Nat) =>
      va ≤ line * 128 ∧ line * 128 < va + n ∧ a = tagAsid asid (line * 128)
    let code := fun key : Nat => key % 2 ^ 49 * 128 < va + n ∧ va < key % 2 ^ 49 * 128 + 128 ∧
      key / 2 ^ 49 % 2 ^ 16 = tagAsid asid (key % 2 ^ 49 * 128)
    (Acts s acq h → exec acq s = .next (({ s with seq := s.seq + 1 } : State).setUnit s.cur
      { w.after acq with acq := s.seq, fenceAt := w.pendSeq })) ∧
    (Acts s rel h → exec rel s = .next (s.setUnit s.cur (w.after rel))) ∧
    (Issues s pref h → ∃ t, exec pref s = .next t ∧ t.unit s.cur = w.after pref ∧ SameWork s t) ∧
    (Acts s drop h → va % 128 = 0 → n % 128 = 0 → va < 2 ^ 56 → va + n ≤ 2 ^ 56 →
      s.deniedAt asid va n = none → s.mem.stalls = [] → (∀ sl, (s.slice sl).spilled = []) →
      ∃ t, exec drop s = .next t ∧ t.unit s.cur = w.after drop ∧ t.mem.phys = s.mem.phys ∧
        (∀ sl a line, inside a line → t.findLine sl a line = none) ∧
        (∀ sl a line, ¬inside a line → t.findLine sl a line = s.findLine sl a line) ∧
        (∀ c a line, inside a line → t.l1Find c a line = none) ∧
        (AMap.wf s.mem.l1 [] = true → ∀ c a line, ¬inside a line → t.l1Find c a line = s.l1Find c a line) ∧
        (∀ key, code key → t.mem.icache.get [] key = [] ∧ t.mem.msqCache.get [] key = []) ∧
        (∀ key, ¬code key → t.mem.icache.get [] key = s.mem.icache.get [] key ∧
          t.mem.msqCache.get [] key = s.mem.msqCache.get [] key) ∧
        SameWork s t) ∧
    (Acts s drop h → (2 ^ 56 ≤ va ∨ va % 128 ≠ 0 ∨ n % 128 ≠ 0 ∨ 2 ^ 56 < va + n) →
      TakesTrap s drop causeAlign)

/-! ## Waiting (spec 14) -/

/-- waitu returns 3 in a cancelled launch; of a word in a line that its home slice holds it returns 0 at
once where the condition holds, and 1 where it does not and the limit is 0, and otherwise parks the unit
with an entry in the slice's table that holds the word's address, condition, operand and deadline (R215,
R218, R223). Where the table is full, the entry is spilled to the first free record of its context's segment, whose
bytes then stand in memory, and a full segment answers 2; a registration of class 0 takes the place of the youngest
entry of the lowest priority present, unless every entry is of class 0, and that entry is spilled, or ends with
status 2 (R215, R219). A misaligned word raises ALIGN. sleep parks the unit for its count, or goes on for 0
(R225). -/
def Obligations.WaitsAndSleeps : Prop :=
  ∀ (s : State) (h : Head) (f : WaituF) (g : AluF),
    let w := s.unit s.cur
    let i := Instr.WAITU h f
    let ld := w.leader h
    let n : Nat := if f.wide then 8 else 4
    let va : Nat := wrap 64 ((w.val true (2 * f.base.toNat) ld : Int) + f.disp.toInt * n)
    let operand := w.val f.wide f.operand.toNat ld
    let limit : Nat := match f.ext with
      | some e => e.toNat
      | none => (w.reg f.limit.toNat ld).toNat
    let sl := s.sliceFor s.cur va
    let answered := fun (t : State) (st : Nat) => exec i s = .next t ∧
      Wrote (w.after i) (t.unit s.cur) (w.destMask h) f.d.toNat false st ∧ SameWork s t ∧ SameBytes s t
    let answers := fun st : Nat => ∃ t, answered t st
    let c := s.slice sl
    let cls := s.classOf w.launch
    let parks := fun (t : State) (e : MonEntry) => exec i s = .next t ∧
      t.unit s.cur = { w.after i with
        park := .waitu (s.ctx w.ctx).asid va e.token f.d.toNat (w.destMask h)
        parkedAt := (s.core w.core).cycle } ∧
      t.work.tokens.get 0 e.token = s.cur + 1 ∧
      e.asid = tagAsid (s.ctx w.ctx).asid va ∧ e.va = va ∧ e.wide = f.wide ∧ e.signed = f.signed ∧
      e.cmp = f.cmp ∧ e.operand = BitVec.ofNat 64 operand ∧ e.fired = none ∧ e.cls = cls ∧ e.ctx = w.ctx ∧
      e.deadline = if limit = 0xFFFF_FFFF then none else some (c.cycle + 256 * limit)
    let record := fun (x n : Nat) => ∃ p ∈ c.spilled, p.entry.ctx = x ∧ p.index = n
    let full := fun x : Nat => ∀ n, n < (s.ctx x).spillSeg → record x n
    let freeAt := fun (x n : Nat) => n < (s.ctx x).spillSeg ∧ ¬record x n ∧ ∀ m, m < n → record x m
    let place := fun (x n : Nat) => (s.ctx x).spill.base + (sl * (s.ctx x).spillSeg + n) * 32
    let holds := fun bs : List Byte => cmpHolds f.cmp f.signed f.wide (leNat bs) operand = true
    let n32 := w.srcOrImm g g.a false ld % 2 ^ 32
    let sleep := Instr.SLEEP h g
    (Acts s i h → (2 ^ 56 ≤ va ∨ va % n ≠ 0) → TakesTrap s i causeAlign) ∧
    (Acts s i h → va < 2 ^ 56 → va % n = 0 → (s.launch w.launch).cancelled = true → answers 3) ∧
    (∀ bs : List Byte, Acts s i h → (s.launch w.launch).cancelled = false → s.Holds s.cur va n bs →
      (holds bs → answers 0) ∧
      (¬holds bs → limit = 0 → answers 1) ∧
      (¬holds bs → limit ≠ 0 → c.table.length < 2048 →
        ∃ (t : State) (e : MonEntry), parks t e ∧ SameBytes s t ∧ (t.slice sl).table = c.table ++ [e]) ∧
      (¬holds bs → limit ≠ 0 → 2048 ≤ c.table.length → cls ≠ 0 ∨ (∀ x ∈ c.table, x.cls = 0) →
        (full w.ctx → ∃ t, answered t 2 ∧ (t.slice sl).table = c.table ∧ (t.slice sl).spilled = c.spilled) ∧
        ∀ n, freeAt w.ctx n → s.localLine (place w.ctx n) = none →
          ∃ (t : State) (e : MonEntry), parks t e ∧ (t.slice sl).table = c.table ∧
            (t.slice sl).spilled = c.spilled ++ [{ entry := { e with moved := true }, index := n }] ∧
            t.readPhys (place w.ctx n) 32 = leBytes va 8 ++ leBytes e.asid 2 ++
              leBytes (1 + 2 * f.wide.toNat + 4 * f.signed.toNat + 8 * f.cmp.code + 64 * cls) 1 ++ leBytes 0 1 ++
              leBytes e.token 4 ++ leBytes operand 8 ++ leBytes (e.deadline.getD (2 ^ 64 - 1)) 8) ∧
      (¬holds bs → limit ≠ 0 → 2048 ≤ c.table.length → cls = 0 → ∀ d ∈ c.table, d.cls ≠ 0 → d.fired = none →
        (∀ x ∈ c.table, x = d ∨ x.token ≠ d.token ∧ (x.cls < d.cls ∨ x.cls = d.cls ∧ x.stamp < d.stamp)) →
        (full d.ctx → ∃ (t : State) (e : MonEntry), parks t e ∧ SameBytes s t ∧
          (t.slice sl).table = c.table.filter (fun x => x.token ≠ d.token) ++ [e] ∧
          (t.slice sl).spilled = c.spilled ∧
          ∃ v ∈ t.mem.wakes, v.slice = sl ∧ v.status = 2 ∧ v.entry = { d with fired := some 2 }) ∧
        ∀ n, freeAt d.ctx n → s.localLine (place d.ctx n) = none →
          ∃ (t : State) (e : MonEntry), parks t e ∧
            (t.slice sl).table = c.table.filter (fun x => x.token ≠ d.token) ++ [e] ∧
            (t.slice sl).spilled = c.spilled ++ [{ entry := { d with moved := true }, index := n }])) ∧
    (Acts s sleep h → n32 = 0 → UnitTo s sleep (w.after sleep)) ∧
    (Acts s sleep h → n32 ≠ 0 →
      UnitTo s sleep { w.after sleep with park := .sleep n32, parkedAt := (s.core w.core).cycle })

/-! ## Creating and observing work (spec 06, 07, spec 08 R145 to R147) -/

/-- spawn: status 2 for a group that no core could hold, 1 for a full pool, else 0 with a record of the entry in the
core's pool and the group numbers taken, though a cancelled launch's record is discarded; the pool is then offered
the room that its core has free, within the same step, where no pre-emption keeps it from that: a group that fits
stands there at once, on a core whose banks have the launch's map (R145, spec 07 R124; the moment by log entry 71,
the answer in a cancelled launch by log entry 116). launch reads its record as a load by the leader: a misaligned
record raises ALIGN; status 0 with an entry of the context's device launch queue, 1 with one of its overflow ring,
whose line or whose frame then holds the record, and 2 where both are full; a place in the ring whose page is not
mapped raises a fault, and the operand log keeps the record as it was read (R146, spec 07 R121). -/
def Obligations.CreatingWork : Prop :=
  ∀ (s : State) (h : Head) (f : AluF),
    let w := s.unit s.cur
    let la := s.launch w.launch
    let sp := Instr.SPAWN h f
    let n := w.srcOrImm f f.a false (w.leader h) % 2 ^ 32
    let c := s.core w.core
    let answers := fun (v : State) (st : Nat) =>
      ∃ w' : Wave, Wrote (w.after sp) w' (w.destMask h) f.d.toNat false st ∧
        exec sp s = .next (v.setUnit s.cur w')
    (∀ (o : Obj) (e : EntryRec), Acts s sp h → s.objOf w = some o →
      (o.entries.find? fun x => x.kind = 1 && x.spawn = f.c.toNat) = some e →
      let fits := (emptyRoom la.form.bankMap).place
        { waves := e.waves, regs := e.regs, scratch := e.scratch, tiles := e.tiles } ≠ none
      let r : PoolRec :=
        { launch := w.launch, entry := o.textAt + e.text, regs := e.regs, scratch := e.scratch
          tiles := e.tiles, waves := e.waves, next := la.spawnNext, left := n }
      (n = 0 → answers s 0) ∧
      (n ≠ 0 → ¬fits → answers s 2) ∧
      (n ≠ 0 → fits → 64 ≤ c.pool.length → answers s 1) ∧
      (n ≠ 0 → fits → c.pool.length < 64 →
        (∃ w' : Wave, Wrote (w.after sp) w' (w.destMask h) f.d.toNat false 0 ∧
          exec sp s = .next ((((if la.cancelled then s
            else s.setCore w.core { c with pool := c.pool ++ [r] }).setLaunch w.launch
              { la with spawnNext := la.spawnNext + n }).setUnit s.cur w').offerPool w.core)) ∧
        (la.cancelled = false → (∀ q ∈ c.pool ++ [r], s.preempting w.core (s.launch q.launch).ctx = true) →
          ∃ t, exec sp s = .next t ∧ (t.core w.core).pool = c.pool ++ [r] ∧ t.work.groups = s.work.groups) ∧
        (∀ (as : List Alloc) (base : Nat), la.cancelled = false → c.pool = [] → n = 1 →
          s.preempting w.core la.ctx = false → la.banked.contains w.core = true →
          (s.room w.core).place { waves := e.waves, regs := e.regs, scratch := e.scratch, tiles := e.tiles } =
            some (as, base) →
          ∃ t, exec sp s = .next t ∧ (t.core w.core).pool = [] ∧ (t.group s.seq).phase = .resident ∧
            (t.group s.seq).launch = w.launch ∧ (t.group s.seq).num = la.spawnNext ∧
            (t.group s.seq).core = w.core ∧ (t.group s.seq).entry = o.textAt + e.text ∧
            (t.group s.seq).nwaves = e.waves ∧ (t.group s.seq).spawned = true))) ∧
    let i := Instr.LAUNCH h f
    let va := w.val true f.a.toNat (w.leader h)
    let x := s.ctx la.ctx
    let cap := x.ring.size / 64
    let place := x.ring.base + 64 * (x.ringNext % cap)
    let child := fun (n : Nat) (bs : List Byte) =>
      ({ phase := .queued, ctx := la.ctx, queue := la.queue, job := la.job, jphase := la.jphase
         graph := la.graph, order := n, recAddr := va, bytes := some bs, parent := some w.launch
         form := LaunchRec.ofBytes bs
         cancelled := (s.work.graphs.get {} la.graph).cancelled } : Launch)
    (Acts s i h → (2 ^ 56 ≤ va ∨ va % 64 ≠ 0) → TakesTrap s i causeAlign) ∧
    ∀ bs : List Byte, Acts s i h → s.Reads s.cur va 64 bs →
      (x.hw.length < 256 → x.ringRecs = [] →
        ∃ (t : State) (n : Nat), exec i s = .next t ∧
          Wrote (w.after i) (t.unit s.cur) (w.destMask h) f.d.toNat false 0 ∧
          t.ctx la.ctx = { x with hw := x.hw ++ [n] } ∧ t.launch n = child n bs ∧
          (∀ m, m ≠ n → t.launch m = s.launch m) ∧
          (t.work.graphs.get {} la.graph).children = (s.work.graphs.get {} la.graph).children + 1 ∧
          SameBytes s t) ∧
      (256 ≤ x.hw.length ∨ x.ringRecs ≠ [] → x.ringRecs.length < cap → s.ringMapped la.ctx place = true →
        ∃ (t : State) (n : Nat), exec i s = .next t ∧
          Wrote (w.after i) (t.unit s.cur) (w.destMask h) f.d.toNat false 1 ∧
          t.ctx la.ctx = { x with ringRecs := x.ringRecs ++ [n], ringNext := x.ringNext + 1 } ∧
          t.launch n = child n bs ∧ (∀ m, m ≠ n → t.launch m = s.launch m) ∧
          (s.localLine place = none → t.readPhys place 64 = bs) ∧
          (∀ sl l, s.localLine place = some (sl, l) → place % 64 = 0 → l.data.length = 128 →
            (t.findLine sl l.asid l.va).map (fun m => (m.data.drop (place % 128)).take 64) = some bs)) ∧
      (256 ≤ x.hw.length ∨ x.ringRecs ≠ [] → x.ringRecs.length < cap → s.ringMapped la.ctx place = false →
        ∃ (t : State) (p : Pend), exec i s = .next t ∧ p ∈ (t.unit s.cur).pend ∧ p.seq = w.pendSeq ∧
          p.faulted.map LaneReq.data = [bs] ∧ p.cause = .notPresent ∧ (t.unit s.cur).park = .access ∧
          (t.unit s.cur).pc = w.pc ∧ (∃ q ∈ t.mem.faults, q.who = .unit s.cur w.pendSeq ∧ q.va = place) ∧
          t.work.launches = s.work.launches) ∧
      (256 ≤ x.hw.length ∨ x.ringRecs ≠ [] → cap ≤ x.ringRecs.length →
        ∃ t : State, exec i s = .next t ∧
          Wrote (w.after i) (t.unit s.cur) (w.destMask h) f.d.toNat false 2 ∧ SameWork s t ∧
          SameBytes s t)

/-- trig adds the unit's home waves to its group's, and the launch has triggered once each of its groups has (that a
unit counts for its home waves by log entry 37);
waitp returns 3 in a cancelled launch, 0 with an acquire where its launch is not early-eligible or its
producers have triggered, and else parks; gbar parks, or in a cancelled launch retires the unit, which waits
until its accesses have been performed (spec 06 R109, R111, spec 07 R120). -/
def Obligations.TriggersAndBarriers : Prop :=
  ∀ (s : State) (h : Head) (f : AluF),
    let w := s.unit s.cur
    let g := s.group w.group
    let la := s.launch w.launch
    let p := Instr.WAITP h f
    let b := Instr.GBAR h f
    let here := s.setUnit s.cur { w with held := false }
    let ended := la.form.flags % 2 = 0 ∨ ∀ l ∈ s.producers w.launch, here.launchTriggered l = true
    (Acts s (.TRIG h f) h → ∃ (ts : List Nat) (b : Bool),
      let v := here.setGroup w.group { g with trigs := ts }
      exec (.TRIG h f) s = .next
        ((if b then v.setLaunch w.launch { la with triggered := true } else v).setUnit s.cur
          (w.after (.TRIG h f))) ∧
      (∀ n, n ∈ ts ↔ n ∈ g.trigs ∨ n ∈ w.homeWaves) ∧
      (b = true ↔ la.triggered = false ∧ v.launchTriggered w.launch = true)) ∧
    (Acts s p h → la.cancelled = true →
      ∃ w', UnitTo s p w' ∧ Wrote (w.after p) w' (w.destMask h) f.d.toNat false 3) ∧
    (Acts s p h → la.cancelled = false → ended →
      ∃ w' : Wave, exec p s = .next (({ s with seq := s.seq + 1 } : State).setUnit s.cur w') ∧
        Wrote { w.after p with acq := s.seq } w' (w.destMask h) f.d.toNat false 0) ∧
    (Acts s p h → la.cancelled = false → ¬ended →
      UnitTo s p { w.after p with park := .waitp f.d.toNat (w.destMask h)
                                  parkedAt := (s.core w.core).cycle }) ∧
    (Issues s b h → la.cancelled = false →
      UnitTo s b { w.after b with park := .gbar, parkedAt := (s.core w.core).cycle }) ∧
    (Issues s b h → la.cancelled = true → s.performed w = true → ∃ t, exec b s = .next t ∧
      t.unit s.cur = {} ∧ ∀ u, u ≠ s.cur → t.unit u = s.unit u) ∧
    (Issues s b h → la.cancelled = true → s.performed w = false → (∀ q ∈ w.pend, q.status ≠ .declined) →
      UnitTo s b { w with held := true })

/-- cancel completes whatever its address names: the unit goes on past it. One that names no unfinished unit of
work at the level does nothing else, but that the firmware is told of reserved home-map entries that the reading
of launch records meets (spec 11 R177); a launch that it names is cancelled, a queued one too, and one that has
started, and is not a draw that has run all its waves, keeps the count of its retired groups, places no more, and has
no record in a pool; with a graph every
unfinished launch of it is cancelled; and a phase or job likewise (spec 06 R111). ccnt completes with 0 for
address 0, with the hardware counter of the unit of work that the address names, and else with what an
acquire load of the counter reads; a misaligned address raises ALIGN (R147). -/
def Obligations.CancelAndCount : Prop :=
  ∀ (s : State) (h : Head) (f : AluF),
    let w := s.unit s.cur
    let va := w.val true f.a.toNat (w.leader h)
    let i := Instr.CANCEL h f
    let c := Instr.CCNT h f
    let named := fun lv : WorkLevel => s.named w.ctx lv va
    let counter := fun (cancelled : Bool) (stop n : Nat) => if cancelled then 2 ^ 63 + stop else n
    let unfinished := fun l : Level => l.live = true ∧ l.done = false
    let level := fun l : Level => counter l.cancelled l.stopCount l.completed
    let lv := WorkLevel.ofMod f.mod
    let told := (s.setUnit s.cur { w with held := false }).tellNamed w.ctx lv va
    let writes := fun (n : Nat) (w' : Wave) => Wrote (w.after c) w' (w.destMask h) f.d.toNat true n
    let answers := fun n : Nat => ∃ w', exec c s = .next (told.setUnit s.cur w') ∧ writes n w'
    (Acts s i h → ∃ t, exec i s = .next t ∧ t.unit s.cur = w.after i) ∧
    (Acts s i h → named lv = none → exec i s = .next ((s.setUnit s.cur (w.after i)).tellNamed w.ctx lv va)) ∧
    (∀ n, Acts s i h → WorkLevel.ofMod f.mod = .launch → named .launch = some n →
      (s.launch n).cancelled = false → (s.launch n).phase ∈ [.queued, .eligible, .started] →
      ((s.launch n).phase = .started → (s.draw n).finishing = false) →
      ∃ t, exec i s = .next t ∧ (t.launch n).cancelled = true ∧
        ((s.launch n).phase = .started → (t.launch n).stopCount = (s.launch n).retired ∧
          (t.launch n).next = (s.launch n).form.count ∧ (t.launch n).again = [] ∧
          ∀ k, ∀ r ∈ (t.core k).pool, r.launch ≠ n)) ∧
    (∀ n, Acts s i h → WorkLevel.ofMod f.mod = .graph → named .graph = some n →
      unfinished (s.work.graphs.get {} n) → (s.work.graphs.get {} n).cancelled = false →
      ∃ t, exec i s = .next t ∧ (t.work.graphs.get {} n).cancelled = true ∧
        (t.work.graphs.get {} n).stopCount = (s.work.graphs.get {} n).completed ∧
        ∀ l, (s.launch l).graph = n → (s.launch l).phase ∈ [.queued, .eligible] →
          (t.launch l).cancelled = true) ∧
    (∀ n, Acts s i h → WorkLevel.ofMod f.mod = .phase → named .phase = some n →
      unfinished (s.work.phases.get {} n) →
      ∃ t, exec i s = .next t ∧ (t.work.phases.get {} n).cancelled = true) ∧
    (∀ n, Acts s i h → WorkLevel.ofMod f.mod = .job → named .job = some n →
      unfinished (s.work.jobLevels.get {} n) →
      ∃ t, exec i s = .next t ∧ (t.work.jobLevels.get {} n).cancelled = true) ∧
    (Acts s c h → (2 ^ 56 ≤ va ∨ va % 8 ≠ 0) → TakesTrap s c causeAlign) ∧
    (Acts s c h → va = 0 → ∃ w', UnitTo s c w' ∧ writes 0 w') ∧
    (∀ n, Acts s c h → va < 2 ^ 56 → va % 8 = 0 → named lv = some n →
      match lv with
      | .launch => answers (counter (s.launch n).cancelled (s.launch n).stopCount (s.launch n).retired)
      | .graph => answers (level (s.work.graphs.get {} n))
      | .phase => answers (level (s.work.phases.get {} n))
      | .job => answers (level (s.work.jobLevels.get {} n))) ∧
    ∀ bs : List Byte, Acts s c h → va ≠ 0 → named lv = none →
      s.Reads s.cur va 8 bs → ∃ t : State, exec c s = .next t ∧ s.seq ≤ (t.unit s.cur).acq ∧
        Wrote { w.after c with acq := (t.unit s.cur).acq } (t.unit s.cur) (w.destMask h) f.d.toNat true
          (leNat bs) ∧ SameWork s t ∧ SameBytes s t

/-! ## Draws (spec 18, 19) -/

/-- What the instructions of a draw read and write of its elements: hold its own slots, zwr the depth, fbw a colour,
rayret the value; take the slots of the lanes' ancestors at the slots' rates and ipl the interpolated slot, on their
way to the destination; cov the mask of covered samples, and ztest the test against the depth pyramid as it was
where the draw took it (log entry 14), or free values where another writer has made that wrong (spec 18 R275, R277,
R278, spec 19 R281 to R284, R287 to R291, R293; log entry 56, and of a take of two slots at two rates log entry 53).
Slots lie in memory, in lines of the rate-store area that their home slices hold here, with their first contents
written. -/
def Obligations.ElementsOfADraw : Prop :=
  ∀ (s : State) (h : Head) (f : AluF) (record : Nat → Nat → Word),
    let w := s.unit s.cur
    let d := s.draw w.launch
    let ls := lanesOf (w.acting h)
    let el := fun l : Nat => w.elems.getD l 0
    let n : Nat := if f.ty.wide then 2 else 1
    let slot := fun j : Nat => f.c.toNat + j
    let kept := fun e k : Nat => (d.elem e).init = [] ∧
      s.Holds s.cur (d.slotVa e k) 4 (leBytes (record e k).toNat 4)
    let started := fun (i : Instr) (k : Nat) (words : Nat → List Word) =>
      ∃ (t : State) (w' : Wave), exec i s = .next t ∧ t.unit s.cur = w' ∧ Issued w w' i ∧
        (ls ≠ [] → ∃ p ∈ w'.pend, p.seq = w.pendSeq ∧ p.op = i ∧ p.dst = f.d.toNat ∧ p.n = k ∧
          p.values = ls.map (fun l => (l, words l)) ∧ p.faulted = [] ∧ p.todo = []) ∧
        SameWork s t ∧ SameBytes s t
    let owner := fun l j => d.ancestor ((d.slotRate (slot j)).getD .F) 7 (el l)
    let hold := Instr.HOLD h f
    let ztest := Instr.ZTEST h f
    let at_ := fun l j => d.slotVa (el l) (slot j)
    let tag := fun va => tagAsid (s.reqOf s.cur va).asid va
    (Issues s hold h → (∀ l ∈ ls, (d.elem (el l)).init = [] ∧ ∀ j, j < n → s.Writes s.cur (at_ l j) 4 false) →
      (∀ sl, (s.slice sl).spilled = []) →
      ∃ (t : State) (w' : Wave), exec hold s = .next t ∧ t.unit s.cur = w' ∧ Issued w w' hold ∧
        (∀ p ∈ w'.pend, p.seq ≠ w.pendSeq) ∧ SameWork s t ∧ t.mem.phys = s.mem.phys ∧
        (∀ l ∈ ls, ∀ j, j < n →
          (∀ m ∈ ls, ∀ i, i < n → (l < m ∨ l = m ∧ j < i) → at_ m i ≠ at_ l j) →
          ∀ k, k < 4 → t.byteIn (s.sliceFor s.cur (at_ l j)) (tag (at_ l j)) (at_ l j + k) =
            some ((leBytes (w.reg (f.a.toNat + j) l).toNat 4).getD k 0)) ∧
        (∀ sl asid va, (∀ l ∈ ls, ∀ j, j < n → ¬(sl = s.sliceFor s.cur (at_ l j) ∧ asid = tag (at_ l j) ∧
            at_ l j ≤ va ∧ va < at_ l j + 4)) → t.byteIn sl asid va = s.byteIn sl asid va)) ∧
    ElemLaw s (.ZWR h f) h (fun l e e' => e' = { e with zwr := some (w.reg f.a.toNat l) }) ∧
    ElemLaw s (.RAYRET h f) h (fun l e e' => e' = { e with ret := w.reg f.a.toNat l }) ∧
    ElemLaw s (.FBW h f) h (fun l e e' => e' = { e with colours := e.colours ++
      [{ target := f.c.toNat % 8, float := f.ty = .f32
         words := (List.range (if f.ty = .f32 then 4 else 1)).map fun j => w.reg (f.a.toNat + j) l }] }) ∧
    (Issues s (.TAKE h f) h → s.tainted w.launch = false →
      (∀ l ∈ ls, ∀ j, j < n → kept (owner l j) (slot j)) →
      started (.TAKE h f) n (fun l => (List.range n).map fun j => record (owner l j) (slot j))) ∧
    (let corners := fun l => d.cornersOf (d.prims.get {} (d.elem (el l)).prim)
     Issues s (.IPL h f) h → s.tainted w.launch = false → d.blk.sppCode < 4 →
      (∀ l ∈ ls, ∀ v ∈ corners l, kept v f.c.toNat ∧ ∀ i, i < 4 → kept v (d.blk.pos + i)) →
      started (.IPL h f) 1 (fun l =>
        let e := d.elem (el l)
        let pos := fun k i : Nat => (record ((corners l).getD i 0) (d.blk.pos + k)).toNat
        let screen := fun k i : Nat => rDiv (pos k i) (pos 3 i)
        let o := samplePlace d.blk.sppCode e.sample
        let at_ := if e.rate = .P then (16 * e.px + 8 * d.blk.cw, 16 * e.py + 8 * d.blk.ch)
          else (16 * e.px + o.1, 16 * e.py + o.2)
        [BitVec.ofNat 32 (slotAt (screen 0) (screen 1) (pos 3)
          (fun i => (record ((corners l).getD i 0) f.c.toNat).toNat) (per16 at_.1) (per16 at_.2))])) ∧
    (Issues s (.COV h f) h →
      LaneResult s (.COV h f) (w.acting h) f.d.toNat false
        (fun l m => m = (d.elem (el l)).cov % 2 ^ 32) fun _ => 0) ∧
    (Issues s ztest h →
      let v := fun (r : BitVec 8) (i l : Nat) => (w.reg (r.toNat + i) l).toNat
      ∃ w' : Wave,
        exec ztest s = .next (({ s with freeCount := s.freeCount + 1 } : State).setUnit s.cur w') ∧
        w' = { w.after ztest with k := w'.k } ∧ (f.d = 0 → w'.k = w.k) ∧
        (∀ j, j ≠ f.d.toNat → w'.kreg j = w.kreg j) ∧
        (f.d ≠ 0 → ∀ l, l < 32 →
          (inMask (w.acting h) l = false → inMask (w'.kreg f.d.toNat) l = inMask (w.kreg f.d.toNat) l) ∧
          (inMask (w.acting h) l = true → (∀ p, d.pyramid = some p → p.stale = false ∧ 0 < p.width) →
            (inMask (w'.kreg f.d.toNat) l = true ↔
              boxSeen d.blk d.pyramid (v f.a 0 l) (v f.a 1 l) (v f.a 2 l) (v f.a 3 l) (v f.b 0 l)))))

/-- amp, emit.vtx and spawny where their records fit and no request waits: they reserve
the records, and make for each active lane its children, numbered on from those it has, each with lines of the
rate-store area that no other record has; amp writes their count, and spawny interlocks its destination until the
ray returns and stores the ray and vB in the nine slots of its record. emit.prim makes one primitive of each lane by
its three indices. Of amp, the emits and spawny, the first children up to the maximum of the lane's element survive,
and a spawny past it gives 0xFFFFFFFF; the number of the others is added to the draw's overflow counter, where there
is one, and with the draw's trap flag AMP_OVERFLOW is then taken, past the instruction (R269). Where a record does
not fit, the unit parks with a request, having made nothing (spec 17 R259, spec 18 R269 to R271, spec 19 R285, R286,
R292). The lanes' elements differ, and stand before every identifier to come; where it says what stands in memory,
the home slices hold the lines of the area that the records can take, and the counter's. -/
def Obligations.Amplification : Prop :=
  ∀ (s : State) (h : Head) (f : AluF),
    let w := s.unit s.cur
    let d := s.draw w.launch
    let ls := lanesOf (w.acting h)
    let el := fun l : Nat => w.elems.getD l 0
    let apart := ∀ l ∈ ls, el l < s.seq ∧ ∀ m ∈ ls, m ≠ l → el m ≠ el l
    let req := fun o : Nat => s.storeReq w.launch (d.blk.area + o)
    let stored := fun (r : Rate) (total : Nat) => (∀ sl, (s.slice sl).spilled = []) ∧
      ∀ k, k < (d.elems.flatMap fun e => e.2.lines).length + total * (d.recSize r / 128) →
        s.ReqWrites (req (128 * k)) 128
    let own := fun (t : State) (r : Rate) (k : Nat) =>
      let e := (t.draw w.launch).elem k
      e.lines.length = d.recSize r / 128 ∧ e.lines.Nodup ∧ (∀ o ∈ e.lines, o % 128 = 0) ∧
        ∀ x, x ≠ k → ∀ o ∈ e.lines, o ∉ ((t.draw w.launch).elem x).lines
    let made := fun (t : State) (r : Rate) (l j k : Nat) (e : Elem) =>
      s.seq ≤ k ∧ own t r k ∧
        let x := (t.draw w.launch).elem k
        x = { e with rate := r, parent := el l, ordinal := (d.elem (el l)).kids + j
                     object := (d.elem (el l)).object, order := k
                     lines := x.lines, init := x.init, staged := x.staged
                     phase := if d.formsWaves r then .ready else .exited }
    let ctr := s.storeReq w.launch d.blk.overflow
    let counted := fun (t : State) (extra : Nat) => d.blk.overflow ≠ 0 → s.work.writes = [] → s.mem.stalls = [] →
      (∀ m, s.reqLine ctr = some m → m.attr.place ≠ 1 ∧ m.attr.place ≠ 2) →
      (∀ sl, (s.slice sl).spilled = []) → ∀ bs, bs.length = 8 → s.ReqReads ctr bs → s.ReqWrites ctr 8 →
      ∀ k, k < 8 → t.byteIn (s.reqSlice ctr) (s.reqTag ctr) (d.blk.overflow + k) =
        some ((leBytes ((leNat bs + extra) % 2 ^ 64) 8).getD k 0)
    let handles := fun (extra entry : Nat) => extra ≠ 0 → d.blk.traps = true →
      (s.ctx w.ctx).trap = some entry ∧ w.inHandler = false ∧ w.results = []
    let ends := fun (i : Instr) (w' : Wave) (extra entry : Nat) =>
      if extra ≠ 0 ∧ d.blk.traps = true then w'.trapped i causeAmp entry else w'
    let memory := fun (t : State) (r : Rate) (total : Nat) =>
      (d.recSize r = 0 → t.mem = s.mem) ∧
      (stored r total → t.mem.phys = s.mem.phys ∧
        ∀ sl asid va, (∀ k, s.seq ≤ k → ∀ o ∈ ((t.draw w.launch).elem k).lines,
          ¬(sl = s.reqSlice (req o) ∧ asid = s.reqTag (req o) ∧ d.blk.area + o ≤ va ∧
            va < d.blk.area + o + 128)) → t.byteIn sl asid va = s.byteIn sl asid va)
    let law := fun (i : Instr) (r : Rate) (most : Nat) (ask : Nat → Nat)
        (done : Wave → (Nat → Nat) → Prop) =>
      let grant := fun l => min (ask l) (most - (d.elem (el l)).kids)
      let total := (ls.map grant).sum
      let extra := (ls.map fun l => ask l - grant l).sum
      let parked := { w with held := false, park := .reserve, parkedAt := (s.core w.core).cycle }
      (∀ entry, Issues s i h → apart → d.requests = [] →
        d.fits r total = true → (∀ e, s.seq ≤ e → d.elem e = {}) → handles extra entry →
        ∃ (t : State) (w' : Wave), exec i s = .next t ∧ t.unit s.cur = ends i w' extra entry ∧ done w' grant ∧
          (t.draw w.launch).used = d.used + total * d.recSize r ∧ (t.draw w.launch).requests = [] ∧
          (∀ l ∈ ls, ((t.draw w.launch).elem (el l)).kids = (d.elem (el l)).kids + grant l ∧
            ((t.draw w.launch).elem (el l)).count = (d.elem (el l)).count + grant l ∧
            ∀ j, j < grant l → ∃ k, made t r l j k {}) ∧
          (∀ e, e < s.seq → (∀ l ∈ ls, el l ≠ e) → (t.draw w.launch).elem e = d.elem e) ∧
          (extra = 0 ∨ d.blk.overflow = 0 → memory t r total) ∧
          (stored r total → (∀ k, k < (d.elems.flatMap fun e => e.2.lines).length + total * (d.recSize r / 128) →
            (req (128 * k)).va / 128 ≠ d.blk.overflow / 128) → counted t extra) ∧
          (∀ u, u ≠ s.cur → t.unit u = s.unit u) ∧ t.cores = s.cores ∧ t.ctxs = s.ctxs) ∧
      (Issues s i h → d.requests = [] → total ≠ 0 → d.fits r total = false →
        exec i s = .next ((s.setDraw w.launch
          { d with requests := [{ who := .unit s.cur, rate := r, n := total, met := false }] }).setUnit
            s.cur parked))
    let amp := Instr.AMP h f
    let ray := Instr.SPAWNY h f
    let prim := Instr.EMIT_PRIM h f
    let count := fun l => w.srcOrImm f f.a false l % 2 ^ 32
    law amp .C d.blk.maxC count (fun w' grant =>
      w' = { w.after amp with regs := w'.regs } ∧
      (∀ l ∈ ls, w'.reg f.d.toNat l = BitVec.ofNat 32 (grant l)) ∧
      ∀ q l, l < 32 → ¬(l ∈ ls ∧ q = f.d.toNat) → w'.reg q l = w.reg q l) ∧
    law (.EMIT_VTX h f) .V d.blk.maxV (fun l => (w.reg f.a.toNat l).toNat)
      (fun w' _ => w' = w.after (.EMIT_VTX h f)) ∧
    (let has := ls.filter fun l => (d.elem (el l)).prims < d.blk.maxP
     let extra := ls.length - has.length
     (∀ entry, Issues s prim h → has = [] → extra = 0 ∨ d.blk.overflow = 0 → handles extra entry →
       UnitTo s prim (ends prim (w.after prim) extra entry)) ∧
     (Issues s prim h → apart → (extra ≠ 0 → d.blk.traps = false) → ∃ t, exec prim s = .next t ∧ counted t extra) ∧
     ∀ entry, Issues s prim h → has ≠ [] → apart → extra = 0 ∨ d.blk.overflow = 0 → handles extra entry →
      ∃ d' : Draw, exec prim s = .next ((({ s with seq := s.seq + has.length } : State).setDraw w.launch
          d').setUnit s.cur (ends prim (w.after prim) extra entry)) ∧
        d' = { d with elems := d'.elems, prims := d'.prims } ∧
        (∀ j, j < has.length →
          let l := has.getD j 0
          let v := (w.reg f.a.toNat l).toNat
          d'.elem (el l) = { d.elem (el l) with prims := (d.elem (el l)).prims + 1 } ∧
          d'.prims.get {} (s.seq + j) =
            { live := true, cluster := el l, i0 := v % 256, i1 := v / 2 ^ 8 % 256, i2 := v / 2 ^ 16 % 256
              index := (d.elem (el l)).prims }) ∧
        (∀ e, (∀ l ∈ has, el l ≠ e) → d'.elem e = d.elem e) ∧
        ∀ k, k < s.seq ∨ s.seq + has.length ≤ k → d'.prims.get {} k = d.prims.get {} k) ∧
    (∀ entry, Issues s ray h → (∀ l ∈ ls, 256 ≤ (d.elem (el l)).kids) → d.requests = [] →
      ls = [] ∨ d.blk.overflow = 0 → handles ls.length entry →
      ∃ w', exec ray s = .next ((s.setDraw w.launch d).setUnit s.cur (ends ray w' ls.length entry)) ∧
        w' = { w.after ray with regs := w'.regs } ∧ (∀ l ∈ ls, w'.reg f.d.toNat l = 0xFFFF_FFFF) ∧
        ∀ q l, l < 32 → ¬(l ∈ ls ∧ q = f.d.toNat) → w'.reg q l = w.reg q l) ∧
    (∀ y0, Issues s ray h → apart → (∀ l ∈ ls, (d.elem (el l)).kids < 256) → d.requests = [] →
      d.fits .Y ls.length = true → d.raySlots = some y0 → (∀ e, s.seq ≤ e → d.elem e = {}) →
      ∃ (t : State) (ids : List Nat), exec ray s = .next t ∧ ids.length = ls.length ∧
        ids.Pairwise (· < ·) ∧
        t.unit s.cur = { w.after ray with
          awaits := w.awaits ++ ((List.range ls.length).map fun j => (f.d.toNat, ls.getD j 0, ids.getD j 0)) } ∧
        (∀ u, u ≠ s.cur → t.unit u = s.unit u) ∧ t.cores = s.cores ∧ t.ctxs = s.ctxs ∧
        t.draw w.launch = { d with elems := (t.draw w.launch).elems
                                   used := d.used + ls.length * d.recSize .Y } ∧
        memory t .Y ls.length ∧
        (∀ j, j < ls.length →
          let l := ls.getD j 0
          let k := ids.getD j 0
          let p := d.elem (el l)
          (t.draw w.launch).elem (el l) = { p with kids := p.kids + 1, count := p.count + 1 } ∧
          made t .Y l 0 k { waiter := some (s.cur, l, f.d.toNat) } ∧
          (stored .Y ls.length → ∀ q, q < 9 →
            let va := (t.draw w.launch).slotVa k (y0 + q)
            let v := if q < 8 then w.reg (f.a.toNat + q) l else w.reg f.b.toNat l
            ∀ b, b < 4 → t.byteIn (s.reqSlice (s.storeReq w.launch va)) (s.reqTag (s.storeReq w.launch va))
              (va + b) = some ((leBytes v.toNat 4).getD b 0))) ∧
        ∀ e, e < s.seq → (∀ l ∈ ls, el l ≠ e) → (t.draw w.launch).elem e = d.elem e)

/-- bvht, of nodes that their home slices hold: each active lane's destination holds the result for the
node and its ray, at once; a node of a type that is neither box nor triangle, or of no or of more than four
boxes, gives 0xFFFFFFFF; and nothing else changes (spec 19 R294, R295). -/
def Obligations.RayNodes : Prop :=
  ∀ (s : State) (h : Head) (f : AluF) (bs : Nat → List Byte),
    let w := s.unit s.cur
    let i := Instr.BVHT h f
    let ls := lanesOf (w.acting h)
    let ray := fun l : Nat =>
      let v := fun j : Nat => (w.reg (f.b.toNat + j) l).toNat
      (⟨⟨v 0, v 1, v 2⟩, v 3, ⟨v 4, v 5, v 6⟩, v 7⟩ : Ray)
    (Issues s i h → (∀ l ∈ ls, s.Reads s.cur (w.val true f.a.toNat l) 128 (bs l)) →
      ∃ (t : State) (w' : Wave), exec i s = .next t ∧ t.unit s.cur = w' ∧
        Issued { w with regs := w'.regs } w' i ∧ (∀ q ∈ w'.pend, q.seq ≠ w.pendSeq) ∧
        (∀ l ∈ ls, w'.reg f.d.toNat l = BitVec.ofNat 32 ((ray l).node (bs l))) ∧
        (∀ q l, l < 32 → ¬(l ∈ ls ∧ q = f.d.toNat) → w'.reg q l = w.reg q l) ∧
        SameWork s t ∧ SameBytes s t) ∧
    ∀ (r : Ray) (node : List Byte),
      let word := fun j : Nat => leNat ((node.drop (4 * j)).take 4)
      let vec := fun j : Nat => (⟨word j, word (j + 1), word (j + 2)⟩ : Vec3)
      (word 0 = 1 → r.node node = hitsTriangle r (vec 2) (vec 5) (vec 8)) ∧
      (2 ≤ word 0 ∨ word 0 = 0 ∧ (word 1 = 0 ∨ 4 < word 1) → r.node node = 0xFFFF_FFFF) ∧
      (word 0 = 0 → 1 ≤ word 1 → word 1 ≤ 4 → ∀ j, j < 32 →
        (r.node node).testBit j = (decide (j < word 1) && hitsBox r (vec (2 + 6 * j)) (vec (5 + 6 * j))))

/-! ## Tiles, copies, matrix starts and collective commands (spec 16 R256, spec 23 R334 to R346) -/

/-- tarm opens a fill of an EMPTY slot; twait goes on, with an acquire, from a READY one, and parks on one
that fills or drains; trel empties a READY slot, or one whose fill has failed; tstat answers the slot's
state, phase, overrun, failure and arrived bytes. A slot that the group does not hold, or in another
state, raises TILE_STATE, and a bad range ALIGN. In a cancelled launch twait retires the unit once its
accesses have been performed (R334 to R340, spec 06 R111). -/
def Obligations.TileSlots : Prop :=
  ∀ (s : State) (h : Head) (f : AluF),
    let w := s.unit s.cur
    let g := s.group w.group
    let n := f.c.toNat
    let arm := Instr.TARM h f
    let wait := Instr.TWAIT h f
    let rel := Instr.TREL h f
    let stat := Instr.TSTAT h f
    let o := w.val false f.a.toNat (w.leader h)
    let size := w.srcOrImm f f.b false (w.leader h) % 2 ^ 32
    let bad := o % 4 ≠ 0 ∨ size % 4 ≠ 0 ∨ size = 0 ∨ g.scratch < o + size
    let puts := fun (i : Instr) (t : Tile) =>
      exec i s = .next ((s.setGroup w.group { g with tiles := g.tiles.set {} n t }).setUnit s.cur
        (w.after i))
    let t := g.tiles.get {} n
    let alive := (s.launch w.launch).cancelled = false
    (g.ntiles ≤ n → (Acts s arm h → TakesTrap s arm causeTile) ∧
      (Acts s wait h → alive → TakesTrap s wait causeTile) ∧
      (Acts s rel h → TakesTrap s rel causeTile) ∧ (Acts s stat h → TakesTrap s stat causeTile)) ∧
    (n < g.ntiles →
      (Acts s arm h → t.state = .empty → ¬bad →
        puts arm { t with base := o, size := size, expected := size, arrived := 0, overrun := false
                          failed := false, fill := t.fill + 1, state := .filling }) ∧
      (Acts s arm h → t.state = .empty → bad → TakesTrap s arm causeAlign) ∧
      (Acts s arm h → t.state ≠ .empty → TakesTrap s arm causeTile) ∧
      (Acts s wait h → alive → t.state = .ready → t.failed = false →
        exec wait s = .next (({ s with seq := s.seq + 1 } : State).setUnit s.cur
          { w with held := false, pc := w.pc + 8, acq := s.seq })) ∧
      (Acts s wait h → alive → t.state = .filling ∨ t.state = .draining → t.failed = false →
        UnitTo s wait { w with held := false, park := .twait n (firstWord wait)
                               parkedAt := (s.core w.core).cycle }) ∧
      (Acts s wait h → alive → t.state = .empty ∨ t.failed = true → TakesTrap s wait causeTile) ∧
      (Acts s rel h → t.state = .empty → UnitTo s rel (w.after rel)) ∧
      (Acts s rel h → t.state = .ready → t.failed = false → puts rel { t with state := .empty }) ∧
      (Acts s rel h → t.state = .filling → t.failed = true →
        puts rel { t with state := .empty, failed := false }) ∧
      (Acts s rel h → t.state = .filling ∧ t.failed = false ∨ t.state = .draining →
        TakesTrap s rel causeTile) ∧
      (Acts s stat h → ∃ w', UnitTo s stat w' ∧
        Wrote (w.after stat) w' (w.destMask h) f.d.toNat false
          ((match t.state with | .empty => 0 | .filling => 1 | .ready => 2 | .draining => 3)
            + (if t.phase then 4 else 0) + (if t.overrun then 8 else 0) + (if t.failed then 16 else 0)
            + 256 * t.arrived))) ∧
    (Acts s wait h → (s.launch w.launch).cancelled = true → s.performed w = true → ∃ v, exec wait s = .next v ∧
      v.unit s.cur = {} ∧ ∀ u, u ≠ s.cur → v.unit u = s.unit u)

/-- tcopy hands a checked shape record to its core's tile copy engine: the copy is the next operation of
its counter's queue, and of direction 1 it keeps the tile's bytes and makes the slot DRAINING; a record
that fails a check raises SHAPE_FMT, and a slot in a state that does not suit its direction TILE_STATE
(R341 to R343). mstart queues a start for the core's matrix sequencer (R346). coll answers 3 with no
collective firmware, 2 for a bad command, 1 for a full queue, and else 0 with the command in its queue
(spec 16 R256). -/
def Obligations.CopiesStartsAndCommands : Prop :=
  ∀ (s : State) (h : Head) (f : AluF),
    let w := s.unit s.cur
    let g := s.group w.group
    let c := s.core w.core
    let n := f.c.toNat
    let t := g.tiles.get {} n
    let va := w.val true f.a.toNat (w.leader h)
    let copy := Instr.TCOPY h f
    let start := Instr.MSTART h f
    let coll := Instr.COLL h f
    let suits := fun p : Copy =>
      if p.dir = 0 then t.state = .filling else t.state = .ready ∨ t.state = .draining
    (∀ bs : List Byte, Acts s copy h → n < g.ntiles → t.state ≠ .empty → c.copies.length < 64 →
      s.Reads s.cur va 64 bs →
      (shapeCopy bs t.size = none → w.results = [] → w.inHandler = false →
        ∀ entry, (s.ctx w.ctx).trap = some entry →
        ∃ v, exec copy s = .next v ∧ v.unit s.cur = w.trapped copy causeShape entry ∧ SameWork s v ∧
          SameBytes s v) ∧
      ∀ p, shapeCopy bs t.size = some p →
        (¬suits p → w.results = [] → w.inHandler = false →
          ∀ entry, (s.ctx w.ctx).trap = some entry →
          ∃ v, exec copy s = .next v ∧ v.unit s.cur = w.trapped copy causeTile entry ∧ SameWork s v ∧
            SameBytes s v) ∧
        (suits p → (∀ (u : Nat) (q : DWord), (s.unit u).park ≠ .twait n q) →
          p.counter = 0 ∨ c.queue? w.ctx p.counter ≠ none ∨ c.queues.length < 16 →
          ∃ (v : State) (m : Nat), exec copy s = .next v ∧ v.unit s.cur = w.after copy ∧
            (v.core w.core).copies = c.copies ++
              [{ p with num := m, ctx := w.ctx, group := w.group, tile := n, fill := t.fill
                        base := t.base, hints := h.hints, fw := (s.ctx w.ctx).tceFw.obj
                        image := if p.dir = 1 then s.readScratch g t.base t.size else []
                        op := if p.counter = 0 then p.op
                          else ((c.queue? w.ctx p.counter).elim 0 TQueue.issued) + 1 }] ∧
            (v.group w.group).tiles.get {} n =
              (if p.dir = 1 then { t with state := .draining, readers := t.readers + 1 } else t) ∧
            (p.counter = 0 → (v.core w.core).queues = c.queues) ∧
            SameBytes s v)) ∧
    (Acts s start h → (2 ^ 56 ≤ va ∨ va % 8 ≠ 0) → TakesTrap s start causeAlign) ∧
    (Acts s start h → va < 2 ^ 56 → va % 8 = 0 → c.msq.starts.length < 4 →
      exec start s = .next
        ((s.setCore w.core { c with msq := { c.msq with starts := c.msq.starts ++
          [{ ctx := w.ctx, group := w.group, obj := ((s.objOf w).map (·.id)).getD 0
             entry := (f.ext.getD 0).toNat, arg := va }] } }).setUnit s.cur (w.after start))) ∧
    ∀ bs : List Byte, Acts s coll h → s.Reads s.cur va 64 bs →
      let x := s.ctx w.ctx
      let b := fun (o k : Nat) => leNat ((bs.drop o).take k)
      let die : Nat := if w.core < s.host.cores0 then 0 else 1
      let key := die * 16 + b 0 1
      let q0 := x.collQs.get {} key
      let q := if q0.open_ then q0
        else { q0 with open_ := true
                       counter := leNat (s.localRead (x.block.toNat + 0x200 + die * 0x100 + b 0 1 * 16) 8) }
      let answers := fun (v : State) (st : Nat) => exec coll s = .next v ∧ SameBytes s v ∧
        Wrote (w.after coll) (v.unit s.cur) (w.destMask h) f.d.toNat false st
      let bad := 16 ≤ b 0 1 ∨ 32 ≤ b 1 1 ∨ b 2 6 ≠ 0
      (x.collFw.obj = 0 → ∃ v : State, answers v 3 ∧ v.ctxs = s.ctxs) ∧
      (x.collFw.obj ≠ 0 → bad → ∃ v : State, answers v 2 ∧ v.ctxs = s.ctxs) ∧
      (x.collFw.obj ≠ 0 → ¬bad → 64 ≤ q.cmds.length →
        ∃ v : State, answers v 1 ∧ (v.ctx w.ctx).collQs.get {} key = q) ∧
      (x.collFw.obj ≠ 0 → ¬bad → q.cmds.length < 64 →
        ∃ v : State, answers v 0 ∧ (v.ctx w.ctx).collQs.get {} key =
          { q with accepted := q.accepted + 1
                   cmds := q.cmds ++ [{ num := q.accepted + 1, obs := b 1 1, data := bs.drop 8
                                        fw := x.collFw }] })

/-! ## Sweeps (spec 10 R166, R167) -/

/-- A sweep with no active lane only advances; one whose segments all lie in the group's scratchpad completes, with
its bytes in the segments of its destination alone and no other change but its flags; a sweep of one segment leaves
in each element the function of the elements as they were, and the flags of all of them; and a sweep with a
misplaced segment raises ALIGN with no element processed (R166, R167). That a sweep leaves no outstanding result and
has written every segment where it has issued, while R168 lets it be outstanding until its last segment is written,
is the model's choice (log entry 47). -/
def Obligations.Sweeps : Prop :=
  ∀ (s : State) (h : Head) (f : SweepF),
    let w := s.unit s.cur
    let g := s.group w.group
    let e := if f.ty = .f16 ∨ f.ty = .bf16 then 2 else 4
    let off := fun r : BitVec 8 => (w.reg r.toNat (lowestLane (w.acting h))).toNat
    let law := fun (i : Instr) (reads : List (BitVec 8 × BitVec 16)) (fn : Nat → Nat → Nat → Res) =>
      let seg := fun (r : BitVec 8) (step : BitVec 16) (j : Nat) => (off r : Int) + j * step.toInt
      let fine := ∀ x ∈ (f.d, f.stepD) :: reads, off x.1 % e = 0 ∧ ∀ j, j < f.count.toNat →
        0 ≤ seg x.1 x.2 j ∧ seg x.1 x.2 j % (e : Int) = 0 ∧ seg x.1 x.2 j + (32 * e : Nat) ≤ g.scratch
      let byte := fun (v : State) (k : Nat) => (v.core g.core).scratch.get 0 k
      let elem := fun (v : State) (o l : Nat) =>
        leNat ((List.range e).map fun b => byte v (g.base + o + l * e + b))
      let res := fun l => fn (elem s (off f.a) l) (elem s (off f.b) l) (elem s (off f.d) l)
      (Issues s i h → w.acting h = 0 → UnitTo s i (w.after i)) ∧
      (Issues s i h → w.acting h ≠ 0 → ¬fine → TakesTrap s i causeAlign) ∧
      (Issues s i h → w.acting h ≠ 0 → fine →
        ∃ (v : State) (fl : Word), exec i s = .next v ∧
          v.unit s.cur = { w.after i with fflags := w.fflags ||| fl } ∧
          (∀ u, u ≠ s.cur → v.unit u = s.unit u) ∧ v.mem = s.mem ∧ v.ctxs = s.ctxs ∧
          (∀ k, k ≠ g.core → v.core k = s.core k) ∧
          v.core g.core = { s.core g.core with scratch := (v.core g.core).scratch } ∧
          (∀ k : Nat, (∀ j, j < f.count.toNat →
              ¬((g.base : Int) + seg f.d f.stepD j ≤ k ∧ (k : Int) < g.base + seg f.d f.stepD j + (32 * e : Nat))) →
            byte v k = byte s k) ∧
          (f.count.toNat = 1 → (∀ l, l < 32 → elem v (off f.d) l = (res l).val % 2 ^ (8 * e)) ∧
            fl = (List.range 32).foldl (fun m l => m ||| (res l).flags) 0))
    let two := [(f.a, f.stepA), (f.b, f.stepB)]
    let ints := fun v : Int => ({ val := (v % 2 ^ 32).toNat } : Res)
    law (.SWP_ADD h f) two (fun x y _ => match f.ty.fmt? with
      | some t => t.add .rn x y | none => ints (x + y)) ∧
    law (.SWP_SUB h f) two (fun x y _ => match f.ty.fmt? with
      | some t => t.sub .rn x y | none => ints ((x : Int) - y)) ∧
    law (.SWP_MUL h f) two (fun x y _ => match f.ty.fmt? with
      | some t => t.mul .rn x y | none => ints (x * y)) ∧
    law (.SWP_FMA h f) two (fun x y z => match f.ty.fmt? with
      | some t => t.fma .rn x y z | none => ints (x * y + z)) ∧
    law (.SWP_MIN h f) two (fun x y _ => match f.ty.fmt? with
      | some t => t.minMax false x y | none => { val := if f.ty.toInt x ≤ f.ty.toInt y then x else y }) ∧
    law (.SWP_MAX h f) two (fun x y _ => match f.ty.fmt? with
      | some t => t.minMax true x y | none => { val := if f.ty.toInt x ≤ f.ty.toInt y then y else x }) ∧
    law (.SWP_MOV h f) [(f.a, f.stepA)] (fun x _ _ => { val := x })
/-! ## The matrix sequencer (spec 21, 22) -/

/-- The scalar words write one 64-bit register modulo 2^64, an immediate being sign-extended and a shift
of 64 or more giving 0; a branch goes by words from its own place where its test holds, and else to the
next word; mnop goes on; mend ends the program once no word is in flight, and waits until then; a program
that a cancel has halted ends past its last word (R313, R315, and of R330 this much). -/
def Obligations.MatrixScalars : Prop :=
  ∀ (s : State) (f : MsqS) (b : MsqB),
    let m := s.msq s.curMsq
    let x := (m.reg f.a).toNat
    let imm := (f.value.toInt % 2 ^ 64).toNat
    let y := if f.imm then imm else (m.reg f.b).toNat
    let law := fun (i : Instr) (v : Int) =>
      MsqIssues s i → ∃ m' : Msq, MsqTo s i (s.msqPast m') ∧ m' = { m with m := m'.m, pc := m.pc + 8 } ∧
        ((m'.reg f.d).toNat : Int) = v % 2 ^ 64 ∧ ∀ r, r ≠ f.d → m'.reg r = m.reg r
    let jump := fun (i : Instr) (p : Bool) =>
      MsqIssues s i → MsqTo s i (s.msqPast { m with
        pc := if p then (((m.pc : Int) + 8 * b.off.toInt) % 2 ^ 64).toNat else m.pc + 8 })
    let p := (m.reg b.a).toNat
    let q := (m.reg b.b).toNat
    law (.MMOV f) (if f.imm then imm else x) ∧ law (.MADD f) (x + y) ∧
    law (.MSUB f) ((x : Int) - y) ∧ law (.MMUL f) (x * y) ∧
    law (.MAND f) ((x &&& y : Nat) : Int) ∧ law (.MOR f) ((x ||| y : Nat) : Int) ∧
    law (.MXOR f) ((x ^^^ y : Nat) : Int) ∧
    law (.MSHL f) (if 64 ≤ y then 0 else ((x * 2 ^ y : Nat) : Int)) ∧
    law (.MSHR f) (if 64 ≤ y then 0 else ((x / 2 ^ y : Nat) : Int)) ∧
    jump (.MBEQ b) (p = q) ∧ jump (.MBNE b) (p ≠ q) ∧ jump (.MBLT b) (p < q) ∧
    jump (.MBGE b) (q ≤ p) ∧ jump (.MJMP b) true ∧
    (MsqIssues s .MNOP → MsqTo s .MNOP (s.msqPast { m with pc := m.pc + 8 })) ∧
    (MsqIssues s .MEND → m.bg = [] → MsqTo s .MEND m.stopped) ∧
    (MsqIssues s .MEND → m.bg ≠ [] → exec .MEND s = .next s)

/-- mld and mst move 64 bits between a register and a line that its home slice holds, every other byte of
memory staying; tinc, with no word in flight, counts itself once, and writes the flag word beside the counter and
then the counter with the sum of its value at the start and that number; a misaligned address stops the program
with ALIGN (R316, R326, R328). -/
def Obligations.MatrixMemory : Prop :=
  ∀ (s : State) (f : MsqS) (obs : BitVec 5),
    let m := s.msq s.curMsq
    let va := (((m.reg f.a).toNat + f.value.toInt) % 2 ^ 64).toNat
    let calm := ∀ sl, (s.slice sl).spilled = []
    let byte := fun (t : State) (a : Nat) => t.byteIn (s.msqSlice a) (s.msqTag a) a
    let others := fun (t : State) (lo n : Nat) => ∀ sl asid a,
      ¬(lo ≤ a ∧ a < lo + n ∧ sl = s.msqSlice a ∧ asid = s.msqTag a) →
        t.byteIn sl asid a = s.byteIn sl asid a
    (∀ bs : List Byte, MsqIssues s (.MLD f) → s.MsqReads va bs → ∃ t : State, exec (.MLD f) s = .next t ∧
      SameButMsq s t ∧ SameBytes s t ∧ (t.msq s.curMsq).reg f.d = BitVec.ofNat 64 (leNat bs) ∧
      (∀ r, r ≠ f.d → (t.msq s.curMsq).reg r = m.reg r) ∧
      t.msq s.curMsq = s.msqPast { m with m := (t.msq s.curMsq).m, pc := m.pc + 8 }) ∧
    (MsqIssues s (.MST f) → calm → s.MsqWrites va → ∃ t : State, exec (.MST f) s = .next t ∧
      SameButMsq s t ∧ t.msq s.curMsq = s.msqPast { m with pc := m.pc + 8 } ∧
      (∀ j, j < 8 → byte t (va + j) = some ((leBytes (m.reg f.d).toNat 8).getD j 0)) ∧
      others t va 8) ∧
    (MsqIssues s (.TINC obs) → m.bg = [] → calm → s.MsqWrites m.counter →
      s.MsqWrites (m.counter + 8) →
      let n := if m.inWord = true then m.j else m.j + 1
      ∃ t : State, exec (.TINC obs) s = .next t ∧ SameButMsq s t ∧
      t.msq s.curMsq = s.msqPast { m with j := n, pc := m.pc + 8 } ∧
      (∀ j, j < 8 → byte t (m.counter + j) =
        some ((leBytes ((m.c0 + n) % 2 ^ 64) 8).getD j 0)) ∧
      (∀ j, j < 8 → byte t (m.counter + 8 + j) = some ((leBytes m.mflags.toNat 8).getD j 0)) ∧
      others t m.counter 16) ∧
    (MsqIssues s (.TINC obs) → m.bg ≠ [] → exec (.TINC obs) s = .next s) ∧
    ∀ i ∈ [Instr.MLD f, .MST f], MsqIssues s i → (2 ^ 56 ≤ va ∨ va % 8 ≠ 0) → MsqStops s i causeAlign

/-- The matrix words of a READY slot: bld fills a bank from the slot, with its descriptor; sbld fills the
bank's side memory and leaves the bank to be loaded; mma adds to each element of its region the groups of
its row and column, in order, and gathers their flags; acc.clr writes +0 over its range and takes poison
from it; acc.st converts its region into a FILLING slot, whose arrivals it counts; tw goes on when the slot
is READY with the phase, and else waits. A word that uses what a word in flight uses waits, and one that
a check refuses, or whose accumulators hold damaged bytes, stops the program (R317, R319, R321, R323 to R325, R327,
R329); a word is performed where it issues, and is then in flight (log entry 30). -/
def Obligations.MatrixWords : Prop :=
  ∀ (s : State) (b : BitVec 2) (tile : BitVec 6) (ty : MTy) (variant scl sparse phase : Bool)
    (rows : BitVec 4) (base : BitVec 8) (count : BitVec 9) (target : Ty) (cols : BitVec 2),
    let m := s.msq s.curMsq
    let g := s.group m.group
    let held := tile.toNat < g.ntiles
    let t := g.tiles.get {} tile.toNat
    let bank := m.banks.get {} b.toNat
    let kn := ty.shape variant
    let tileByte := fun (v : State) (k : Nat) => (v.core g.core).scratch.get 0 (g.base + t.base + k)
    let from_ := fun n : Nat => (List.range n).map (tileByte s)
    let side := fun (x : Msq) (k : Nat) => x.side.get 0 (b.toNat * 4096 + k)
    let lo := base.toNat
    let flies := fun (m' : Msq) (own : Option Nat) (l h : Nat) =>
      m'.bg = m.bg ++ [{ seq := m.bgSeq, bank := own, lo := l, hi := h }] ∧ m'.bgSeq = m.bgSeq + 1 ∧
        m'.pc = m.pc + 8
    let bld := Instr.BLD b tile ty variant scl
    let sbld := Instr.SBLD b tile
    let mma := Instr.MMA b tile rows variant ty sparse base
    let clr := Instr.ACC_CLR base count
    let st := Instr.ACC_ST tile base target rows cols
    let tw := Instr.TW tile phase
    let feeds := m.bg.any fun w => w.acc && w.bank = some b.toNat
    let loads := m.bg.any fun w => !w.acc && w.bank = some b.toNat
    let uses := fun (l h : Nat) => m.bg.any fun w => w.acc && w.meets l h
    let any := m.bg.any fun w => w.meets lo (lo + count.toNat)
    let pruned := bank.pending && ty ≠ .e2m1
    let need := bldBytes ty kn.1 kn.2 scl pruned
    let meta_ := kn.1 * kn.2 / 8
    let good := pruned = true → meta_ ≤ bank.bytes ∧ metaOk ((List.range meta_).map (side m)) kn.1 kn.2 = true
    let k := 16 * (rows.toNat + 1)
    let hi := lo + k * kn.2 * 4 / 1024
    let fits := bank.loaded = true ∧ bank.ty = ty ∧ bank.variant = variant ∧ bank.sparse = sparse ∧
      ¬(sparse = true ∧ ty = .e2m1) ∧ lo * 1024 + k * kn.2 * 4 ≤ 262144
    let a := aBytes ty k kn.1 bank.scl
    let x : MmaArgs := { ty := ty, m := k, k := kn.1, n := kn.2, bank := bank
                         side := (List.range 4096).map (side m), a := from_ a }
    let n := k * (64 * (cols.toNat + 1))
    let top := lo + n * 4 / 1024
    let out := n * targetNibbles target / 2
    let clean := fun (l h : Nat) => ∀ p, l ≤ p → p < h → m.poison.get false p = false
    let watched := ∃ (u : Nat) (q : DWord), (s.unit u).park = .twait tile.toNat q
    (MsqIssues s bld → feeds = false → held → t.state = .ready → need ≤ t.size → good →
      ∃ m' : Msq, MsqTo s bld m' ∧ flies m' (some b.toNat) 0 0 ∧
        m' = { m with banks := m'.banks, bg := m'.bg, bgSeq := m'.bgSeq, pc := m'.pc } ∧
        m'.banks.get {} b.toNat = { loaded := true, ty := ty, variant := variant, scl := scl
                                    sparse := pruned, data := from_ need } ∧
        ∀ j, j ≠ b.toNat → m'.banks.get {} j = m.banks.get {} j) ∧
    (MsqIssues s bld → feeds = false → ¬good → MsqStops s bld causeShape) ∧
    (MsqIssues s bld → feeds = false → good → held → t.state ≠ .empty → t.size < need →
      MsqStops s bld causeShape) ∧
    (MsqIssues s bld → feeds = false → good → ¬held ∨ t.state = .empty ∨ t.state ≠ .ready ∧ need ≤ t.size →
      MsqStops s bld causeTile) ∧
    (∀ i ∈ [bld, sbld], MsqIssues s i → feeds = true → exec i s = .next s) ∧
    (MsqIssues s sbld → feeds = false → held → t.state = .ready →
      ∃ m' : Msq, MsqTo s sbld m' ∧ flies m' (some b.toNat) 0 0 ∧
        m' = { m with banks := m'.banks, side := m'.side, bg := m'.bg, bgSeq := m'.bgSeq, pc := m'.pc } ∧
        (∀ j, j < min t.size 4096 → side m' j = tileByte s j) ∧
        (∀ j, ¬(b.toNat * 4096 ≤ j ∧ j < b.toNat * 4096 + min t.size 4096) →
          m'.side.get 0 j = m.side.get 0 j) ∧
        m'.banks.get {} b.toNat = { bank with loaded := false, pending := true, bytes := min t.size 4096 } ∧
        ∀ j, j ≠ b.toNat → m'.banks.get {} j = m.banks.get {} j) ∧
    (MsqIssues s sbld → feeds = false → ¬held ∨ t.state ≠ .ready → MsqStops s sbld causeTile) ∧
    (MsqIssues s mma → loads = false → uses lo hi = false →
      held → t.state = .ready → a ≤ t.size → fits → clean lo hi →
      ∃ m' : Msq, MsqTo s mma m' ∧ flies m' (some b.toNat) lo hi ∧
        m' = { m with acc := m'.acc, mflags := m'.mflags, bg := m'.bg, bgSeq := m'.bgSeq, pc := m'.pc } ∧
        (∀ i j, i < k → j < kn.2 → m'.acc.get 0 (lo * 256 + i * kn.2 + j) =
          BitVec.ofNat 32 (x.element i j (m.acc.get 0 (lo * 256 + i * kn.2 + j))).val) ∧
        (∀ p, ¬(lo * 256 ≤ p ∧ p < lo * 256 + k * kn.2) → m'.acc.get 0 p = m.acc.get 0 p) ∧
        m'.mflags = m.mflags ||| (List.range (k * kn.2)).foldl (fun fl p =>
          fl ||| (x.element (p / kn.2) (p % kn.2) (m.acc.get 0 (lo * 256 + p))).flags) 0) ∧
    (MsqIssues s mma → loads = false → uses lo hi = false →
      ¬fits ∨ held ∧ t.state ≠ .empty ∧ t.size < a → MsqStops s mma causeShape) ∧
    (MsqIssues s mma → loads = false → uses lo hi = false →
      fits → ¬held ∨ t.state = .empty ∨ t.state ≠ .ready ∧ a ≤ t.size → MsqStops s mma causeTile) ∧
    (MsqIssues s mma → loads = false → uses lo hi = false → held → t.state = .ready → a ≤ t.size → fits →
      ¬clean lo hi → MsqStops s mma 0x15) ∧
    (MsqIssues s mma → loads = true ∨ uses lo hi = true → exec mma s = .next s) ∧
    (MsqIssues s clr → any = true → exec clr s = .next s) ∧
    (MsqIssues s clr → any = false → 256 < lo + count.toNat → MsqStops s clr causeShape) ∧
    (MsqIssues s clr → any = false → lo + count.toNat ≤ 256 →
      ∃ m' : Msq, MsqTo s clr m' ∧ flies m' none lo (lo + count.toNat) ∧
        m' = { m with acc := m'.acc, poison := m'.poison, bg := m'.bg, bgSeq := m'.bgSeq, pc := m'.pc } ∧
        (∀ p, m'.acc.get 0 p = if lo * 256 ≤ p ∧ p < (lo + count.toNat) * 256 then 0 else m.acc.get 0 p) ∧
        ∀ p, m'.poison.get false p =
          if lo ≤ p ∧ p < lo + count.toNat then false else m.poison.get false p) ∧
    (MsqIssues s st → uses lo top = true → exec st s = .next s) ∧
    (MsqIssues s st → uses lo top = false → 262144 < lo * 1024 + n * 4 ∨ held ∧ t.state ≠ .empty ∧ t.size < out →
      MsqStops s st causeShape) ∧
    (MsqIssues s st → uses lo top = false → lo * 1024 + n * 4 ≤ 262144 →
      ¬held ∨ t.state = .empty ∨ t.state ≠ .filling ∧ out ≤ t.size → MsqStops s st causeTile) ∧
    (MsqIssues s st → uses lo top = false → lo * 1024 + n * 4 ≤ 262144 → held → t.state = .filling →
      out ≤ t.size → ¬clean lo top → MsqStops s st 0x15) ∧
    (MsqIssues s st → uses lo top = false → held → t.state = .filling → out ≤ t.size →
      lo * 1024 + n * 4 ≤ 262144 → clean lo top → t.arrived + out ≤ t.expected → ¬watched →
      let rs := (List.range n).map fun p => matrixConvert target (m.acc.get 0 (lo * 256 + p)).toNat
      ∃ v : State, exec st s = .next v ∧ flies (v.msq s.curMsq) none lo top ∧
        v.msq s.curMsq = { m with mflags := m.mflags ||| rs.foldl (fun fl r => fl ||| r.flags) 0
                                  bg := (v.msq s.curMsq).bg, bgSeq := m.bgSeq + 1, pc := m.pc + 8 } ∧
        (∀ j, j < out → tileByte v j = (packTargets target (rs.map fun r => r.val)).getD j 0) ∧
        (∀ c j, ¬(c = g.core ∧ g.base + t.base ≤ j ∧ j < g.base + t.base + out) →
          (v.core c).scratch.get 0 j = (s.core c).scratch.get 0 j) ∧
        (v.group m.group).tiles.get {} tile.toNat =
          (if t.arrived + out = t.expected then
            { t with arrived := t.arrived + out, state := .ready, phase := !t.phase }
          else { t with arrived := t.arrived + out }) ∧
        v.mem = s.mem) ∧
    (MsqIssues s tw → held → t.failed = false → t.state = .ready → t.phase = phase →
      MsqTo s tw (s.msqPast { m with pc := m.pc + 8 })) ∧
    (MsqIssues s tw → held → t.failed = false → ¬(t.state = .ready ∧ t.phase = phase) →
      exec tw s = .next s) ∧
    (MsqIssues s tw → ¬held ∨ t.failed = true → MsqStops s tw causeTile)

/-- One group of eight products added to an accumulator (spec 21 R308, R309), the first case that applies deciding:
a NaN accumulator stays; a NaN element or scale, zero times infinity, and infinite products of both signs give the
NaNs of their causes; an infinite product or scale gives an infinity of the sum's sign times the band scales'; a sum
that is exactly zero leaves the accumulator unchanged; and a finite one, which is the exact sum of the products times
the exact product of the scales, is rounded once, and then added to the nearest. Infinities of both signs then give
the NaN of cause 3. An element takes its groups in increasing order, each of the eight elements of its row of A and of
its column of B that follow one another, where a sparse bank has a zero for each that its metadata prune (spec 22
R319, R320), and with no scales but those of e2m1 (spec 21 R304). -/
def Obligations.MatrixGroups : Prop :=
  let one := Fl.fin false 1 0
  let num : Fl → ℚ := fun x => match x with | .fin s m e => dyadic s m e | .inf _ | .nan _ _ _ => 0
  let exact := fun pairs : List (Fl × Fl) => (pairs.map fun p => num p.1 * num p.2).sum
  let infinite := fun p : Fl × Fl => p.1.isInf = true ∨ p.2.isInf = true
  let sg := fun p : Fl × Fl => p.1.sign != p.2.sign
  let inf := fun g : Bool => fmt32.signed g fmt32.infBits
  let clean := fun (pairs : List (Fl × Fl)) (scales : List Fl) =>
    (∀ p ∈ pairs, p.1.isNaN = false ∧ p.2.isNaN = false) ∧ ∀ x ∈ scales, x.isNaN = false
  let zeroInf := fun (pairs : List (Fl × Fl)) (scales : List Fl) =>
    (∃ p ∈ pairs, p.1.isInf = true ∧ p.2.isZero = true ∨ p.1.isZero = true ∧ p.2.isInf = true) ∨
    ((∃ p ∈ pairs, infinite p) ∧ ∃ x ∈ scales, x.isZero = true) ∨
    ((∀ p ∈ pairs, ¬infinite p) ∧ exact pairs = 0 ∧ ∃ x ∈ scales, x.isInf = true) ∨
    ((∃ x ∈ scales, x.isZero = true) ∧ ∃ x ∈ scales, x.isInf = true)
  let odd := fun band : List Fl => decide ((band.filter Fl.sign).length % 2 = 1)
  (∀ (acc : Nat) (t : Option Res), (fmt32.unpack acc).isNaN = true →
    accumulate acc t = { val := acc }) ∧
  (∀ acc : Nat, accumulate acc none = { val := acc }) ∧
  (∀ (acc : Nat) (t : Res), (fmt32.unpack acc).isNaN = false → (fmt32.unpack t.val).isNaN = true →
    accumulate acc (some t) = t) ∧
  (∀ (acc : Nat) (t : Res), (fmt32.unpack acc).isNaN = false → (fmt32.unpack t.val).isNaN = false →
    accumulate acc (some t) = (fmt32.add .rn acc t.val).raise t.flags) ∧
  (∀ (acc : Nat) (g : Bool) (fl : Word), (fmt32.unpack acc).isNaN = false →
    accumulate acc (some { val := inf g, flags := fl }) =
      if fmt32.unpack acc = .inf (!g) then { val := fmt32.genNaN 3, flags := flagNV ||| fl }
      else { val := inf g, flags := fl }) ∧
  (∀ (pairs : List (Fl × Fl)) (block band : List Fl), (∃ p ∈ pairs, p.1.isNaN = true ∨ p.2.isNaN = true) →
    ∃ r, groupTerm pairs block band = some r ∧ r.val = fmt32.genNaN 1 ∧
      (r.flags = flagNV ↔ ∃ p ∈ pairs, p.1.signalling = true ∨ p.2.signalling = true)) ∧
  (∀ (pairs : List (Fl × Fl)) (block band : List Fl),
    (∀ p ∈ pairs, p.1.isNaN = false ∧ p.2.isNaN = false) → (∃ x ∈ block ++ band, x.isNaN = true) →
    ∃ r, groupTerm pairs block band = some r ∧ r.val = fmt32.genNaN 2) ∧
  (∀ (pairs : List (Fl × Fl)) (block band : List Fl), clean pairs (block ++ band) →
    zeroInf pairs (block ++ band) → groupTerm pairs block band = some (fmt32.invalid 4)) ∧
  (∀ (pairs : List (Fl × Fl)) (block band : List Fl), clean pairs (block ++ band) →
    ¬zeroInf pairs (block ++ band) →
    ((∃ p ∈ pairs, infinite p ∧ sg p = true) → (∃ p ∈ pairs, infinite p ∧ sg p = false) →
      groupTerm pairs block band = some (fmt32.invalid 3)) ∧
    (∀ g : Bool, (∃ p ∈ pairs, infinite p) → (∀ p ∈ pairs, infinite p → sg p = g) →
      groupTerm pairs block band = some { val := inf (g != odd band) }) ∧
    ((∀ p ∈ pairs, ¬infinite p) → (∃ x ∈ block ++ band, x.isInf = true) →
      groupTerm pairs block band = some { val := inf (decide (exact pairs < 0) != odd band) }) ∧
    ((∀ p ∈ pairs, ¬infinite p) → (∀ x ∈ block ++ band, x.isInf = false) →
      let sum := exact pairs * ((block ++ band).map num).prod
      (sum = 0 → groupTerm pairs block band = none) ∧
      (sum ≠ 0 → ∃ s m e, dyadic s m e = sum ∧
        groupTerm pairs block band = some (fmt32.round .ieee .rn s m e)))) ∧
  (∀ (s : Bool) (m n : Nat) (e d : Int),
    groupTerm [(.fin s m e, .fin s n d)] [one, one] [one, one] =
      if m * n = 0 then none else some (fmt32.round .ieee .rn false (m * n) (e + d))) ∧
  (∀ (x : MmaArgs) (row col : Nat) (acc : Word), x.element row col acc =
    (List.range (x.k / 8)).foldl (fun r g => (accumulate r.val (groupTerm (x.pairs row col g)
      (x.scales row col g).1 (x.scales row col g).2)).raise r.flags) { val := acc.toNat }) ∧
  (∀ (x : MmaArgs) (row col g : Nat), (x.pairs row col g).length = 8 ∧
    (x.ty ≠ .e2m1 ∨ x.bank.scl = false → x.scales row col g = ([one, one], [one, one])) ∧
    ∀ j, j < 8 →
      let b := x.bank
      let k := 8 * g + j
      let n := (b.ty.shape b.variant).2
      let code := (x.side.getD ((k / 4 * n + col) / 2) 0).toNat / 16 ^ (col % 2) % 16
      let rank := ((List.range (k % 4)).filter fun i => code.testBit i).length
      (x.pairs row col g).getD j (one, one) =
        if b.sparse = true ∧ code.testBit (k % 4) = false then (.fin false 0 0, .fin false 0 0)
        else (x.ty.element x.a (row * x.k + k),
          b.ty.element b.data ((if b.sparse = true then 2 * (k / 4) + rank else k) * n + col)))
/-! ## Events: code and matrix programs (spec 08 R142, spec 20 R299, spec 22 R312, R327, R331) -/

/-- ICINV_COMPLETE: no core's instruction or program cache holds a line of the range, every other line
stays, and the units no longer wait for the operation. MATRIX_WORD_COMPLETE takes a word out of flight; a
program that a cancel has halted ends after its last. MSQ_PROGRAM_START begins the oldest start whose group is
resident, with its argument in m0 and every other register 0, and reads its counter; another context's
program finds the banks not loaded, and pending metadata stays (the model's choice, log entry 76). MSQ_STATE_SAVE
saves a program that a pre-emption has halted, in its context's save area, at a place of its own (log entry 105); the
requests in force still wait for a group, so no core is offered. -/
def Obligations.CodeAndMatrixEvents : Prop :=
  ∀ (s : State) (core id : Nat),
    let m := s.msq core
    (∀ asid va n, (s.work.icinvs.find? fun e => e.1 = id) = some (id, asid, va, n) →
      let hit := fun key : Nat => key % 2 ^ 49 * 128 < va + n ∧ va < key % 2 ^ 49 * 128 + 128 ∧
        key / 2 ^ 49 % 2 ^ 16 = tagAsid asid (key % 2 ^ 49 * 128)
      ∃ t : State, exec (.ICINV_COMPLETE id) s = .next t ∧
        (∀ key, hit key → t.mem.icache.get [] key = [] ∧ t.mem.msqCache.get [] key = []) ∧
        (∀ key, ¬hit key → t.mem.icache.get [] key = s.mem.icache.get [] key ∧
          t.mem.msqCache.get [] key = s.mem.msqCache.get [] key) ∧
        (∀ u, (s.unit u).live = true →
          t.unit u = { s.unit u with icinvs := ((s.unit u).icinvs.filter fun x => x ≠ id) }) ∧
        (∀ e ∈ t.work.icinvs, e.1 ≠ id) ∧ SameBytes s t) ∧
    (let m' := { m with bg := (m.bg.filter fun w => w.seq ≠ id) }
     let to_ := fun x : Msq => exec (.MATRIX_WORD_COMPLETE core id) s = .next (s.setMsq core x)
     (m.inWord = true → to_ m') ∧
     (m.inWord = false → to_ (if m.halted = true ∧ s.msqGone core = true ∧ m'.bg = [] then m'.stopped else m'))) ∧
    (∀ (r : MStart) (bs : List Byte), m.running = false → m.bg = [] →
      (m.starts.find? fun r => (s.group r.group).phase = .resident) = some r →
      let same := m.prevCtx = r.ctx + 1 ∨ m.prevCtx = 0
      let begun : Msq := { m with
        running := true, fresh := true, halted := false, held := false
        starts := m.starts.erase r
        ctx := r.ctx, group := r.group, obj := r.obj
        m := AMap.set [] 0 0 (BitVec.ofNat 64 r.arg), pc := r.entry, counter := r.arg
        c0 := 0, j := 0, mflags := 0, prevCtx := r.ctx + 1
        banks := if same then m.banks else AMap.mapVals m.banks {} fun _ b => { b with loaded := false }
        acc := if same then m.acc else []
        side := if same then m.side else [] }
      s.ReqReads { core := some core, ctx := r.ctx, asid := (s.ctx r.ctx).asid, va := r.arg } bs → bs.length = 8 →
      ∃ t : State, exec (.MSQ_PROGRAM_START core) s = .next t ∧
        t.msq core = { begun with c0 := leNat bs, fresh := false } ∧ SameBytes s t) ∧
    (∀ off : Nat, m.running = true → m.halted = true → m.bg = [] → m.inWord = false → m.errRec = none →
      (s.group m.group).core = core → s.preempting core m.ctx = true →
      (s.launch (s.group m.group).launch).cancelled = false → (s.ctx m.ctx).savePlace 380928 = some off →
      (∀ p ∈ s.work.preempts, ∃ c ∈ p.1, ∃ e ∈ s.residents c, e.2.ctx ∈ p.2) →
      let x := s.ctx m.ctx
      ∃ t : State, exec (.MSQ_STATE_SAVE core) s = .next t ∧ t.msq core = m.stopped ∧ t.work = s.work ∧
        t.ctx m.ctx = { x with
          saves := x.saves ++ [{ group := m.group, off := off, size := 380928 }]
          savedMsq := x.savedMsq ++
            [{ group := m.group, ctx := m.ctx, obj := m.obj, m := m.m, pc := m.pc, counter := m.counter
               c0 := m.c0, j := m.j, mflags := m.mflags, banks := m.banks, acc := m.acc, poison := m.poison
               side := m.side, fresh := m.fresh }] } ∧
        (∀ c, c ≠ m.ctx → t.ctx c = s.ctx c) ∧ ∀ c, c ≠ core → t.core c = s.core c)

/-! ## Events: bring-up and the register window (spec 00 R7, R8, spec 04 R88, spec 16 R249, R251) -/

/-- DEVICE_RESET answers the reset state, in RESET, with memory as it was (log entry 27); SECURE_BOOT,
FIRMWARE_LOAD and TRAINING take the transitions of their states, and elsewhere change nothing: an image is
measured with SHAKE256, and accepted where its Ed448 signature by the firmware key covers the measurement. A
write of the image registers is kept and read back, the bring-up register reads the state and its cause, and a
write to another offset is ignored. An island's operating point changes no other thing, and while a class-0
queue has unfinished work, the islands that it needs stand at their nominal point, which is 0 (log entry 63). The
signature's context string is empty (log entry 12), and log entries 82 and 86 give what training and the register
window take and hold. -/
def Obligations.BringUp : Prop :=
  ∀ (s : State) (image half rest : List Byte) (value : BitVec 32) (r : TrainResult) (off : Nat) (v : DWord)
    (island : Island) (point : Nat),
    let h := s.host
    let sig := half ++ rest
    let ok := fun im : List Byte => ed448Verify sig (leBytes Config.firmwareKey.toNat 57) (shake512 im) []
    let becomes := fun (i : Instr) (h' : HostState) => exec i s = .next { s with host := h' }
    let stays := fun i : Instr => exec i s = .next s
    let fw := s.readPhys (2 ^ 51 + h.fwAddr.toNat) h.fwSize.toNat
    exec .DEVICE_RESET s = .next
      { State.reset with
        mem := { phys := s.mem.phys, poisoned := s.mem.poisoned }
        host := { bringUp := .reset }
        agenda := s.agenda, freeCount := s.freeCount, seq := s.seq } ∧
    (h.bringUp = .reset → becomes (.SECURE_BOOT image sig) { h with bringUp := .secureBoot }) ∧
    (h.bringUp = .secureBoot →
      (ok image = true →
        becomes (.SECURE_BOOT image sig) { h with bringUp := .fwWait, secMeasure := shake512 image }) ∧
      (ok image = false → becomes (.SECURE_BOOT image sig) { h with bringUp := .failed, cause := 1 })) ∧
    (h.bringUp ≠ .reset → h.bringUp ≠ .secureBoot → stays (.SECURE_BOOT image sig)) ∧
    (h.bringUp = .fwWait →
      (ok fw = true → becomes (.FIRMWARE_LOAD 1 half rest)
        { h with bringUp := .training, cause := 0, dispMeasure := shake512 fw }) ∧
      (ok fw = false → becomes (.FIRMWARE_LOAD 1 half rest) { h with cause := 2 })) ∧
    (h.bringUp ≠ .fwWait ∨ value ≠ 1 → stays (.FIRMWARE_LOAD value half rest)) ∧
    (h.bringUp = .training → (r.cause = 3 ∨ r.cause = 4 ∨ r.cause = 5) →
      becomes (.TRAINING r) { h with bringUp := .failed, cause := r.cause.toNat }) ∧
    (h.bringUp = .training → r.cause = 0 → r.cores0 ≤ 192 → r.cores1 ≤ 192 → r.slices0 ≤ 64 →
      r.slices1 ≤ 64 → r.chans0 ≤ 32 → r.chans1 ≤ 32 → r.ports ≤ 18 →
      ∃ t : State, exec (.TRAINING r) s = .next t ∧
        t.host = { h with
          bringUp := .ready, cores0 := r.cores0, cores1 := r.cores1, slices0 := r.slices0
          slices1 := r.slices1, chans0 := r.chans0, chans1 := r.chans1, ports := r.ports } ∧
        t.mem.node = r.node ∧ t.mem.exports = r.exports ∧ t.mem.starvation = r.starvation ∧
        ((r.routes.map Prod.fst).Nodup → ∀ x ∈ r.routes, t.mem.routes.get 0 x.1.toNat = x.2 + 1) ∧
        (∀ n : Nat, (∀ x ∈ r.routes, x.1.toNat ≠ n) → t.mem.routes.get 0 n = s.mem.routes.get 0 n) ∧
        t.mem.roots = s.mem.roots.set 0 0 r.root0 ∧ t.mem.homeRoots = s.mem.homeRoots.set 0 0 r.homeRoot0 ∧
        t.die 0 = { s.die 0 with lowWater := r.lowWater0 } ∧
        t.die 1 = { s.die 1 with lowWater := r.lowWater1 } ∧
        t.work = s.work ∧ t.cores = s.cores ∧ t.ctxs = s.ctxs ∧ t.mem.phys = s.mem.phys) ∧
    (h.bringUp ≠ .training → stays (.TRAINING r)) ∧
    becomes (.REGISTER_WRITE 0x8 v) { h with fwAddr := v } ∧
    becomes (.REGISTER_WRITE 0x10 v) { h with fwSize := v.setWidth 32 } ∧
    (off ≠ 0x8 → off ≠ 0x10 → stays (.REGISTER_WRITE off v)) ∧
    s.barRead 0 = (match h.bringUp with
      | .reset => 0 | .secureBoot => 1 | .fwWait => 2 | .training => 3 | .ready => 4 | .failed => 0xF)
      + 256 * h.cause ∧
    s.barRead 8 = h.fwAddr.toNat ∧ s.barRead 0x10 = h.fwSize.toNat ∧
    (off / 2 ^ 24 = 1 → s.barRead off = 0) ∧
    (∀ n, n < 4096 → s.barRead (0x2000000 + 4096 * n) = (s.ctx n).block.toNat ∧
      s.barRead (0x2000000 + 4096 * n + 8) = if (s.ctx n).enabled = true then 1 else 0) ∧
    (∀ n, islandIndex island = some n →
      becomes (.ISLAND_OPERATING_POINT island point) { h with points := h.points.set 0 n point }) ∧
    (islandIndex island = none → stays (.ISLAND_OPERATING_POINT island point)) ∧
    ((∃ e ∈ s.ctxs, ∃ j ∈ e.2.inbox, j.cls = 0) ∨ (∃ e ∈ s.work.jobs, e.2.cls = 0 ∧
        (s.work.jobLevels.get {} e.1).live = true ∧ (s.work.jobLevels.get {} e.1).done = false) →
      (∀ n, s.pointOf (.dispatch n) = 0 ∧ s.pointOf (.bridge n) = 0) ∧
      (∀ n, (∃ e ∈ (s.slice n).table, e.cls = 0) → s.pointOf (.slice n) = 0) ∧
      ∀ e ∈ s.work.units, e.2.live = true → s.isResident e.1 = true → s.classOf e.2.launch = 0 →
        s.pointOf (.coreVector e.2.core) = 0 ∧ s.pointOf (.coreMatrix e.2.core) = 0)

/-! ## Events: code objects (spec 04 R71, R81 to R89) -/

/-- LOAD_OBJECT: a load that fails a check leaves nothing but its status, as does one of an object whose only page
is mapped already; a load that passes every check adds the object to its context, with its descriptor, trap entry,
engine firmware and measurement, and is told with status 0 (the checks' and the firmware's open points by log
entries 106 and 108). Of the checks that a load fails, the first of R81's table gives the status. UNLOAD_OBJECT
refuses a busy object and removes another, with its descriptor, the trap entry in its text, its firmware where no
other object carries it, and the leaf of its page (log entry 107). ATTESTATION_REPORT signs the context's log with
the nonce of 64 bytes; the report has 464 bytes (log entries 12 and 81). -/
def Obligations.CodeObjects : Prop :=
  ∀ (s : State) (ctx : Nat) (file : List Byte) (place : LoadPlace) (replaceTrap : Bool) (nonce : List Byte),
    let x := s.ctx ctx
    let base := place.base
    let load := Instr.LOAD_OBJECT ctx file place replaceTrap
    let st := s.loadStatus x file place replaceTrap
    let alone := fun (t : State) (x' : Ctx) => s.mem.stalls = [] →
      t.work = s.work ∧ t.cores = s.cores ∧ t.ctx ctx = x' ∧ ∀ c, c ≠ ctx → t.ctx c = s.ctx c
    (base % 65536 = 0 → ctx < 4096 → st ≠ 0 → exec load s = .next (s.tell (.loaded ctx st))) ∧
    (∀ pg, rangePages ((partsOf file).ranges base) = [pg] → s.isMapped x.asid pg = true → st ≠ 0) ∧
    (let p := partsOf file
     let bytes := sectBytes file p.sects
     let sig := bytes 0x0E
     let measured := (sig.drop 8).take 64
     let key := (sig.drop 0x48).take 57
     let note := fun o : Nat => leNat (((bytes 8).drop o).take 4)
     let new := fun k : Nat => ((bytes k).drop 16).take (leNat (((bytes k).drop 4).take 4))
     let olds := [(0x0C, x.tceFw.image), (0x0D, x.collFw.image)]
     let more := (olds.map fun e => if e.2 = [] then (new e.1).length else 0).sum
     let fails : Nat → Prop := fun k => match k with
       | 1 => ¬(goodHeader file = true ∧ goodSects file p.sects = true ∧ goodTables file p = true ∧
           goodLinks file p = true ∧ goodSig file p = true) ∨ .format ∈ p.patches x file base
       | 2 => sig = [] ∧ (x.unsigned_ = false ∨ ∃ y ∈ p.sects, y.kind = 0x0C ∨ y.kind = 0x0D)
       | 3 => sig ≠ [] ∧ ¬(measured = measurementOf file p ∧
           ed448Verify ((sig.drop 0x88).take 114) key measured [0x50, 0x43, 0x4F] = true)
       | 4 => sig ≠ [] ∧ key ∉ x.signers
       | 5 => 0x100 < note 0
       | 6 => note 4 ≠ 0
       | 7 => s.mapped x p place = none ∨ s.engineRoom more = false
       | 8 => ∃ y ∈ p.syms, y.sect ≠ 0 ∧ y.binding ≠ 0 ∧ x.bindDef (p.boundOf file base y) = .dup
       | 9 => ∃ y ∈ p.syms, p.resolve x file base y = none
       | 10 => .range ∈ p.patches x file base
       | 11 => (∃ e ∈ p.entries, e.kind = 2) ∧ x.trap ≠ none ∧ replaceTrap = false
       | 12 => ∃ e ∈ olds, new e.1 ≠ [] ∧ e.2 ≠ [] ∧ new e.1 ≠ e.2
       | _ => False
     (st = 0 ↔ ∀ k, ¬fails k) ∧ ∀ k, fails k → (∀ j, j < k → ¬fails j) → st = k) ∧
    (base % 65536 = 0 → ctx < 4096 → st = 0 →
      let p := partsOf file
      let o := objOfParts file p x base s.seq
      let image := fun (kind : Nat) (old : Firmware) =>
        if sectOf? p.sects kind = none ∨ old.obj ≠ 0 then old
        else { obj := s.seq, entry := leNat ((sectBytes file p.sects kind).take 4), image := fwImage file p kind }
      let at_ := fun k : Nat => ((sectOf? p.sects k).map fun y => base + y.load).getD 0
      let x' : Ctx := { x with
        codeRanges := x.codeRanges ++ [(o.textAt, o.textSize)]
        trap := ((p.entries.find? fun e => e.kind = 2).map fun e => o.textAt + e.text).or x.trap
        descr := x.descr ++ [{ obj := s.seq, textAt := at_ 1, msqAt := at_ 2, dataAt := at_ 3
                               presenceAt := at_ 4, liveAt := at_ 5, holdAt := at_ 6 }]
        tceFw := image 0x0C x.tceFw, collFw := image 0x0D x.collFw
        log := shake512 (x.log ++ o.measurement), logCount := x.logCount + 1 }
      ∃ t : State, exec load s = .next t ∧ t.host.events.getLast? = some (.loaded ctx 0) ∧
        (∃ slots, (t.ctx ctx).objs = x.objs ++ [{ o with holds := slots }]) ∧
        (t.ctx ctx).codeRanges = x'.codeRanges ∧ (t.ctx ctx).trap = x'.trap ∧
        (t.ctx ctx).descr = x'.descr ∧ (t.ctx ctx).tceFw = x'.tceFw ∧ (t.ctx ctx).collFw = x'.collFw ∧
        (t.ctx ctx).log = x'.log ∧ (t.ctx ctx).log.length = 64 ∧ (t.ctx ctx).logCount = x'.logCount ∧
        alone t { x' with objs := (t.ctx ctx).objs }) ∧
    (∀ (id : Nat) (o : Obj), (x.objs.find? fun o => o.id = id) = some o →
      (s.busy ctx o = true →
        exec (.UNLOAD_OBJECT ctx id) s = .next ((s.tellRecords ctx 0).tell (.unloaded ctx true))) ∧
      (s.busy ctx o = false →
        let left := x.objs.filter fun p => p.id ≠ id
        let gone := fun (old new : Firmware) (has : Obj → Bool) =>
          (old.obj ≠ id → new = old) ∧ (old.obj = id → (∀ p ∈ left, has p = false) → new = {}) ∧
          (∀ p ∈ left, has p = true → new.entry = old.entry ∧ new.image = old.image)
        ∃ t : State, exec (.UNLOAD_OBJECT ctx id) s = .next t ∧
          t.host.events.getLast? = some (.unloaded ctx false) ∧ (t.ctx ctx).objs = left ∧
          (t.ctx ctx).descr = x.descr.filter (fun d => d.obj ≠ id) ∧
          (t.ctx ctx).trap = x.trap.filter (fun v => ¬(o.textAt ≤ v ∧ v < o.textAt + o.textSize)) ∧
          gone x.tceFw (t.ctx ctx).tceFw (fun p => p.tceFw) ∧ gone x.collFw (t.ctx ctx).collFw (fun p => p.collFw) ∧
          alone t { x with objs := left, descr := (t.ctx ctx).descr, trap := (t.ctx ctx).trap
                           tceFw := (t.ctx ctx).tceFw, collFw := (t.ctx ctx).collFw } ∧
          ∀ pg level e pa, rangePages o.ranges = [pg] → s.allLines = [] →
            (let a := tagAsid x.asid (pg * 65536)
             (s.lookup (s.mapDie a (pg * 65536)).1 a (pg * 65536)).1 = .leaf level e pa) →
            t.readPhys pa 8 = leBytes 0 8)) ∧
    (nonce.length = 64 →
      let body := leBytes 1 8 ++ nonce ++ identityKey ++ leBytes 0 7 ++ s.host.secMeasure
        ++ s.host.dispMeasure ++ x.log ++ leBytes x.logCount 8 ++ leBytes x.asid 8
      let report := body ++ identitySign body [0x41, 0x54, 0x54] ++ leBytes 0 6
      exec (.ATTESTATION_REPORT ctx nonce) s = .next (s.tell (.report report)) ∧
      (s.host.secMeasure.length = 64 → s.host.dispMeasure.length = 64 → x.log.length = 64 →
        report.length = 464))

/-! ## Events: contexts, queues and jobs (spec 07 R115 to R121, spec 16 R251, R252) -/

/-- A context's block address is set while it is disabled; enabling reads its areas afresh, and a context that
the firmware has created anew starts with no object and zeros, each with the park threshold and the ranks that the
firmware sets; disabling is ignored with unfinished work; a
doorbell of a sound descriptor announces the entries up to its tail, and one of a bad descriptor tells the
firmware, which is also told of reserved entries of the region home map that such a read meets; ring records
take hardware entries, oldest first; and the spawn area grows. What the firmware sets is log entry 82, a slice's
segment of the spill area log entry 77. -/
def Obligations.ContextsAndQueues : Prop :=
  ∀ (s : State) (ctx off n : Nat) (value : DWord) (q : BitVec 32) (fw : FwContext),
    let x := s.ctx ctx
    let puts := fun (i : Instr) (s' : State) (x' : Ctx) => exec i s = .next (s'.setCtx ctx x')
    (ctx < 4096 → x.enabled = false → value.toNat % 4096 = 0 →
      puts (.CONTEXT_BLOCK_ADDRESS ctx value) s { x with block := value }) ∧
    (4096 ≤ ctx ∨ x.enabled = true ∨ value.toNat % 4096 ≠ 0 →
      exec (.CONTEXT_BLOCK_ADDRESS ctx value) s = .next s) ∧
    (ctx < 4096 → x.enabled = false → q.getLsbD 0 = true →
      let x1 : Ctx := if fw.created then
          { block := x.block, gilt := x.gilt, asid := fw.asid.toNat, key := fw.key.toNat
            unsigned_ := fw.unsigned_, signers := fw.signers }
        else x
      let x0 : Ctx := { x1 with
        park := fw.park.toNat, rank := fw.rank.toNat
        ranks := fw.ranks.foldl (fun (m : AMap Nat) r => m.set 0 r.1.toNat r.2.toNat) [] }
      let s0 : State := if fw.created then
          { s.setCtx ctx x0 with mem := { s.mem with
            roots := s.mem.roots.set 0 fw.asid.toNat fw.root
            homeRoots := s.mem.homeRoots.set 0 fw.asid.toNat fw.homeRoot } }
        else s.setCtx ctx x0
      let pa := x.block.toNat
      let area := fun o : Nat =>
        ({ base := leNat (s0.localRead (pa + o) 8), size := leNat (s0.localRead (pa + o + 8) 8) } : Area)
      puts (.CONTEXT_ENABLE ctx ⟨q, fw⟩) (s0.tellLocal (pa + 0x410) 80)
        { x0 with enabled := true, save := area 0x410, spawn := area 0x420, spill := area 0x430
                  ring := area 0x440, wake := area 0x450, ringNext := 0, wakeNext := 0, ringMapped := []
                  saves := [], collQs := []
                  spillSeg := min 65535 ((area 0x430).size / (32 * (s.host.slices0 + s.host.slices1))) }) ∧
    (ctx < 4096 → x.enabled = true → q.getLsbD 0 = false → s.hasWork ctx = false →
      puts (.CONTEXT_ENABLE ctx ⟨q, fw⟩) s { x with enabled := false }) ∧
    (ctx < 4096 → x.enabled = true → q.getLsbD 0 = false →
      x.inbox ≠ [] ∨ x.hw ≠ [] ∨ x.ringRecs ≠ [] ∨ (∃ e ∈ x.collQs, e.2.cmds ≠ []) ∨
        (∃ e ∈ s.work.groups, e.2.phase ≠ .absent ∧ e.2.ctx = ctx) →
      exec (.CONTEXT_ENABLE ctx ⟨q, fw⟩) s = .next s) ∧
    (ctx < 4096 → x.enabled = true → q.toNat < 16 →
      let d := s.localRead (x.block.toNat + 32 * q.toNat) 32
      let told := s.tellLocal (x.block.toNat + 32 * q.toNat) 32
      let f := fun (o k : Nat) => leNat ((d.drop o).take k)
      let ring := 2 ^ f 8 1
      let known := (x.inbox.filter fun j => j.queue = q.toNat && j.read = []).length
      let total := (f 0x14 4 + ring - f 0x10 4) % ring
      (goodQueue d = false → exec (.DOORBELL ctx 0 q) s = .next (told.tell (.badQueue ctx q.toNat))) ∧
      (goodQueue d = true → puts (.DOORBELL ctx 0 q) told { x with inbox := (x.inbox ++
        (List.range (total - known)).map fun i =>
          ({ queue := q.toNat, cls := f 9 1, index := (f 0x10 4 + known + i) % ring
             entry := f 0 8 + 64 * ((f 0x10 4 + known + i) % ring), ring := ring } : JobIn)) })) ∧
    (off ≠ 0 ∨ x.enabled = false → exec (.DOORBELL ctx off q) s = .next s) ∧
    (let k := min n (256 - x.hw.length)
     puts (.LAUNCH_RING_DRAIN ctx n) s { x with hw := x.hw ++ x.ringRecs.take k, ringRecs := x.ringRecs.drop k }) ∧
    ∃ t : State, exec (.SPAWN_AREA_GROW ctx n) s = .next t ∧
      t.ctx ctx = { x with spawn := { x.spawn with size := x.spawn.size + n } } ∧
      (∀ c, c ≠ ctx → t.ctx c = s.ctx c) ∧ t.work = s.work ∧ t.mem = s.mem ∧ t.cores = s.cores

/-- JOB_ACCEPT of a job of one graph whose records have been read: the job, its phase, its graph and its launches
exist, the launches queued in index order, and the job leaves the inbox; an entry that breaks its table refuses the
job with JOB_FORMAT. LAUNCH_ELIGIBLE of a launch whose record has been read and whose turn has come checks the
record once, refuses one that fails with LAUNCH_FORMAT or LAUNCH_FIT, and makes the launch eligible, a device launch
leaving its queue. LAUNCH_START starts the launch, with its draw, or its first group on its first core where that
has room and no pool, ready saved group or launch of higher class, rank or age comes before it (spec 05 R91 to R95,
spec 07 R116, R119 to R122, R124, spec 17 R257). -/
def Obligations.JobsAndLaunches : Prop :=
  ∀ (s : State) (ctx q l : Nat),
    let has := fun (j : JobIn) (va n : Nat) (b : List Byte) =>
      (j.read.find? fun r => r.1 = va && r.2.length = n) = some (va, b)
    let f := fun (b : List Byte) (o n : Nat) => leNat ((b.drop o).take n)
    let la := s.launch l
    (∀ (j : JobIn) (b p g : List Byte), s.nextJob ctx q = some j →
      s.waits (jobWaiter ctx q) = false → has j j.entry 64 b →
      (goodJob b = false → ∃ t : State, exec (.JOB_ACCEPT ctx q) s = .next t ∧
        (t.work.jobs.get {} s.seq).err = some
          { status := 3, group := 0, addr := j.entry, tcause := 0, tpc := 0, tinst := 0, count := 0 } ∧
        (t.work.jobLevels.get {} s.seq).done = true ∧ t.work.launches = s.work.launches) ∧
      (goodJob b = true → f b 0x10 4 = 1 → has j (f b 8 8) 32 p → goodPhase p = true → f p 0x10 4 = 1 →
        has j (f p 8 8) 32 g → goodGraph g = true → f g 0x12 2 = 0 →
        ∃ t : State, exec (.JOB_ACCEPT ctx q) s = .next t ∧ s.mem = t.mem ∧
          t.work.jobs.get {} s.seq =
            { queue := j.queue, cls := j.cls, entry := j.entry, errAddr := f b 0x18 8 } ∧
          t.work.jobLevels.get {} s.seq =
            { live := true, counter := f b 0 8, members := 1, ctx := ctx } ∧
          t.work.phases.get {} (s.seq + 1) =
            { live := true, counter := f p 0 8, members := 1, parent := s.seq, ctx := ctx } ∧
          t.work.graphs.get {} (s.seq + 2) =
            { live := true, counter := f g 0 8, members := f g 0x10 2, parent := s.seq + 1, ctx := ctx } ∧
          (∀ i, i < f g 0x10 2 → t.launch (s.seq + 3 + i) =
            { phase := .queued, ctx := ctx, queue := q, job := s.seq, jphase := s.seq + 1
              graph := s.seq + 2, order := s.seq + 3 + i, recAddr := f g 8 8 + 64 * i, index := i }) ∧
          (∀ k ∈ (t.ctx ctx).inbox, ¬(k.queue = j.queue ∧ k.index = j.index ∧ k.entry = j.entry)))) ∧
    (let good := fun f : LaunchRec => f.good la.recAddr (s.host.cores0 + s.host.cores1)
     let fits := fun f : LaunchRec => ((emptyRoom f.bankMap).place
       { waves := f.waves, regs := f.regs, scratch := f.scratch, tiles := f.tiles }).isSome
     let passes := fun f : LaunchRec =>
       la.checked = true ∨ (good f = true ∧ f.isDraw = false ∧ fits f = true)
     let refusedWith := fun (i : Instr) (status : Nat) => ∃ t : State, exec i s = .next t ∧
       (t.launch l).phase = .refused ∧
       ((s.work.jobs.get {} la.job).err = none → (t.work.jobs.get {} la.job).err = some
         { status := status, group := 0, addr := la.recAddr, tcause := 0, tpc := 0, tinst := 0, count := 0 })
     (la.phase = .queued → s.waits (.record l) = false → la.cancelled = false →
      (la.parent = none → la.unread = none → (s.earlier l).all s.allPlaced = true → s.phasesDone l = true →
        let i := Instr.LAUNCH_ELIGIBLE l
        (passes la.form → la.form.hasPred = false →
          (la.form.early = true ∨ ∀ m ∈ s.earlier l, (s.launch m).phase.finished = true) →
          exec i s = .next (({ s with seq := s.seq + 1 } : State).setLaunch l
            { la with phase := .eligible, eligibleAt := s.seq, seen := s.mem.pyramids, checked := true })) ∧
        (la.checked = false → good la.form = false → refusedWith i 1) ∧
        (la.checked = false → good la.form = true → la.form.isDraw = false → fits la.form = false →
          refusedWith i 2)) ∧
      (∀ bs, la.parent ≠ none → la.bytes = some bs → (LaunchRec.ofBytes bs).isDraw = false →
        (LaunchRec.ofBytes bs).hasPred = false → (s.ctx la.ctx).hw.head? = some l →
        passes (LaunchRec.ofBytes bs) →
        exec (.LAUNCH_ELIGIBLE l) s =
          .next ((({ s with seq := s.seq + 1 } : State).setCtx la.ctx
            { s.ctx la.ctx with hw := (s.ctx la.ctx).hw.tail }).setLaunch l
              { la with phase := .eligible, form := LaunchRec.ofBytes bs, eligibleAt := s.seq
                        seen := s.mem.pyramids, checked := true }))) ∧
     (la.phase = .eligible → s.wantsPred l = false → la.cancelled = false →
      let form := la.form
      let start := Instr.LAUNCH_START l
      (la.checked = false → good form = false → refusedWith start 1) ∧
      (∀ d : Draw, form.isDraw = true → (la.checked = true ∧ s.draw l = d ∨
          la.checked = false ∧ good form = true ∧ fits form = true ∧ s.newDraw l = some d) →
        ∃ t : State, exec start s = .next t ∧ (t.launch l).phase = .started ∧ (t.draw l).live = true ∧
          (t.draw l).blk = d.blk ∧ ((t.draw l).elem s.seq).rate = .F) ∧
      (passes form → form.isDraw = false →
        ∃ t : State, exec start s = .next t ∧ (t.launch l).phase = .started ∧
          (t.launch l).spawnNext = form.count ∧
          let begun := s.setLaunch l
            { la with checked := true, phase := .started, spawnNext := form.count, nextCore := form.first }
          ∀ (as : List Alloc) (base : Nat), la.next = 0 → la.again = [] → (s.draw l).live = false →
            (∀ c, (s.core c).pool = []) → begun.returning = [] →
            (∀ m ∈ begun.waiting, ¬begun.launchKey m < begun.launchKey l) →
            0 < form.cores → 0 < form.count → form.first ∈ la.banked →
            s.preempting form.first la.ctx = false →
            (s.room form.first).place
              { waves := form.waves, regs := form.regs, scratch := form.scratch, tiles := form.tiles }
              = some (as, base) →
            let g := t.group s.seq
            g.phase = .resident ∧ g.launch = l ∧ g.num = 0 ∧ g.core = form.first ∧ g.ctx = la.ctx ∧
              g.entry = form.entry ∧ g.nwaves = form.waves ∧ g.nregs = form.regs ∧ g.base = base ∧
              g.scratch = form.scratch ∧ g.ntiles = form.tiles)))

/-! ## Events: groups (spec 05 R93 to R97, spec 06 R106 to R109, spec 07 R120) -/

/-- GROUP_RETIRE takes a group that is over from its launch, which counts it; BANK_MODE_CHANGE changes a bank
that holds nothing, and no other; GBAR_COMPLETE lets every unit of a group go on when all wait at the
barrier and no lane is in spawn memory; WAITP_RELEASE writes status 0 to the waits of a launch that are
over, with an acquire (R96, R97, spec 06 R109, spec 07 R120, spec 11 R172; that a bank whose place a range reaches
over stays as it is by log entry 70). -/
def Obligations.GroupEvents : Prop :=
  ∀ (s : State) (gi core bank l : Nat) (mode : BitVec 2),
    let g := s.group gi
    let c := s.core core
    (gi < s.seq → s.groupOver gi = true → (s.draw g.launch).live = false →
      ∃ t : State, exec (.GROUP_RETIRE [gi]) s = .next t ∧ t.group gi = {} ∧
        (g.num < (s.launch g.launch).form.count →
          (t.launch g.launch).retired = (s.launch g.launch).retired + 1) ∧
        ((s.launch g.launch).form.count ≤ g.num →
          (t.launch g.launch).spawnRetired = (s.launch g.launch).spawnRetired + 1)) ∧
    (let change := Instr.BANK_MODE_CHANGE core bank mode
     let able := c.modes.get 0 bank ≠ mode ∧ mode ≠ 3 ∧ s.bankFree core bank = true ∧
       (mode = 1 → s.bankFits core bank = true)
     bank < 32 → core < s.host.cores0 + s.host.cores1 →
      (able → ∃ t : State, exec change s = .next t ∧ (t.core core).modes.get 0 bank = mode ∧
        (∀ b, b ≠ bank → (t.core core).modes.get 0 b = c.modes.get 0 b) ∧
        (∀ k, k ≠ core → t.core k = s.core k) ∧ t.mem.phys = s.mem.phys ∧ t.mem.l2 = s.mem.l2 ∧
        (c.modes.get 0 bank = 0 → ∀ i, i < 256 → ∀ m ∈ t.mem.l1.get [] (core * 256 + i), m.bank ≠ bank)) ∧
      (¬able → exec change s = .next s)) ∧
    (g.phase = .resident → s.unitsOf gi ≠ [] → (∀ u ∈ s.unitsOf gi, (s.unit u).park = .gbar) →
      g.frags = [] → g.waits = [] →
      ∃ t : State, exec (.GBAR_COMPLETE gi) s = .next t ∧
        (∀ u ∈ s.unitsOf gi, t.unit u =
          { s.unit u with park := .none, turnAt := (s.core (s.unit u).core).cycle }) ∧
        (∀ u, u ∉ s.unitsOf gi → t.unit u = s.unit u) ∧ t.mem = s.mem ∧ t.cores = s.cores) ∧
    (s.waitOver l = true → ∃ t : State, exec (.WAITP_RELEASE l) s = .next t ∧
      ∀ (u dst : Nat) (lanes : Mask), (s.unit u).launch = l → s.isResident u = true →
        (s.unit u).park = .waitp dst lanes →
        s.seq ≤ (t.unit u).acq ∧
        Wrote { s.unit u with park := .none, acq := (t.unit u).acq, turnAt := (s.core (s.unit u).core).cycle }
          (t.unit u) lanes dst false 0)

/-- SOLDER packs the fragment records of one target, oldest first and at most 32 lanes, into one unit that
starts there in a free allocation of the group, its lanes in order of home wave and lane; REJOIN starts a
home wave from its waiting records, each lane in its own place, with the home wave's own flags, trap record,
handler and icinv operations, which the group then keeps no longer. Every lane has its recorded registers and masks,
and zeros elsewhere; nothing else changes (spec 06 R106, R107, spec 03 R57, spec 08 R143, spec 10 R158; a soldered
wave's trap record is the model's choice, log entry 32, what a group keeps of a home wave log entry 23, and where the
packing stops, its order, and that a rejoin goes first, log entry 72). -/
def Obligations.SolderAndRejoin : Prop :=
  ∀ (s : State) (gi wave i : Nat) (at_ : DWord),
    let g := s.group gi
    let u := s.seq
    let starts := fun (ins : Instr) (g' : Group) (base : Wave) (lanes : List (Nat × FragLane)) =>
      ∃ (w : Wave) (as : List Alloc),
        exec ins s = .next ((({ s with seq := s.seq + 1 } : State).setGroup gi { g' with allocs := as }).setUnit u w) ∧
        as[i]? = (g.allocs[i]?).map (fun a => { a with unit := some u }) ∧
        (∀ j, j ≠ i → as[j]? = g.allocs[j]?) ∧
        w = { base with
          live := true, ctx := g.ctx, launch := g.launch, group := gi, core := g.core, alloc := i
          nregs := g.nregs, acq := u, turnAt := (s.core g.core).cycle
          part := w.part, slot := w.slot, x := w.x, o := w.x, elems := w.elems, regs := w.regs, k := w.k } ∧
        (∀ l, l < 32 → (inMask w.x l = true ↔ ∃ f, (l, f) ∈ lanes)) ∧
        (∀ l f, (l, f) ∈ lanes → l < 32 → (f.regs.map Prod.fst).Nodup → (∀ f', (l, f') ∈ lanes → f' = f) →
          (∀ r, w.reg r l = f.regs.get 0 r) ∧ ∀ n, n ≠ 0 → (inMask (w.kreg n) l = true ↔ n ∈ f.k))
    (∀ first rest, g.freeAlloc = some i → g.phase = .resident → g.nextRejoin = none →
      (g.frags.filter fun f => f.target = at_.toNat) = first :: rest →
      let fs := packFrags ((first :: rest).filter fun f => f.rate = first.rate && f.pathPos = first.pathPos) 32
      let lanes := sortBy laneOrder (fs.flatMap fun f => f.lanes)
      starts (.SOLDER gi at_) { g with frags := (g.frags.filter fun f => !fs.contains f) }
        { num := (lanes.head?.map fun l => l.wave).getD 0, soldered := true
          homes := (lanes.map fun l => (l.wave, l.lane))
          pc := at_
          fflags := fs.foldl (fun m f => m ||| f.fflags) 0
          idem := (fs.all fun f => f.idem)
          rate := first.rate, pathPos := first.pathPos, age := first.order }
        ((List.range lanes.length).zip lanes)) ∧
    (∀ first, g.freeAlloc = some i → g.phase = .resident → g.nextRejoin = some first → first.wave = wave →
      let mine := g.waits.filter fun r => r.wave = wave && r.token = first.token
      let home := (g.homes.find? fun r => r.wave = wave).getD
        { wave := wave, fflags := 0, tcause := 0, tpc := 0, tinst := 0, inHandler := false, resume := 0
          log := [], pendSeq := 0, icinvs := [] }
      let runs := (s.unitsOf gi).find? fun u => !(s.unit u).soldered && (s.unit u).num = wave
      let flags := match runs with | some u => (s.unit u).fflags ||| home.fflags | none => home.fflags
      starts (.REJOIN gi wave)
        { g with waits := (g.waits.filter fun r => !mine.contains r)
                 homes := (g.homes.filter fun r => r.wave ≠ wave) }
        { num := wave
          homes := ((List.range 32).map fun l => (wave, l))
          pc := BitVec.ofNat 64 ((mine.getLast?.map fun r => r.pc).getD first.pc)
          fflags := mine.foldl (fun m r => m ||| r.fflags) flags
          idem := (mine.all fun r => r.idem)
          tcause := home.tcause, tpc := home.tpc, tinst := home.tinst, inHandler := home.inHandler
          resume := home.resume, pend := home.log, pendSeq := home.pendSeq
          icinvs := (home.icinvs.filter fun n => s.work.icinvs.any fun e => e.1 = n)
          rate := first.rate, pathPos := first.pathPos, age := first.order }
        ((mine.flatMap fun r => r.lanes).map fun l => (l.lane, l)))

/-- PREEMPT_REQUEST discards the discardable groups that it names, and stops the others, whose parked waves
stop in place; GROUP_SAVE keeps a group whose waves have stopped and drained, with its scratchpad bytes and a
place in the save area, and frees its allocations (a fetch fault keeps it from returning at once); SWAP_OUT
stops a group whose waves have all been parked for the threshold; GROUP_RESTORE brings the first of the saved
groups that are ready to a core with room and no spawned group that waits there, its bytes in its new range and
its waves unstopped; FETCH_FAULT stops the group and tells the firmware (spec 07 R124 to R130). -/
def Obligations.Preemption : Prop :=
  ∀ (s : State) (gi core u : Nat) (cores ctxs : List Nat),
    let g := s.group gi
    let bytes := (List.range g.scratch).map fun k => (s.core g.core).scratch.get 0 (g.base + k)
    (gi < s.seq → g.phase = .resident → g.core ∈ cores → g.ctx ∈ ctxs →
      ∃ t : State, exec (.PREEMPT_REQUEST cores ctxs) s = .next t ∧
        (s.discardable gi = true → t.group gi = {}) ∧
        (s.discardable gi = false → (t.group gi).phase = .stopping ∧ (t.group gi).preempted = true ∧
          ∀ v, (s.unit v).live = true → (s.unit v).group = gi → (∀ h, v ∈ s.unitsOf h → h = gi) →
            (s.unit v).park.stops = true → (t.unit v).stopped = true)) ∧
    (gi < s.seq → s.canSave gi = true → (s.launch g.launch).cancelled = false → g.fetchHeld = true →
      ∃ t : State, exec (.GROUP_SAVE gi) s = .next t ∧ (t.group gi).phase = .saved ∧
        (t.group gi).allocs = [] ∧ (t.group gi).savedScratch = bytes ∧
        ∃ k ∈ (t.ctx g.ctx).saves, k.group = gi) ∧
    (g.phase = .resident → s.unitsOf gi ≠ [] → (s.ctx g.ctx).park ≠ 0 →
      (∀ v ∈ s.unitsOf gi, ((s.unit v).park = .reserve ∨
        ((s.unit v).park.stops = true ∧ (s.unit v).park ≠ .gbar)) ∧
        (s.unit v).parkedAt + (s.ctx g.ctx).park ≤ (s.core g.core).cycle) →
      ∃ t : State, exec (.SWAP_OUT gi) s = .next t ∧ t.group gi = { g with phase := .stopping } ∧
        (∀ v ∈ s.unitsOf gi, t.unit v = { s.unit v with stopped := true }) ∧
        ∀ v, v ∉ s.unitsOf gi → t.unit v = s.unit v) ∧
    (∀ (as : List Alloc) (base : Nat), s.readyBack gi = true → (s.launch g.launch).form.grants core = true →
      s.preempting core g.ctx = false → s.hasMatrix gi = false → s.copiesFit gi core = true →
      core ∈ (s.launch g.launch).banked →
      (s.core core).pool = [] → s.returning.head? = some gi →
      (∀ r ∈ (s.ctx (s.launch g.launch).ctx).savedPool, r.launch ≠ g.launch) →
      (s.room core).place { waves := g.nwaves, regs := g.nregs, scratch := g.scratch, tiles := g.ntiles }
        = some (as, base) →
      ∃ t : State, exec (.GROUP_RESTORE gi core) s = .next t ∧ (t.group gi).phase = .resident ∧
        (t.group gi).core = core ∧ (t.group gi).base = base ∧
        (∀ k, k < g.savedScratch.length →
          (t.core core).scratch.get 0 (base + k) = g.savedScratch.getD k 0) ∧
        ∀ v ∈ s.unitsOf gi, (s.unit v).group = gi → (t.unit v).core = core ∧ (t.unit v).stopped = false) ∧
    ∀ (c : DFault) (why : Absence), s.ready u = true → (s.unit u).stopped = false →
      (s.fetchWord u (s.unit u).pc.toNat).1 = .error (c, why) →
      ∃ t : State, exec (.FETCH_FAULT u) s = .next t ∧ (t.group (s.unit u).group).phase = .stopping ∧
        (t.group (s.unit u).group).fetchHeld = true ∧
        (∀ v ∈ s.unitsOf (s.unit u).group, (t.unit v).stopped = true) ∧
        ∃ f ∈ t.mem.faults, f.who = .fetch u ∧ f.va = (s.unit u).pc.toNat ∧ f.cause = c

/-! ## Events: faults and waits (spec 12 R195 to R198, spec 14 R217 to R226, spec 15 R243) -/

/-- FAULT_RESOLVE: the faulted lanes of a load are performed again and their values are on their way; a
group may return after its fetch; an uncorrected error is never resolved. FAULT_DELIVER: a fault that is
not resolved enters the handler, with its cause, the address and the word of its instruction, once the
unit waits and no other result is on its way. -/
def Obligations.FaultsOfUnits : Prop :=
  ∀ (s : State) (f : FaultRec) (u : Nat) (p : Pend),
    let w := s.unit u
    let mine := s.mem.faults.find? (fun x => x.id = f.id) = some f
    let alone := ∀ x ∈ s.mem.faults, x.id ≠ f.id → x.who ≠ f.who
    (mine → f.cause = .ecc → exec (.FAULT_RESOLVE f.id) s = .next s) ∧
    (mine → f.cause ≠ .ecc → f.who = .fetch u → exec (.FAULT_RESOLVE f.id) s =
      .next (({ s with mem := { s.mem with faults := (s.mem.faults.filter fun x => x.id ≠ f.id) } } :
        State).setGroup w.group { s.group w.group with fetchHeld := false })) ∧
    (∀ (h : Head) (m : MemF) (bs : LaneReq → List Byte), mine → alone → f.cause ≠ .ecc →
      f.who = .unit u p.seq → w.pend = [p] → p.status = .raised → p.leader = false → p.op = .LD h m →
      p.n = m.size.regs → p.todo = [] → p.faulted ≠ [] →
      (∀ r ∈ p.faulted, s.Reads u r.addr m.size.bytes (bs r)) →
      ∃ t : State, exec (.FAULT_RESOLVE f.id) s = .next t ∧ SameBytes s t ∧
        t.unit u = { w with
          acq := (t.unit u).acq
          pend := [{ p with status := .clear, faulted := []
                            values := (p.values ++ p.faulted.map fun r => (r.lane, wordsOf (bs r))) }] }) ∧
    (∀ entry, mine → f.who = .unit u p.seq → w.live = true → w.left = none → w.pend = [p] → p.values = [] →
      p.todo = [] → p.status ≠ .delivered → w.held = true → w.park = .none → w.inHandler = false →
      (s.ctx w.ctx).trap = some entry →
      ∃ t : State, exec (.FAULT_DELIVER f.id) s = .next t ∧ (∀ x ∈ t.mem.faults, x.id ≠ f.id) ∧
        t.unit u = { w with
          pend := [{ p with status := .delivered }], tcause := BitVec.ofNat 32 p.cause.code
          tpc := BitVec.ofNat 64 p.pc, tinst := firstWord p.op, resume := w.pc
          pc := BitVec.ofNat 64 entry, inHandler := true, held := false, park := .none, trapNext := none } ∧
        (∀ v, v ≠ u → t.unit v = s.unit v) ∧ t.cores = s.cores ∧ t.ctxs = s.ctxs)

/-- WAKE_DELIVERY ends the wait of a unit that runs where its entry says, with the status, or goes to the wake list of
its context, and its entry leaves the table; a wake that neither a unit nor the wake list can take stays in its entry,
which has kept its place there, and counts as held (that an entry keeps its place until its wake is taken by log entry
62); WAITU_EXPIRY marks an entry whose deadline has passed and sends status 1; SLEEP_EXPIRY lets a unit go on whose
count has run out; SPILL_WALK moves spilled records into free entries, oldest first; WAKE_LIST_RETRY appends a fired
entry's wake once the list has room; and MONITOR_COUNTER_CLEAR clears the counters, the high-water mark starting
again at the entries in use. -/
def Obligations.WaitEvents : Prop :=
  ∀ (s : State) (id sl u token : Nat),
    let w := s.unit u
    let c := s.slice sl
    let left := fun v : Wake =>
      (s.slice v.slice).table.filter fun e => e.token ≠ v.entry.token || e.fired.isNone
    (∀ (v : Wake) (asid va tok dst : Nat) (lanes : Mask), (s.mem.wakes.find? fun v => v.id = id) = some v →
      v.entry.peer = none → s.work.tokens.get 0 v.entry.token = u + 1 → s.isResident u = true →
      (v.entry.moved = true ∨ w.core = v.entry.core ∧ w.part = v.entry.part ∧ w.slot = v.entry.slot) →
      w.park = .waitu asid va tok dst lanes →
      ∃ t : State, exec (.WAKE_DELIVERY id) s = .next t ∧
        Wrote { w with park := .none, turnAt := (s.core w.core).cycle } (t.unit u) lanes dst false v.status ∧
        t.l1Find w.core (tagAsid asid va) (va / 128) = none ∧ (∀ x ∈ t.mem.wakes, x.id ≠ id) ∧
        (t.slice v.slice).table = left v ∧ ∀ n, n ≠ u → t.unit n = s.unit n) ∧
    (∀ v : Wake, (s.mem.wakes.find? fun v => v.id = id) = some v → v.entry.peer = none →
      s.work.tokens.get 0 v.entry.token = u + 1 → s.wakesAt u v.entry = false →
      let x := s.ctx v.entry.ctx
      let k := s.slice v.slice
      let taken := s.mem.wakes.filter fun y => y.id ≠ id
      let place := x.wake.base + 8 * (x.wakeNext % (x.wake.size / 8))
      (x.wakes.length < x.wake.size / 8 → s.localLine place = none → ∃ t : State,
        exec (.WAKE_DELIVERY id) s = .next t ∧
        (t.ctx v.entry.ctx).wakes = x.wakes ++ [(v.entry.token, v.status)] ∧ t.mem.wakes = taken ∧
        t.readPhys place 8 = leBytes v.entry.token 4 ++ leBytes v.status 4 ∧
        (t.slice v.slice).table = left v ∧ t.work.units = s.work.units) ∧
      (x.wake.size / 8 ≤ x.wakes.length →
        exec (.WAKE_DELIVERY id) s = .next (({ s with mem := { s.mem with wakes := taken } } : State).setSlice v.slice
          { k with counters := { k.counters with wakeHeld := bump k.counters.wakeHeld } }))) ∧
    (let ends := fun e : MonEntry => e.token = token && e.fired.isNone && e.expired c.cycle
     let fire := fun e : MonEntry => { e with fired := some 1 }
     ∀ e : MonEntry, c.table.filter ends = [e] → exec (.WAITU_EXPIRY sl token) s = .next
        { s with seq := s.seq + 1
                 mem := { s.mem with
                   slices := s.mem.slices.set {} sl
                     { c with table := c.table.map fun x => if ends x then fire x else x }
                   wakes := s.mem.wakes ++ [{ id := s.seq, slice := sl, status := 1, entry := fire e }] } }) ∧
    (∀ n, w.park = .sleep n → s.isResident u = true → w.parkedAt + n ≤ (s.core w.core).cycle →
      exec (.SLEEP_EXPIRY u) s =
        .next (s.setUnit u { w with park := .none, turnAt := (s.core w.core).cycle })) ∧
    (∀ n, w.park = .sleep n → (s.core w.core).cycle < w.parkedAt + n → exec (.SLEEP_EXPIRY u) s = .next s) ∧
    (c.spilled.Nodup → (∀ p ∈ c.spilled, p.entry.expired c.cycle = false) →
      c.table.length + c.spilled.length ≤ 2048 →
      ∃ t : State, exec (.SPILL_WALK sl) s = .next t ∧ (t.slice sl).spilled = [] ∧
        (t.slice sl).table = c.table ++ c.spilled.map fun p => p.entry) ∧
    (∀ (e : MonEntry) (st : Nat), c.table = [e] → c.waking = [] → c.spilled = [] →
      (∀ x ∈ s.mem.wakes, x.entry.token ≠ e.token) → (∀ x ∈ s.mem.peerWaits, x.ended = none) →
      e.fired = some st → e.peer = none →
      s.work.tokens.get 0 e.token = u + 1 → s.isResident u = false → (∀ n, (s.ctx n).wakes = []) →
      (∀ x ∈ s.ctxs, x.2.wakes = []) → 0 < (s.ctx e.ctx).wake.size / 8 →
      ∃ t : State, exec (.WAKE_LIST_RETRY sl) s = .next t ∧ (t.ctx e.ctx).wakes = [(e.token, st)] ∧
        (t.slice sl).table = [] ∧ .wakeList e.ctx ∈ t.host.events) ∧
    exec (.MONITOR_COUNTER_CLEAR sl) s = .next (s.setSlice sl
      { c with counters := { highWater := c.table.length, spills := 0, spillFull := 0, walks := 0
                             wakeHeld := 0 } })

/-! ## Events: pages, frames, regions, the outside and soft errors (spec 15, 16, spec 11 R180) -/

/-- RETRANSLATE leaves no cached translation, no L1 copy and no cached code line of the range, keeps of its clean
lines those whose leaf has not changed, writes a dirty line back where its leaf has a frame, drops one whose leaf
has become another without a frame, and leaves every line beyond the range; GILT_GRANT sets a quota within the die's
units and refuses one beyond them, and of the held lines that a slice of the die charges to the context those beyond
256 for each unit, the oldest kept, are held no longer; FRAME_POOL_PUSH takes frames up to 4,096; STASH_DRAIN gives
a stashed line a frame and writes it there; GILT_STARVATION fails a fill that has stalled for the limit; MIGRATE
turns the region's bit, and brings its line to the new home (the frame that is taken, what is dropped, and the order
of a move by log entries 21, 65 and 66). -/
def Obligations.PagesAndRegions : Prop :=
  ∀ (s : State) (asid lo hi ctx die units sl region : Nat) (frames : List Nat),
    let hit := fun (a line : Nat) =>
      lo < line * 128 + 128 ∧ line * 128 < hi ∧ a = tagAsid asid (line * 128)
    let x := s.ctx ctx
    let d := s.die die
    let leafAt := fun (n a line : Nat) => (s.lookup (s.dieOfSlice n) a (line * 128)).1
    (s.mem.stalls = [] → (∀ y ∈ s.allLines, hit y.2.asid y.2.va → y.2.dirty = false) →
      ∃ t : State, exec (.RETRANSLATE asid lo hi) s = .next t ∧ t.work = s.work ∧ t.mem.phys = s.mem.phys ∧
      (∀ u key, entryMeets asid lo hi key = true → (t.mem.trans.get {} u).leaves.get 0 key = 0 ∧
        (t.mem.trans.get {} u).tables.get 0 key = 0) ∧
      (∀ c a line, hit a line → t.l1Find c a line = none) ∧
      (lo ≤ hi → ∀ key, let code := hit (key / 2 ^ 49 % 2 ^ 16) (key % 2 ^ 49)
        (code → t.mem.icache.get [] key = [] ∧ t.mem.msqCache.get [] key = []) ∧
        (¬code → t.mem.icache.get [] key = s.mem.icache.get [] key ∧
          t.mem.msqCache.get [] key = s.mem.msqCache.get [] key)) ∧
      (∀ n a line, ¬hit a line → t.findLine n a line = s.findLine n a line) ∧
      ∀ n a line l, hit a line → s.findLine n a line = some l → s.mem.trans = [] →
        (∀ y ∈ s.allLines, y.2.asid = a → y.2.va = line → y = (n, l)) →
        (∀ why, leafAt n a line = .absent why → t.findLine n a line = none) ∧
        (∀ level e pa, leafAt n a line = .leaf level e pa →
          t.findLine n a line = if e = l.leaf then some l else none)) ∧
    (∀ (n level pa : Nat) (l : Line) (e : DWord), s.mem.stalls = [] → s.mem.trans = [] →
      (∀ y ∈ s.allLines, y.2.asid = l.asid → y.2.va = l.va → y = (n, l)) →
      (∀ y ∈ s.allLines, hit y.2.asid y.2.va → y = (n, l)) → hit l.asid l.va →
      s.findLine n l.asid l.va = some l → l.dirty = true → l.data.length = 128 →
      leafAt n l.asid l.va = .leaf level e pa → leafPeer e = false → leafFrameless e = false →
      s.physOk (leafPa level e (l.va * 128)) = true →
      ∃ t : State, exec (.RETRANSLATE asid lo hi) s = .next t ∧
        t.readPhys (leafPa level e (l.va * 128)) 128 = l.data ∧
        (e ≠ l.leaf → t.findLine n l.asid l.va = none) ∧
        (e = l.leaf → (s.allLines.filter fun y => y.2.asid = l.asid && y.2.va = l.va) = [(n, l)] →
          t.findLine n l.asid l.va = some { l with dirty := false })) ∧
    (∀ (n level pa : Nat) (l : Line) (e : DWord), s.mem.stalls = [] → s.mem.trans = [] →
      (∀ y ∈ s.allLines, y.2.asid = l.asid → y.2.va = l.va → y = (n, l)) →
      (∀ y ∈ s.allLines, hit y.2.asid y.2.va → y = (n, l)) → hit l.asid l.va →
      s.findLine n l.asid l.va = some l → leafAt n l.asid l.va = .leaf level e pa → leafFrameless e = true →
      e ≠ l.leaf → ∃ t : State, exec (.RETRANSLATE asid lo hi) s = .next t ∧
        t.findLine n l.asid l.va = none ∧ t.mem.phys = s.mem.phys) ∧
    (let others := (s.ctxs.map fun e => if e.1 = ctx then 0 else e.2.gilt.get 0 die).sum
     (1152 < others + units → exec (.GILT_GRANT ctx die units) s = .next (s.tell (.grantRefused ctx die))) ∧
     (others + units ≤ 1152 → ∃ t : State, exec (.GILT_GRANT ctx die units) s = .next t ∧
       t.ctx ctx = { x with gilt := x.gilt.set 0 die units } ∧ (∀ c, c ≠ ctx → t.ctx c = s.ctx c) ∧
       SameBytes s t ∧ t.work = s.work ∧
       ∀ (n : Nat) (l : Line), s.findLine n l.asid l.va = some l → s.dieOfSlice n = die →
         (s.allLines.filter fun y => y.2.asid = l.asid && y.2.va = l.va) = [(n, l)] →
         (∀ y ∈ s.allLines, y.1 = n → y.2.alloc = l.alloc → y = (n, l)) →
         let charged := fun m : Line => m.held && m.ctx = ctx
         let older := (s.allLines.filter fun y => y.1 = n && charged y.2 && y.2.alloc < l.alloc).length
         t.findLine n l.asid l.va =
           some (if charged l = true ∧ 256 * units ≤ older then { l with held := false } else l))) ∧
    (let n := min frames.length (4096 - d.frames.length)
     exec (.FRAME_POOL_PUSH die frames) s =
       .next ((s.setDie die { d with frames := d.frames ++ frames.take n }).tell (.pushed die n))) ∧
    (∀ (l : Line) (level f pa : Nat) (e : DWord) (fs : List Nat), s.mem.stalls = [] →
      (s.slice sl).stash = [l] → l.data.length = 128 → s.leave sl l = .frameless level e pa →
      (s.die (s.dieOfSlice sl)).frames = fs ++ [f] →
      let e' : DWord := BitVec.ofNat 64 (e.toNat + f * 2 ^ 16)
      let at_ := leafPa level e' (l.va * 128)
      ∃ t : State, exec (.STASH_DRAIN sl) s = .next t ∧ (t.slice sl).stash = [] ∧
        (t.die (s.dieOfSlice sl)).frames = fs ∧ t.readPhys at_ 128 = l.data ∧
        (pa + 8 ≤ at_ ∨ at_ + 128 ≤ pa → t.readPhys pa 8 = leBytes e'.toNat 8)) ∧
    (∀ (v : Stall) (u seq : Nat) (p : Pend), s.mem.stalls = [v] → v.place = .slice sl → v.who = .unit u seq →
      v.start + s.starveAfter ≤ (s.slice sl).cycle →
      ((s.unit u).pend.find? fun p => p.seq = seq) = some p → p.leader = false →
      ∃ t : State, exec (.GILT_STARVATION sl) s = .next t ∧ t.mem.stalls = [] ∧
        t.mem.faults = s.mem.faults ++ [{ id := s.seq, who := .unit u seq, asid := v.asid, va := v.addr
                                          cause := .starved, why := .other, write := v.write }] ∧
        ∃ p' : Pend, ((t.unit u).pend.find? fun p => p.seq = seq) = some p' ∧ p'.status = .raised ∧
          p'.cause = .starved ∧
          p'.faulted = p.faulted ++ p.todo.filter (fun r => s.reqVa u p.op r / 128 = v.va) ∧
          p'.todo = p.todo.filter fun r => ¬s.reqVa u p.op r / 128 = v.va) ∧
    (∀ (pa bit old : Nat) (l : Line),
      let a := tagAsid asid (region * 2 ^ 21)
      let inside := fun (b va : Nat) => b = a ∧ va / 2 ^ 21 = region
      a < 2 ^ 16 → region < 2 ^ 35 → s.mapBit a (region * 2 ^ 21) = some (pa, bit) → s.mem.stalls = [] →
      (s.allLines.filter fun y => y.2.asid = a && y.2.va / 2 ^ 14 = region) = [(old, l)] →
      (∀ e ∈ s.mem.slices, (∀ m ∈ e.2.table ++ e.2.waking, ¬inside m.asid m.va) ∧
        ∀ m ∈ e.2.spilled, ¬inside m.entry.asid m.entry.va) →
      (∀ n, (s.mem.l2.get [] (setKey n l.va)).length < 16) →
      ∃ (t : State) (m : Line), exec (.MIGRATE asid region) s = .next t ∧
        t.readPhys pa 1 = leBytes (leNat (s.readPhys pa 1) ^^^ 2 ^ bit) 1 ∧
        (∀ core, t.mem.homeCache.get 0 (core * 2 ^ 51 + a * 2 ^ 35 + region) = 0) ∧
        t.findLine (t.homeSlice asid (l.va * 128)) l.asid l.va = some m ∧ m.data = l.data ∧
        m.dirty = l.dirty)

/-- HOST_ACCESS reads and writes the cached line of a frame that ASID 0 maps, else the channel, and is answered, and
a write behind an earlier one of the host to a byte of it that still waits is not performed before that (R202);
PEER_ACCESS reads and writes under the exported ASID, is refused without an export or grant, and brings the
answers to the device's own requests, among them the end of a wait; PEER_TIMEOUT gives the lanes that wait
PEER_UNREACHABLE once the limit has passed; PEER_PATH_LOSS ends the waits on the node with status 1;
HOST_WRITE_INVALIDATE writes the bytes over what the line's dirty copy holds, and the slice's copy, fetched again
under the present leaf, is what memory holds; SOFT_ERROR counts a corrected error, poisons a dirty line and a frame,
drops a clean line, and marks an accumulator. The clauses rest on choices of the model beside R245, R247 and R254:
how a wait at another device ends (log entry 44), to whom an access from outside is charged (log entry 84), from when
the limit counts (log entry 85), what stands for a frame that no leaf or several leaves map (log entry 87), and the
islands' numbers (log entry 63). -/
def Obligations.OutsideAndErrors : Prop :=
  ∀ (s : State) (off key va id n : Nat) (node : BitVec 22) (obs : BitVec 5) (bs : List Byte),
    let fits := fun a : Nat => bs ≠ [] ∧ a % 128 + bs.length ≤ 128
    let written := fun (t : State) (q : Req) => ∀ j, j < bs.length →
      t.byteIn (s.reqSlice q) (s.reqTag q) (q.va + j) = some (bs.getD j 0)
    let answered := fun (t : State) (node : Option (BitVec 22)) (id : Nat) (r : PeerReply) =>
      t.mem.replies = s.mem.replies ++ [{ node := node, id := id, r := r }]
    let unused := fun who : Option (BitVec 22) => ∀ o ∈ s.mem.outs, o.num ≠ s.seq ∧ o.node ≠ who
    let outs := fun (asid a : Nat) => ({ ctx := 4096, asid := asid, va := a } : Req)
    (off + n ≤ s.localEnd → 0 < n → off % 128 + n ≤ 128 → s.frameVa off = none →
      exec (.HOST_ACCESS off (.read n)) s = .next (s.reply none off
        (if s.mem.poisoned.get false (off / 128) = true then .ecc else .data (s.readPhys off n)))) ∧
    (fits off → off + bs.length ≤ s.localEnd → s.frameVa off = none →
      let w := s.writePhys off bs
      exec (.HOST_ACCESS off (.write bs)) s = .next ((if bs.length = 128 then
          { w with mem := { w.mem with poisoned := w.mem.poisoned.set false (off / 128) false } }
        else w).reply none off (.data []))) ∧
    (∀ a, unused none → fits off → off + bs.length ≤ s.localEnd → s.frameVa off = some a →
      (s.ReqWrites (outs 0 a) bs.length →
        ∃ t : State, exec (.HOST_ACCESS off (.write bs)) s = .next t ∧ t.work = s.work ∧
          written t (outs 0 a) ∧ answered t none off (.data [])) ∧
      (s.ReqReads (outs 0 a) bs →
        ∃ t : State, exec (.HOST_ACCESS off (.read bs.length)) s = .next t ∧ t.work = s.work ∧
          SameBytes s t ∧ answered t none off (.data bs))) ∧
    (∀ (a : Nat) (o : OutReq) (old : List Byte), fits off → off + bs.length ≤ s.localEnd → s.frameVa off = some a →
      (∀ x ∈ s.mem.outs, x.num < s.seq) → o ∈ s.mem.outs → o.node = none → o.acc = .write old →
      tagAsid o.asid o.va = tagAsid 0 a → o.va < a + bs.length → a < o.va + old.length →
      exec (.HOST_ACCESS off (.write bs)) s = .next { s with
        seq := s.seq + 1
        mem := { s.mem with outs := s.mem.outs ++
          [{ num := s.seq, node := none, id := off, asid := 0, va := a, obs := 0, acc := .write bs }] } }) ∧
    ((s.mem.exports.find? fun e => e.node = node && e.key = key) = none →
      ∀ acc, exec (.PEER_ACCESS node id key (.access va obs acc)) s = .next (s.reply (some node) id .perm)) ∧
    (∀ e, (s.mem.exports.find? fun e => e.node = node && e.key = key) = some e →
      let write := Instr.PEER_ACCESS node id key (.access va obs (.write bs))
      let read := Instr.PEER_ACCESS node id key (.access va obs (.read bs.length))
      (e.w = false → exec write s = .next (s.reply (some node) id .perm)) ∧
      (e.r = false → exec read s = .next (s.reply (some node) id .perm)) ∧
      (e.w = true → unused (some node) → fits va → s.ReqWrites (outs e.asid va) bs.length →
        ∃ t : State, exec write s = .next t ∧ t.work = s.work ∧ written t (outs e.asid va) ∧
          answered t (some node) id (.data [])) ∧
      (e.r = true → unused (some node) → fits va → s.ReqReads (outs e.asid va) bs →
        ∃ t : State, exec read s = .next t ∧ t.work = s.work ∧ SameBytes s t ∧
          answered t (some node) id (.data bs))) ∧
    (∀ (u asid a tok dst st : Nat) (lanes : Mask) (w : PeerWait), (∀ m ∈ s.mem.peerOut, m.id ≠ id) →
      (s.mem.peerWaits.find? fun w => w.id = id && w.ended.isNone) = some w → w.token = tok →
      s.work.tokens.get 0 tok = u + 1 →
      s.isResident u = true → (s.unit u).park = .waitu asid a tok dst lanes →
      ∃ t : State, exec (.PEER_ACCESS node id key (.answer (.status st))) s = .next t ∧
        Wrote { s.unit u with park := .none, turnAt := (s.core (s.unit u).core).cycle } (t.unit u) lanes dst
          false st) ∧
    (∀ (m : PeerMsg), (s.mem.peerOut.find? fun m => m.id = id && m.answer.isNone) = some m →
      ((s.slice m.slice).cycle < m.start + 4194304 → exec (.PEER_TIMEOUT id) s = .next s) ∧
      (∀ (v : Stall) (u : Nat) (p : Pend), m.start + 4194304 ≤ (s.slice m.slice).cycle → s.mem.stalls = [v] →
        v.place = .peer id → v.who = .unit u p.seq →
        ((s.unit u).pend.find? fun q => q.seq = p.seq) = some p → p.leader = false →
        ∃ t : State, exec (.PEER_TIMEOUT id) s = .next t ∧ (∀ x ∈ t.mem.peerOut, x.id ≠ id) ∧
          t.mem.stalls = [] ∧
          t.mem.faults = s.mem.faults ++ [{ id := s.seq, who := .unit u p.seq, asid := v.asid, va := v.addr
                                            cause := .unreachable, why := .other, write := v.write }] ∧
          ∃ p' : Pend, ((t.unit u).pend.find? fun q => q.seq = p.seq) = some p' ∧ p'.status = .raised ∧
            p'.cause = .unreachable ∧ p'.faulted = p.faulted ++ p.todo.filter (fun r => r.lane = m.lane) ∧
            p'.todo = p.todo.filter fun r => ¬r.lane = m.lane)) ∧
    (∃ t : State, exec (.PEER_PATH_LOSS node) s = .next t ∧ t.mem.routes.get 0 node.toNat = 0 ∧
      ∀ (u asid a tok dst : Nat) (lanes : Mask), s.isResident u = true →
        (s.unit u).park = .waitu asid a tok dst lanes → s.work.tokens.get 0 tok = u + 1 →
        (∀ v asid' a' dst' lanes', (s.unit v).park = .waitu asid' a' tok dst' lanes' → v = u) →
        (∃ w ∈ s.mem.peerWaits, w.node = node ∧ w.ended = none ∧ w.token = tok) →
        Wrote { s.unit u with park := .none, turnAt := (s.core (s.unit u).core).cycle } (t.unit u) lanes dst
          false 1) ∧
    (∀ (c asid line : Nat) (l : Line), off / 2 ^ 51 = 1 → fits off → s.namesOf off = [(c, asid, line)] →
      s.findLine c asid line = some l → l.data.length = 128 → (∀ k, (s.slice k).spilled = []) →
      (s.mem.l2.get [] (setKey c line)).length < 16 → tagAsid asid (line * 128) = asid →
      let first := if l.dirty = true then s.writeFrame (off / 128 * 128) l else s
      let v := ((first.writeChannel off bs).soil asid (line * 128 + off % 128) bs.length).dropLine c asid line
      let old := if l.dirty = true then l.data else s.readPhys (off / 128 * 128) 128
      ∃ t : State, exec (.HOST_WRITE_INVALIDATE off bs) s = .next t ∧
        t.readPhys (off / 128 * 128) 128 = patch old (off % 128) bs ∧
        (∀ m, t.findLine c asid line = some m → m.dirty = false ∧
          ∀ f, m.frame = some f → m.data = t.readPhys f 128 ∧ m.poison = t.badPhys f) ∧
        ∀ level e at_, (v.lookup (v.dieOfSlice c) asid (line * 128)).1 = .leaf level e at_ →
          leafPeer e = false → leafFrameless e = false → leafPa level e (line * 128) = off / 128 * 128 →
          v.physOk (off / 128 * 128) = true →
          ∃ m : Line, t.findLine c asid line = some m ∧ m.frame = some (off / 128 * 128)) ∧
    (∀ island k, islandIndex island = some k →
      exec (.SOFT_ERROR (.corrected island)) s = .next { s with host := { s.host with
        corrected := s.host.corrected.set 0 k (s.host.corrected.get 0 k + 1) } }) ∧
    exec (.SOFT_ERROR (.frameLine off)) s = .next { s with mem := { s.mem with
      poisoned := s.mem.poisoned.set false (off / 128) true } } ∧
    (∀ asid line l, s.findLine (s.homeSlice asid (line * 128)) asid line = some l →
      ∃ t : State, exec (.SOFT_ERROR (.l2Line asid line)) s = .next t ∧
        t.findLine (s.homeSlice asid (line * 128)) asid line =
          if l.dirty = true ∨ leafFrameless l.leaf = true then some { l with poison := true } else none) ∧
    (∀ core asid line l, s.l1Find core asid line = some l →
      ∃ t : State, exec (.SOFT_ERROR (.l1Line core asid line)) s = .next t ∧
        t.l1Find core asid line =
          if s.bareLine (s.homeSlice asid (line * 128)) asid line = true then some { l with poison := true }
          else none) ∧
    (∀ core kib, (s.msq core).running = false → exec (.SOFT_ERROR (.accumulator core kib)) s =
      .next (s.setMsq core { s.msq core with poison := (s.msq core).poison.set false kib true }))

/-! ## Events: engines and draws (spec 16 R255, spec 17 R259, spec 18 R263 to R277, spec 23 R343) -/

/-- COPY_ELEMENT_COMMIT brings one 32-bit element of a copy without conversion from memory to its slot, which
counts the bytes; COLL_OPERATION finishes the oldest command of its queue, whose counter takes its number; one that
fails writes its number and its code to the queue's error word, and later ones run and finish while the counter stays
below the failed number (R255);
RESERVATION_GRANT meets the oldest request that can be met (the order is the model's choice, log entry 109), and
its unit goes on; ELEMENT_RETIRE discards the lines of the record and lowers the parent's count; PYRAMID_DROP
leaves no pyramid of the buffer, and a draw that goes on tests as if there were none (log entry 56). A copy without a
counter belongs to no queue (R296, R343). -/
def Obligations.EngineAndDrawEvents : Prop :=
  ∀ (s : State) (core ctx die q l e addr : Nat),
    let c := s.core core
    let d := s.draw l
    (∀ (p : Copy) (bs : List Byte),
      (c.copies.find? fun p => (s.group p.group).phase = .resident || p.ending
        || (p.committed && (s.group p.group).phase = .absent)) = some p →
      (s.group p.group).phase = .resident → p.ending = false → p.held = false → p.report = none →
      p.counter = 0 → p.dir = 0 → p.conv = 0 → p.pos + 1 < p.total → bs.length = 4 →
      s.ReqReads (s.copyReq core p p.memAt) bs →
      let g := s.group p.group
      let t0 := g.tiles.get {} p.tile
      p.tile < g.ntiles → t0.state = .filling → t0.fill = p.fill → t0.arrived + 4 < t0.expected →
      t0.failed = false →
      ∃ t : State, exec (.COPY_ELEMENT_COMMIT core) s = .next t ∧ SameBytes s t ∧
        (∃ p' ∈ (t.core core).copies, p' = { p with pos := p.pos + 1 }) ∧
        (t.group p.group).tiles.get {} p.tile = { t0 with arrived := t0.arrived + 4 } ∧
        (∀ j, j < 4 → (t.core g.core).scratch.get 0 (g.base + p.base + p.tileAt + j) = bs.getD j 0) ∧
        ∀ k, ¬(g.base + p.base + p.tileAt ≤ k ∧ k < g.base + p.base + p.tileAt + 4) →
          (t.core g.core).scratch.get 0 k = (s.core g.core).scratch.get 0 k) ∧
    (let k := (s.ctx ctx).collQs.get {} (die * 16 + q)
     let idle := (∀ f ∈ s.mem.faults, f.who ≠ .coll ctx die q) ∧ ∀ f ∈ s.mem.stalls, f.who ≠ .coll ctx die q
     ∀ (cmd : CollCmd) (rest : List CollCmd) (code : BitVec 8), k.cmds = cmd :: rest → idle →
      let run : EngineRun := { image := cmd.fw.image, accesses := [] }
      (k.stuck = true → exec (.COLL_OPERATION ctx die q run none) s =
        .next (s.setCtx ctx { s.ctx ctx with
          collQs := (s.ctx ctx).collQs.set {} (die * 16 + q) { k with finished := cmd.num, cmds := rest } })) ∧
      (k.stuck = false → k.counter % 8 = 0 →
        s.ReqWrites { ctx := ctx, asid := (s.ctx ctx).asid, va := k.counter } 8 →
        ∃ t : State, exec (.COLL_OPERATION ctx die q run none) s = .next t ∧
          (t.ctx ctx).collQs.get {} (die * 16 + q) = { k with finished := cmd.num, cmds := rest } ∧
          ∀ j, j < 8 → t.byteIn (s.reqSlice { ctx := ctx, asid := (s.ctx ctx).asid, va := k.counter })
            (tagAsid (s.ctx ctx).asid k.counter) (k.counter + j) = some ((leBytes cmd.num 8).getD j 0)) ∧
      ∃ t : State, exec (.COLL_OPERATION ctx die q run (some code)) s = .next t ∧
        (t.ctx ctx).collQs.get {} (die * 16 + q) =
          { k with finished := k.finished + 1, stuck := true, cmds := rest } ∧
        let place := (s.ctx ctx).block.toNat + 0x200 + die * 0x100 + q * 16 + 8
        let word := leBytes (k.finished + 1) 4 ++ leBytes code.toNat 4
        (s.localLine place = none → t.readPhys place 8 = word) ∧
        ∀ sl l, s.localLine place = some (sl, l) → l.data.length = 128 → place % 8 = 0 →
          ∃ m : Line, t.findLine sl l.asid l.va = some m ∧ m.dirty = true ∧
            m.data = patch l.data (place % 128) word) ∧
    (∀ (r : Request), (d.requests.find? fun r => !r.met && d.canMeet r.who r.rate r.n r.subs) = some r →
      (∀ u, r.who = .unit u → (s.unit u).park = .reserve →
        exec (.RESERVATION_GRANT l) s = .next ((s.setDraw l
          { d with requests := d.requests.map (fun x => if x = r then { x with met := true } else x)
                   used := d.used + (r.n * d.recSize r.rate + r.subs * d.recSize .S) }).setUnit u
                     { s.unit u with park := .none, turnAt := (s.core (s.unit u).core).cycle })) ∧
      (∀ p, r.who = .prim p → exec (.RESERVATION_GRANT l) s = exec (.RASTERISE_PRIMITIVE l p) s)) ∧
    (s.drawOf e = some l → s.canRetire l e = true → s.mem.stalls = [] →
      ((d.elem e).rate ∈ [.C, .V] ∨ (d.elem e).rate = .S ∧ d.puts ≠ []) →
      d.objects = (s.launch l).form.count →
      ∃ t : State, exec (.ELEMENT_RETIRE e) s = .next t ∧ t.ctxs = s.ctxs ∧ t.cores = s.cores ∧
        (let d' := t.draw l
         d' = { d with elems := d'.elems, used := d.used - d.recSize (d.elem e).rate } ∧
         ((d.elem e).parent ≠ e →
           d'.elem e = { d.elem e with phase := .retired, lines := [], init := [], staged := none } ∧
           d'.elem (d.elem e).parent =
             { d.elem (d.elem e).parent with count := (d.elem (d.elem e).parent).count - 1 }) ∧
         ∀ x, x ≠ e → x ≠ (d.elem e).parent → d'.elem x = d.elem x) ∧
        ∀ o ∈ (d.elem e).lines, (d.blk.area + o) % 128 = 0 →
          ∀ n, t.findLine n (tagAsid (s.ctx (s.launch l).ctx).asid (d.blk.area + o)) ((d.blk.area + o) / 128)
            = none) ∧
    ∃ t : State, exec (.PYRAMID_DROP die addr) s = .next t ∧ t.cores = s.cores ∧ t.ctxs = s.ctxs ∧
      t.mem = { s.mem with pyramids := s.mem.pyramids.filter fun p => !(p.die = die && p.addr = addr) } ∧
      (∀ n, ∀ p ∈ (t.launch n).seen, ¬(p.die = die ∧ p.addr = addr)) ∧
      ∀ n p, (t.draw n).pyramid = some p → ¬(p.die = die ∧ p.addr = addr)

/-- RATE_WAVE_START puts up to 32 elements of one rate and path into a new wave of a granted core, where no element
of a finer rate could start and nothing comes before it on the core; RASTERISE_PRIMITIVE leaves a primitive that can
produce nothing rasterised, and of a primitive's last coarse pixel, with its tests off, makes the P element and the
S elements of its covered samples (spec 07 R124, spec 18 R263, R272 to R276). -/
def Obligations.WavesAndPixels : Prop :=
  ∀ (s : State) (l core p : Nat) (r : Rate),
    let d := s.draw l
    let la := s.launch l
    (∀ (es : List Nat) (as : List Alloc) (base : Nat), d.live = true → la.phase = .started →
      la.cancelled = false → d.startables r = es → es ≠ [] →
      (∀ q, r.code < q.code → d.startables q = []) → la.form.grants core = true →
      s.preempting core la.ctx = false → (s.core core).pool = [] →
      let s1 := s.offerPool core
      s1.returning = [] → (∀ m ∈ s1.waiting, ¬s1.launchKey m < s1.launchKey l) →
      (∀ g, (s.group g).launch = l → ∀ u ∈ s.unitsOf g, (s.unit u).rate ≠ .K) →
      (s1.openCore l core).1 = true →
      let v := (s1.openCore l core).2
      (v.room core).place { waves := 1, regs := la.form.regs, scratch := 0, tiles := 0 } = some (as, base) →
      let wave := (es.filter fun x => d.pathsOf x = d.pathsOf (es.headD 0)).take 32
      ∃ t : State, exec (.RATE_WAVE_START l r core) s = .next t ∧
        (t.group v.seq).phase = .resident ∧ (t.group v.seq).core = core ∧ (t.group v.seq).launch = l ∧
        (let w := t.unit (v.seq + 1)
         w.live = true ∧ w.group = v.seq ∧ w.rate = r ∧ w.elems = wave ∧ w.o = w.x ∧
           w.pc = BitVec.ofNat 64 la.form.entry ∧
           ∀ i, i < 32 → inMask w.x i = decide (i < wave.length)) ∧
        ∀ x ∈ wave, ((t.draw l).elem x).phase = .running ∧ ((t.draw l).elem x).home = v.seq) ∧
    (let q : Prim := d.prims.get {} p
     let word := fun i k : Nat => ((s.peekSlots l ((d.cornersOf q).flatMap d.posSlots) []).1.getD (4 * i + k) 0).toNat
     let screen := fun k i : Nat => rDiv (word i k) (word i 3)
     let able := produces (screen 0) (screen 1) (screen 2) fun i => word i 3
     let b := d.blk
     let ras := Instr.RASTERISE_PRIMITIVE l p
     let apart := q.i0 ≠ q.i1 ∧ q.i1 ≠ q.i2 ∧ q.i0 ≠ q.i2
     d.live = true → q.live = true → q.judged = true → q.rastered = false → la.cancelled = false →
      (∀ v ∈ d.cornersOf q, (d.elem v).phase = .exited ∨ (d.elem v).phase = .retired) → d.hasZwr = false →
      b.tests = false → b.writes = false →
      (able = false ∨ ¬apart → ∃ t : State, exec ras s = .next t ∧
        ((t.draw l).prims.get {} p).rastered = true ∧
        (∀ e, ((t.draw l).elem e).phase = (d.elem e).phase) ∧
        (q.count = 0 → ((t.draw l).prims.get {} p).finished = true) ∧ t.mem = s.mem) ∧
      (∀ xs : List (Nat × Nat × Nat × Nat × Nat), able = true → apart → b.sppCode < 4 → s.tainted l = false →
        q.next + 1 = b.coarseAll → q.tested = [] → q.count = 0 → d.requests = [] →
        let c := (q.next % b.coarseRow * b.cw, q.next / b.coarseRow * b.ch)
        coveredAt b (screen 0) (screen 1) (screen 2) c.1 c.2 = xs → xs ≠ [] → d.fits .P 1 = true →
        ({ d with used := d.used + d.recSize .P } : Draw).fits .S xs.length = true → q.cluster < s.seq →
        ∃ (t : State) (at_ : Nat → Nat), exec ras s = .next t ∧
          (∀ n, n ≠ l → t.draw n = s.draw n) ∧ t.work.units = s.work.units ∧ t.work.groups = s.work.groups ∧
          (let x := (t.draw l).elem s.seq
           x = { rate := .P, parent := q.cluster, prim := p, object := (d.elem q.cluster).object
                 cov := (xs.map fun x => 2 ^ x.1).sum, px := c.1, py := c.2, order := s.seq
                 count := xs.length, phase := if d.formsWaves .P then .ready else .exited
                 lines := x.lines, init := x.init, staged := x.staged }) ∧
          (∀ i, i < xs.length → s.seq < at_ i ∧ (∀ j, j < i → at_ j < at_ i) ∧
            (let y := xs.getD i (0, 0, 0, 0, 0)
             let x := (t.draw l).elem (at_ i)
             x = { rate := .S, parent := s.seq, prim := p, object := (d.elem q.cluster).object
                   cov := 2 ^ y.1, px := y.2.1, py := y.2.2.1, sample := y.2.2.2.1, order := at_ i
                   phase := if d.formsWaves .S then .ready else .exited
                   lines := x.lines, init := x.init, staged := x.staged })) ∧
          (t.draw l).passed = d.passed + xs.length ∧
          (t.draw l).used = d.used + d.recSize .P + xs.length * d.recSize .S ∧
          (t.draw l).samples.length = d.samples.length + xs.length ∧
          ((t.draw l).prims.get {} p).rastered = true ∧ ((t.draw l).prims.get {} p).count = 1))
/-! ## Reset, steps and encodings (spec 03, spec 16 R249) -/

/-- After reset the device reads RESET with no failure, no context is enabled, no wave, group, launch or job
exists, no bank of a matrix sequencer is loaded and none runs a program, and cycle counts stand at 0 (spec
16 R249, spec 22 R312, spec 08 R141); memory lists nothing, so that every byte reads as log entry 5 says,
and is in its canonical form. What the spec does not give is the model's choice (log entries 2 to 5). -/
def Obligations.ResetLeavesNothingRunning : Prop :=
  let s := State.reset
  s.host.bringUp = .reset ∧ s.host.cause = 0 ∧ (∀ c, (s.ctx c).enabled = false) ∧
  (∀ u, (s.unit u).live = false) ∧ (∀ l, s.launch l = {}) ∧ (∀ g, s.group g = {}) ∧
  (∀ j, s.work.jobs.get {} j = {} ∧ s.work.jobLevels.get {} j = {}) ∧ (∀ c, (s.ctx c).inbox = []) ∧
  (∀ c b, ((s.msq c).banks.get {} b).loaded = false ∧ (s.msq c).running = false) ∧
  (∀ c, (s.core c).cycle = 0) ∧ (∀ n, (s.slice n).cycle = 0) ∧
  (∀ a n, s.readPhys a n = List.replicate n 0) ∧ Memory.wf s.mem.phys = true

/-- A step runs the decoded instruction. Where the agenda offers a unit that is ready, comes first in its partition
and has no trap waiting, outside draws, and the instruction cache of its core holds the line at its pc, whose words
there decode to an instruction, the step is the execution of that instruction on the state in which the core's
cycle has advanced, the unit has had its turn and the rest of the line has been fetched ahead; then a parked
wave of a stopping group stops. Where the fetch comes from elsewhere, the step is the execution of what it gives. A
turn of a matrix sequencer runs the word that it had fetched, or else the one that it fetches, and an event of the
agenda is performed as it is; after both, units that waited at their next instruction try again and a pre-emption
request that this has honoured is out of force (spec 03 R41, R60, spec 06 R112, spec 07 R125, spec 22 R313; the order
of turns is log entry 1, the fetch ahead log entry 19). -/
def Obligations.AStepRunsTheDecodedInstruction : Prop :=
  ∀ (s : State) (u : Nat) (i : Instr) (rest : List Turn),
    let x := s.unit u
    let va := x.pc.toNat
    let k := s.core x.core
    let offered : State :=
      { (({ s with agenda := rest } : State).setCore x.core { k with cycle := k.cycle + 1 }).setUnit u
          { x with turnAt := k.cycle + 1 } with cur := u }
    let done := fun v : State =>
      ({ v with mem := { v.mem with stalls := v.mem.stalls.filter fun t => t.who ≠ .fetch u
                                    faults := v.mem.faults.filter fun f => f.who ≠ .fetch u
                                    peerOut := v.mem.peerOut.filter fun m => m.who ≠ .fetch u } } : State)
    (s.agenda = .unit u :: rest → s.ready u = true → s.isFirst u = true → x.trapNext = none →
      (s.draw x.launch).live = false →
      (∀ line : List Byte,
        let word := fun j => BitVec.ofNat 64 (leNat ((line.drop (va % 128 + 8 * j)).take 8))
        let size := if hasExt (word 0) then 16 else 8
        (∀ e ∈ x.ahead, e.1 ≠ va) → line.length = 128 → va % 8 = 0 → va % 128 + size ≤ 128 →
        s.mem.icache.get [] (x.core * 2 ^ 65 + lineKey (tagAsid (s.ctx x.ctx).asid va) (va / 128)) = line →
        decode (word 0) (word 1) = .ok i → s.tableConds x i = [] →
        step s = settleTurn x.group (exec i (done (offered.setUnit u { x with
          turnAt := k.cycle + 1, ahead := (wordsFrom va line).filter fun e => va + size ≤ e.1 })))) ∧
      ∀ (w next : DWord) (v : State), offered.fetchInstr u = (.words w next, v) →
        v.decodeFor u w next = .ok i → v.cur = u → step s = settleTurn x.group (exec i (done v))) ∧
    (∀ (c : Nat) (w : DWord) (v : State), s.agenda = .msq c :: rest → (s.msq c).errRec = none →
      (s.msq c).runs = true → decodeMsq w = .ok i →
      let at_ : State := { ({ s with agenda := rest } : State).setMsq c
        { s.msq c with turnAt := (s.core c).cycle } with curMsq := c }
      ((s.msq c).inWord = true → w = (s.msq c).word → step s = settleEvent (exec i at_)) ∧
      ((s.msq c).inWord = false → at_.msqFetch c = (.word w, v) → step s = settleEvent (exec i v))) ∧
    (s.agenda = .event i :: rest → encode i = [] → step s = settleEvent (exec i { s with agenda := rest }))

/-- Words that the spec writes out decode to the instructions that they stand for, a sanity check over the
families: control, branches, lanes, crossing lanes, memory, waiting (a waitu with and without a limit in the extension
word, and sleep), work, draws, tiles and matrix words (the words are the spec's own, spec 01 to spec 23, but for those
of spawn and launch, which are written out from the fields of spec 03 R49 and R63). -/
def Obligations.TheSpecsWordsDecode : Prop :=
  let h : Head := { gate := false, rate := .K, guard := 0, gneg := false, hints := 0 }
  decode 0x0000_0100_0000_0000 0 = .ok (.TRET h) ∧
  decode 0x048C_0000_0000_0005 0 = .ok (.BRA { h with rate := .O, guard := 3 } 5) ∧
  decode 0x3400_0070_8090_5718 0 = .ok (.BFE h
    { d := 7, a := 8, b := 9, c := 5, ty := .i32, imm := true, mod := 0, ext := none }) ∧
  decode 0x8C00_00B0_A000_0003 0 = .ok (.SCAN_ADD h
    { d := 11, a := 10, b := 0, c := 0, ty := .n32, imm := false, mod := 3, ext := none }) ∧
  decode 0x9C00_0040_700A_0000 0 = .ok (.ST h
    { data := 4, addr := { base := 3, idx := true, index := 0, scl := true, disp := 0 }
      size := .b32, order := .weak, obs := 0 }) ∧
  decode 0xB800_00C1_E1C1_A900 0 = .ok (.WAITU h
    { d := 12, base := 15, operand := 14, limit := 13, cmp := .ge, signed := false, wide := true, disp := 0
      ext := none }) ∧
  decode 0xB801_0060_20A0_0000 0x1000 = .ok (.WAITU h
    { d := 6, base := 1, operand := 5, limit := 0, cmp := .eq, signed := false, wide := false, disp := 0
      ext := some 0x1000 }) ∧
  decode 0xBC00_0004_0000_0008 0 = .ok (.SLEEP h
    { d := 0, a := 64, b := 0, c := 0, ty := .n32, imm := true, mod := 0, ext := none }) ∧
  decode 0xBC00_0090_4000_2108 0 = .ok (.SPAWN h
    { d := 9, a := 4, b := 0, c := 2, ty := .n32, imm := true, mod := 0, ext := none }) ∧
  decode 0xBC00_0090_4000_0200 0 = .ok (.LAUNCH h
    { d := 9, a := 4, b := 0, c := 0, ty := .n32, imm := false, mod := 0, ext := none }) ∧
  decode 0xC980_0000_5000_0260 0 = .ok (.ZWR { h with rate := .S }
    { d := 0, a := 5, b := 0, c := 0, ty := .f32, imm := false, mod := 0, ext := none }) ∧
  decode 0xD001_0001_4000_3008 0x2000 = .ok (.TARM h
    { d := 0, a := 20, b := 0, c := 3, ty := .n32, imm := true, mod := 0, ext := some 0x2000 }) ∧
  decodeMsq 0x0400_0000_0000_0000 = .ok .MNOP ∧
  decodeMsq 0x0C42_0800_0000_0000 = .ok (.MADD { d := 2, a := 2, b := 1, imm := false, value := 0 }) ∧
  decodeMsq 0x4443_0000_FFFF_FFFE = .ok (.MBNE { a := 2, b := 3, off := 0xFFFF_FFFE })

/-- Decoding the bytes of a well-formed instruction gives it back, with what follows it: of every wave
instruction, its words in memory order, each with its least significant byte first; and of every matrix
word. No bit of an encoding is dropped (spec 03 R39 to R67). -/
def Obligations.DecodingUndoesEncoding : Prop :=
  ∀ i : Instr, WellFormed i →
    (∀ h, i.head? = some h → ∀ rest : List Byte,
      decodeBytes ((encode i).flatMap (fun w => leBytes w.toNat 8) ++ rest) = some (.ok i, rest)) ∧
    (i.head? = none → encode i ≠ [] → ∃ w : DWord, encode i = [w] ∧ decodeMsq w = .ok i)

/-- Every word that decodes has one meaning, and only one word has it: what decodes is well formed, and its
encoding is the word that it came from, with its extension word where bit 48 is set (spec 03 R39 to R67). -/
def Obligations.EveryWordHasOneMeaning : Prop :=
  (∀ (w next : DWord) (i : Instr), decode w next = .ok i →
    WellFormed i ∧ encode i = if hasExt w then [w, next] else [w]) ∧
  ∀ (w : DWord) (i : Instr), decodeMsq w = .ok i → WellFormed i ∧ encode i = [w]

/-- Every step of the device keeps physical memory in its canonical form: its addresses rise strictly, and no
entry equals what an unlisted byte reads as (log entry 5). -/
def Obligations.StepsKeepMemoryCanonical : Prop :=
  ∀ s t : State, Memory.wf s.mem.phys = true → step s = .next t → Memory.wf t.mem.phys = true
end

