-- ==== Sys2Proof/Laws/AMap.lean ====
section
/-!
SUPPORT. The laws of the sparse maps: reading after writing, writing twice, and that every operation
keeps the canonical form.
-/

namespace Sys2Proof

variable {β : Type}

/-! ## Reading after writing -/

theorem AMap.get_erase_same (m : AMap β) (d : β) (k : Nat) : (m.erase k).get d k = d := by
  induction m with
  | nil => rfl
  | cons e t ih =>
    simp only [AMap.erase]
    split
    · exact ih
    · simp only [AMap.get]
      rw [if_neg ‹_›]
      exact ih

theorem AMap.get_erase_other (m : AMap β) (d : β) (k j : Nat) (h : j ≠ k) :
    (m.erase k).get d j = m.get d j := by
  induction m with
  | nil => rfl
  | cons e t ih =>
    simp only [AMap.erase]
    split
    · simp only [AMap.get]
      rw [ih, if_neg (by omega)]
    · simp only [AMap.get, ih]

theorem AMap.get_insert_same (m : AMap β) (d : β) (k : Nat) (v : β) :
    ((m.erase k).insert k v).get d k = v := by
  induction m with
  | nil => simp [AMap.erase, AMap.insert, AMap.get]
  | cons e t ih =>
    simp only [AMap.erase]
    split
    · exact ih
    · simp only [AMap.insert]
      split
      · simp [AMap.get]
      · simp only [AMap.get]
        rw [if_neg ‹_›]
        exact ih

theorem AMap.get_insert_other (m : AMap β) (d : β) (k j : Nat) (v : β) (h : j ≠ k) :
    (m.insert k v).get d j = m.get d j := by
  induction m with
  | nil => simp [AMap.insert, AMap.get, Ne.symm h]
  | cons e t ih =>
    simp only [AMap.insert]
    split
    · simp [AMap.get, Ne.symm h]
    · simp only [AMap.get, ih]

/-- A key that is not listed reads as the default. -/
theorem AMap.get_of_not_mem (m : AMap β) (d : β) (k : Nat) (h : k ∉ m.keys) : m.get d k = d := by
  induction m with
  | nil => rfl
  | cons e t ih =>
    simp only [AMap.keys, List.map_cons, List.mem_cons, not_or] at h
    simp only [AMap.get]
    rw [if_neg (Ne.symm h.1)]
    exact ih h.2

@[simp] theorem AMap.get_nil (d : β) (k : Nat) : AMap.get ([] : AMap β) d k = d := rfl

theorem AMap.erase_erase (m : AMap β) (k : Nat) : (m.erase k).erase k = m.erase k := by
  induction m with
  | nil => rfl
  | cons e t ih =>
    simp only [AMap.erase]
    split
    · exact ih
    · simp only [AMap.erase]
      rw [if_neg ‹_›, ih]

theorem AMap.erase_insert (m : AMap β) (k : Nat) (v : β) :
    ((m.erase k).insert k v).erase k = m.erase k := by
  induction m with
  | nil => simp [AMap.erase, AMap.insert]
  | cons e t ih =>
    simp only [AMap.erase]
    split
    · exact ih
    · simp only [AMap.insert]
      split
      · simp only [AMap.erase, if_true]
        rw [if_neg ‹_›, AMap.erase_erase]
      · simp only [AMap.erase]
        rw [if_neg ‹_›, ih]

variable [DecidableEq β]

@[simp] theorem AMap.get_set_same (m : AMap β) (d : β) (k : Nat) (v : β) :
    (m.set d k v).get d k = v := by
  unfold AMap.set
  split
  · rw [AMap.get_erase_same, ‹v = d›]
  · exact AMap.get_insert_same m d k v

theorem AMap.get_set_other (m : AMap β) (d : β) (k j : Nat) (v : β) (h : j ≠ k) :
    (m.set d k v).get d j = m.get d j := by
  unfold AMap.set
  split
  · exact AMap.get_erase_other m d k j h
  · rw [AMap.get_insert_other _ _ _ _ _ h, AMap.get_erase_other m d k j h]

theorem AMap.get_set (m : AMap β) (d : β) (k j : Nat) (v : β) :
    (m.set d k v).get d j = if j = k then v else m.get d j := by
  split
  · rw [‹j = k›, AMap.get_set_same]
  · exact AMap.get_set_other m d k j v ‹_›

/-! ## Writing twice -/

@[simp] theorem AMap.set_set (m : AMap β) (d : β) (k : Nat) (v w : β) :
    (m.set d k v).set d k w = m.set d k w := by
  have h : (m.set d k v).erase k = m.erase k := by
    unfold AMap.set
    split
    · exact AMap.erase_erase m k
    · exact AMap.erase_insert m k v
  unfold AMap.set at h ⊢
  rw [h]

/-! ## The canonical form -/

theorem AMap.wfFrom_mono (d : β) (m : AMap β) (lo lo' : Nat) (h : lo' ≤ lo)
    (hw : AMap.wfFrom d lo m = true) : AMap.wfFrom d lo' m = true := by
  cases m with
  | nil => rfl
  | cons e t =>
    simp only [AMap.wfFrom, Bool.and_eq_true, decide_eq_true_eq] at hw ⊢
    exact ⟨⟨by omega, hw.1.2⟩, hw.2⟩

theorem AMap.wfFrom_erase (d : β) (m : AMap β) (lo k : Nat) (hw : AMap.wfFrom d lo m = true) :
    AMap.wfFrom d lo (m.erase k) = true := by
  induction m generalizing lo with
  | nil => rfl
  | cons e t ih =>
    simp only [AMap.wfFrom, Bool.and_eq_true, decide_eq_true_eq] at hw
    simp only [AMap.erase]
    split
    · exact AMap.wfFrom_mono d _ _ _ (by omega) (ih _ hw.2)
    · simp only [AMap.wfFrom, Bool.and_eq_true, decide_eq_true_eq]
      exact ⟨hw.1, ih _ hw.2⟩

theorem AMap.wfFrom_insert (d : β) (m : AMap β) (lo k : Nat) (v : β) (hk : lo ≤ k) (hv : v ≠ d)
    (hw : AMap.wfFrom d lo m = true) : AMap.wfFrom d lo ((m.erase k).insert k v) = true := by
  induction m generalizing lo with
  | nil => simp [AMap.erase, AMap.insert, AMap.wfFrom, hk, hv]
  | cons e t ih =>
    simp only [AMap.wfFrom, Bool.and_eq_true, decide_eq_true_eq] at hw
    simp only [AMap.erase]
    split
    · exact ih _ hk (AMap.wfFrom_mono d _ _ _ (by omega) hw.2)
    · simp only [AMap.insert]
      split
      · simp only [AMap.wfFrom, Bool.and_eq_true, decide_eq_true_eq]
        exact ⟨⟨hk, hv⟩, ⟨⟨by omega, hw.1.2⟩, AMap.wfFrom_erase d t _ k hw.2⟩⟩
      · simp only [AMap.wfFrom, Bool.and_eq_true, decide_eq_true_eq]
        exact ⟨hw.1, ih _ (by omega) hw.2⟩

/-- A write keeps the canonical form. -/
theorem AMap.wf_set (m : AMap β) (d : β) (k : Nat) (v : β) (hw : m.wf d = true) :
    (m.set d k v).wf d = true := by
  unfold AMap.set AMap.wf
  split
  · exact AMap.wfFrom_erase d m 0 k hw
  · exact AMap.wfFrom_insert d m 0 k v (by omega) ‹_› hw

theorem AMap.wf_setRange (m : AMap β) (d : β) (k : Nat) (vs : List β) (hw : m.wf d = true) :
    (m.setRange d k vs).wf d = true := by
  induction vs generalizing m k with
  | nil => exact hw
  | cons v vs ih => exact ih _ _ (AMap.wf_set m d k v hw)

theorem AMap.wfFrom_keep (d : β) (m : AMap β) (p : Nat → β → Bool) (lo : Nat)
    (hw : AMap.wfFrom d lo m = true) : AMap.wfFrom d lo (m.keep p) = true := by
  induction m generalizing lo with
  | nil => rfl
  | cons e t ih =>
    simp only [AMap.wfFrom, Bool.and_eq_true, decide_eq_true_eq] at hw
    have := ih _ hw.2
    simp only [AMap.keep, List.filter_cons] at this ⊢
    split
    · simp only [AMap.wfFrom, Bool.and_eq_true, decide_eq_true_eq]
      exact ⟨hw.1, this⟩
    · exact AMap.wfFrom_mono d _ _ _ (by omega) this

/-- Keeping some entries keeps the canonical form. -/
theorem AMap.wf_keep (m : AMap β) (d : β) (p : Nat → β → Bool) (hw : m.wf d = true) :
    (m.keep p).wf d = true := AMap.wfFrom_keep d m p 0 hw

theorem AMap.wfFrom_mapVals (d : β) (m : AMap β) (f : Nat → β → β) (lo : Nat)
    (hw : AMap.wfFrom d lo m = true) : AMap.wfFrom d lo (m.mapVals d f) = true := by
  induction m generalizing lo with
  | nil => rfl
  | cons e t ih =>
    simp only [AMap.wfFrom, Bool.and_eq_true, decide_eq_true_eq] at hw
    simp only [AMap.mapVals]
    split
    · exact AMap.wfFrom_mono d _ _ _ (by omega) (ih _ hw.2)
    · simp only [AMap.wfFrom, Bool.and_eq_true, decide_eq_true_eq]
      exact ⟨⟨hw.1.1, ‹_›⟩, ih _ hw.2⟩

/-- Rewriting every entry keeps the canonical form. -/
theorem AMap.wf_mapVals (m : AMap β) (d : β) (f : Nat → β → β) (hw : m.wf d = true) :
    (m.mapVals d f).wf d = true := AMap.wfFrom_mapVals d m f 0 hw

/-- A range that is written reads outside it as before. -/
theorem AMap.get_setRange_other (m : AMap β) (d : β) (k j : Nat) (vs : List β)
    (h : j < k ∨ k + vs.length ≤ j) : (m.setRange d k vs).get d j = m.get d j := by
  induction vs generalizing m k with
  | nil => rfl
  | cons v vs ih =>
    simp only [List.length_cons] at h
    simp only [AMap.setRange]
    rw [ih _ _ (by omega), AMap.get_set_other _ _ _ _ _ (by omega)]

/-- A range that is written reads back what was written. -/
theorem AMap.get_setRange_same (m : AMap β) (d : β) (k i : Nat) (vs : List β) (h : i < vs.length) :
    (m.setRange d k vs).get d (k + i) = vs.getD i d := by
  induction vs generalizing m k i with
  | nil => simp at h
  | cons v vs ih =>
    simp only [AMap.setRange]
    cases i with
    | zero =>
      rw [AMap.get_setRange_other _ _ _ _ _ (by omega)]
      simp
    | succ i =>
      have := ih (m.set d k v) (k + 1) i (by simpa using h)
      rw [show k + (i + 1) = k + 1 + i by omega, this]
      simp

end Sys2Proof
end

