-- ==== Sys2Proof/Laws/State.lean ====
section
/-!
SUPPORT. What each update of a part of the state leaves in every field, and reading a part after
writing it.
-/

namespace Sys2Proof.Machine

open Sys2Proof

/-! ## setCore -/

@[simp] theorem State.core_setCore_same (s : State) (n : Nat) (v : Core) : (s.setCore n v).core n = v :=
  AMap.get_set_same _ _ _ _

theorem State.core_setCore_other (s : State) (n : Nat) (v : Core) (m : Nat) (h : m ≠ n) :
    (s.setCore n v).core m = s.core m := AMap.get_set_other _ _ _ _ _ h

theorem State.core_setCore (s : State) (n : Nat) (v : Core) (m : Nat) :
    (s.setCore n v).core m = if m = n then v else s.core m := AMap.get_set _ _ _ _ _

@[simp] theorem State.setCore_setCore (s : State) (n : Nat) (v w : Core) :
    (s.setCore n v).setCore n w = s.setCore n w := by
  simp [State.setCore]

@[simp] theorem State.ctx_setCore (s : State) (n : Nat) (v : Core) (m : Nat) :
    (s.setCore n v).ctx m = s.ctx m := rfl
@[simp] theorem State.unit_setCore (s : State) (n : Nat) (v : Core) (m : Nat) :
    (s.setCore n v).unit m = s.unit m := rfl
@[simp] theorem State.group_setCore (s : State) (n : Nat) (v : Core) (m : Nat) :
    (s.setCore n v).group m = s.group m := rfl
@[simp] theorem State.launch_setCore (s : State) (n : Nat) (v : Core) (m : Nat) :
    (s.setCore n v).launch m = s.launch m := rfl
@[simp] theorem State.draw_setCore (s : State) (n : Nat) (v : Core) (m : Nat) :
    (s.setCore n v).draw m = s.draw m := rfl
@[simp] theorem State.slice_setCore (s : State) (n : Nat) (v : Core) (m : Nat) :
    (s.setCore n v).slice m = s.slice m := rfl
@[simp] theorem State.die_setCore (s : State) (n : Nat) (v : Core) (m : Nat) :
    (s.setCore n v).die m = s.die m := rfl
@[simp] theorem State.mem_setCore (s : State) (n : Nat) (v : Core) : (s.setCore n v).mem = s.mem := rfl
@[simp] theorem State.work_setCore (s : State) (n : Nat) (v : Core) : (s.setCore n v).work = s.work := rfl
@[simp] theorem State.ctxs_setCore (s : State) (n : Nat) (v : Core) : (s.setCore n v).ctxs = s.ctxs := rfl
@[simp] theorem State.host_setCore (s : State) (n : Nat) (v : Core) : (s.setCore n v).host = s.host := rfl
@[simp] theorem State.agenda_setCore (s : State) (n : Nat) (v : Core) : (s.setCore n v).agenda = s.agenda := rfl
@[simp] theorem State.cur_setCore (s : State) (n : Nat) (v : Core) : (s.setCore n v).cur = s.cur := rfl
@[simp] theorem State.curMsq_setCore (s : State) (n : Nat) (v : Core) : (s.setCore n v).curMsq = s.curMsq := rfl
@[simp] theorem State.freeCount_setCore (s : State) (n : Nat) (v : Core) : (s.setCore n v).freeCount = s.freeCount := rfl
@[simp] theorem State.seq_setCore (s : State) (n : Nat) (v : Core) : (s.setCore n v).seq = s.seq := rfl

/-! ## setCtx -/

@[simp] theorem State.ctx_setCtx_same (s : State) (n : Nat) (v : Ctx) : (s.setCtx n v).ctx n = v :=
  AMap.get_set_same _ _ _ _

theorem State.ctx_setCtx_other (s : State) (n : Nat) (v : Ctx) (m : Nat) (h : m ≠ n) :
    (s.setCtx n v).ctx m = s.ctx m := AMap.get_set_other _ _ _ _ _ h

theorem State.ctx_setCtx (s : State) (n : Nat) (v : Ctx) (m : Nat) :
    (s.setCtx n v).ctx m = if m = n then v else s.ctx m := AMap.get_set _ _ _ _ _

@[simp] theorem State.setCtx_setCtx (s : State) (n : Nat) (v w : Ctx) :
    (s.setCtx n v).setCtx n w = s.setCtx n w := by
  simp [State.setCtx]

@[simp] theorem State.core_setCtx (s : State) (n : Nat) (v : Ctx) (m : Nat) :
    (s.setCtx n v).core m = s.core m := rfl
@[simp] theorem State.unit_setCtx (s : State) (n : Nat) (v : Ctx) (m : Nat) :
    (s.setCtx n v).unit m = s.unit m := rfl
@[simp] theorem State.group_setCtx (s : State) (n : Nat) (v : Ctx) (m : Nat) :
    (s.setCtx n v).group m = s.group m := rfl
@[simp] theorem State.launch_setCtx (s : State) (n : Nat) (v : Ctx) (m : Nat) :
    (s.setCtx n v).launch m = s.launch m := rfl
@[simp] theorem State.draw_setCtx (s : State) (n : Nat) (v : Ctx) (m : Nat) :
    (s.setCtx n v).draw m = s.draw m := rfl
@[simp] theorem State.slice_setCtx (s : State) (n : Nat) (v : Ctx) (m : Nat) :
    (s.setCtx n v).slice m = s.slice m := rfl
@[simp] theorem State.die_setCtx (s : State) (n : Nat) (v : Ctx) (m : Nat) :
    (s.setCtx n v).die m = s.die m := rfl
@[simp] theorem State.mem_setCtx (s : State) (n : Nat) (v : Ctx) : (s.setCtx n v).mem = s.mem := rfl
@[simp] theorem State.work_setCtx (s : State) (n : Nat) (v : Ctx) : (s.setCtx n v).work = s.work := rfl
@[simp] theorem State.cores_setCtx (s : State) (n : Nat) (v : Ctx) : (s.setCtx n v).cores = s.cores := rfl
@[simp] theorem State.host_setCtx (s : State) (n : Nat) (v : Ctx) : (s.setCtx n v).host = s.host := rfl
@[simp] theorem State.agenda_setCtx (s : State) (n : Nat) (v : Ctx) : (s.setCtx n v).agenda = s.agenda := rfl
@[simp] theorem State.cur_setCtx (s : State) (n : Nat) (v : Ctx) : (s.setCtx n v).cur = s.cur := rfl
@[simp] theorem State.curMsq_setCtx (s : State) (n : Nat) (v : Ctx) : (s.setCtx n v).curMsq = s.curMsq := rfl
@[simp] theorem State.freeCount_setCtx (s : State) (n : Nat) (v : Ctx) : (s.setCtx n v).freeCount = s.freeCount := rfl
@[simp] theorem State.seq_setCtx (s : State) (n : Nat) (v : Ctx) : (s.setCtx n v).seq = s.seq := rfl

/-! ## setUnit -/

@[simp] theorem State.unit_setUnit_same (s : State) (n : Nat) (v : Wave) : (s.setUnit n v).unit n = v :=
  AMap.get_set_same _ _ _ _

theorem State.unit_setUnit_other (s : State) (n : Nat) (v : Wave) (m : Nat) (h : m ≠ n) :
    (s.setUnit n v).unit m = s.unit m := AMap.get_set_other _ _ _ _ _ h

theorem State.unit_setUnit (s : State) (n : Nat) (v : Wave) (m : Nat) :
    (s.setUnit n v).unit m = if m = n then v else s.unit m := AMap.get_set _ _ _ _ _

@[simp] theorem State.setUnit_setUnit (s : State) (n : Nat) (v w : Wave) :
    (s.setUnit n v).setUnit n w = s.setUnit n w := by
  simp [State.setUnit]

@[simp] theorem State.core_setUnit (s : State) (n : Nat) (v : Wave) (m : Nat) :
    (s.setUnit n v).core m = s.core m := rfl
@[simp] theorem State.ctx_setUnit (s : State) (n : Nat) (v : Wave) (m : Nat) :
    (s.setUnit n v).ctx m = s.ctx m := rfl
@[simp] theorem State.group_setUnit (s : State) (n : Nat) (v : Wave) (m : Nat) :
    (s.setUnit n v).group m = s.group m := rfl
@[simp] theorem State.launch_setUnit (s : State) (n : Nat) (v : Wave) (m : Nat) :
    (s.setUnit n v).launch m = s.launch m := rfl
@[simp] theorem State.draw_setUnit (s : State) (n : Nat) (v : Wave) (m : Nat) :
    (s.setUnit n v).draw m = s.draw m := rfl
@[simp] theorem State.slice_setUnit (s : State) (n : Nat) (v : Wave) (m : Nat) :
    (s.setUnit n v).slice m = s.slice m := rfl
@[simp] theorem State.die_setUnit (s : State) (n : Nat) (v : Wave) (m : Nat) :
    (s.setUnit n v).die m = s.die m := rfl
@[simp] theorem State.mem_setUnit (s : State) (n : Nat) (v : Wave) : (s.setUnit n v).mem = s.mem := rfl
@[simp] theorem State.cores_setUnit (s : State) (n : Nat) (v : Wave) : (s.setUnit n v).cores = s.cores := rfl
@[simp] theorem State.ctxs_setUnit (s : State) (n : Nat) (v : Wave) : (s.setUnit n v).ctxs = s.ctxs := rfl
@[simp] theorem State.host_setUnit (s : State) (n : Nat) (v : Wave) : (s.setUnit n v).host = s.host := rfl
@[simp] theorem State.agenda_setUnit (s : State) (n : Nat) (v : Wave) : (s.setUnit n v).agenda = s.agenda := rfl
@[simp] theorem State.cur_setUnit (s : State) (n : Nat) (v : Wave) : (s.setUnit n v).cur = s.cur := rfl
@[simp] theorem State.curMsq_setUnit (s : State) (n : Nat) (v : Wave) : (s.setUnit n v).curMsq = s.curMsq := rfl
@[simp] theorem State.freeCount_setUnit (s : State) (n : Nat) (v : Wave) : (s.setUnit n v).freeCount = s.freeCount := rfl
@[simp] theorem State.seq_setUnit (s : State) (n : Nat) (v : Wave) : (s.setUnit n v).seq = s.seq := rfl
@[simp] theorem State.work_groups_setUnit (s : State) (n : Nat) (v : Wave) :
    (s.setUnit n v).work.groups = s.work.groups := rfl
@[simp] theorem State.work_launches_setUnit (s : State) (n : Nat) (v : Wave) :
    (s.setUnit n v).work.launches = s.work.launches := rfl
@[simp] theorem State.work_graphs_setUnit (s : State) (n : Nat) (v : Wave) :
    (s.setUnit n v).work.graphs = s.work.graphs := rfl
@[simp] theorem State.work_phases_setUnit (s : State) (n : Nat) (v : Wave) :
    (s.setUnit n v).work.phases = s.work.phases := rfl
@[simp] theorem State.work_jobLevels_setUnit (s : State) (n : Nat) (v : Wave) :
    (s.setUnit n v).work.jobLevels = s.work.jobLevels := rfl
@[simp] theorem State.work_jobs_setUnit (s : State) (n : Nat) (v : Wave) :
    (s.setUnit n v).work.jobs = s.work.jobs := rfl
@[simp] theorem State.work_tokens_setUnit (s : State) (n : Nat) (v : Wave) :
    (s.setUnit n v).work.tokens = s.work.tokens := rfl
@[simp] theorem State.work_writes_setUnit (s : State) (n : Nat) (v : Wave) :
    (s.setUnit n v).work.writes = s.work.writes := rfl
@[simp] theorem State.work_icinvs_setUnit (s : State) (n : Nat) (v : Wave) :
    (s.setUnit n v).work.icinvs = s.work.icinvs := rfl
@[simp] theorem State.work_preempts_setUnit (s : State) (n : Nat) (v : Wave) :
    (s.setUnit n v).work.preempts = s.work.preempts := rfl
@[simp] theorem State.work_draws_setUnit (s : State) (n : Nat) (v : Wave) :
    (s.setUnit n v).work.draws = s.work.draws := rfl

/-! ## setGroup -/

@[simp] theorem State.group_setGroup_same (s : State) (n : Nat) (v : Group) : (s.setGroup n v).group n = v :=
  AMap.get_set_same _ _ _ _

theorem State.group_setGroup_other (s : State) (n : Nat) (v : Group) (m : Nat) (h : m ≠ n) :
    (s.setGroup n v).group m = s.group m := AMap.get_set_other _ _ _ _ _ h

theorem State.group_setGroup (s : State) (n : Nat) (v : Group) (m : Nat) :
    (s.setGroup n v).group m = if m = n then v else s.group m := AMap.get_set _ _ _ _ _

@[simp] theorem State.setGroup_setGroup (s : State) (n : Nat) (v w : Group) :
    (s.setGroup n v).setGroup n w = s.setGroup n w := by
  simp [State.setGroup]

@[simp] theorem State.core_setGroup (s : State) (n : Nat) (v : Group) (m : Nat) :
    (s.setGroup n v).core m = s.core m := rfl
@[simp] theorem State.ctx_setGroup (s : State) (n : Nat) (v : Group) (m : Nat) :
    (s.setGroup n v).ctx m = s.ctx m := rfl
@[simp] theorem State.unit_setGroup (s : State) (n : Nat) (v : Group) (m : Nat) :
    (s.setGroup n v).unit m = s.unit m := rfl
@[simp] theorem State.launch_setGroup (s : State) (n : Nat) (v : Group) (m : Nat) :
    (s.setGroup n v).launch m = s.launch m := rfl
@[simp] theorem State.draw_setGroup (s : State) (n : Nat) (v : Group) (m : Nat) :
    (s.setGroup n v).draw m = s.draw m := rfl
@[simp] theorem State.slice_setGroup (s : State) (n : Nat) (v : Group) (m : Nat) :
    (s.setGroup n v).slice m = s.slice m := rfl
@[simp] theorem State.die_setGroup (s : State) (n : Nat) (v : Group) (m : Nat) :
    (s.setGroup n v).die m = s.die m := rfl
@[simp] theorem State.mem_setGroup (s : State) (n : Nat) (v : Group) : (s.setGroup n v).mem = s.mem := rfl
@[simp] theorem State.cores_setGroup (s : State) (n : Nat) (v : Group) : (s.setGroup n v).cores = s.cores := rfl
@[simp] theorem State.ctxs_setGroup (s : State) (n : Nat) (v : Group) : (s.setGroup n v).ctxs = s.ctxs := rfl
@[simp] theorem State.host_setGroup (s : State) (n : Nat) (v : Group) : (s.setGroup n v).host = s.host := rfl
@[simp] theorem State.agenda_setGroup (s : State) (n : Nat) (v : Group) : (s.setGroup n v).agenda = s.agenda := rfl
@[simp] theorem State.cur_setGroup (s : State) (n : Nat) (v : Group) : (s.setGroup n v).cur = s.cur := rfl
@[simp] theorem State.curMsq_setGroup (s : State) (n : Nat) (v : Group) : (s.setGroup n v).curMsq = s.curMsq := rfl
@[simp] theorem State.freeCount_setGroup (s : State) (n : Nat) (v : Group) : (s.setGroup n v).freeCount = s.freeCount := rfl
@[simp] theorem State.seq_setGroup (s : State) (n : Nat) (v : Group) : (s.setGroup n v).seq = s.seq := rfl
@[simp] theorem State.work_units_setGroup (s : State) (n : Nat) (v : Group) :
    (s.setGroup n v).work.units = s.work.units := rfl
@[simp] theorem State.work_launches_setGroup (s : State) (n : Nat) (v : Group) :
    (s.setGroup n v).work.launches = s.work.launches := rfl
@[simp] theorem State.work_graphs_setGroup (s : State) (n : Nat) (v : Group) :
    (s.setGroup n v).work.graphs = s.work.graphs := rfl
@[simp] theorem State.work_phases_setGroup (s : State) (n : Nat) (v : Group) :
    (s.setGroup n v).work.phases = s.work.phases := rfl
@[simp] theorem State.work_jobLevels_setGroup (s : State) (n : Nat) (v : Group) :
    (s.setGroup n v).work.jobLevels = s.work.jobLevels := rfl
@[simp] theorem State.work_jobs_setGroup (s : State) (n : Nat) (v : Group) :
    (s.setGroup n v).work.jobs = s.work.jobs := rfl
@[simp] theorem State.work_tokens_setGroup (s : State) (n : Nat) (v : Group) :
    (s.setGroup n v).work.tokens = s.work.tokens := rfl
@[simp] theorem State.work_writes_setGroup (s : State) (n : Nat) (v : Group) :
    (s.setGroup n v).work.writes = s.work.writes := rfl
@[simp] theorem State.work_icinvs_setGroup (s : State) (n : Nat) (v : Group) :
    (s.setGroup n v).work.icinvs = s.work.icinvs := rfl
@[simp] theorem State.work_preempts_setGroup (s : State) (n : Nat) (v : Group) :
    (s.setGroup n v).work.preempts = s.work.preempts := rfl
@[simp] theorem State.work_draws_setGroup (s : State) (n : Nat) (v : Group) :
    (s.setGroup n v).work.draws = s.work.draws := rfl

/-! ## setLaunch -/

@[simp] theorem State.launch_setLaunch_same (s : State) (n : Nat) (v : Launch) : (s.setLaunch n v).launch n = v :=
  AMap.get_set_same _ _ _ _

theorem State.launch_setLaunch_other (s : State) (n : Nat) (v : Launch) (m : Nat) (h : m ≠ n) :
    (s.setLaunch n v).launch m = s.launch m := AMap.get_set_other _ _ _ _ _ h

theorem State.launch_setLaunch (s : State) (n : Nat) (v : Launch) (m : Nat) :
    (s.setLaunch n v).launch m = if m = n then v else s.launch m := AMap.get_set _ _ _ _ _

@[simp] theorem State.setLaunch_setLaunch (s : State) (n : Nat) (v w : Launch) :
    (s.setLaunch n v).setLaunch n w = s.setLaunch n w := by
  simp [State.setLaunch]

@[simp] theorem State.core_setLaunch (s : State) (n : Nat) (v : Launch) (m : Nat) :
    (s.setLaunch n v).core m = s.core m := rfl
@[simp] theorem State.ctx_setLaunch (s : State) (n : Nat) (v : Launch) (m : Nat) :
    (s.setLaunch n v).ctx m = s.ctx m := rfl
@[simp] theorem State.unit_setLaunch (s : State) (n : Nat) (v : Launch) (m : Nat) :
    (s.setLaunch n v).unit m = s.unit m := rfl
@[simp] theorem State.group_setLaunch (s : State) (n : Nat) (v : Launch) (m : Nat) :
    (s.setLaunch n v).group m = s.group m := rfl
@[simp] theorem State.draw_setLaunch (s : State) (n : Nat) (v : Launch) (m : Nat) :
    (s.setLaunch n v).draw m = s.draw m := rfl
@[simp] theorem State.slice_setLaunch (s : State) (n : Nat) (v : Launch) (m : Nat) :
    (s.setLaunch n v).slice m = s.slice m := rfl
@[simp] theorem State.die_setLaunch (s : State) (n : Nat) (v : Launch) (m : Nat) :
    (s.setLaunch n v).die m = s.die m := rfl
@[simp] theorem State.mem_setLaunch (s : State) (n : Nat) (v : Launch) : (s.setLaunch n v).mem = s.mem := rfl
@[simp] theorem State.cores_setLaunch (s : State) (n : Nat) (v : Launch) : (s.setLaunch n v).cores = s.cores := rfl
@[simp] theorem State.ctxs_setLaunch (s : State) (n : Nat) (v : Launch) : (s.setLaunch n v).ctxs = s.ctxs := rfl
@[simp] theorem State.host_setLaunch (s : State) (n : Nat) (v : Launch) : (s.setLaunch n v).host = s.host := rfl
@[simp] theorem State.agenda_setLaunch (s : State) (n : Nat) (v : Launch) : (s.setLaunch n v).agenda = s.agenda := rfl
@[simp] theorem State.cur_setLaunch (s : State) (n : Nat) (v : Launch) : (s.setLaunch n v).cur = s.cur := rfl
@[simp] theorem State.curMsq_setLaunch (s : State) (n : Nat) (v : Launch) : (s.setLaunch n v).curMsq = s.curMsq := rfl
@[simp] theorem State.freeCount_setLaunch (s : State) (n : Nat) (v : Launch) : (s.setLaunch n v).freeCount = s.freeCount := rfl
@[simp] theorem State.seq_setLaunch (s : State) (n : Nat) (v : Launch) : (s.setLaunch n v).seq = s.seq := rfl
@[simp] theorem State.work_units_setLaunch (s : State) (n : Nat) (v : Launch) :
    (s.setLaunch n v).work.units = s.work.units := rfl
@[simp] theorem State.work_groups_setLaunch (s : State) (n : Nat) (v : Launch) :
    (s.setLaunch n v).work.groups = s.work.groups := rfl
@[simp] theorem State.work_graphs_setLaunch (s : State) (n : Nat) (v : Launch) :
    (s.setLaunch n v).work.graphs = s.work.graphs := rfl
@[simp] theorem State.work_phases_setLaunch (s : State) (n : Nat) (v : Launch) :
    (s.setLaunch n v).work.phases = s.work.phases := rfl
@[simp] theorem State.work_jobLevels_setLaunch (s : State) (n : Nat) (v : Launch) :
    (s.setLaunch n v).work.jobLevels = s.work.jobLevels := rfl
@[simp] theorem State.work_jobs_setLaunch (s : State) (n : Nat) (v : Launch) :
    (s.setLaunch n v).work.jobs = s.work.jobs := rfl
@[simp] theorem State.work_tokens_setLaunch (s : State) (n : Nat) (v : Launch) :
    (s.setLaunch n v).work.tokens = s.work.tokens := rfl
@[simp] theorem State.work_writes_setLaunch (s : State) (n : Nat) (v : Launch) :
    (s.setLaunch n v).work.writes = s.work.writes := rfl
@[simp] theorem State.work_icinvs_setLaunch (s : State) (n : Nat) (v : Launch) :
    (s.setLaunch n v).work.icinvs = s.work.icinvs := rfl
@[simp] theorem State.work_preempts_setLaunch (s : State) (n : Nat) (v : Launch) :
    (s.setLaunch n v).work.preempts = s.work.preempts := rfl
@[simp] theorem State.work_draws_setLaunch (s : State) (n : Nat) (v : Launch) :
    (s.setLaunch n v).work.draws = s.work.draws := rfl

/-! ## setDraw -/

@[simp] theorem State.draw_setDraw_same (s : State) (n : Nat) (v : Draw) : (s.setDraw n v).draw n = v :=
  AMap.get_set_same _ _ _ _

theorem State.draw_setDraw_other (s : State) (n : Nat) (v : Draw) (m : Nat) (h : m ≠ n) :
    (s.setDraw n v).draw m = s.draw m := AMap.get_set_other _ _ _ _ _ h

theorem State.draw_setDraw (s : State) (n : Nat) (v : Draw) (m : Nat) :
    (s.setDraw n v).draw m = if m = n then v else s.draw m := AMap.get_set _ _ _ _ _

@[simp] theorem State.setDraw_setDraw (s : State) (n : Nat) (v w : Draw) :
    (s.setDraw n v).setDraw n w = s.setDraw n w := by
  simp [State.setDraw]

@[simp] theorem State.core_setDraw (s : State) (n : Nat) (v : Draw) (m : Nat) :
    (s.setDraw n v).core m = s.core m := rfl
@[simp] theorem State.ctx_setDraw (s : State) (n : Nat) (v : Draw) (m : Nat) :
    (s.setDraw n v).ctx m = s.ctx m := rfl
@[simp] theorem State.unit_setDraw (s : State) (n : Nat) (v : Draw) (m : Nat) :
    (s.setDraw n v).unit m = s.unit m := rfl
@[simp] theorem State.group_setDraw (s : State) (n : Nat) (v : Draw) (m : Nat) :
    (s.setDraw n v).group m = s.group m := rfl
@[simp] theorem State.launch_setDraw (s : State) (n : Nat) (v : Draw) (m : Nat) :
    (s.setDraw n v).launch m = s.launch m := rfl
@[simp] theorem State.slice_setDraw (s : State) (n : Nat) (v : Draw) (m : Nat) :
    (s.setDraw n v).slice m = s.slice m := rfl
@[simp] theorem State.die_setDraw (s : State) (n : Nat) (v : Draw) (m : Nat) :
    (s.setDraw n v).die m = s.die m := rfl
@[simp] theorem State.mem_setDraw (s : State) (n : Nat) (v : Draw) : (s.setDraw n v).mem = s.mem := rfl
@[simp] theorem State.cores_setDraw (s : State) (n : Nat) (v : Draw) : (s.setDraw n v).cores = s.cores := rfl
@[simp] theorem State.ctxs_setDraw (s : State) (n : Nat) (v : Draw) : (s.setDraw n v).ctxs = s.ctxs := rfl
@[simp] theorem State.host_setDraw (s : State) (n : Nat) (v : Draw) : (s.setDraw n v).host = s.host := rfl
@[simp] theorem State.agenda_setDraw (s : State) (n : Nat) (v : Draw) : (s.setDraw n v).agenda = s.agenda := rfl
@[simp] theorem State.cur_setDraw (s : State) (n : Nat) (v : Draw) : (s.setDraw n v).cur = s.cur := rfl
@[simp] theorem State.curMsq_setDraw (s : State) (n : Nat) (v : Draw) : (s.setDraw n v).curMsq = s.curMsq := rfl
@[simp] theorem State.freeCount_setDraw (s : State) (n : Nat) (v : Draw) : (s.setDraw n v).freeCount = s.freeCount := rfl
@[simp] theorem State.seq_setDraw (s : State) (n : Nat) (v : Draw) : (s.setDraw n v).seq = s.seq := rfl
@[simp] theorem State.work_units_setDraw (s : State) (n : Nat) (v : Draw) :
    (s.setDraw n v).work.units = s.work.units := rfl
@[simp] theorem State.work_groups_setDraw (s : State) (n : Nat) (v : Draw) :
    (s.setDraw n v).work.groups = s.work.groups := rfl
@[simp] theorem State.work_launches_setDraw (s : State) (n : Nat) (v : Draw) :
    (s.setDraw n v).work.launches = s.work.launches := rfl
@[simp] theorem State.work_graphs_setDraw (s : State) (n : Nat) (v : Draw) :
    (s.setDraw n v).work.graphs = s.work.graphs := rfl
@[simp] theorem State.work_phases_setDraw (s : State) (n : Nat) (v : Draw) :
    (s.setDraw n v).work.phases = s.work.phases := rfl
@[simp] theorem State.work_jobLevels_setDraw (s : State) (n : Nat) (v : Draw) :
    (s.setDraw n v).work.jobLevels = s.work.jobLevels := rfl
@[simp] theorem State.work_jobs_setDraw (s : State) (n : Nat) (v : Draw) :
    (s.setDraw n v).work.jobs = s.work.jobs := rfl
@[simp] theorem State.work_tokens_setDraw (s : State) (n : Nat) (v : Draw) :
    (s.setDraw n v).work.tokens = s.work.tokens := rfl
@[simp] theorem State.work_writes_setDraw (s : State) (n : Nat) (v : Draw) :
    (s.setDraw n v).work.writes = s.work.writes := rfl
@[simp] theorem State.work_icinvs_setDraw (s : State) (n : Nat) (v : Draw) :
    (s.setDraw n v).work.icinvs = s.work.icinvs := rfl
@[simp] theorem State.work_preempts_setDraw (s : State) (n : Nat) (v : Draw) :
    (s.setDraw n v).work.preempts = s.work.preempts := rfl

/-! ## setSlice -/

@[simp] theorem State.slice_setSlice_same (s : State) (n : Nat) (v : Slice) : (s.setSlice n v).slice n = v :=
  AMap.get_set_same _ _ _ _

theorem State.slice_setSlice_other (s : State) (n : Nat) (v : Slice) (m : Nat) (h : m ≠ n) :
    (s.setSlice n v).slice m = s.slice m := AMap.get_set_other _ _ _ _ _ h

theorem State.slice_setSlice (s : State) (n : Nat) (v : Slice) (m : Nat) :
    (s.setSlice n v).slice m = if m = n then v else s.slice m := AMap.get_set _ _ _ _ _

@[simp] theorem State.setSlice_setSlice (s : State) (n : Nat) (v w : Slice) :
    (s.setSlice n v).setSlice n w = s.setSlice n w := by
  simp [State.setSlice]

@[simp] theorem State.core_setSlice (s : State) (n : Nat) (v : Slice) (m : Nat) :
    (s.setSlice n v).core m = s.core m := rfl
@[simp] theorem State.ctx_setSlice (s : State) (n : Nat) (v : Slice) (m : Nat) :
    (s.setSlice n v).ctx m = s.ctx m := rfl
@[simp] theorem State.unit_setSlice (s : State) (n : Nat) (v : Slice) (m : Nat) :
    (s.setSlice n v).unit m = s.unit m := rfl
@[simp] theorem State.group_setSlice (s : State) (n : Nat) (v : Slice) (m : Nat) :
    (s.setSlice n v).group m = s.group m := rfl
@[simp] theorem State.launch_setSlice (s : State) (n : Nat) (v : Slice) (m : Nat) :
    (s.setSlice n v).launch m = s.launch m := rfl
@[simp] theorem State.draw_setSlice (s : State) (n : Nat) (v : Slice) (m : Nat) :
    (s.setSlice n v).draw m = s.draw m := rfl
@[simp] theorem State.die_setSlice (s : State) (n : Nat) (v : Slice) (m : Nat) :
    (s.setSlice n v).die m = s.die m := rfl
@[simp] theorem State.work_setSlice (s : State) (n : Nat) (v : Slice) : (s.setSlice n v).work = s.work := rfl
@[simp] theorem State.cores_setSlice (s : State) (n : Nat) (v : Slice) : (s.setSlice n v).cores = s.cores := rfl
@[simp] theorem State.ctxs_setSlice (s : State) (n : Nat) (v : Slice) : (s.setSlice n v).ctxs = s.ctxs := rfl
@[simp] theorem State.host_setSlice (s : State) (n : Nat) (v : Slice) : (s.setSlice n v).host = s.host := rfl
@[simp] theorem State.agenda_setSlice (s : State) (n : Nat) (v : Slice) : (s.setSlice n v).agenda = s.agenda := rfl
@[simp] theorem State.cur_setSlice (s : State) (n : Nat) (v : Slice) : (s.setSlice n v).cur = s.cur := rfl
@[simp] theorem State.curMsq_setSlice (s : State) (n : Nat) (v : Slice) : (s.setSlice n v).curMsq = s.curMsq := rfl
@[simp] theorem State.freeCount_setSlice (s : State) (n : Nat) (v : Slice) : (s.setSlice n v).freeCount = s.freeCount := rfl
@[simp] theorem State.seq_setSlice (s : State) (n : Nat) (v : Slice) : (s.setSlice n v).seq = s.seq := rfl
@[simp] theorem State.mem_phys_setSlice (s : State) (n : Nat) (v : Slice) :
    (s.setSlice n v).mem.phys = s.mem.phys := rfl
@[simp] theorem State.mem_poisoned_setSlice (s : State) (n : Nat) (v : Slice) :
    (s.setSlice n v).mem.poisoned = s.mem.poisoned := rfl
@[simp] theorem State.mem_l2_setSlice (s : State) (n : Nat) (v : Slice) :
    (s.setSlice n v).mem.l2 = s.mem.l2 := rfl
@[simp] theorem State.mem_l1_setSlice (s : State) (n : Nat) (v : Slice) :
    (s.setSlice n v).mem.l1 = s.mem.l1 := rfl
@[simp] theorem State.mem_icache_setSlice (s : State) (n : Nat) (v : Slice) :
    (s.setSlice n v).mem.icache = s.mem.icache := rfl
@[simp] theorem State.mem_msqCache_setSlice (s : State) (n : Nat) (v : Slice) :
    (s.setSlice n v).mem.msqCache = s.mem.msqCache := rfl
@[simp] theorem State.mem_trans_setSlice (s : State) (n : Nat) (v : Slice) :
    (s.setSlice n v).mem.trans = s.mem.trans := rfl
@[simp] theorem State.mem_dies_setSlice (s : State) (n : Nat) (v : Slice) :
    (s.setSlice n v).mem.dies = s.mem.dies := rfl
@[simp] theorem State.mem_roots_setSlice (s : State) (n : Nat) (v : Slice) :
    (s.setSlice n v).mem.roots = s.mem.roots := rfl
@[simp] theorem State.mem_homeRoots_setSlice (s : State) (n : Nat) (v : Slice) :
    (s.setSlice n v).mem.homeRoots = s.mem.homeRoots := rfl
@[simp] theorem State.mem_homeCache_setSlice (s : State) (n : Nat) (v : Slice) :
    (s.setSlice n v).mem.homeCache = s.mem.homeCache := rfl
@[simp] theorem State.mem_stalls_setSlice (s : State) (n : Nat) (v : Slice) :
    (s.setSlice n v).mem.stalls = s.mem.stalls := rfl
@[simp] theorem State.mem_faults_setSlice (s : State) (n : Nat) (v : Slice) :
    (s.setSlice n v).mem.faults = s.mem.faults := rfl
@[simp] theorem State.mem_wakes_setSlice (s : State) (n : Nat) (v : Slice) :
    (s.setSlice n v).mem.wakes = s.mem.wakes := rfl
@[simp] theorem State.mem_starvation_setSlice (s : State) (n : Nat) (v : Slice) :
    (s.setSlice n v).mem.starvation = s.mem.starvation := rfl
@[simp] theorem State.mem_exports_setSlice (s : State) (n : Nat) (v : Slice) :
    (s.setSlice n v).mem.exports = s.mem.exports := rfl
@[simp] theorem State.mem_routes_setSlice (s : State) (n : Nat) (v : Slice) :
    (s.setSlice n v).mem.routes = s.mem.routes := rfl
@[simp] theorem State.mem_node_setSlice (s : State) (n : Nat) (v : Slice) :
    (s.setSlice n v).mem.node = s.mem.node := rfl
@[simp] theorem State.mem_peerOut_setSlice (s : State) (n : Nat) (v : Slice) :
    (s.setSlice n v).mem.peerOut = s.mem.peerOut := rfl
@[simp] theorem State.mem_peerWaits_setSlice (s : State) (n : Nat) (v : Slice) :
    (s.setSlice n v).mem.peerWaits = s.mem.peerWaits := rfl
@[simp] theorem State.mem_outs_setSlice (s : State) (n : Nat) (v : Slice) :
    (s.setSlice n v).mem.outs = s.mem.outs := rfl
@[simp] theorem State.mem_replies_setSlice (s : State) (n : Nat) (v : Slice) :
    (s.setSlice n v).mem.replies = s.mem.replies := rfl
@[simp] theorem State.mem_pyramids_setSlice (s : State) (n : Nat) (v : Slice) :
    (s.setSlice n v).mem.pyramids = s.mem.pyramids := rfl
@[simp] theorem State.mem_areas_setSlice (s : State) (n : Nat) (v : Slice) :
    (s.setSlice n v).mem.areas = s.mem.areas := rfl

/-! ## setDie -/

@[simp] theorem State.die_setDie_same (s : State) (n : Nat) (v : Die) : (s.setDie n v).die n = v :=
  AMap.get_set_same _ _ _ _

theorem State.die_setDie_other (s : State) (n : Nat) (v : Die) (m : Nat) (h : m ≠ n) :
    (s.setDie n v).die m = s.die m := AMap.get_set_other _ _ _ _ _ h

theorem State.die_setDie (s : State) (n : Nat) (v : Die) (m : Nat) :
    (s.setDie n v).die m = if m = n then v else s.die m := AMap.get_set _ _ _ _ _

@[simp] theorem State.setDie_setDie (s : State) (n : Nat) (v w : Die) :
    (s.setDie n v).setDie n w = s.setDie n w := by
  simp [State.setDie]

@[simp] theorem State.core_setDie (s : State) (n : Nat) (v : Die) (m : Nat) :
    (s.setDie n v).core m = s.core m := rfl
@[simp] theorem State.ctx_setDie (s : State) (n : Nat) (v : Die) (m : Nat) :
    (s.setDie n v).ctx m = s.ctx m := rfl
@[simp] theorem State.unit_setDie (s : State) (n : Nat) (v : Die) (m : Nat) :
    (s.setDie n v).unit m = s.unit m := rfl
@[simp] theorem State.group_setDie (s : State) (n : Nat) (v : Die) (m : Nat) :
    (s.setDie n v).group m = s.group m := rfl
@[simp] theorem State.launch_setDie (s : State) (n : Nat) (v : Die) (m : Nat) :
    (s.setDie n v).launch m = s.launch m := rfl
@[simp] theorem State.draw_setDie (s : State) (n : Nat) (v : Die) (m : Nat) :
    (s.setDie n v).draw m = s.draw m := rfl
@[simp] theorem State.slice_setDie (s : State) (n : Nat) (v : Die) (m : Nat) :
    (s.setDie n v).slice m = s.slice m := rfl
@[simp] theorem State.work_setDie (s : State) (n : Nat) (v : Die) : (s.setDie n v).work = s.work := rfl
@[simp] theorem State.cores_setDie (s : State) (n : Nat) (v : Die) : (s.setDie n v).cores = s.cores := rfl
@[simp] theorem State.ctxs_setDie (s : State) (n : Nat) (v : Die) : (s.setDie n v).ctxs = s.ctxs := rfl
@[simp] theorem State.host_setDie (s : State) (n : Nat) (v : Die) : (s.setDie n v).host = s.host := rfl
@[simp] theorem State.agenda_setDie (s : State) (n : Nat) (v : Die) : (s.setDie n v).agenda = s.agenda := rfl
@[simp] theorem State.cur_setDie (s : State) (n : Nat) (v : Die) : (s.setDie n v).cur = s.cur := rfl
@[simp] theorem State.curMsq_setDie (s : State) (n : Nat) (v : Die) : (s.setDie n v).curMsq = s.curMsq := rfl
@[simp] theorem State.freeCount_setDie (s : State) (n : Nat) (v : Die) : (s.setDie n v).freeCount = s.freeCount := rfl
@[simp] theorem State.seq_setDie (s : State) (n : Nat) (v : Die) : (s.setDie n v).seq = s.seq := rfl
@[simp] theorem State.mem_phys_setDie (s : State) (n : Nat) (v : Die) :
    (s.setDie n v).mem.phys = s.mem.phys := rfl
@[simp] theorem State.mem_poisoned_setDie (s : State) (n : Nat) (v : Die) :
    (s.setDie n v).mem.poisoned = s.mem.poisoned := rfl
@[simp] theorem State.mem_l2_setDie (s : State) (n : Nat) (v : Die) :
    (s.setDie n v).mem.l2 = s.mem.l2 := rfl
@[simp] theorem State.mem_l1_setDie (s : State) (n : Nat) (v : Die) :
    (s.setDie n v).mem.l1 = s.mem.l1 := rfl
@[simp] theorem State.mem_icache_setDie (s : State) (n : Nat) (v : Die) :
    (s.setDie n v).mem.icache = s.mem.icache := rfl
@[simp] theorem State.mem_msqCache_setDie (s : State) (n : Nat) (v : Die) :
    (s.setDie n v).mem.msqCache = s.mem.msqCache := rfl
@[simp] theorem State.mem_slices_setDie (s : State) (n : Nat) (v : Die) :
    (s.setDie n v).mem.slices = s.mem.slices := rfl
@[simp] theorem State.mem_trans_setDie (s : State) (n : Nat) (v : Die) :
    (s.setDie n v).mem.trans = s.mem.trans := rfl
@[simp] theorem State.mem_roots_setDie (s : State) (n : Nat) (v : Die) :
    (s.setDie n v).mem.roots = s.mem.roots := rfl
@[simp] theorem State.mem_homeRoots_setDie (s : State) (n : Nat) (v : Die) :
    (s.setDie n v).mem.homeRoots = s.mem.homeRoots := rfl
@[simp] theorem State.mem_homeCache_setDie (s : State) (n : Nat) (v : Die) :
    (s.setDie n v).mem.homeCache = s.mem.homeCache := rfl
@[simp] theorem State.mem_stalls_setDie (s : State) (n : Nat) (v : Die) :
    (s.setDie n v).mem.stalls = s.mem.stalls := rfl
@[simp] theorem State.mem_faults_setDie (s : State) (n : Nat) (v : Die) :
    (s.setDie n v).mem.faults = s.mem.faults := rfl
@[simp] theorem State.mem_wakes_setDie (s : State) (n : Nat) (v : Die) :
    (s.setDie n v).mem.wakes = s.mem.wakes := rfl
@[simp] theorem State.mem_starvation_setDie (s : State) (n : Nat) (v : Die) :
    (s.setDie n v).mem.starvation = s.mem.starvation := rfl
@[simp] theorem State.mem_exports_setDie (s : State) (n : Nat) (v : Die) :
    (s.setDie n v).mem.exports = s.mem.exports := rfl
@[simp] theorem State.mem_routes_setDie (s : State) (n : Nat) (v : Die) :
    (s.setDie n v).mem.routes = s.mem.routes := rfl
@[simp] theorem State.mem_node_setDie (s : State) (n : Nat) (v : Die) :
    (s.setDie n v).mem.node = s.mem.node := rfl
@[simp] theorem State.mem_peerOut_setDie (s : State) (n : Nat) (v : Die) :
    (s.setDie n v).mem.peerOut = s.mem.peerOut := rfl
@[simp] theorem State.mem_peerWaits_setDie (s : State) (n : Nat) (v : Die) :
    (s.setDie n v).mem.peerWaits = s.mem.peerWaits := rfl
@[simp] theorem State.mem_outs_setDie (s : State) (n : Nat) (v : Die) :
    (s.setDie n v).mem.outs = s.mem.outs := rfl
@[simp] theorem State.mem_replies_setDie (s : State) (n : Nat) (v : Die) :
    (s.setDie n v).mem.replies = s.mem.replies := rfl
@[simp] theorem State.mem_pyramids_setDie (s : State) (n : Nat) (v : Die) :
    (s.setDie n v).mem.pyramids = s.mem.pyramids := rfl
@[simp] theorem State.mem_areas_setDie (s : State) (n : Nat) (v : Die) :
    (s.setDie n v).mem.areas = s.mem.areas := rfl

/-! ## tell and stamp -/

@[simp] theorem State.core_tell (s : State) (e : FwEvent) (m : Nat) :
    (s.tell e).core m = s.core m := rfl
@[simp] theorem State.ctx_tell (s : State) (e : FwEvent) (m : Nat) :
    (s.tell e).ctx m = s.ctx m := rfl
@[simp] theorem State.unit_tell (s : State) (e : FwEvent) (m : Nat) :
    (s.tell e).unit m = s.unit m := rfl
@[simp] theorem State.group_tell (s : State) (e : FwEvent) (m : Nat) :
    (s.tell e).group m = s.group m := rfl
@[simp] theorem State.launch_tell (s : State) (e : FwEvent) (m : Nat) :
    (s.tell e).launch m = s.launch m := rfl
@[simp] theorem State.draw_tell (s : State) (e : FwEvent) (m : Nat) :
    (s.tell e).draw m = s.draw m := rfl
@[simp] theorem State.slice_tell (s : State) (e : FwEvent) (m : Nat) :
    (s.tell e).slice m = s.slice m := rfl
@[simp] theorem State.die_tell (s : State) (e : FwEvent) (m : Nat) :
    (s.tell e).die m = s.die m := rfl
@[simp] theorem State.mem_tell (s : State) (e : FwEvent) : (s.tell e).mem = s.mem := rfl
@[simp] theorem State.work_tell (s : State) (e : FwEvent) : (s.tell e).work = s.work := rfl
@[simp] theorem State.cores_tell (s : State) (e : FwEvent) : (s.tell e).cores = s.cores := rfl
@[simp] theorem State.ctxs_tell (s : State) (e : FwEvent) : (s.tell e).ctxs = s.ctxs := rfl
@[simp] theorem State.agenda_tell (s : State) (e : FwEvent) : (s.tell e).agenda = s.agenda := rfl
@[simp] theorem State.cur_tell (s : State) (e : FwEvent) : (s.tell e).cur = s.cur := rfl
@[simp] theorem State.curMsq_tell (s : State) (e : FwEvent) : (s.tell e).curMsq = s.curMsq := rfl
@[simp] theorem State.freeCount_tell (s : State) (e : FwEvent) : (s.tell e).freeCount = s.freeCount := rfl
@[simp] theorem State.seq_tell (s : State) (e : FwEvent) : (s.tell e).seq = s.seq := rfl
@[simp] theorem State.core_stamp (s : State) (m : Nat) : s.stamp.2.core m = s.core m := rfl
@[simp] theorem State.ctx_stamp (s : State) (m : Nat) : s.stamp.2.ctx m = s.ctx m := rfl
@[simp] theorem State.unit_stamp (s : State) (m : Nat) : s.stamp.2.unit m = s.unit m := rfl
@[simp] theorem State.group_stamp (s : State) (m : Nat) : s.stamp.2.group m = s.group m := rfl
@[simp] theorem State.launch_stamp (s : State) (m : Nat) : s.stamp.2.launch m = s.launch m := rfl
@[simp] theorem State.draw_stamp (s : State) (m : Nat) : s.stamp.2.draw m = s.draw m := rfl
@[simp] theorem State.slice_stamp (s : State) (m : Nat) : s.stamp.2.slice m = s.slice m := rfl
@[simp] theorem State.die_stamp (s : State) (m : Nat) : s.stamp.2.die m = s.die m := rfl
@[simp] theorem State.mem_stamp (s : State) : s.stamp.2.mem = s.mem := rfl
@[simp] theorem State.work_stamp (s : State) : s.stamp.2.work = s.work := rfl
@[simp] theorem State.cores_stamp (s : State) : s.stamp.2.cores = s.cores := rfl
@[simp] theorem State.ctxs_stamp (s : State) : s.stamp.2.ctxs = s.ctxs := rfl
@[simp] theorem State.host_stamp (s : State) : s.stamp.2.host = s.host := rfl
@[simp] theorem State.agenda_stamp (s : State) : s.stamp.2.agenda = s.agenda := rfl
@[simp] theorem State.cur_stamp (s : State) : s.stamp.2.cur = s.cur := rfl
@[simp] theorem State.curMsq_stamp (s : State) : s.stamp.2.curMsq = s.curMsq := rfl
@[simp] theorem State.freeCount_stamp (s : State) : s.stamp.2.freeCount = s.freeCount := rfl
@[simp] theorem State.seq_stamp (s : State) : s.stamp.2.seq = s.seq + 1 := rfl
@[simp] theorem State.fst_stamp (s : State) : s.stamp.1 = s.seq := rfl

/-! ## Registers of a unit -/

@[simp] theorem Wave.live_setReg (w : Wave) (r l : Nat) (v : Word) :
    (w.setReg r l v).live = w.live := rfl
@[simp] theorem Wave.ctx_setReg (w : Wave) (r l : Nat) (v : Word) :
    (w.setReg r l v).ctx = w.ctx := rfl
@[simp] theorem Wave.launch_setReg (w : Wave) (r l : Nat) (v : Word) :
    (w.setReg r l v).launch = w.launch := rfl
@[simp] theorem Wave.group_setReg (w : Wave) (r l : Nat) (v : Word) :
    (w.setReg r l v).group = w.group := rfl
@[simp] theorem Wave.core_setReg (w : Wave) (r l : Nat) (v : Word) :
    (w.setReg r l v).core = w.core := rfl
@[simp] theorem Wave.part_setReg (w : Wave) (r l : Nat) (v : Word) :
    (w.setReg r l v).part = w.part := rfl
@[simp] theorem Wave.slot_setReg (w : Wave) (r l : Nat) (v : Word) :
    (w.setReg r l v).slot = w.slot := rfl
@[simp] theorem Wave.num_setReg (w : Wave) (r l : Nat) (v : Word) :
    (w.setReg r l v).num = w.num := rfl
@[simp] theorem Wave.soldered_setReg (w : Wave) (r l : Nat) (v : Word) :
    (w.setReg r l v).soldered = w.soldered := rfl
@[simp] theorem Wave.alloc_setReg (w : Wave) (r l : Nat) (v : Word) :
    (w.setReg r l v).alloc = w.alloc := rfl
@[simp] theorem Wave.nregs_setReg (w : Wave) (r l : Nat) (v : Word) :
    (w.setReg r l v).nregs = w.nregs := rfl
@[simp] theorem Wave.k_setReg (w : Wave) (r l : Nat) (v : Word) :
    (w.setReg r l v).k = w.k := rfl
@[simp] theorem Wave.x_setReg (w : Wave) (r l : Nat) (v : Word) :
    (w.setReg r l v).x = w.x := rfl
@[simp] theorem Wave.o_setReg (w : Wave) (r l : Nat) (v : Word) :
    (w.setReg r l v).o = w.o := rfl
@[simp] theorem Wave.pc_setReg (w : Wave) (r l : Nat) (v : Word) :
    (w.setReg r l v).pc = w.pc := rfl
@[simp] theorem Wave.fflags_setReg (w : Wave) (r l : Nat) (v : Word) :
    (w.setReg r l v).fflags = w.fflags := rfl
@[simp] theorem Wave.tcause_setReg (w : Wave) (r l : Nat) (v : Word) :
    (w.setReg r l v).tcause = w.tcause := rfl
@[simp] theorem Wave.tpc_setReg (w : Wave) (r l : Nat) (v : Word) :
    (w.setReg r l v).tpc = w.tpc := rfl
@[simp] theorem Wave.tinst_setReg (w : Wave) (r l : Nat) (v : Word) :
    (w.setReg r l v).tinst = w.tinst := rfl
@[simp] theorem Wave.inHandler_setReg (w : Wave) (r l : Nat) (v : Word) :
    (w.setReg r l v).inHandler = w.inHandler := rfl
@[simp] theorem Wave.idem_setReg (w : Wave) (r l : Nat) (v : Word) :
    (w.setReg r l v).idem = w.idem := rfl
@[simp] theorem Wave.homes_setReg (w : Wave) (r l : Nat) (v : Word) :
    (w.setReg r l v).homes = w.homes := rfl
@[simp] theorem Wave.rate_setReg (w : Wave) (r l : Nat) (v : Word) :
    (w.setReg r l v).rate = w.rate := rfl
@[simp] theorem Wave.elems_setReg (w : Wave) (r l : Nat) (v : Word) :
    (w.setReg r l v).elems = w.elems := rfl
@[simp] theorem Wave.pathPos_setReg (w : Wave) (r l : Nat) (v : Word) :
    (w.setReg r l v).pathPos = w.pathPos := rfl
@[simp] theorem Wave.pend_setReg (w : Wave) (r l : Nat) (v : Word) :
    (w.setReg r l v).pend = w.pend := rfl
@[simp] theorem Wave.pendSeq_setReg (w : Wave) (r l : Nat) (v : Word) :
    (w.setReg r l v).pendSeq = w.pendSeq := rfl
@[simp] theorem Wave.park_setReg (w : Wave) (r l : Nat) (v : Word) :
    (w.setReg r l v).park = w.park := rfl
@[simp] theorem Wave.parkedAt_setReg (w : Wave) (r l : Nat) (v : Word) :
    (w.setReg r l v).parkedAt = w.parkedAt := rfl
@[simp] theorem Wave.stopped_setReg (w : Wave) (r l : Nat) (v : Word) :
    (w.setReg r l v).stopped = w.stopped := rfl
@[simp] theorem Wave.stopLive_setReg (w : Wave) (r l : Nat) (v : Word) :
    (w.setReg r l v).stopLive = w.stopLive := rfl
@[simp] theorem Wave.held_setReg (w : Wave) (r l : Nat) (v : Word) :
    (w.setReg r l v).held = w.held := rfl
@[simp] theorem Wave.resume_setReg (w : Wave) (r l : Nat) (v : Word) :
    (w.setReg r l v).resume = w.resume := rfl
@[simp] theorem Wave.trapNext_setReg (w : Wave) (r l : Nat) (v : Word) :
    (w.setReg r l v).trapNext = w.trapNext := rfl
@[simp] theorem Wave.age_setReg (w : Wave) (r l : Nat) (v : Word) :
    (w.setReg r l v).age = w.age := rfl
@[simp] theorem Wave.acq_setReg (w : Wave) (r l : Nat) (v : Word) :
    (w.setReg r l v).acq = w.acq := rfl
@[simp] theorem Wave.ahead_setReg (w : Wave) (r l : Nat) (v : Word) :
    (w.setReg r l v).ahead = w.ahead := rfl
@[simp] theorem Wave.icinvs_setReg (w : Wave) (r l : Nat) (v : Word) :
    (w.setReg r l v).icinvs = w.icinvs := rfl
@[simp] theorem Wave.awaits_setReg (w : Wave) (r l : Nat) (v : Word) :
    (w.setReg r l v).awaits = w.awaits := rfl

theorem Wave.reg_setReg_same (w : Wave) (r l : Nat) (v : Word) : (w.setReg r l v).reg r l = v :=
  AMap.get_set_same _ _ _ _

theorem Wave.reg_setReg_other (w : Wave) (r l q m : Nat) (v : Word) (hl : l < 32) (hm : m < 32)
    (h : ¬(q = r ∧ m = l)) : (w.setReg r l v).reg q m = w.reg q m :=
  AMap.get_set_other _ _ _ _ _ (by omega)

@[simp] theorem Wave.live_setK (w : Wave) (i : Nat) (m : Mask) :
    (w.setK i m).live = w.live := by
  unfold Wave.setK; split <;> rfl
@[simp] theorem Wave.ctx_setK (w : Wave) (i : Nat) (m : Mask) :
    (w.setK i m).ctx = w.ctx := by
  unfold Wave.setK; split <;> rfl
@[simp] theorem Wave.launch_setK (w : Wave) (i : Nat) (m : Mask) :
    (w.setK i m).launch = w.launch := by
  unfold Wave.setK; split <;> rfl
@[simp] theorem Wave.group_setK (w : Wave) (i : Nat) (m : Mask) :
    (w.setK i m).group = w.group := by
  unfold Wave.setK; split <;> rfl
@[simp] theorem Wave.core_setK (w : Wave) (i : Nat) (m : Mask) :
    (w.setK i m).core = w.core := by
  unfold Wave.setK; split <;> rfl
@[simp] theorem Wave.part_setK (w : Wave) (i : Nat) (m : Mask) :
    (w.setK i m).part = w.part := by
  unfold Wave.setK; split <;> rfl
@[simp] theorem Wave.slot_setK (w : Wave) (i : Nat) (m : Mask) :
    (w.setK i m).slot = w.slot := by
  unfold Wave.setK; split <;> rfl
@[simp] theorem Wave.num_setK (w : Wave) (i : Nat) (m : Mask) :
    (w.setK i m).num = w.num := by
  unfold Wave.setK; split <;> rfl
@[simp] theorem Wave.soldered_setK (w : Wave) (i : Nat) (m : Mask) :
    (w.setK i m).soldered = w.soldered := by
  unfold Wave.setK; split <;> rfl
@[simp] theorem Wave.alloc_setK (w : Wave) (i : Nat) (m : Mask) :
    (w.setK i m).alloc = w.alloc := by
  unfold Wave.setK; split <;> rfl
@[simp] theorem Wave.nregs_setK (w : Wave) (i : Nat) (m : Mask) :
    (w.setK i m).nregs = w.nregs := by
  unfold Wave.setK; split <;> rfl
@[simp] theorem Wave.regs_setK (w : Wave) (i : Nat) (m : Mask) :
    (w.setK i m).regs = w.regs := by
  unfold Wave.setK; split <;> rfl
@[simp] theorem Wave.x_setK (w : Wave) (i : Nat) (m : Mask) :
    (w.setK i m).x = w.x := by
  unfold Wave.setK; split <;> rfl
@[simp] theorem Wave.o_setK (w : Wave) (i : Nat) (m : Mask) :
    (w.setK i m).o = w.o := by
  unfold Wave.setK; split <;> rfl
@[simp] theorem Wave.pc_setK (w : Wave) (i : Nat) (m : Mask) :
    (w.setK i m).pc = w.pc := by
  unfold Wave.setK; split <;> rfl
@[simp] theorem Wave.fflags_setK (w : Wave) (i : Nat) (m : Mask) :
    (w.setK i m).fflags = w.fflags := by
  unfold Wave.setK; split <;> rfl
@[simp] theorem Wave.tcause_setK (w : Wave) (i : Nat) (m : Mask) :
    (w.setK i m).tcause = w.tcause := by
  unfold Wave.setK; split <;> rfl
@[simp] theorem Wave.tpc_setK (w : Wave) (i : Nat) (m : Mask) :
    (w.setK i m).tpc = w.tpc := by
  unfold Wave.setK; split <;> rfl
@[simp] theorem Wave.tinst_setK (w : Wave) (i : Nat) (m : Mask) :
    (w.setK i m).tinst = w.tinst := by
  unfold Wave.setK; split <;> rfl
@[simp] theorem Wave.inHandler_setK (w : Wave) (i : Nat) (m : Mask) :
    (w.setK i m).inHandler = w.inHandler := by
  unfold Wave.setK; split <;> rfl
@[simp] theorem Wave.idem_setK (w : Wave) (i : Nat) (m : Mask) :
    (w.setK i m).idem = w.idem := by
  unfold Wave.setK; split <;> rfl
@[simp] theorem Wave.homes_setK (w : Wave) (i : Nat) (m : Mask) :
    (w.setK i m).homes = w.homes := by
  unfold Wave.setK; split <;> rfl
@[simp] theorem Wave.rate_setK (w : Wave) (i : Nat) (m : Mask) :
    (w.setK i m).rate = w.rate := by
  unfold Wave.setK; split <;> rfl
@[simp] theorem Wave.elems_setK (w : Wave) (i : Nat) (m : Mask) :
    (w.setK i m).elems = w.elems := by
  unfold Wave.setK; split <;> rfl
@[simp] theorem Wave.pathPos_setK (w : Wave) (i : Nat) (m : Mask) :
    (w.setK i m).pathPos = w.pathPos := by
  unfold Wave.setK; split <;> rfl
@[simp] theorem Wave.pend_setK (w : Wave) (i : Nat) (m : Mask) :
    (w.setK i m).pend = w.pend := by
  unfold Wave.setK; split <;> rfl
@[simp] theorem Wave.pendSeq_setK (w : Wave) (i : Nat) (m : Mask) :
    (w.setK i m).pendSeq = w.pendSeq := by
  unfold Wave.setK; split <;> rfl
@[simp] theorem Wave.park_setK (w : Wave) (i : Nat) (m : Mask) :
    (w.setK i m).park = w.park := by
  unfold Wave.setK; split <;> rfl
@[simp] theorem Wave.parkedAt_setK (w : Wave) (i : Nat) (m : Mask) :
    (w.setK i m).parkedAt = w.parkedAt := by
  unfold Wave.setK; split <;> rfl
@[simp] theorem Wave.stopped_setK (w : Wave) (i : Nat) (m : Mask) :
    (w.setK i m).stopped = w.stopped := by
  unfold Wave.setK; split <;> rfl
@[simp] theorem Wave.stopLive_setK (w : Wave) (i : Nat) (m : Mask) :
    (w.setK i m).stopLive = w.stopLive := by
  unfold Wave.setK; split <;> rfl
@[simp] theorem Wave.held_setK (w : Wave) (i : Nat) (m : Mask) :
    (w.setK i m).held = w.held := by
  unfold Wave.setK; split <;> rfl
@[simp] theorem Wave.resume_setK (w : Wave) (i : Nat) (m : Mask) :
    (w.setK i m).resume = w.resume := by
  unfold Wave.setK; split <;> rfl
@[simp] theorem Wave.trapNext_setK (w : Wave) (i : Nat) (m : Mask) :
    (w.setK i m).trapNext = w.trapNext := by
  unfold Wave.setK; split <;> rfl
@[simp] theorem Wave.age_setK (w : Wave) (i : Nat) (m : Mask) :
    (w.setK i m).age = w.age := by
  unfold Wave.setK; split <;> rfl
@[simp] theorem Wave.acq_setK (w : Wave) (i : Nat) (m : Mask) :
    (w.setK i m).acq = w.acq := by
  unfold Wave.setK; split <;> rfl
@[simp] theorem Wave.ahead_setK (w : Wave) (i : Nat) (m : Mask) :
    (w.setK i m).ahead = w.ahead := by
  unfold Wave.setK; split <;> rfl
@[simp] theorem Wave.icinvs_setK (w : Wave) (i : Nat) (m : Mask) :
    (w.setK i m).icinvs = w.icinvs := by
  unfold Wave.setK; split <;> rfl
@[simp] theorem Wave.awaits_setK (w : Wave) (i : Nat) (m : Mask) :
    (w.setK i m).awaits = w.awaits := by
  unfold Wave.setK; split <;> rfl

/-- k0 reads as all ones whatever is written to it. -/
@[simp] theorem Wave.kreg_zero (w : Wave) : w.kreg 0 = allLanes := rfl

theorem Wave.kreg_setK_same (w : Wave) (i : Nat) (m : Mask) (h : i ≠ 0) : (w.setK i m).kreg i = m := by
  simp [Wave.setK, Wave.kreg, h]

theorem Wave.kreg_setK_other (w : Wave) (i j : Nat) (m : Mask) (h : j ≠ i) :
    (w.setK i m).kreg j = w.kreg j := by
  unfold Wave.setK Wave.kreg
  split
  · rfl
  · split
    · rfl
    · exact AMap.get_set_other _ _ _ _ _ h

end Sys2Proof.Machine
end

