-- ==== Sys2Proof/Laws/Issue.lean ====
section
/-!
SUPPORT. What issuing does: the shared forms of the wave instructions under the conditions of `Issues` and
`Acts`, and the writes of lane results.
-/

namespace Sys2Proof.Machine

open Sys2Proof

/-- An instruction that issues has its effect on the state in which its unit is not held. -/
theorem State.issue_of_issues (s : State) (i : Instr) (h : Head) (e : State → State)
    (hi : Issues s i h) :
    s.issue i e = e (s.setUnit s.cur { s.unit s.cur with held := false }) := by
  obtain ⟨hr, ht, hh, hq, hf, hp, hs⟩ := hi
  unfold State.issue
  simp only [hr, ht, hh, hf, hp, hs, Bool.not_true, Bool.false_eq_true, if_false]
  split
  · rename_i hc
    simp only [Bool.and_eq_true, decide_eq_true_eq] at hc
    exact absurd (hq hc.1) hc.2
  · rfl

/-- A per-lane instruction that issues. -/
theorem State.lanesOp_of_issues (s : State) (i : Instr) (h : Head) (f : Wave → Wave)
    (hi : Issues s i h) :
    s.lanesOp i f = s.setUnit s.cur
      { f { s.unit s.cur with held := false } with
        pc := (f { s.unit s.cur with held := false }).pc + BitVec.ofNat 64 i.size } := by
  unfold State.lanesOp
  rw [State.issue_of_issues s i h _ hi]
  simp [State.advance]

/-- The guard does not depend on whether the unit was held. -/
@[simp] theorem Wave.acts_held (w : Wave) (h : Head) (b : Bool) :
    ({ w with held := b } : Wave).acts h = w.acts h := rfl

@[simp] theorem Wave.acting_held (w : Wave) (h : Head) (b : Bool) :
    ({ w with held := b } : Wave).acting h = w.acting h := rfl

/-- A wave-wide instruction that issues and acts. -/
theorem State.waveOp_of_acts (s : State) (i : Instr) (h : Head) (f : State → State)
    (ha : Acts s i h) :
    s.waveOp i h f = f (s.setUnit s.cur { s.unit s.cur with held := false }) := by
  unfold State.waveOp
  rw [State.issue_of_issues s i h _ ha.1]
  simp [ha.2]

/-- A wave-wide instruction that issues and does not act goes on to the next instruction. -/
theorem State.waveOp_of_idle (s : State) (i : Instr) (h : Head) (f : State → State)
    (hi : Issues s i h) (hn : (s.unit s.cur).acts h = false) :
    s.waveOp i h f = s.setUnit s.cur ((s.unit s.cur).after i) := by
  unfold State.waveOp
  rw [State.issue_of_issues s i h _ hi]
  simp [hn, State.advance, Wave.after]

/-! ## Writes of lane results -/

/-- The lanes of a mask are below 32. -/
theorem lanesOf_lt (m : Mask) (l : Nat) (h : l ∈ lanesOf m) : l < 32 := by
  simp only [lanesOf, List.mem_filter, List.mem_range] at h
  exact h.1

theorem mem_lanesOf (m : Mask) (l : Nat) : l ∈ lanesOf m ↔ l < 32 ∧ inMask m l = true := by
  simp [lanesOf]

theorem lanesOf_nodup (m : Mask) : (lanesOf m).Nodup := List.nodup_range.filter _

/-- Writing a value to a register of other lanes leaves a lane as it is. -/
theorem Wave.reg_setVal_other (w : Wave) (wide : Bool) (r l n q m : Nat) (hl : l < 32) (hm : m < 32)
    (h : ¬(m = l ∧ (q = r ∨ (wide = true ∧ q = r + 1)))) :
    (w.setVal wide r l n).reg q m = w.reg q m := by
  unfold Wave.setVal
  cases wide
  · simp only [Bool.false_eq_true, if_false]
    exact Wave.reg_setReg_other _ _ _ _ _ _ hl hm (by simp at h; tauto)
  · simp only [if_true]
    rw [Wave.reg_setReg_other _ _ _ _ _ _ hl hm (by simp at h; tauto),
      Wave.reg_setReg_other _ _ _ _ _ _ hl hm (by simp at h; tauto)]

theorem Wave.reg_setVal_low (w : Wave) (wide : Bool) (r l n : Nat) (hl : l < 32) :
    (w.setVal wide r l n).reg r l = BitVec.ofNat 32 n := by
  unfold Wave.setVal
  cases wide
  · simp only [Bool.false_eq_true, if_false]
    exact Wave.reg_setReg_same _ _ _ _
  · simp only [if_true]
    rw [Wave.reg_setReg_other _ _ _ _ _ _ hl hl (by omega)]
    exact Wave.reg_setReg_same _ _ _ _

theorem Wave.reg_setVal_high (w : Wave) (r l n : Nat) :
    (w.setVal true r l n).reg (r + 1) l = BitVec.ofNat 32 (n / 2 ^ 32) := by
  unfold Wave.setVal
  simp only [if_true]
  exact Wave.reg_setReg_same _ _ _ _

/-- A write of a value changes the registers alone. -/
theorem Wave.setVal_eq (w : Wave) (wide : Bool) (r l n : Nat) :
    w.setVal wide r l n = { w with regs := (w.setVal wide r l n).regs } := by
  unfold Wave.setVal
  cases wide <;> rfl

end Sys2Proof.Machine
end

