-- ==== Sys2Proof/Laws/Lanes.lean ====
section
/-!
SUPPORT. What the shared forms of the lane instructions do, said once: the results of a per-lane
instruction, of a per-lane test, and of a long-latency instruction.
-/

namespace Sys2Proof.Machine

open Sys2Proof

/-! ## Writing a value in several lanes -/

/-- Writing lane results touches the registers alone. -/
theorem Wave.foldl_setVal_eq (wide : Bool) (d : Nat) (v : Nat → Nat) (ls : List Nat) (w : Wave) :
    ls.foldl (fun w l => w.setVal wide d l (v l)) w
      = { w with regs := (ls.foldl (fun w l => w.setVal wide d l (v l)) w).regs } := by
  induction ls generalizing w with
  | nil => rfl
  | cons l ls ih =>
    simp only [List.foldl_cons]
    rw [ih, Wave.setVal_eq w wide d l (v l)]

/-- A register that no lane result covers stays. -/
theorem Wave.reg_foldl_other (wide : Bool) (d : Nat) (v : Nat → Nat) (ls : List Nat) (w : Wave)
    (hl : ∀ l ∈ ls, l < 32) (q m : Nat) (hm : m < 32)
    (h : ¬(m ∈ ls ∧ (q = d ∨ (wide = true ∧ q = d + 1)))) :
    (ls.foldl (fun w l => w.setVal wide d l (v l)) w).reg q m = w.reg q m := by
  induction ls generalizing w with
  | nil => rfl
  | cons l ls ih =>
    simp only [List.foldl_cons]
    rw [ih _ (fun l hl' => hl l (List.mem_cons_of_mem _ hl')) (fun hh => h ⟨List.mem_cons_of_mem _ hh.1, hh.2⟩)]
    refine Wave.reg_setVal_other _ _ _ _ _ _ _ (hl l List.mem_cons_self) hm fun hh => h ⟨?_, hh.2⟩
    rw [hh.1]
    exact List.mem_cons_self

/-- A value reads back from the registers that it was written to. -/
theorem Wave.val_of_regs (w : Wave) (wide : Bool) (d l n : Nat)
    (lo : w.reg d l = BitVec.ofNat 32 n)
    (hi : wide = true → w.reg (d + 1) l = BitVec.ofNat 32 (n / 2 ^ 32)) :
    w.val wide d l = n % 2 ^ destBits wide := by
  unfold Wave.val destBits
  cases wide
  · simp only [lo, Bool.false_eq_true, if_false, BitVec.toNat_ofNat]; omega
  · simp only [lo, hi rfl, if_true, BitVec.toNat_ofNat]; omega

/-- The value of a lane whose result is written reads back. -/
theorem Wave.val_foldl (wide : Bool) (d : Nat) (v : Nat → Nat) (ls : List Nat) (w : Wave)
    (hl : ∀ l ∈ ls, l < 32) (hd : ls.Nodup) (m : Nat) (hm : m ∈ ls) :
    (ls.foldl (fun w l => w.setVal wide d l (v l)) w).val wide d m = v m % 2 ^ destBits wide := by
  induction ls generalizing w with
  | nil => simp at hm
  | cons l ls ih =>
    simp only [List.foldl_cons]
    have hl' : ∀ l ∈ ls, l < 32 := fun l h => hl l (List.mem_cons_of_mem _ h)
    rw [List.nodup_cons] at hd
    rcases List.mem_cons.mp hm with rfl | hm'
    · have h32 := hl m List.mem_cons_self
      refine Wave.val_of_regs _ _ _ _ _ ?_ ?_
      · rw [Wave.reg_foldl_other wide d v ls _ hl' d m h32 (fun h => hd.1 h.1)]
        exact Wave.reg_setVal_low _ _ _ _ _ h32
      · intro hw
        subst hw
        rw [Wave.reg_foldl_other true d v ls _ hl' (d + 1) m h32 (fun h => hd.1 h.1)]
        exact Wave.reg_setVal_high _ _ _ _
    · exact ih _ hl' hd.2 hm'

/-- ORing flags over lane results is ORing them over the lanes. -/
theorem Wave.writeRes_eq (w : Wave) (wide : Bool) (d : Nat) (ls : List Nat) (g : Nat → Res) :
    w.writeRes wide d (ls.map fun l => (l, g l))
      = { ls.foldl (fun w l => w.setVal wide d l (g l).val) w with
          fflags := ls.foldl (fun m l => m ||| (g l).flags) w.fflags } := by
  unfold Wave.writeRes
  simp only [List.foldl_map]
  rw [show (ls.foldl (fun w l => w.setVal wide d l (g l).val) w).fflags = w.fflags by
    rw [Wave.foldl_setVal_eq wide d (fun l => (g l).val) ls w]]

/-! ## The results of instructions -/

/-- A per-lane instruction that writes the results of `g` in some lanes. -/
theorem LaneResult.of_writes (s : State) (i : Instr) (h : Head) (m : Mask) (d : Nat) (wide : Bool)
    (g : Nat → Res) (P : Nat → Nat → Prop) (fl : Nat → Word) (hi : Issues s i h)
    (hx : exec i s = .next (s.lanesOp i fun w => w.writeRes wide d ((lanesOf m).map fun l => (l, g l))))
    (hP : ∀ l, inMask m l = true → l < 32 → P l ((g l).val % 2 ^ destBits wide))
    (hf : ∀ l, inMask m l = true → l < 32 → (g l).flags = fl l) :
    LaneResult s i m d wide P fl := by
  have hl : ∀ l ∈ lanesOf m, l < 32 := fun l => lanesOf_lt m l
  have hflags : ∀ (ls : List Nat) (a : Word), (∀ l ∈ ls, (g l).flags = fl l) →
      ls.foldl (fun m l => m ||| (g l).flags) a = ls.foldl (fun m l => m ||| fl l) a := by
    intro ls
    induction ls with
    | nil => intros; rfl
    | cons l ls ih =>
      intro a ha
      simp only [List.foldl_cons]
      rw [ha l List.mem_cons_self, ih _ fun l h => ha l (List.mem_cons_of_mem _ h)]
  rw [State.lanesOp_of_issues s i h _ hi] at hx
  refine ⟨_, hx, ?_, ?_, ?_⟩
  · rw [Wave.writeRes_eq, Wave.foldl_setVal_eq wide d (fun l => (g l).val)]
    simp only [Wave.after]
    rw [hflags _ _ fun l h => hf l ((mem_lanesOf m l).mp h).2 ((mem_lanesOf m l).mp h).1]
  · intro l h32 hm
    rw [Wave.writeRes_eq]
    have := Wave.val_foldl wide d (fun l => (g l).val) (lanesOf m) { s.unit s.cur with held := false } hl
      (lanesOf_nodup m) l ((mem_lanesOf m l).mpr ⟨h32, hm⟩)
    simp only [Wave.val, Wave.reg] at this ⊢
    rw [this]
    exact hP l hm h32
  · intro q l h32 hn
    rw [Wave.writeRes_eq]
    have := Wave.reg_foldl_other wide d (fun l => (g l).val) (lanesOf m)
      { s.unit s.cur with held := false } hl q l h32
      (fun h => hn ⟨((mem_lanesOf m l).mp h.1).2, h.2⟩)
    simp only [Wave.reg] at this ⊢
    exact this

/-! ## Masks -/

theorem inMask_laneMask (l m : Nat) (hl : l < 32) : inMask (laneMask m) l = decide (l = m) := by
  unfold inMask laneMask
  rw [BitVec.getLsbD_shiftLeft]
  have one : ∀ i, (1 : Mask).getLsbD i = decide (i = 0) := by
    intro i
    cases i with
    | zero => rfl
    | succ i => simp [BitVec.getLsbD, Nat.testBit_succ]
  rw [one]
  by_cases h : l = m
  · subst h; simp [hl]
  · simp only [h, decide_false]
    rcases Nat.lt_or_ge l m with hlt | hge
    · simp [hlt]
    · have : l - m ≠ 0 := by omega
      simp [this]

theorem inMask_foldl (p : Nat → Bool) (ls : List Nat) (a : Mask) (l : Nat) (hl : l < 32) :
    inMask (ls.foldl (fun m l => if p l then m ||| laneMask l else m) a) l
      = (inMask a l || decide (l ∈ ls) && p l) := by
  induction ls generalizing a with
  | nil => simp
  | cons x ls ih =>
    simp only [List.foldl_cons]
    rw [ih]
    by_cases hp : p x
    · simp only [hp, if_true]
      have : inMask (a ||| laneMask x) l = (inMask a l || decide (l = x)) := by
        rw [← inMask_laneMask l x hl]
        simp [inMask]
      rw [this]
      by_cases hx : l = x
      · subst hx; simp [hp]
      · simp [hx]
    · simp only [hp, Bool.false_eq_true, if_false]
      by_cases hx : l = x
      · subst hx; simp [hp]
      · simp [hx]

/-- The mask of a test over lanes holds the lanes that satisfy it. -/
theorem inMask_maskOf (p : Nat → Bool) (l : Nat) (hl : l < 32) : inMask (maskOf p) l = p l := by
  unfold maskOf
  rw [inMask_foldl p _ _ l hl]
  simp [inMask, hl]

/-- Writing some lanes of a k register: what each k register reads as afterwards. -/
theorem Wave.kreg_setKLanes_other (w : Wave) (d j : Nat) (a m : Mask) (h : j ≠ d) :
    (w.setKLanes d a m).kreg j = w.kreg j := Wave.kreg_setK_other _ _ _ _ h

theorem Wave.inMask_setKLanes (w : Wave) (d : Nat) (a m : Mask) (hd : d ≠ 0) (l : Nat) (hl : l < 32) :
    inMask ((w.setKLanes d a m).kreg d) l = if inMask a l then inMask m l else inMask (w.kreg d) l := by
  unfold Wave.setKLanes
  rw [Wave.kreg_setK_same _ _ _ hd]
  simp only [inMask, BitVec.getLsbD_or, BitVec.getLsbD_and, BitVec.getLsbD_not, hl, decide_true,
    Bool.true_and]
  by_cases h : a.getLsbD l = true
  · simp [h]
  · simp [Bool.eq_false_iff.mpr h]

theorem Wave.setKLanes_eq (w : Wave) (d : Nat) (a m : Mask) :
    w.setKLanes d a m = { w with k := (w.setKLanes d a m).k } := by
  unfold Wave.setKLanes Wave.setK
  split <;> rfl

theorem Wave.setKLanes_zero (w : Wave) (a m : Mask) : (w.setKLanes 0 a m).k = w.k := rfl

/-- A per-lane test that writes the truths of `p` in some lanes of a k register. -/
theorem MaskResult.of_writes (s : State) (i : Instr) (h : Head) (a m : Mask) (d : Nat) (p : Nat → Bool)
    (fl : Nat → Word) (hi : Issues s i h)
    (hx : exec i s = .next (s.lanesOp i fun w =>
      { w.setKLanes d a m with fflags := (lanesOf a).foldl (fun x l => x ||| fl l) w.fflags }))
    (hm : ∀ l, l < 32 → inMask a l = true → inMask m l = p l) :
    MaskResult s i a d p fl := by
  rw [State.lanesOp_of_issues s i h _ hi] at hx
  refine ⟨_, hx, ?_, ?_, ?_, ?_⟩
  · rw [Wave.setKLanes_eq]
    rfl
  · rintro rfl
    rfl
  · intro j hj
    exact Wave.kreg_setKLanes_other { s.unit s.cur with held := false } d j a m hj
  · intro hd l hl
    have := Wave.inMask_setKLanes { s.unit s.cur with held := false } d a m hd l hl
    simp only [Wave.kreg] at this ⊢
    rw [this]
    split
    · exact hm l hl ‹_›
    · rfl

end Sys2Proof.Machine
end

