-- ==== Sys2Proof/Laws/Exec.lean ====
section
/-!
SUPPORT. What `exec` does with each instruction: the call of its meaning, so that no proof unfolds the
dispatch.
-/

namespace Sys2Proof.Machine

open Sys2Proof

@[simp] theorem exec_NOP (h : Head) (s : State) :
    exec (.NOP h) s = execNop h s := rfl
@[simp] theorem exec_EXIT (h : Head) (s : State) :
    exec (.EXIT h) s = execExit h s := rfl
@[simp] theorem exec_TRAP (h : Head) (code : BitVec 16) (s : State) :
    exec (.TRAP h code) s = execTrap h code s := rfl
@[simp] theorem exec_BRK (h : Head) (code : BitVec 16) (s : State) :
    exec (.BRK h code) s = execBrk h code s := rfl
@[simp] theorem exec_TRET (h : Head) (s : State) :
    exec (.TRET h) s = execTret h s := rfl
@[simp] theorem exec_SAFEPT (h : Head) (idx : BitVec 12) (s : State) :
    exec (.SAFEPT h idx) s = execSafept h idx s := rfl
@[simp] theorem exec_IDEM_BEGIN (h : Head) (s : State) :
    exec (.IDEM_BEGIN h) s = execIdemBegin h s := rfl
@[simp] theorem exec_IDEM_END (h : Head) (s : State) :
    exec (.IDEM_END h) s = execIdemEnd h s := rfl
@[simp] theorem exec_MEET (h : Head) (token : BitVec 12) (s : State) :
    exec (.MEET h token) s = execMeet h token s := rfl
@[simp] theorem exec_ICINV (h : Head) (base : BitVec 7) (len : BitVec 8) (s : State) :
    exec (.ICINV h base len) s = execIcinv h base len s := rfl
@[simp] theorem exec_IFENCE (h : Head) (s : State) :
    exec (.IFENCE h) s = execIfence h s := rfl
@[simp] theorem exec_BRA (h : Head) (off : BitVec 32) (s : State) :
    exec (.BRA h off) s = execBra h off s := rfl
@[simp] theorem exec_CALL (h : Head) (link : BitVec 8) (off : BitVec 32) (s : State) :
    exec (.CALL h link off) s = execCall h link off s := rfl
@[simp] theorem exec_JMP (h : Head) (target : BitVec 8) (s : State) :
    exec (.JMP h target) s = execJmp h target s := rfl
@[simp] theorem exec_RET (h : Head) (link : BitVec 8) (s : State) :
    exec (.RET h link) s = execRet h link s := rfl
@[simp] theorem exec_BRX (h : Head) (index : BitVec 8) (off : BitVec 32) (s : State) :
    exec (.BRX h index off) s = execBrx h index off s := rfl
@[simp] theorem exec_FORK (h : Head) (k : BitVec 4) (live : BitVec 12) (join : BitVec 12) (off : BitVec 32) (s : State) :
    exec (.FORK h k live join off) s = execFork h k live join off s := rfl
@[simp] theorem exec_SYSR (h : Head) (d : BitVec 8) (sp : Special) (s : State) :
    exec (.SYSR h d sp) s = execSysr h d sp s := rfl
@[simp] theorem exec_SYSW (h : Head) (sp : Special) (s : BitVec 8) (st : State) :
    exec (.SYSW h sp s) st = execSysw h sp s st := rfl
@[simp] theorem exec_KAND (h : Head) (f : AluF) (s : State) :
    exec (.KAND h f) s = execKand h f s := rfl
@[simp] theorem exec_KOR (h : Head) (f : AluF) (s : State) :
    exec (.KOR h f) s = execKor h f s := rfl
@[simp] theorem exec_KXOR (h : Head) (f : AluF) (s : State) :
    exec (.KXOR h f) s = execKxor h f s := rfl
@[simp] theorem exec_KNOT (h : Head) (f : AluF) (s : State) :
    exec (.KNOT h f) s = execKnot h f s := rfl
@[simp] theorem exec_KMOV_K_K (h : Head) (f : AluF) (s : State) :
    exec (.KMOV_K_K h f) s = execKmovKK h f s := rfl
@[simp] theorem exec_KMOV_K_V (h : Head) (f : AluF) (s : State) :
    exec (.KMOV_K_V h f) s = execKmovKV h f s := rfl
@[simp] theorem exec_KMOV_V_K (h : Head) (f : AluF) (s : State) :
    exec (.KMOV_V_K h f) s = execKmovVK h f s := rfl
@[simp] theorem exec_KPOP (h : Head) (f : AluF) (s : State) :
    exec (.KPOP h f) s = execKpop h f s := rfl
@[simp] theorem exec_KFFS (h : Head) (f : AluF) (s : State) :
    exec (.KFFS h f) s = execKffs h f s := rfl
@[simp] theorem exec_XGET (h : Head) (f : AluF) (s : State) :
    exec (.XGET h f) s = execXget h f s := rfl
@[simp] theorem exec_XSET (h : Head) (f : AluF) (s : State) :
    exec (.XSET h f) s = execXset h f s := rfl
@[simp] theorem exec_XAND (h : Head) (f : AluF) (s : State) :
    exec (.XAND h f) s = execXand h f s := rfl
@[simp] theorem exec_ADD (h : Head) (f : AluF) (s : State) :
    exec (.ADD h f) s = execAdd h f s := rfl
@[simp] theorem exec_SUB (h : Head) (f : AluF) (s : State) :
    exec (.SUB h f) s = execSub h f s := rfl
@[simp] theorem exec_ADDC (h : Head) (f : AluF) (s : State) :
    exec (.ADDC h f) s = execAddc h f s := rfl
@[simp] theorem exec_SUBB (h : Head) (f : AluF) (s : State) :
    exec (.SUBB h f) s = execSubb h f s := rfl
@[simp] theorem exec_NEG (h : Head) (f : AluF) (s : State) :
    exec (.NEG h f) s = execNeg h f s := rfl
@[simp] theorem exec_ABS (h : Head) (f : AluF) (s : State) :
    exec (.ABS h f) s = execAbs h f s := rfl
@[simp] theorem exec_MIN (h : Head) (f : AluF) (s : State) :
    exec (.MIN h f) s = execMin h f s := rfl
@[simp] theorem exec_MAX (h : Head) (f : AluF) (s : State) :
    exec (.MAX h f) s = execMax h f s := rfl
@[simp] theorem exec_MUL_LO (h : Head) (f : AluF) (s : State) :
    exec (.MUL_LO h f) s = execMulLo h f s := rfl
@[simp] theorem exec_MUL_HI (h : Head) (f : AluF) (s : State) :
    exec (.MUL_HI h f) s = execMulHi h f s := rfl
@[simp] theorem exec_MAD (h : Head) (f : AluF) (s : State) :
    exec (.MAD h f) s = execMad h f s := rfl
@[simp] theorem exec_AND (h : Head) (f : AluF) (s : State) :
    exec (.AND h f) s = execAnd h f s := rfl
@[simp] theorem exec_OR (h : Head) (f : AluF) (s : State) :
    exec (.OR h f) s = execOr h f s := rfl
@[simp] theorem exec_XOR (h : Head) (f : AluF) (s : State) :
    exec (.XOR h f) s = execXor h f s := rfl
@[simp] theorem exec_NOT (h : Head) (f : AluF) (s : State) :
    exec (.NOT h f) s = execNot h f s := rfl
@[simp] theorem exec_SHL (h : Head) (f : AluF) (s : State) :
    exec (.SHL h f) s = execShl h f s := rfl
@[simp] theorem exec_SHR (h : Head) (f : AluF) (s : State) :
    exec (.SHR h f) s = execShr h f s := rfl
@[simp] theorem exec_SRA (h : Head) (f : AluF) (s : State) :
    exec (.SRA h f) s = execSra h f s := rfl
@[simp] theorem exec_BFE (h : Head) (f : AluF) (s : State) :
    exec (.BFE h f) s = execBfe h f s := rfl
@[simp] theorem exec_BFI (h : Head) (f : AluF) (s : State) :
    exec (.BFI h f) s = execBfi h f s := rfl
@[simp] theorem exec_POPC (h : Head) (f : AluF) (s : State) :
    exec (.POPC h f) s = execPopc h f s := rfl
@[simp] theorem exec_CLZ (h : Head) (f : AluF) (s : State) :
    exec (.CLZ h f) s = execClz h f s := rfl
@[simp] theorem exec_CTZ (h : Head) (f : AluF) (s : State) :
    exec (.CTZ h f) s = execCtz h f s := rfl
@[simp] theorem exec_BREV (h : Head) (f : AluF) (s : State) :
    exec (.BREV h f) s = execBrev h f s := rfl
@[simp] theorem exec_MOV (h : Head) (f : AluF) (s : State) :
    exec (.MOV h f) s = execMov h f s := rfl
@[simp] theorem exec_MOVI (h : Head) (f : AluF) (s : State) :
    exec (.MOVI h f) s = execMovi h f s := rfl
@[simp] theorem exec_SEL (h : Head) (f : AluF) (s : State) :
    exec (.SEL h f) s = execSel h f s := rfl
@[simp] theorem exec_LEA (h : Head) (f : AluF) (s : State) :
    exec (.LEA h f) s = execLea h f s := rfl
@[simp] theorem exec_LEA_SYMBOL (h : Head) (f : AluF) (s : State) :
    exec (.LEA_SYMBOL h f) s = execLeaSymbol h f s := rfl
@[simp] theorem exec_CMP_EQ (h : Head) (f : AluF) (s : State) :
    exec (.CMP_EQ h f) s = execCmpEq h f s := rfl
@[simp] theorem exec_CMP_NE (h : Head) (f : AluF) (s : State) :
    exec (.CMP_NE h f) s = execCmpNe h f s := rfl
@[simp] theorem exec_CMP_LT (h : Head) (f : AluF) (s : State) :
    exec (.CMP_LT h f) s = execCmpLt h f s := rfl
@[simp] theorem exec_CMP_LE (h : Head) (f : AluF) (s : State) :
    exec (.CMP_LE h f) s = execCmpLe h f s := rfl
@[simp] theorem exec_CMP_GT (h : Head) (f : AluF) (s : State) :
    exec (.CMP_GT h f) s = execCmpGt h f s := rfl
@[simp] theorem exec_CMP_GE (h : Head) (f : AluF) (s : State) :
    exec (.CMP_GE h f) s = execCmpGe h f s := rfl
@[simp] theorem exec_CMP_NUM (h : Head) (f : AluF) (s : State) :
    exec (.CMP_NUM h f) s = execCmpNum h f s := rfl
@[simp] theorem exec_CMP_NAN (h : Head) (f : AluF) (s : State) :
    exec (.CMP_NAN h f) s = execCmpNan h f s := rfl
@[simp] theorem exec_FADD (h : Head) (f : AluF) (s : State) :
    exec (.FADD h f) s = execFadd h f s := rfl
@[simp] theorem exec_FSUB (h : Head) (f : AluF) (s : State) :
    exec (.FSUB h f) s = execFsub h f s := rfl
@[simp] theorem exec_FMUL (h : Head) (f : AluF) (s : State) :
    exec (.FMUL h f) s = execFmul h f s := rfl
@[simp] theorem exec_FFMA (h : Head) (f : AluF) (s : State) :
    exec (.FFMA h f) s = execFfma h f s := rfl
@[simp] theorem exec_FMIN (h : Head) (f : AluF) (s : State) :
    exec (.FMIN h f) s = execFmin h f s := rfl
@[simp] theorem exec_FMAX (h : Head) (f : AluF) (s : State) :
    exec (.FMAX h f) s = execFmax h f s := rfl
@[simp] theorem exec_FABS (h : Head) (f : AluF) (s : State) :
    exec (.FABS h f) s = execFabs h f s := rfl
@[simp] theorem exec_FNEG (h : Head) (f : AluF) (s : State) :
    exec (.FNEG h f) s = execFneg h f s := rfl
@[simp] theorem exec_FRND (h : Head) (f : AluF) (s : State) :
    exec (.FRND h f) s = execFrnd h f s := rfl
@[simp] theorem exec_FCMP (h : Head) (f : AluF) (s : State) :
    exec (.FCMP h f) s = execFcmp h f s := rfl
@[simp] theorem exec_FCVT (h : Head) (f : AluF) (s : State) :
    exec (.FCVT h f) s = execFcvt h f s := rfl
@[simp] theorem exec_DADD (h : Head) (f : AluF) (s : State) :
    exec (.DADD h f) s = execDadd h f s := rfl
@[simp] theorem exec_DSUB (h : Head) (f : AluF) (s : State) :
    exec (.DSUB h f) s = execDsub h f s := rfl
@[simp] theorem exec_DMUL (h : Head) (f : AluF) (s : State) :
    exec (.DMUL h f) s = execDmul h f s := rfl
@[simp] theorem exec_DFMA (h : Head) (f : AluF) (s : State) :
    exec (.DFMA h f) s = execDfma h f s := rfl
@[simp] theorem exec_HFMA2 (h : Head) (f : AluF) (s : State) :
    exec (.HFMA2 h f) s = execHfma2 h f s := rfl
@[simp] theorem exec_SHFL_IDX (h : Head) (f : AluF) (s : State) :
    exec (.SHFL_IDX h f) s = execShflIdx h f s := rfl
@[simp] theorem exec_SHFL_UP (h : Head) (f : AluF) (s : State) :
    exec (.SHFL_UP h f) s = execShflUp h f s := rfl
@[simp] theorem exec_SHFL_DOWN (h : Head) (f : AluF) (s : State) :
    exec (.SHFL_DOWN h f) s = execShflDown h f s := rfl
@[simp] theorem exec_SHFL_XOR (h : Head) (f : AluF) (s : State) :
    exec (.SHFL_XOR h f) s = execShflXor h f s := rfl
@[simp] theorem exec_BCAST (h : Head) (f : AluF) (s : State) :
    exec (.BCAST h f) s = execBcast h f s := rfl
@[simp] theorem exec_VOTE_ANY (h : Head) (f : AluF) (s : State) :
    exec (.VOTE_ANY h f) s = execVoteAny h f s := rfl
@[simp] theorem exec_VOTE_ALL (h : Head) (f : AluF) (s : State) :
    exec (.VOTE_ALL h f) s = execVoteAll h f s := rfl
@[simp] theorem exec_VOTE_EQ (h : Head) (f : AluF) (s : State) :
    exec (.VOTE_EQ h f) s = execVoteEq h f s := rfl
@[simp] theorem exec_MATCH (h : Head) (f : AluF) (s : State) :
    exec (.MATCH h f) s = execMatch h f s := rfl
@[simp] theorem exec_RED_ADD (h : Head) (f : AluF) (s : State) :
    exec (.RED_ADD h f) s = execRedAdd h f s := rfl
@[simp] theorem exec_RED_MIN (h : Head) (f : AluF) (s : State) :
    exec (.RED_MIN h f) s = execRedMin h f s := rfl
@[simp] theorem exec_RED_MAX (h : Head) (f : AluF) (s : State) :
    exec (.RED_MAX h f) s = execRedMax h f s := rfl
@[simp] theorem exec_RED_AND (h : Head) (f : AluF) (s : State) :
    exec (.RED_AND h f) s = execRedAnd h f s := rfl
@[simp] theorem exec_RED_OR (h : Head) (f : AluF) (s : State) :
    exec (.RED_OR h f) s = execRedOr h f s := rfl
@[simp] theorem exec_RED_XOR (h : Head) (f : AluF) (s : State) :
    exec (.RED_XOR h f) s = execRedXor h f s := rfl
@[simp] theorem exec_SCAN_ADD (h : Head) (f : AluF) (s : State) :
    exec (.SCAN_ADD h f) s = execScanAdd h f s := rfl
@[simp] theorem exec_SCAN_MIN (h : Head) (f : AluF) (s : State) :
    exec (.SCAN_MIN h f) s = execScanMin h f s := rfl
@[simp] theorem exec_SCAN_MAX (h : Head) (f : AluF) (s : State) :
    exec (.SCAN_MAX h f) s = execScanMax h f s := rfl
@[simp] theorem exec_SCAN_AND (h : Head) (f : AluF) (s : State) :
    exec (.SCAN_AND h f) s = execScanAnd h f s := rfl
@[simp] theorem exec_SCAN_OR (h : Head) (f : AluF) (s : State) :
    exec (.SCAN_OR h f) s = execScanOr h f s := rfl
@[simp] theorem exec_SCAN_XOR (h : Head) (f : AluF) (s : State) :
    exec (.SCAN_XOR h f) s = execScanXor h f s := rfl
@[simp] theorem exec_LD (h : Head) (f : MemF) (s : State) :
    exec (.LD h f) s = execLd h f s := rfl
@[simp] theorem exec_ST (h : Head) (f : MemF) (s : State) :
    exec (.ST h f) s = execSt h f s := rfl
@[simp] theorem exec_LDS (h : Head) (f : MemF) (s : State) :
    exec (.LDS h f) s = execLds h f s := rfl
@[simp] theorem exec_STS (h : Head) (f : MemF) (s : State) :
    exec (.STS h f) s = execSts h f s := rfl
@[simp] theorem exec_ATOM_ADD (h : Head) (f : MemF) (x : AtomF) (s : State) :
    exec (.ATOM_ADD h f x) s = execAtomAdd h f x s := rfl
@[simp] theorem exec_ATOM_SUB (h : Head) (f : MemF) (x : AtomF) (s : State) :
    exec (.ATOM_SUB h f x) s = execAtomSub h f x s := rfl
@[simp] theorem exec_ATOM_MIN (h : Head) (f : MemF) (x : AtomF) (s : State) :
    exec (.ATOM_MIN h f x) s = execAtomMin h f x s := rfl
@[simp] theorem exec_ATOM_MAX (h : Head) (f : MemF) (x : AtomF) (s : State) :
    exec (.ATOM_MAX h f x) s = execAtomMax h f x s := rfl
@[simp] theorem exec_ATOM_AND (h : Head) (f : MemF) (x : AtomF) (s : State) :
    exec (.ATOM_AND h f x) s = execAtomAnd h f x s := rfl
@[simp] theorem exec_ATOM_OR (h : Head) (f : MemF) (x : AtomF) (s : State) :
    exec (.ATOM_OR h f x) s = execAtomOr h f x s := rfl
@[simp] theorem exec_ATOM_XOR (h : Head) (f : MemF) (x : AtomF) (s : State) :
    exec (.ATOM_XOR h f x) s = execAtomXor h f x s := rfl
@[simp] theorem exec_ATOM_EXCH (h : Head) (f : MemF) (x : AtomF) (s : State) :
    exec (.ATOM_EXCH h f x) s = execAtomExch h f x s := rfl
@[simp] theorem exec_ATOM_CAS (h : Head) (f : MemF) (x : AtomF) (s : State) :
    exec (.ATOM_CAS h f x) s = execAtomCas h f x s := rfl
@[simp] theorem exec_ATOM_INC (h : Head) (f : MemF) (x : AtomF) (s : State) :
    exec (.ATOM_INC h f x) s = execAtomInc h f x s := rfl
@[simp] theorem exec_ATOM_DEC (h : Head) (f : MemF) (x : AtomF) (s : State) :
    exec (.ATOM_DEC h f x) s = execAtomDec h f x s := rfl
@[simp] theorem exec_FENCE_ACQ (h : Head) (obs : BitVec 5) (s : State) :
    exec (.FENCE_ACQ h obs) s = execFenceAcq h obs s := rfl
@[simp] theorem exec_FENCE_REL (h : Head) (obs : BitVec 5) (s : State) :
    exec (.FENCE_REL h obs) s = execFenceRel h obs s := rfl
@[simp] theorem exec_DISCARD (h : Head) (base : BitVec 7) (len : BitVec 8) (s : State) :
    exec (.DISCARD h base len) s = execDiscard h base len s := rfl
@[simp] theorem exec_PREF (h : Head) (f : AddrF) (s : State) :
    exec (.PREF h f) s = execPref h f s := rfl
@[simp] theorem exec_LD_POLL (h : Head) (f : MemF) (s : State) :
    exec (.LD_POLL h f) s = execLdPoll h f s := rfl
@[simp] theorem exec_WAITU (h : Head) (f : WaituF) (s : State) :
    exec (.WAITU h f) s = execWaitu h f s := rfl
@[simp] theorem exec_SLEEP (h : Head) (f : AluF) (s : State) :
    exec (.SLEEP h f) s = execSleep h f s := rfl
@[simp] theorem exec_SPAWN (h : Head) (f : AluF) (s : State) :
    exec (.SPAWN h f) s = execSpawn h f s := rfl
@[simp] theorem exec_LAUNCH (h : Head) (f : AluF) (s : State) :
    exec (.LAUNCH h f) s = execLaunch h f s := rfl
@[simp] theorem exec_TRIG (h : Head) (f : AluF) (s : State) :
    exec (.TRIG h f) s = execTrig h f s := rfl
@[simp] theorem exec_WAITP (h : Head) (f : AluF) (s : State) :
    exec (.WAITP h f) s = execWaitp h f s := rfl
@[simp] theorem exec_CANCEL (h : Head) (f : AluF) (s : State) :
    exec (.CANCEL h f) s = execCancel h f s := rfl
@[simp] theorem exec_CCNT (h : Head) (f : AluF) (s : State) :
    exec (.CCNT h f) s = execCcnt h f s := rfl
@[simp] theorem exec_GBAR (h : Head) (f : AluF) (s : State) :
    exec (.GBAR h f) s = execGbar h f s := rfl
@[simp] theorem exec_HOLD (h : Head) (f : AluF) (s : State) :
    exec (.HOLD h f) s = execHold h f s := rfl
@[simp] theorem exec_TAKE (h : Head) (f : AluF) (s : State) :
    exec (.TAKE h f) s = execTake h f s := rfl
@[simp] theorem exec_IPL (h : Head) (f : AluF) (s : State) :
    exec (.IPL h f) s = execIpl h f s := rfl
@[simp] theorem exec_AMP (h : Head) (f : AluF) (s : State) :
    exec (.AMP h f) s = execAmp h f s := rfl
@[simp] theorem exec_EMIT_VTX (h : Head) (f : AluF) (s : State) :
    exec (.EMIT_VTX h f) s = execEmitVtx h f s := rfl
@[simp] theorem exec_EMIT_PRIM (h : Head) (f : AluF) (s : State) :
    exec (.EMIT_PRIM h f) s = execEmitPrim h f s := rfl
@[simp] theorem exec_COV (h : Head) (f : AluF) (s : State) :
    exec (.COV h f) s = execCov h f s := rfl
@[simp] theorem exec_ZTEST (h : Head) (f : AluF) (s : State) :
    exec (.ZTEST h f) s = execZtest h f s := rfl
@[simp] theorem exec_ZWR (h : Head) (f : AluF) (s : State) :
    exec (.ZWR h f) s = execZwr h f s := rfl
@[simp] theorem exec_FBW (h : Head) (f : AluF) (s : State) :
    exec (.FBW h f) s = execFbw h f s := rfl
@[simp] theorem exec_SPAWNY (h : Head) (f : AluF) (s : State) :
    exec (.SPAWNY h f) s = execSpawny h f s := rfl
@[simp] theorem exec_RAYRET (h : Head) (f : AluF) (s : State) :
    exec (.RAYRET h f) s = execRayret h f s := rfl
@[simp] theorem exec_BVHT (h : Head) (f : AluF) (s : State) :
    exec (.BVHT h f) s = execBvht h f s := rfl
@[simp] theorem exec_TARM (h : Head) (f : AluF) (s : State) :
    exec (.TARM h f) s = execTarm h f s := rfl
@[simp] theorem exec_TWAIT (h : Head) (f : AluF) (s : State) :
    exec (.TWAIT h f) s = execTwait h f s := rfl
@[simp] theorem exec_TREL (h : Head) (f : AluF) (s : State) :
    exec (.TREL h f) s = execTrel h f s := rfl
@[simp] theorem exec_TSTAT (h : Head) (f : AluF) (s : State) :
    exec (.TSTAT h f) s = execTstat h f s := rfl
@[simp] theorem exec_TCOPY (h : Head) (f : AluF) (s : State) :
    exec (.TCOPY h f) s = execTcopy h f s := rfl
@[simp] theorem exec_MSTART (h : Head) (f : AluF) (s : State) :
    exec (.MSTART h f) s = execMstart h f s := rfl
@[simp] theorem exec_COLL (h : Head) (f : AluF) (s : State) :
    exec (.COLL h f) s = execColl h f s := rfl
@[simp] theorem exec_TRCP (h : Head) (f : AluF) (s : State) :
    exec (.TRCP h f) s = execTrcp h f s := rfl
@[simp] theorem exec_TRSQ (h : Head) (f : AluF) (s : State) :
    exec (.TRSQ h f) s = execTrsq h f s := rfl
@[simp] theorem exec_TSQRT (h : Head) (f : AluF) (s : State) :
    exec (.TSQRT h f) s = execTsqrt h f s := rfl
@[simp] theorem exec_TDIV (h : Head) (f : AluF) (s : State) :
    exec (.TDIV h f) s = execTdiv h f s := rfl
@[simp] theorem exec_TEXP2 (h : Head) (f : AluF) (s : State) :
    exec (.TEXP2 h f) s = execTexp2 h f s := rfl
@[simp] theorem exec_TLOG2 (h : Head) (f : AluF) (s : State) :
    exec (.TLOG2 h f) s = execTlog2 h f s := rfl
@[simp] theorem exec_TSIN (h : Head) (f : AluF) (s : State) :
    exec (.TSIN h f) s = execTsin h f s := rfl
@[simp] theorem exec_TCOS (h : Head) (f : AluF) (s : State) :
    exec (.TCOS h f) s = execTcos h f s := rfl
@[simp] theorem exec_IDIV (h : Head) (f : AluF) (s : State) :
    exec (.IDIV h f) s = execIdiv h f s := rfl
@[simp] theorem exec_DEC_RLE (h : Head) (f : AluF) (s : State) :
    exec (.DEC_RLE h f) s = execDecRle h f s := rfl
@[simp] theorem exec_DEC_BITS (h : Head) (f : AluF) (s : State) :
    exec (.DEC_BITS h f) s = execDecBits h f s := rfl
@[simp] theorem exec_DEC_FP4 (h : Head) (f : AluF) (s : State) :
    exec (.DEC_FP4 h f) s = execDecFp4 h f s := rfl
@[simp] theorem exec_SWP_ADD (h : Head) (f : SweepF) (s : State) :
    exec (.SWP_ADD h f) s = execSwpAdd h f s := rfl
@[simp] theorem exec_SWP_SUB (h : Head) (f : SweepF) (s : State) :
    exec (.SWP_SUB h f) s = execSwpSub h f s := rfl
@[simp] theorem exec_SWP_MUL (h : Head) (f : SweepF) (s : State) :
    exec (.SWP_MUL h f) s = execSwpMul h f s := rfl
@[simp] theorem exec_SWP_FMA (h : Head) (f : SweepF) (s : State) :
    exec (.SWP_FMA h f) s = execSwpFma h f s := rfl
@[simp] theorem exec_SWP_MIN (h : Head) (f : SweepF) (s : State) :
    exec (.SWP_MIN h f) s = execSwpMin h f s := rfl
@[simp] theorem exec_SWP_MAX (h : Head) (f : SweepF) (s : State) :
    exec (.SWP_MAX h f) s = execSwpMax h f s := rfl
@[simp] theorem exec_SWP_MOV (h : Head) (f : SweepF) (s : State) :
    exec (.SWP_MOV h f) s = execSwpMov h f s := rfl
@[simp] theorem exec_MEND (s : State) :
    exec (.MEND) s = execMend s := rfl
@[simp] theorem exec_MNOP (s : State) :
    exec (.MNOP) s = execMnop s := rfl
@[simp] theorem exec_MMOV (f : MsqS) (s : State) :
    exec (.MMOV f) s = execMmov f s := rfl
@[simp] theorem exec_MADD (f : MsqS) (s : State) :
    exec (.MADD f) s = execMadd f s := rfl
@[simp] theorem exec_MSUB (f : MsqS) (s : State) :
    exec (.MSUB f) s = execMsub f s := rfl
@[simp] theorem exec_MMUL (f : MsqS) (s : State) :
    exec (.MMUL f) s = execMmul f s := rfl
@[simp] theorem exec_MAND (f : MsqS) (s : State) :
    exec (.MAND f) s = execMand f s := rfl
@[simp] theorem exec_MOR (f : MsqS) (s : State) :
    exec (.MOR f) s = execMor f s := rfl
@[simp] theorem exec_MXOR (f : MsqS) (s : State) :
    exec (.MXOR f) s = execMxor f s := rfl
@[simp] theorem exec_MSHL (f : MsqS) (s : State) :
    exec (.MSHL f) s = execMshl f s := rfl
@[simp] theorem exec_MSHR (f : MsqS) (s : State) :
    exec (.MSHR f) s = execMshr f s := rfl
@[simp] theorem exec_MBEQ (f : MsqB) (s : State) :
    exec (.MBEQ f) s = execMbeq f s := rfl
@[simp] theorem exec_MBNE (f : MsqB) (s : State) :
    exec (.MBNE f) s = execMbne f s := rfl
@[simp] theorem exec_MBLT (f : MsqB) (s : State) :
    exec (.MBLT f) s = execMblt f s := rfl
@[simp] theorem exec_MBGE (f : MsqB) (s : State) :
    exec (.MBGE f) s = execMbge f s := rfl
@[simp] theorem exec_MJMP (f : MsqB) (s : State) :
    exec (.MJMP f) s = execMjmp f s := rfl
@[simp] theorem exec_MLD (f : MsqS) (s : State) :
    exec (.MLD f) s = execMld f s := rfl
@[simp] theorem exec_MST (f : MsqS) (s : State) :
    exec (.MST f) s = execMst f s := rfl
@[simp] theorem exec_BLD (bank : BitVec 2) (tile : BitVec 6) (ty : MTy) (variant : Bool) (scl : Bool) (s : State) :
    exec (.BLD bank tile ty variant scl) s = execBld bank tile ty variant scl s := rfl
@[simp] theorem exec_SBLD (bank : BitVec 2) (tile : BitVec 6) (s : State) :
    exec (.SBLD bank tile) s = execSbld bank tile s := rfl
@[simp] theorem exec_MMA (bank : BitVec 2) (tile : BitVec 6) (m : BitVec 4) (variant : Bool) (ty : MTy) (sparse : Bool) (base : BitVec 8) (s : State) :
    exec (.MMA bank tile m variant ty sparse base) s = execMma bank tile m variant ty sparse base s := rfl
@[simp] theorem exec_ACC_CLR (base : BitVec 8) (count : BitVec 9) (s : State) :
    exec (.ACC_CLR base count) s = execAccClr base count s := rfl
@[simp] theorem exec_ACC_ST (tile : BitVec 6) (base : BitVec 8) (ty : Ty) (rows : BitVec 4) (cols : BitVec 2) (s : State) :
    exec (.ACC_ST tile base ty rows cols) s = execAccSt tile base ty rows cols s := rfl
@[simp] theorem exec_TW (tile : BitVec 6) (phase : Bool) (s : State) :
    exec (.TW tile phase) s = execTw tile phase s := rfl
@[simp] theorem exec_TINC (obs : BitVec 5) (s : State) :
    exec (.TINC obs) s = execTinc obs s := rfl
@[simp] theorem exec_LOAD_VALUE_ARRIVAL (unit : Nat) (seq : Nat) (lane : Nat) (s : State) :
    exec (.LOAD_VALUE_ARRIVAL unit seq lane) s = execLoadValueArrival unit seq lane s := rfl
@[simp] theorem exec_ICINV_COMPLETE (id : Nat) (s : State) :
    exec (.ICINV_COMPLETE id) s = execIcinvComplete id s := rfl
@[simp] theorem exec_MATRIX_WORD_COMPLETE (core : Nat) (seq : Nat) (s : State) :
    exec (.MATRIX_WORD_COMPLETE core seq) s = execMatrixWordComplete core seq s := rfl
@[simp] theorem exec_MSQ_PROGRAM_START (core : Nat) (s : State) :
    exec (.MSQ_PROGRAM_START core) s = execMsqProgramStart core s := rfl
@[simp] theorem exec_MSQ_STATE_SAVE (core : Nat) (s : State) :
    exec (.MSQ_STATE_SAVE core) s = execMsqStateSave core s := rfl
@[simp] theorem exec_LOAD_OBJECT (ctx : Nat) (file : List Byte) (place : LoadPlace) (replaceTrap : Bool) (s : State) :
    exec (.LOAD_OBJECT ctx file place replaceTrap) s = execLoadObject ctx file place replaceTrap s := rfl
@[simp] theorem exec_UNLOAD_OBJECT (ctx : Nat) (obj : Nat) (s : State) :
    exec (.UNLOAD_OBJECT ctx obj) s = execUnloadObject ctx obj s := rfl
@[simp] theorem exec_ATTESTATION_REPORT (ctx : Nat) (nonce : List Byte) (s : State) :
    exec (.ATTESTATION_REPORT ctx nonce) s = execAttestationReport ctx nonce s := rfl
@[simp] theorem exec_DEVICE_RESET (s : State) :
    exec (.DEVICE_RESET) s = execDeviceReset s := rfl
@[simp] theorem exec_SECURE_BOOT (image : List Byte) (signature : List Byte) (s : State) :
    exec (.SECURE_BOOT image signature) s = execSecureBoot image signature s := rfl
@[simp] theorem exec_FIRMWARE_LOAD (value : BitVec 32) (point number : List Byte) (s : State) :
    exec (.FIRMWARE_LOAD value point number) s = execFirmwareLoad value point number s := rfl
@[simp] theorem exec_TRAINING (r : TrainResult) (s : State) :
    exec (.TRAINING r) s = execTraining r s := rfl
@[simp] theorem exec_DOORBELL (ctx : Nat) (off : Nat) (q : BitVec 32) (s : State) :
    exec (.DOORBELL ctx off q) s = execDoorbell ctx off q s := rfl
@[simp] theorem exec_CONTEXT_BLOCK_ADDRESS (ctx : Nat) (value : DWord) (s : State) :
    exec (.CONTEXT_BLOCK_ADDRESS ctx value) s = execContextBlockAddress ctx value s := rfl
@[simp] theorem exec_CONTEXT_ENABLE (ctx : Nat) (write : EnableWrite) (s : State) :
    exec (.CONTEXT_ENABLE ctx write) s = execContextEnable ctx write s := rfl
@[simp] theorem exec_REGISTER_WRITE (off : Nat) (value : DWord) (s : State) :
    exec (.REGISTER_WRITE off value) s = execRegisterWrite off value s := rfl
@[simp] theorem exec_JOB_ACCEPT (ctx : Nat) (q : Nat) (s : State) :
    exec (.JOB_ACCEPT ctx q) s = execJobAccept ctx q s := rfl
@[simp] theorem exec_LAUNCH_ELIGIBLE (launch : Nat) (s : State) :
    exec (.LAUNCH_ELIGIBLE launch) s = execLaunchEligible launch s := rfl
@[simp] theorem exec_LAUNCH_START (launch : Nat) (s : State) :
    exec (.LAUNCH_START launch) s = execLaunchStart launch s := rfl
@[simp] theorem exec_BANK_MODE_CHANGE (core : Nat) (bank : Nat) (mode : BitVec 2) (s : State) :
    exec (.BANK_MODE_CHANGE core bank mode) s = execBankModeChange core bank mode s := rfl
@[simp] theorem exec_LAUNCH_RING_DRAIN (ctx : Nat) (count : Nat) (s : State) :
    exec (.LAUNCH_RING_DRAIN ctx count) s = execLaunchRingDrain ctx count s := rfl
@[simp] theorem exec_GROUP_RETIRE (groups : List Nat) (s : State) :
    exec (.GROUP_RETIRE groups) s = execGroupRetire groups s := rfl
@[simp] theorem exec_SOLDER (group : Nat) (target : DWord) (s : State) :
    exec (.SOLDER group target) s = execSolder group target s := rfl
@[simp] theorem exec_REJOIN (group : Nat) (wave : Nat) (s : State) :
    exec (.REJOIN group wave) s = execRejoin group wave s := rfl
@[simp] theorem exec_GBAR_COMPLETE (group : Nat) (s : State) :
    exec (.GBAR_COMPLETE group) s = execGbarComplete group s := rfl
@[simp] theorem exec_WAITP_RELEASE (launch : Nat) (s : State) :
    exec (.WAITP_RELEASE launch) s = execWaitpRelease launch s := rfl
@[simp] theorem exec_PREEMPT_REQUEST (cores : List Nat) (ctxs : List Nat) (s : State) :
    exec (.PREEMPT_REQUEST cores ctxs) s = execPreemptRequest cores ctxs s := rfl
@[simp] theorem exec_GROUP_SAVE (group : Nat) (s : State) :
    exec (.GROUP_SAVE group) s = execGroupSave group s := rfl
@[simp] theorem exec_SWAP_OUT (group : Nat) (s : State) :
    exec (.SWAP_OUT group) s = execSwapOut group s := rfl
@[simp] theorem exec_GROUP_RESTORE (group : Nat) (core : Nat) (s : State) :
    exec (.GROUP_RESTORE group core) s = execGroupRestore group core s := rfl
@[simp] theorem exec_FETCH_FAULT (unit : Nat) (s : State) :
    exec (.FETCH_FAULT unit) s = execFetchFault unit s := rfl
@[simp] theorem exec_FAULT_RESOLVE (id : Nat) (s : State) :
    exec (.FAULT_RESOLVE id) s = execFaultResolve id s := rfl
@[simp] theorem exec_FAULT_DELIVER (id : Nat) (s : State) :
    exec (.FAULT_DELIVER id) s = execFaultDeliver id s := rfl
@[simp] theorem exec_WAKE_DELIVERY (id : Nat) (s : State) :
    exec (.WAKE_DELIVERY id) s = execWakeDelivery id s := rfl
@[simp] theorem exec_WAITU_EXPIRY (slice : Nat) (token : Nat) (s : State) :
    exec (.WAITU_EXPIRY slice token) s = execWaituExpiry slice token s := rfl
@[simp] theorem exec_SLEEP_EXPIRY (unit : Nat) (s : State) :
    exec (.SLEEP_EXPIRY unit) s = execSleepExpiry unit s := rfl
@[simp] theorem exec_SPILL_WALK (slice : Nat) (s : State) :
    exec (.SPILL_WALK slice) s = execSpillWalk slice s := rfl
@[simp] theorem exec_WAKE_LIST_RETRY (slice : Nat) (s : State) :
    exec (.WAKE_LIST_RETRY slice) s = execWakeListRetry slice s := rfl
@[simp] theorem exec_MONITOR_COUNTER_CLEAR (slice : Nat) (s : State) :
    exec (.MONITOR_COUNTER_CLEAR slice) s = execMonitorCounterClear slice s := rfl
@[simp] theorem exec_RETRANSLATE (asid : Nat) (lo : Nat) (hi : Nat) (s : State) :
    exec (.RETRANSLATE asid lo hi) s = execRetranslate asid lo hi s := rfl
@[simp] theorem exec_GILT_GRANT (ctx : Nat) (die : Nat) (units : Nat) (s : State) :
    exec (.GILT_GRANT ctx die units) s = execGiltGrant ctx die units s := rfl
@[simp] theorem exec_FRAME_POOL_PUSH (die : Nat) (frames : List Nat) (s : State) :
    exec (.FRAME_POOL_PUSH die frames) s = execFramePoolPush die frames s := rfl
@[simp] theorem exec_STASH_DRAIN (slice : Nat) (s : State) :
    exec (.STASH_DRAIN slice) s = execStashDrain slice s := rfl
@[simp] theorem exec_GILT_STARVATION (slice : Nat) (s : State) :
    exec (.GILT_STARVATION slice) s = execGiltStarvation slice s := rfl
@[simp] theorem exec_MIGRATE (asid : Nat) (region : Nat) (s : State) :
    exec (.MIGRATE asid region) s = execMigrate asid region s := rfl
@[simp] theorem exec_HOST_ACCESS (off : Nat) (acc : OutAcc) (s : State) :
    exec (.HOST_ACCESS off acc) s = execHostAccess off acc s := rfl
@[simp] theorem exec_PEER_ACCESS (node : BitVec 22) (id key : Nat) (msg : PeerMsgIn) (s : State) :
    exec (.PEER_ACCESS node id key msg) s = execPeerAccess node id key msg s := rfl
@[simp] theorem exec_PEER_TIMEOUT (id : Nat) (s : State) :
    exec (.PEER_TIMEOUT id) s = execPeerTimeout id s := rfl
@[simp] theorem exec_PEER_PATH_LOSS (node : BitVec 22) (s : State) :
    exec (.PEER_PATH_LOSS node) s = execPeerPathLoss node s := rfl
@[simp] theorem exec_SOFT_ERROR (site : SoftSite) (s : State) :
    exec (.SOFT_ERROR site) s = execSoftError site s := rfl
@[simp] theorem exec_COPY_ELEMENT_COMMIT (core : Nat) (s : State) :
    exec (.COPY_ELEMENT_COMMIT core) s = execCopyElementCommit core s := rfl
@[simp] theorem exec_COLL_OPERATION (ctx : Nat) (die : Nat) (q : Nat) (run : EngineRun) (failed : Option (BitVec 8)) (s : State) :
    exec (.COLL_OPERATION ctx die q run failed) s = execCollOperation ctx die q run failed s := rfl
@[simp] theorem exec_RESERVATION_GRANT (launch : Nat) (s : State) :
    exec (.RESERVATION_GRANT launch) s = execReservationGrant launch s := rfl
@[simp] theorem exec_RATE_WAVE_START (launch : Nat) (rate : Rate) (core : Nat) (s : State) :
    exec (.RATE_WAVE_START launch rate core) s = execRateWaveStart launch rate core s := rfl
@[simp] theorem exec_RASTERISE_PRIMITIVE (launch : Nat) (prim : Nat) (s : State) :
    exec (.RASTERISE_PRIMITIVE launch prim) s = execRasterisePrimitive launch prim s := rfl
@[simp] theorem exec_ELEMENT_RETIRE (elem : Nat) (s : State) :
    exec (.ELEMENT_RETIRE elem) s = execElementRetire elem s := rfl
@[simp] theorem exec_PYRAMID_DROP (die : Nat) (addr : Nat) (s : State) :
    exec (.PYRAMID_DROP die addr) s = execPyramidDrop die addr s := rfl
@[simp] theorem exec_ISLAND_OPERATING_POINT (island : Island) (point : Nat) (s : State) :
    exec (.ISLAND_OPERATING_POINT island point) s = execIslandOperatingPoint island point s := rfl
@[simp] theorem exec_HOST_WRITE_INVALIDATE (pa : Nat) (bytes : List Byte) (s : State) :
    exec (.HOST_WRITE_INVALIDATE pa bytes) s = execHostWriteInvalidate pa bytes s := rfl
@[simp] theorem exec_SPAWN_AREA_GROW (ctx : Nat) (bytes : Nat) (s : State) :
    exec (.SPAWN_AREA_GROW ctx bytes) s = execSpawnAreaGrow ctx bytes s := rfl

end Sys2Proof.Machine
end

