-- ==== Sys2Proof/Laws/Memory.lean ====
section
/-!
SUPPORT. What the operations over memory do: reading physical bytes after writing them, the canonical
form, the bytes of a line that is written, and the two shared operations of a trap.
-/

namespace Sys2Proof.Machine

open Sys2Proof

/-! ## Physical bytes (spec 11 R179) -/

theorem AMap.getRange_length {β : Type} (m : AMap β) (d : β) (k n : Nat) :
    (AMap.getRange m d k n).length = n := by
  induction n generalizing k with
  | zero => rfl
  | succ n ih => simp [AMap.getRange, ih]

@[simp] theorem State.readPhys_length (s : State) (pa n : Nat) : (s.readPhys pa n).length = n :=
  AMap.getRange_length _ _ _ _

theorem AMap.getRange_getD {β : Type} (m : AMap β) (d : β) (k n i : Nat) (h : i < n) :
    (AMap.getRange m d k n).getD i d = m.get d (k + i) := by
  induction n generalizing k i with
  | zero => omega
  | succ n ih =>
    cases i with
    | zero => simp [AMap.getRange]
    | succ i =>
      simp only [AMap.getRange, List.getD_cons_succ]
      rw [ih _ _ (by omega)]
      congr 1
      omega

/-- Each byte of a range reads as the memory holds it. -/
theorem State.readPhys_getD (s : State) (pa n i : Nat) (h : i < n) :
    (s.readPhys pa n).getD i 0 = AMap.get s.mem.phys 0 (pa + i) := AMap.getRange_getD _ _ _ _ _ h

/-- Bytes that are written read back. -/
theorem State.phys_writePhys_same (s : State) (pa i : Nat) (bs : List Byte) (h : i < bs.length) :
    AMap.get (s.writePhys pa bs).mem.phys 0 (pa + i) = bs.getD i 0 :=
  AMap.get_setRange_same _ _ _ _ _ h

/-- Every other byte reads as before. -/
theorem State.phys_writePhys_other (s : State) (pa a : Nat) (bs : List Byte)
    (h : a < pa ∨ pa + bs.length ≤ a) :
    AMap.get (s.writePhys pa bs).mem.phys 0 a = AMap.get s.mem.phys 0 a :=
  AMap.get_setRange_other _ _ _ _ _ h

/-- A range that is written reads back whole. -/
@[simp] theorem State.readPhys_writePhys (s : State) (pa : Nat) (bs : List Byte) :
    (s.writePhys pa bs).readPhys pa bs.length = bs := by
  apply List.ext_getElem (by simp)
  intro i h _
  have hi : i < bs.length := by simpa using h
  have := State.readPhys_getD (s.writePhys pa bs) pa bs.length i hi
  rw [State.phys_writePhys_same _ _ _ _ hi] at this
  rwa [List.getD_eq_getElem _ _ h, List.getD_eq_getElem _ _ hi] at this

/-- A write of physical bytes keeps the canonical form. -/
theorem State.wf_writePhys (s : State) (pa : Nat) (bs : List Byte)
    (h : Memory.wf s.mem.phys = true) : Memory.wf (s.writePhys pa bs).mem.phys = true :=
  AMap.wf_setRange _ _ _ _ h

/-- Memory lists nothing at reset. -/
theorem State.wf_reset : Memory.wf State.reset.mem.phys = true := rfl

@[simp] theorem State.work_writePhys (s : State) (pa : Nat) (bs : List Byte) :
    (s.writePhys pa bs).work = s.work := rfl
@[simp] theorem State.cores_writePhys (s : State) (pa : Nat) (bs : List Byte) :
    (s.writePhys pa bs).cores = s.cores := rfl
@[simp] theorem State.ctxs_writePhys (s : State) (pa : Nat) (bs : List Byte) :
    (s.writePhys pa bs).ctxs = s.ctxs := rfl
@[simp] theorem State.unit_writePhys (s : State) (pa : Nat) (bs : List Byte) (u : Nat) :
    (s.writePhys pa bs).unit u = s.unit u := rfl
@[simp] theorem State.l2_writePhys (s : State) (pa : Nat) (bs : List Byte) :
    (s.writePhys pa bs).mem.l2 = s.mem.l2 := rfl

/-! ## Bytes of a number -/

@[simp] theorem leBytes_length (n k : Nat) : (leBytes n k).length = k := by
  induction k generalizing n with
  | zero => rfl
  | succ k ih => simp [leBytes, ih]

/-- The bytes of a number give back what fits in them. -/
theorem leNat_leBytes (n k : Nat) : leNat (leBytes n k) = n % 2 ^ (8 * k) := by
  induction k generalizing n with
  | zero => simp [leBytes, leNat, Nat.mod_one]
  | succ k ih =>
    simp only [leBytes, leNat, ih, BitVec.toNat_ofNat]
    rw [show 8 * (k + 1) = 8 + 8 * k by omega, Nat.pow_add, Nat.mod_mul]

/-! ## Lines -/

/-- Replacing bytes that lie within a line keeps its length. -/
theorem patch_length (data : List Byte) (lo : Nat) (bs : List Byte) (h : lo + bs.length ≤ data.length) :
    (patch data lo bs).length = data.length := by
  simp only [patch, List.length_append, List.length_take, List.length_drop]
  omega

/-- The bytes that are replaced. -/
theorem patch_same (data : List Byte) (lo : Nat) (bs : List Byte) (h : lo + bs.length ≤ data.length) :
    ((patch data lo bs).drop lo).take bs.length = bs := by
  have hl : (data.take lo).length = lo := by simp; omega
  unfold patch
  rw [List.append_assoc, List.drop_append_of_le_length (by omega)]
  simp [List.drop_of_length_le (Nat.le_of_eq hl)]

/-- Every other byte of the line stays. -/
theorem patch_other (data : List Byte) (lo : Nat) (bs : List Byte) (d : Byte) (i : Nat)
    (h : lo + bs.length ≤ data.length) (hi : i < lo ∨ lo + bs.length ≤ i) :
    (patch data lo bs).getD i d = data.getD i d := by
  have hl : (data.take lo).length = lo := by simp; omega
  unfold patch
  rw [List.append_assoc]
  rcases hi with hi | hi
  · rw [List.getD_append _ _ _ _ (by omega)]
    simp [List.getD, hi]
  · rw [List.getD_append_right _ _ _ _ (by omega), hl,
      List.getD_append_right _ _ _ _ (by omega)]
    simp only [List.getD, List.getElem?_drop]
    congr 2
    omega

/-! ## Traps (spec 01 R17, R19, R20) -/

/-- A trap of the instruction at the pc enters the handler at that pc. -/
theorem State.takeTrap_eq (s : State) (u : Nat) (c : Word) (i : DWord) :
    s.takeTrap u c i = s.enterHandler u c (s.unit u).pc i := rfl

/-- A return with no delivered fault goes on at %tpc, outside the handler. -/
theorem State.trapReturn_of_none (s : State) (u : Nat)
    (h : ((s.unit u).pend.find? fun p => p.status = .delivered) = none) :
    s.trapReturn u = s.setUnit u { s.unit u with pc := (s.unit u).tpc, inHandler := false } := by
  unfold State.trapReturn
  simp only [h]

end Sys2Proof.Machine
end

