-- ==== Sys2Proof/Tests/Slice0.lean ====
section
/-!
SUPPORT. Tests: refusals of ill-formed terms, words of the spec that decode, single instructions on small
states, and for every statement states that meet its hypotheses.
-/

namespace Sys2Proof.Tests

open Sys2Proof Sys2Proof.Machine

set_option Elab.async false

/-! ## Small states -/

/-- A head of rate K with no guard. -/
def hd : Head := { gate := false, rate := .K, guard := 0, gneg := false, hints := 0 }

/-- The state of a placed unit, whose fields may be changed; lanes 1 and 4 execute. -/
def bench (f : Wave → Wave := id) : State :=
  let s : State := { State.reset.placeCode 0 with cur := 1, curMsq := 0 }
  s.setUnit 1 (f { benchWave with x := 0x12, o := 0x1F })

/-- Integer operands. -/
def alu (d a b c : Nat) : AluF :=
  { d := BitVec.ofNat 8 d, a := BitVec.ofNat 8 a, b := BitVec.ofNat 8 b, c := BitVec.ofNat 8 c
    ty := .n32, imm := false, mod := 0, ext := none }

/-- A register pair of every lane. -/
def pair (w : Wave) (r v : Nat) : Wave := (List.range 5).foldl (fun w l => w.setVal true r l v) w

/-- A line of a slice. -/
def lineOf (va : Nat) (data : List Byte) : Line :=
  { asid := 0, va := va / 128, data := data, dirty := true, held := false, ctx := 0
    attr := { r := true, w := true, x := true }, retain := false, stream := false, poison := false
    leaf := 0, used := 0, alloc := 0 }

/-- A state with the line of an address at its home slice. -/
def withLine (s : State) (va : Nat) (data : List Byte) : State :=
  let k := setKey (s.homeSlice 0 va) (va / 128)
  { s with mem := { s.mem with l2 := s.mem.l2.set [] k (lineOf va data :: s.mem.l2.get [] k) } }

/-- Bytes that differ. -/
def bytes128 : List Byte := (List.range 128).map fun i => BitVec.ofNat 8 (i * 7 + 3)

/-- What `Issues` asks, as one test. -/
def issuesB (s : State) (i : Instr) (h : Head) : Bool :=
  s.ready s.cur && (s.unit s.cur).trapNext.isNone && decide (i.head? = some h) &&
  (!(s.draw (s.unit s.cur).launch).live || decide (h.rate = (s.unit s.cur).rate)) &&
  !(s.unit s.cur).replaying && !s.mustWait (s.unit s.cur) h i &&
  (s.issueTrap (s.unit s.cur) h i).isNone

theorem issues_of (s : State) (i : Instr) (h : Head) (hb : issuesB s i h = true) : Issues s i h := by
  simp only [issuesB, Bool.and_eq_true, Bool.or_eq_true, Bool.not_eq_true', decide_eq_true_eq,
    Option.isNone_iff_eq_none] at hb
  obtain ⟨⟨⟨⟨⟨⟨a, b⟩, c⟩, d⟩, e⟩, f⟩, g⟩ := hb
  exact ⟨a, b, c, fun hl => by simpa [hl] using d, e, f, g⟩

theorem acts_of (s : State) (i : Instr) (h : Head)
    (hb : (issuesB s i h && (s.unit s.cur).acts h) = true) : Acts s i h := by
  rw [Bool.and_eq_true] at hb
  exact ⟨issues_of s i h hb.1, hb.2⟩

theorem issues_all (s : State) (h : Head) (l : List Instr) (hb : (l.all fun i => issuesB s i h) = true) :
    ∀ i ∈ l, Issues s i h :=
  fun i hi => issues_of s i h (List.all_eq_true.mp hb i hi)

theorem acts_all (s : State) (h : Head) (l : List Instr)
    (hb : (l.all fun i => issuesB s i h && (s.unit s.cur).acts h) = true) : ∀ i ∈ l, Acts s i h :=
  fun i hi => acts_of s i h (List.all_eq_true.mp hb i hi)


/-! ## Decoding is right (spec 03) -/

/-- The fields of the formats, for short. -/
def fields (ty : Ty) (d a b c : BitVec 8) : AluF :=
  { d := d, a := a, b := b, c := c, ty := ty, imm := false, mod := 0, ext := none }
def address (base : BitVec 7) (idx : Bool) (index : BitVec 8) (scl : Bool) (disp : BitVec 8) : AddrF :=
  { base := base, idx := idx, index := index, scl := scl, disp := disp }
def memory (data : BitVec 8) (addr : AddrF) (size : Size) (order : Order) (obs : BitVec 5) : MemF :=
  { data := data, addr := addr, size := size, order := order, obs := obs }
def atomic (a b : BitVec 8) (kind : Kind) (imm ret : Bool) (value : BitVec 32) : AtomF :=
  { a := a, b := b, kind := kind, imm := imm, ret := ret, value := value }
def wait (d : BitVec 8) (base : BitVec 7) (operand limit : BitVec 8) (cmp : WCmp) (signed wide : Bool)
    (disp : BitVec 8) (ext : Option (BitVec 32)) : WaituF :=
  { d := d, base := base, operand := operand, limit := limit, cmp := cmp, signed := signed, wide := wide
    disp := disp, ext := ext }
def sweep (d a b : BitVec 8) (count : BitVec 12) (ty : Ty) (stepD stepA stepB : BitVec 16) : SweepF :=
  { d := d, a := a, b := b, count := count, ty := ty, stepD := stepD, stepA := stepA, stepB := stepB }
def scalar (d a b : BitVec 5) (imm : Bool) (value : BitVec 32) : MsqS :=
  { d := d, a := a, b := b, imm := imm, value := value }
def branch (a b : BitVec 5) (off : BitVec 32) : MsqB := { a := a, b := b, off := off }

/-- A word, with its extension word, decodes to an instruction that is well formed and encodes to it. -/
def decodes (w next : DWord) (i : Instr) : Bool :=
  match decode w next with
  | .ok j => decide (j = i) && wellFormed i && decide (encode i = if hasExt w then [w, next] else [w])
  | .error _ => false

/-- A matrix word likewise. -/
def decodesMsq (w : DWord) (i : Instr) : Bool :=
  match decodeMsq w with
  | .ok j => decide (j = i) && wellFormed i && decide (encode i = [w])
  | .error _ => false

/-- Words written out from the fields of control, branches and fork (R54 to R56). -/
def wordsControl : List (DWord × DWord × Instr) :=
  [(0x0000_0000_0000_0000, 0, .NOP hd),
    (0x0000_0040_0000_0000, 0, .EXIT hd),
    (0x0000_0080_0000_BEEF, 0, .TRAP hd 0xBEEF),
    (0x0000_00C0_0000_1234, 0, .BRK hd 0x1234),
    (0x0000_0100_0000_0000, 0, .TRET hd),
    (0x0000_0140_0000_0ABC, 0, .SAFEPT hd 0xABC),
    (0x0000_0180_0000_0000, 0, .IDEM_BEGIN hd),
    (0x0000_01C0_0000_0000, 0, .IDEM_END hd),
    (0x0000_0200_0000_0FED, 0, .MEET hd 0xFED),
    (0x0000_0245_8B00_0000, 0, .ICINV hd 11 22),
    (0x0000_0280_0000_0000, 0, .IFENCE hd),
    (0x0400_0000_FFFF_FFFD, 0, .BRA hd 0xFFFF_FFFD),
    (0x0400_0106_0000_0055, 0, .CALL hd 6 0x55),
    (0x0400_0208_0000_0000, 0, .JMP hd 8),
    (0x0400_030A_0000_0000, 0, .RET hd 10),
    (0x0400_0407_0000_0099, 0, .BRX hd 7 0x99),
    (0x0801_0512_3456_0000, 0x0000_0000_89AB_CDEF, .FORK hd 5 0x123 0x456 0x89AB_CDEF)]

theorem test_decode_control : (wordsControl.all fun p => decodes p.1 p.2.1 p.2.2) = true := by
  decide

/-- Words written out from the fields of the special registers (R57). -/
def wordsSpecial : List (DWord × DWord × Instr) :=
  [(0x0C00_00E0_0000_0000, 0, .SYSR hd 14 .lane),
    (0x0C00_00E0_1000_0000, 0, .SYSR hd 14 .wave),
    (0x0C00_00E0_2000_0000, 0, .SYSR hd 14 .grp),
    (0x0C00_00E0_3000_0000, 0, .SYSR hd 14 .ngrp),
    (0x0C00_00E0_4000_0000, 0, .SYSR hd 14 .gsize),
    (0x0C00_00E0_5000_0000, 0, .SYSR hd 14 .gw),
    (0x0C00_00E0_6000_0000, 0, .SYSR hd 14 .elem),
    (0x0C00_00E0_7000_0000, 0, .SYSR hd 14 .core),
    (0x0C00_00E0_8000_0000, 0, .SYSR hd 14 .die),
    (0x0C00_00E0_9000_0000, 0, .SYSR hd 14 .cyc),
    (0x0C00_00E0_A000_0000, 0, .SYSR hd 14 .fflags),
    (0x0C00_00E0_B000_0000, 0, .SYSR hd 14 .tcause),
    (0x0C00_00E0_C000_0000, 0, .SYSR hd 14 .tpc),
    (0x0C00_00E0_D000_0000, 0, .SYSR hd 14 .tinst),
    (0x0C00_00E1_0000_0000, 0, .SYSR hd 14 .ncores),
    (0x0C00_00E1_1000_0000, 0, .SYSR hd 14 .nslices),
    (0x0C00_00E1_2000_0000, 0, .SYSR hd 14 .nchans),
    (0x0C00_00E1_3000_0000, 0, .SYSR hd 14 .nports),
    (0x0C00_00E1_4000_0000, 0, .SYSR hd 14 .rev),
    (0x0C00_00E1_5000_0000, 0, .SYSR hd 14 .feat),
    (0x0C00_00D0_A800_0000, 0, .SYSW hd .fflags 13),
    (0x0C00_00E0_C800_0000, 0, .SYSW hd .tpc 14)]

theorem test_decode_special : (wordsSpecial.all fun p => decodes p.1 p.2.1 p.2.2) = true := by
  decide

/-- Words written out from the fields of mask and execution-mask words (R61). -/
def wordsMasks : List (DWord × DWord × Instr) :=
  [(0x2000_0010_2030_0000, 0, .KAND hd (fields .n32 1 2 3 0)),
    (0x2000_0040_5060_0100, 0, .KOR hd (fields .n32 4 5 6 0)),
    (0x2000_0070_8090_0200, 0, .KXOR hd (fields .n32 7 8 9 0)),
    (0x2000_00A0_B000_0300, 0, .KNOT hd (fields .n32 10 11 0 0)),
    (0x2000_00C0_D000_0400, 0, .KMOV_K_K hd (fields .n32 12 13 0 0)),
    (0x2000_00EC_8000_0401, 0, .KMOV_K_V hd { fields .n32 14 200 0 0 with mod := 1 }),
    (0x2000_0C90_F000_0402, 0, .KMOV_V_K hd { fields .n32 201 15 0 0 with mod := 2 }),
    (0x2000_0CA0_1000_0500, 0, .KPOP hd (fields .n32 202 1 0 0)),
    (0x2000_0CB0_2000_0600, 0, .KFFS hd (fields .n32 203 2 0 0)),
    (0x2000_0030_0000_0700, 0, .XGET hd (fields .n32 3 0 0 0)),
    (0x2000_0000_4000_0800, 0, .XSET hd (fields .n32 0 4 0 0)),
    (0x2000_0000_5000_0900, 0, .XAND hd (fields .n32 0 5 0 0))]

theorem test_decode_masks : (wordsMasks.all fun p => decodes p.1 p.2.1 p.2.2) = true := by
  decide

/-- Words written out from the fields of integers, logic, moves and comparisons (R61). -/
def wordsIntegers : List (DWord × DWord × Instr) :=
  [(0x3000_0010_3050_0011, 0, .ADD hd { fields .i32 1 3 5 0 with mod := 1 }),
    (0x3000_0020_4FE0_0128, 0, .SUB hd { fields .n64 2 4 254 0 with imm := true }),
    (0x3000_0070_90B0_D200, 0, .ADDC hd (fields .n32 7 9 11 13)),
    (0x3000_0080_A0C0_E320, 0, .SUBB hd (fields .n64 8 10 12 14)),
    (0x3000_0020_6000_0430, 0, .NEG hd (fields .i64 2 6 0 0)),
    (0x3000_0030_7000_0510, 0, .ABS hd (fields .i32 3 7 0 0)),
    (0x3001_0010_2000_0608, 0x0000_0000_1234_5678, .MIN hd { fields .n32 1 2 0 0 with imm := true, ext := some 0x12345678 }),
    (0x3000_0040_6080_0730, 0, .MAX hd (fields .i64 4 6 8 0)),
    (0x3000_0050_7090_0800, 0, .MUL_LO hd (fields .n32 5 7 9 0)),
    (0x3000_0060_80A0_0910, 0, .MUL_HI hd (fields .i32 6 8 10 0)),
    (0x3000_00C0_E101_2A20, 0, .MAD hd (fields .n64 12 14 16 18)),
    (0x3400_0151_F290_0000, 0, .AND hd (fields .n32 21 31 41 0)),
    (0x3400_0162_02A0_0100, 0, .OR hd (fields .n32 22 32 42 0)),
    (0x3400_0172_12B0_0200, 0, .XOR hd (fields .n32 23 33 43 0)),
    (0x3400_0020_4000_0320, 0, .NOT hd (fields .n64 2 4 0 0)),
    (0x3400_0162_0290_0420, 0, .SHL hd (fields .n64 22 32 41 0)),
    (0x3400_0182_22A0_0520, 0, .SHR hd (fields .n64 24 34 42 0)),
    (0x3400_01A2_42B0_0620, 0, .SRA hd (fields .n64 26 36 43 0)),
    (0x3400_0070_8090_5718, 0, .BFE hd { fields .i32 7 8 9 5 with imm := true }),
    (0x3400_0070_8090_A800, 0, .BFI hd (fields .n32 7 8 9 10)),
    (0x3400_0333_C000_0920, 0, .POPC hd (fields .n64 51 60 0 0)),
    (0x3400_0353_E000_0A20, 0, .CLZ hd (fields .n64 53 62 0 0)),
    (0x3400_0374_0000_0B20, 0, .CTZ hd (fields .n64 55 64 0 0)),
    (0x3400_0333_5000_0C00, 0, .BREV hd (fields .n32 51 53 0 0)),
    (0x3800_002F_E000_0020, 0, .MOV hd (fields .n64 2 254 0 0)),
    (0x3800_0082_0000_0108, 0, .MOVI hd { fields .n32 8 32 0 0 with imm := true }),
    (0x3800_0010_2030_F200, 0, .SEL hd (fields .n32 1 2 3 15)),
    (0x3800_0040_6090_0323, 0, .LEA hd { fields .n64 4 6 9 0 with mod := 3 }),
    (0x3801_0140_0000_0428, 0x0000_0040_0010_0048, .LEA_SYMBOL hd { fields .n64 20 0 0 0 with imm := true, ext := some 0x4000100048 }),
    (0x3C00_0010_A1E0_0070, 0, .CMP_EQ hd (fields .f64 1 10 30 0)),
    (0x3C00_0020_C200_0100, 0, .CMP_NE hd (fields .n32 2 12 32 0)),
    (0x3C00_0030_E220_0270, 0, .CMP_LT hd (fields .f64 3 14 34 0)),
    (0x3C00_0041_0240_0300, 0, .CMP_LE hd (fields .n32 4 16 36 0)),
    (0x3C00_0051_2260_0470, 0, .CMP_GT hd (fields .f64 5 18 38 0)),
    (0x3C00_0061_4280_0500, 0, .CMP_GE hd (fields .n32 6 20 40 0)),
    (0x3C00_0070_8090_0660, 0, .CMP_NUM hd (fields .f32 7 8 9 0)),
    (0x3C00_0080_A0C0_0770, 0, .CMP_NAN hd (fields .f64 8 10 12 0))]

theorem test_decode_integers : (wordsIntegers.all fun p => decodes p.1 p.2.1 p.2.2) = true := by
  decide

/-- Words written out from the fields of floats and words that cross lanes (R62). -/
def wordsFloats : List (DWord × DWord × Instr) :=
  [(0x6000_0060_4050_0061, 0, .FADD hd { fields .f32 6 4 5 0 with mod := 1 }),
    (0x6000_0070_8090_0162, 0, .FSUB hd { fields .f32 7 8 9 0 with mod := 2 }),
    (0x6000_0070_8020_026B, 0, .FMUL hd { fields .f32 7 8 2 0 with imm := true, mod := 3 }),
    (0x6000_0070_8090_A360, 0, .FFMA hd (fields .f32 7 8 9 10)),
    (0x6000_0020_4060_0470, 0, .FMIN hd (fields .f64 2 4 6 0)),
    (0x6000_0030_5070_0560, 0, .FMAX hd (fields .f32 3 5 7 0)),
    (0x6000_0030_5000_0660, 0, .FABS hd (fields .f32 3 5 0 0)),
    (0x6000_0040_6000_0770, 0, .FNEG hd (fields .f64 4 6 0 0)),
    (0x6000_0050_7000_0861, 0, .FRND hd { fields .f32 5 7 0 0 with mod := 1 }),
    (0x6000_0050_6080_0970, 0, .FCMP hd (fields .f64 5 6 8 0)),
    (0x6400_00A0_8000_7060, 0, .FCVT hd (fields .f32 10 8 0 7)),
    (0x6800_0020_C160_0070, 0, .DADD hd (fields .f64 2 12 22 0)),
    (0x6800_0040_E180_0171, 0, .DSUB hd { fields .f64 4 14 24 0 with mod := 1 }),
    (0x6800_0061_01A0_0272, 0, .DMUL hd { fields .f64 6 16 26 0 with mod := 2 }),
    (0x6800_0081_21C2_6370, 0, .DFMA hd (fields .f64 8 18 28 38)),
    (0x6C00_0091_31D2_7050, 0, .HFMA2 hd (fields .bf16 9 19 29 39)),
    (0x8800_0020_C1F0_0020, 0, .SHFL_IDX hd (fields .n64 2 12 31 0)),
    (0x8800_0040_E200_0120, 0, .SHFL_UP hd (fields .n64 4 14 32 0)),
    (0x8800_0061_0210_0220, 0, .SHFL_DOWN hd (fields .n64 6 16 33 0)),
    (0x8800_0081_2220_0320, 0, .SHFL_XOR hd (fields .n64 8 18 34 0)),
    (0x8800_00A1_4230_0420, 0, .BCAST hd (fields .n64 10 20 35 0)),
    (0x8800_0010_2000_0500, 0, .VOTE_ANY hd (fields .n32 1 2 0 0)),
    (0x8800_0030_4000_0600, 0, .VOTE_ALL hd (fields .n32 3 4 0 0)),
    (0x8800_0054_2000_0720, 0, .VOTE_EQ hd (fields .n64 5 66 0 0)),
    (0x8800_0424_3000_0800, 0, .MATCH hd (fields .n32 66 67 0 0)),
    (0x8C00_0021_6000_0060, 0, .RED_ADD hd (fields .f32 2 22 0 0)),
    (0x8C00_0011_5000_0011, 0, .SCAN_ADD hd { fields .i32 1 21 0 0 with mod := 1 }),
    (0x8C00_0041_8000_0160, 0, .RED_MIN hd (fields .f32 4 24 0 0)),
    (0x8C00_0021_6000_0113, 0, .SCAN_MIN hd { fields .i32 2 22 0 0 with mod := 3 }),
    (0x8C00_0061_A000_0260, 0, .RED_MAX hd (fields .f32 6 26 0 0)),
    (0x8C00_0031_7000_0211, 0, .SCAN_MAX hd { fields .i32 3 23 0 0 with mod := 1 }),
    (0x8C00_0081_C000_0320, 0, .RED_AND hd (fields .n64 8 28 0 0)),
    (0x8C00_0041_8000_0313, 0, .SCAN_AND hd { fields .i32 4 24 0 0 with mod := 3 }),
    (0x8C00_00A1_E000_0420, 0, .RED_OR hd (fields .n64 10 30 0 0)),
    (0x8C00_0051_9000_0411, 0, .SCAN_OR hd { fields .i32 5 25 0 0 with mod := 1 }),
    (0x8C00_00C2_0000_0520, 0, .RED_XOR hd (fields .n64 12 32 0 0)),
    (0x8C00_0061_A000_0513, 0, .SCAN_XOR hd { fields .i32 6 26 0 0 with mod := 3 })]

theorem test_decode_floats : (wordsFloats.all fun p => decodes p.1 p.2.1 p.2.2) = true := by
  decide

/-- Words written out from the fields of memory words, atomics and waitu (R14, R51 to R53, R58). -/
def wordsMemory : List (DWord × DWord × Instr) :=
  [(0x9800_0060_B21B_6CF0, 0, .LD hd (memory 6 (address 5 true 33 true 240) .b64 .acq 22)),
    (0x9C00_0071_2002_8204, 0, .ST hd (memory 7 (address 9 false 0 false 4) .b32 .rel 1)),
    (0xA000_0090_B041_0081, 0, .LDS hd (memory 9 (address 5 true 4 false 129) .b16 .weak 0)),
    (0xA400_00C0_C004_0001, 0, .STS hd (memory 12 (address 6 false 0 false 1) .b128 .weak 0)),
    (0xA801_0090_A002_0000, 0x0700_0100_0000_0000, .ATOM_ADD hd (memory 9 (address 5 false 0 false 0) .b32 .weak 0) (atomic 7 0 .unsigned false true 0x0)),
    (0xA801_0000_A002_0000, 0x0700_1000_0000_0000, .ATOM_SUB hd (memory 0 (address 5 false 0 false 0) .b32 .weak 0) (atomic 7 0 .unsigned false false 0x0)),
    (0xA801_0090_A002_0000, 0x0000_2700_FFFF_FFFE, .ATOM_MIN hd (memory 9 (address 5 false 0 false 0) .b32 .weak 0) (atomic 0 0 .signed true true 0xFFFFFFFE)),
    (0xA801_0090_A002_C600, 0x0700_3900_0000_0000, .ATOM_MAX hd (memory 9 (address 5 false 0 false 0) .b32 .acqrel 3) (atomic 7 0 .float false true 0x0)),
    (0xA801_00A0_A003_0000, 0x0800_4100_0000_0000, .ATOM_AND hd (memory 10 (address 5 false 0 false 0) .b64 .weak 0) (atomic 8 0 .unsigned false true 0x0)),
    (0xA801_0090_A002_4600, 0x0700_5100_0000_0000, .ATOM_OR hd (memory 9 (address 5 false 0 false 0) .b32 .acq 3) (atomic 7 0 .unsigned false true 0x0)),
    (0xA801_0090_A002_8600, 0x0700_6100_0000_0000, .ATOM_XOR hd (memory 9 (address 5 false 0 false 0) .b32 .rel 3) (atomic 7 0 .unsigned false true 0x0)),
    (0xA801_0090_A002_0000, 0x0700_7100_0000_0000, .ATOM_EXCH hd (memory 9 (address 5 false 0 false 0) .b32 .weak 0) (atomic 7 0 .unsigned false true 0x0)),
    (0xA801_0090_A002_0000, 0x070B_8100_0000_0000, .ATOM_CAS hd (memory 9 (address 5 false 0 false 0) .b32 .weak 0) (atomic 7 11 .unsigned false true 0x0)),
    (0xA801_0090_A002_0000, 0x0000_9300_0000_0055, .ATOM_INC hd (memory 9 (address 5 false 0 false 0) .b32 .weak 0) (atomic 0 0 .unsigned true true 0x55)),
    (0xA801_0090_A002_0000, 0x0700_A100_0000_0000, .ATOM_DEC hd (memory 9 (address 5 false 0 false 0) .b32 .weak 0) (atomic 7 0 .unsigned false true 0x0)),
    (0xAC00_0000_0000_7400, 0, .FENCE_ACQ hd 0b11010),
    (0xAC00_0000_0000_8A00, 0, .FENCE_REL hd 0b00101),
    (0xAC00_0011_30C0_0000, 0, .DISCARD hd 9 12),
    (0xAC00_0021_30C8_00FE, 0, .PREF hd (address 9 true 12 true 0xFE)),
    (0xB000_0050_6002_4400, 0, .LD_POLL hd (memory 5 (address 3 false 0 false 0) .b32 .acq 2)),
    (0xB801_0030_A100_0BFF, 0x0000_0000_1234_5678, .WAITU hd (wait 3 5 8 0 .ge true true 0xFF (some 0x1234_5678))),
    (0xB800_0030_A0E0_D401, 0, .WAITU hd (wait 3 5 7 6 .none false false 1 none))]

theorem test_decode_memory : (wordsMemory.all fun p => decodes p.1 p.2.1 p.2.2) = true := by
  decide

/-- Words written out from the fields of work, rates, tiles and the transform pipe (R63, R64). -/
def wordsWork : List (DWord × DWord × Instr) :=
  [(0xBC00_0004_0000_0008, 0, .SLEEP hd { fields .n32 0 64 0 0 with imm := true }),
    (0xBC00_0030_500C_8100, 0, .SPAWN hd (fields .n32 3 5 0 200)),
    (0xBC00_0030_6000_0200, 0, .LAUNCH hd (fields .n32 3 6 0 0)),
    (0xBC00_0000_0000_0300, 0, .TRIG hd (fields .n32 0 0 0 0)),
    (0xBC00_0090_0000_0400, 0, .WAITP hd (fields .n32 9 0 0 0)),
    (0xBC00_0000_6000_0503, 0, .CANCEL hd { fields .n32 0 6 0 0 with mod := 3 }),
    (0xBC00_0080_6000_0602, 0, .CCNT hd { fields .n32 8 6 0 0 with mod := 2 }),
    (0xBC00_0000_0000_0700, 0, .GBAR hd (fields .n32 0 0 0 0)),
    (0xC000_0000_6003_E020, 0, .HOLD hd (fields .n64 0 6 0 62)),
    (0xC000_0070_0003_F100, 0, .TAKE hd (fields .n32 7 0 0 63)),
    (0xC000_0070_0000_9260, 0, .IPL hd (fields .f32 7 0 0 9)),
    (0xC400_0070_9000_0000, 0, .AMP hd (fields .n32 7 9 0 0)),
    (0xC400_0000_9000_0100, 0, .EMIT_VTX hd (fields .n32 0 9 0 0)),
    (0xC400_0000_9000_0101, 0, .EMIT_PRIM hd { fields .n32 0 9 0 0 with mod := 1 }),
    (0xC800_0090_0000_0000, 0, .COV hd (fields .n32 9 0 0 0)),
    (0xC800_0030_C090_0160, 0, .ZTEST hd (fields .f32 3 12 9 0)),
    (0xC800_0000_5000_0260, 0, .ZWR hd (fields .f32 0 5 0 0)),
    (0xC800_0000_8000_7360, 0, .FBW hd (fields .f32 0 8 0 7)),
    (0xCC00_0091_0070_0000, 0, .SPAWNY hd (fields .n32 9 16 7 0)),
    (0xCC00_0000_9000_0100, 0, .RAYRET hd (fields .n32 0 9 0 0)),
    (0xCC00_0090_6180_0200, 0, .BVHT hd (fields .n32 9 6 24 0)),
    (0xD000_0000_7090_5000, 0, .TARM hd (fields .n32 0 7 9 5)),
    (0xD000_0000_0000_6100, 0, .TWAIT hd (fields .n32 0 0 0 6)),
    (0xD000_0000_0000_7200, 0, .TREL hd (fields .n32 0 0 0 7)),
    (0xD000_0090_0000_8300, 0, .TSTAT hd (fields .n32 9 0 0 8)),
    (0xD000_0000_A000_9400, 0, .TCOPY hd (fields .n32 0 10 0 9)),
    (0xD401_0000_A000_0008, 0x0000_0000_0000_0038, .MSTART hd { fields .n32 0 10 0 0 with imm := true, ext := some 0x38 }),
    (0xD400_0090_C000_0100, 0, .COLL hd (fields .n32 9 12 0 0)),
    (0xD800_0151_F000_0060, 0, .TRCP hd (fields .f32 21 31 0 0)),
    (0xD800_0162_0000_0160, 0, .TRSQ hd (fields .f32 22 32 0 0)),
    (0xD800_0172_1000_0260, 0, .TSQRT hd (fields .f32 23 33 0 0)),
    (0xD800_0182_22C0_0360, 0, .TDIV hd (fields .f32 24 34 44 0)),
    (0xD800_0192_3000_0460, 0, .TEXP2 hd (fields .f32 25 35 0 0)),
    (0xD800_01A2_4000_0560, 0, .TLOG2 hd (fields .f32 26 36 0 0)),
    (0xD800_01B2_5000_0660, 0, .TSIN hd (fields .f32 27 37 0 0)),
    (0xD800_01C2_6000_0760, 0, .TCOS hd (fields .f32 28 38 0 0)),
    (0xD800_0030_4050_0810, 0, .IDIV hd (fields .i32 3 4 5 0)),
    (0xD800_0102_8090_0900, 0, .DEC_RLE hd (fields .n32 16 40 9 0)),
    (0xD800_0203_0090_0A00, 0, .DEC_BITS hd (fields .n32 32 48 9 0)),
    (0xD800_0303_8090_0B00, 0, .DEC_FP4 hd (fields .n32 48 56 9 0))]

theorem test_decode_work : (wordsWork.all fun p => decodes p.1 p.2.1 p.2.2) = true := by
  decide

/-- Words written out from the fields of sweeps (R59). -/
def wordsSweeps : List (DWord × DWord × Instr) :=
  [(0xDC01_0030_D17A_BC00, 0xFFFC_0080_0102_0000, .SWP_ADD hd (sweep 3 13 23 2748 .n32 0xFFFC 0x80 0x102)),
    (0xDC01_0040_E17A_BB11, 0xFFFC_0080_0102_0000, .SWP_SUB hd (sweep 4 14 23 2747 .i32 0xFFFC 0x80 0x102)),
    (0xDC01_0050_F17A_BA24, 0xFFFC_0080_0102_0000, .SWP_MUL hd (sweep 5 15 23 2746 .f16 0xFFFC 0x80 0x102)),
    (0xDC01_0061_017A_B935, 0xFFFC_0080_0102_0000, .SWP_FMA hd (sweep 6 16 23 2745 .bf16 0xFFFC 0x80 0x102)),
    (0xDC01_0071_117A_B846, 0xFFFC_0080_0102_0000, .SWP_MIN hd (sweep 7 17 23 2744 .f32 0xFFFC 0x80 0x102)),
    (0xDC01_0081_217A_B750, 0xFFFC_0080_0102_0000, .SWP_MAX hd (sweep 8 18 23 2743 .n32 0xFFFC 0x80 0x102)),
    (0xDC01_0091_300A_B661, 0xFFFC_0080_0000_0000, .SWP_MOV hd (sweep 9 19 0 2742 .i32 0xFFFC 0x80 0x0))]

theorem test_decode_sweeps : (wordsSweeps.all fun p => decodes p.1 p.2.1 p.2.2) = true := by
  decide

/-- Words written out from the fields of matrix words (R65, R66). -/
def wordsMatrix : List (DWord × Instr) :=
  [(0x0000_0000_0000_0000, .MEND),
    (0x0400_0000_0000_0000, .MNOP),
    (0x0BFE_0000_0000_0000, .MMOV (scalar 31 30 0 false 0x0)),
    (0x0C2B_0400_FFFF_FF00, .MADD (scalar 1 11 0 true 0xFFFFFF00)),
    (0x104C_B000_0000_0000, .MSUB (scalar 2 12 22 false 0x0)),
    (0x146D_0400_FFFF_FF02, .MMUL (scalar 3 13 0 true 0xFFFFFF02)),
    (0x188E_C000_0000_0000, .MAND (scalar 4 14 24 false 0x0)),
    (0x1CAF_0400_FFFF_FF04, .MOR (scalar 5 15 0 true 0xFFFFFF04)),
    (0x20D0_D000_0000_0000, .MXOR (scalar 6 16 26 false 0x0)),
    (0x24F1_0400_FFFF_FF06, .MSHL (scalar 7 17 0 true 0xFFFFFF06)),
    (0x2912_E000_0000_0000, .MSHR (scalar 8 18 28 false 0x0)),
    (0x404C_0000_FFFF_FFF0, .MBEQ (branch 2 12 0xFFFFFFF0)),
    (0x446D_0000_FFFF_FFF1, .MBNE (branch 3 13 0xFFFFFFF1)),
    (0x488E_0000_FFFF_FFF2, .MBLT (branch 4 14 0xFFFFFFF2)),
    (0x4CAF_0000_FFFF_FFF3, .MBGE (branch 5 15 0xFFFFFFF3)),
    (0x5000_0000_0000_0007, .MJMP (branch 0 0 7)),
    (0x6065_0400_0000_0040, .MLD (scalar 3 5 0 true 0x40)),
    (0x64C5_0400_0000_0048, .MST (scalar 6 5 0 true 0x48)),
    (0x83F5_4000_0000_0000, .BLD 3 61 .e5m2 true false),
    (0x81F0_2000_0000_0000, .BLD 1 60 .e2m1 false true),
    (0x8684_0000_0000_0000, .SBLD 2 33),
    (0x898F_2F4A_0000_0000, .MMA 1 35 9 true .bf16 true 0xA5),
    (0x8C00_01FC_0200_0000, .ACC_CLR 0xFE 2),
    (0x9096_05A6_0000_0000, .ACC_ST 37 0x81 .f32 9 2),
    (0x949A_0000_0000_0000, .TW 38 true),
    (0x9A40_0000_0000_0000, .TINC 0b10010)]

theorem test_decode_matrix : (wordsMatrix.all fun p => decodesMsq p.1 p.2) = true := by decide

/-- Words that the spec works to the bit (spec 01 Run 4, spec 03, spec 09 Runs 6 and 14, spec 10, spec 12,
spec 14, spec 16, spec 22, spec 23). -/
def wordsOfTheSpec : List (DWord × DWord × Instr) :=
  [(0x9800_C040_300A_0000, 0, .LD { hd with hints := 12 } (memory 4 (address 1 true 0 true 0) .b32 .weak 0)),
    (0x6200_0060_4050_0060, 0, .FADD { hd with gate := true } (fields .f32 6 4 5 0)),
    (0xA809_0090_A002_0000, 0x0700_0100_0000_0000, .ATOM_ADD { hd with guard := 2 }
      (memory 9 (address 5 false 0 false 0) .b32 .weak 0) (atomic 7 0 .unsigned false true 0)),
    (0x8A00_0050_4010_0108, 0, .SHFL_UP { hd with gate := true }
      { fields .n32 5 4 1 0 with imm := true }),
    (0xAC00_0011_30C0_0000, 0, .DISCARD hd 9 12),
    (0x6480_00A0_8000_7060, 0, .FCVT { hd with rate := .O } (fields .f32 10 8 0 7)),
    (0xB800_00C1_E1C1_A900, 0, .WAITU hd (wait 12 15 14 13 .ge false true 0 none)),
    (0xBC00_0004_0000_0008, 0, .SLEEP hd { fields .n32 0 64 0 0 with imm := true }),
    (0xBC00_0000_0000_0700, 0, .GBAR hd (fields .n32 0 0 0 0)),
    (0xA000_0090_A002_0000, 0, .LDS hd (memory 9 (address 5 false 0 false 0) .b32 .weak 0)),
    (0xD400_0061_4000_0100, 0, .COLL hd (fields .n32 6 20 0 0)),
    (0xD000_0030_0000_2300, 0, .TSTAT hd (fields .n32 3 0 0 2)),
    (0xD401_0001_4000_0008, 0, .MSTART hd { fields .n32 0 20 0 0 with imm := true, ext := some 0 }),
    (0x0000_0245_0B00_0000, 0, .ICINV hd 10 22)]

theorem test_decode_spec_words :
    (wordsOfTheSpec.all fun p => decodes p.1 p.2.1 p.2.2) = true := by decide

/-- What the decoder refuses, with the offending bit (R42, R44, R46, R48, R50, spec 01 R15): reserved
majors, majors of no format, reserved minors and types, a missing and a forbidden extension, an odd pair, a
set must-be-zero bit, and matrix words likewise. -/
theorem test_decode_refuses :
    (decode 0xE000_0000_0000_0000 0 = .error .illegalOp) ∧
    (decode 0x1000_0000_0000_0000 0 = .error (.rsvField (false, 58))) ∧
    (decode 0x0000_02C0_0000_0000 0 = .error (.rsvField (false, 38))) ∧
    (decode 0x3000_0000_0000_0B00 0 = .error (.rsvField (false, 8))) ∧
    (decode 0x3000_0000_0000_00F0 0 = .error (.rsvField (false, 4))) ∧
    (decode 0x0001_0000_0000_0000 0 = .error (.rsvField (false, 48))) ∧
    (decode 0xA800_0090_A002_0000 0 = .error (.rsvField (false, 48))) ∧
    (decode 0x3000_0011_0000_0020 0 = .error (.rsvField (false, 36))) ∧
    (decode 0x9C00_0060_300A_0140 0 = .error (.rsvField (false, 8))) ∧
    (decodeMsq 0x2C00_0000_0000_0000 = .error (false, 58)) := by decide

/-! ## Ill-formed terms are refused -/

/-- One ill-formed term for each check of the wave formats: a guard where none may stand (R133), odd pairs,
mask, hold and tile fields, registers in fours and eights (R44), types (R47), immediates and extensions
(R42, R50), rounding and level codes (R48, R63), unused fields (R46), and the checks of single rows. -/
def illFormed : List Instr :=
  [.TRET { hd with guard := 1 }, .IFENCE { hd with gneg := true }, .GBAR { hd with guard := 3 } (fields .n32 0 0 0 0),
    .ADD hd (fields .n64 1 2 4 0), .ADD hd (fields .n64 2 3 4 0), .ADD hd (fields .n64 2 4 5 0),
    .MAD hd (fields .i64 2 4 6 7), .SEL hd (fields .n32 1 2 3 16), .KAND hd (fields .n32 16 1 2 0),
    .VOTE_ANY hd (fields .n32 1 0x20 0 0), .HOLD hd (fields .n32 0 1 0 64), .HOLD hd (fields .n64 0 2 0 3),
    .TWAIT hd (fields .n32 0 0 0 128), .ZTEST hd (fields .f32 1 6 9 0), .SPAWNY hd (fields .n32 9 12 7 0),
    .BVHT hd (fields .n32 9 6 4 0), .FBW hd (fields .f32 0 6 0 1), .FBW hd (fields .n32 0 6 0 8),
    .NEG hd (fields .n32 1 2 0 0), .CMP_NUM hd (fields .i32 1 2 3 0), .DADD hd (fields .f32 2 4 6 0),
    .KAND hd (fields .i32 1 2 3 0), .NOT hd { fields .n32 1 2 0 0 with imm := true },
    .MOVI hd (fields .n32 1 2 0 0), .ADD hd { fields .n32 1 2 3 0 with ext := some 5 },
    .ADD hd { fields .n32 1 2 3 0 with imm := true, ext := some 5 },
    .ADD hd { fields .n32 1 2 0 0 with imm := true, ext := some 0x1_0000_0000 },
    .HFMA2 hd { fields .f16 1 2 3 0 with imm := true, ext := some 0x1_0000 },
    .LEA_SYMBOL hd { fields .n64 2 0 0 0 with imm := true }, .ADD hd { fields .n32 1 2 3 0 with mod := 2 },
    .FADD hd { fields .f32 1 2 3 0 with mod := 4 }, .FMIN hd { fields .f32 1 2 3 0 with mod := 1 },
    .CANCEL hd { fields .n32 0 2 0 0 with mod := 4 }, .LEA hd { fields .n64 2 4 3 0 with mod := 4 },
    .KMOV_K_V hd (fields .n32 1 2 0 0), .EMIT_PRIM hd (fields .n32 0 2 0 0),
    .RED_ADD hd { fields .n32 1 2 0 0 with mod := 2 }, .RED_AND hd (fields .f32 1 2 0 0),
    .FCVT hd (fields .f32 1 2 0 6), .FCVT hd (fields .f32 1 2 0 11), .NEG hd (fields .i32 1 2 3 0),
    .XGET hd (fields .n32 1 2 0 0), .MSTART hd { fields .n32 0 2 0 0 with imm := true, ext := some 4 },
    .CALL hd 7 1, .JMP hd 9, .RET hd 11, .SYSR hd 13 .cyc, .SYSW hd .lane 2, .SYSW hd .tpc 3]

/-- The same of the memory formats, waitu and the sweep (spec 01 R15, R51 to R53, R58, R59). -/
def illFormedMemory : List Instr :=
  let m := fun (data : BitVec 8) (size : Size) (order : Order) (obs : BitVec 5) =>
    memory data (address 5 false 0 false 0) size order obs
  [.LD hd (m 5 .b64 .weak 0), .LD hd (m 254 .b128 .weak 0), .LD hd (m 4 .b32 .rel 0),
    .LD hd (m 4 .b32 .acqrel 0), .ST hd (m 4 .b32 .acq 0), .LD hd (m 4 .b32 .weak 1),
    .LD hd (memory 4 (address 5 false 1 false 0) .b32 .weak 0),
    .LD hd (memory 4 (address 5 false 0 true 0) .b32 .weak 0), .LDS hd (m 4 .b32 .acq 0),
    .STS hd (m 4 .b32 .weak 2), .ATOM_ADD hd (m 4 .b16 .weak 0) (atomic 7 0 .unsigned false true 0),
    .ATOM_ADD hd (m 4 .b32 .weak 0) (atomic 7 1 .unsigned false true 0),
    .ATOM_ADD hd (m 4 .b32 .weak 0) (atomic 7 0 .unsigned true true 5),
    .ATOM_ADD hd (m 4 .b32 .weak 0) (atomic 7 0 .unsigned false true 5),
    .ATOM_ADD hd (m 4 .b32 .weak 0) (atomic 7 0 .unsigned false false 0),
    .ATOM_AND hd (m 4 .b32 .weak 0) (atomic 7 0 .float false true 0),
    .ATOM_CAS hd (m 4 .b32 .weak 0) (atomic 7 8 .signed false true 0),
    .ATOM_ADD hd (m 4 .b64 .weak 0) (atomic 7 0 .unsigned false true 0),
    .PREF hd (address 5 false 1 false 0), .WAITU hd (wait 3 5 7 0 .eq false true 0 none),
    .WAITU hd (wait 3 5 8 1 .eq false true 0 (some 5)), .SWP_ADD hd (sweep 3 4 5 0 .n32 0 0 0),
    .SWP_ADD hd (sweep 3 4 5 1 .n64 0 0 0), .SWP_MOV hd (sweep 3 4 5 1 .n32 0 0 0),
    .SWP_MOV hd (sweep 3 4 0 1 .n32 0 0 4)]

/-- The same of the matrix words (R65 to R67, spec 22 R316). -/
def illFormedMatrix : List Instr :=
  [.MADD (scalar 1 2 3 true 0), .MADD (scalar 1 2 3 false 7), .MMOV (scalar 1 2 0 true 7),
    .MMOV (scalar 1 2 3 false 0), .MLD (scalar 1 2 0 false 0), .MST (scalar 1 2 3 true 0),
    .MJMP (branch 1 0 7), .MJMP (branch 0 1 7), .BLD 1 2 .bf16 false true, .ACC_CLR 0 0, .ACC_CLR 0 257,
    .ACC_ST 1 0 .n32 0 0]

theorem test_ill_formed_alu : (illFormed.all fun i => !wellFormed i) = true := by decide
theorem test_ill_formed_memory : (illFormedMemory.all fun i => !wellFormed i) = true := by decide
theorem test_ill_formed_matrix : (illFormedMatrix.all fun i => !wellFormed i) = true := by decide
theorem test_ill_formed : ¬WellFormed (.JMP hd 9) := by unfold WellFormed; decide

/-! ## Single instructions, with the results that the spec works out -/

/-- The unit after an instruction. -/
def ran (i : Instr) (s : State) : Wave :=
  match exec i s with
  | .next t => t.unit s.cur
  | _ => {}

/-- A unit whose v8 and v9 hold two values in every lane. -/
def two (a b : Nat) : State := bench fun w => pair w 8 (b * 2 ^ 32 + a)

/-- Integer examples of spec 10 R151: saturation and its absence, and the high word of −6. -/
theorem test_add_sat : (ran (.ADD hd { fields .i32 7 8 9 0 with mod := 1 }) (two 0x7FFF_FFF0 0x20)).reg 7 1
    = 0x7FFF_FFFF := by decide
theorem test_add_wraps : (ran (.ADD hd (fields .i32 7 8 9 0)) (two 0x7FFF_FFF0 0x20)).reg 7 4
    = 0x8000_0010 := by decide
theorem test_sub_sat : (ran (.SUB hd { fields .n32 7 8 9 0 with mod := 1 }) (two 3 5)).reg 7 1 = 0 := by decide
theorem test_mul_hi : (ran (.MUL_HI hd (fields .i32 7 8 9 0)) (two 0xFFFF_FFFE 3)).reg 7 1
    = 0xFFFF_FFFF := by decide

/-- A lane that does not execute keeps its register. -/
theorem test_inactive_lane : (ran (.ADD hd (fields .i32 8 8 9 0)) (two 3 5)).reg 8 2 = 3 := by decide

/-- The bit fields of spec 10 R154. -/
theorem test_bfe : (ran (.BFE hd { fields .i32 7 8 9 5 with imm := true }) (two 0xF00 8)).reg 7 1 = 15 := by
  decide
theorem test_bfe_shrinks : (ran (.BFE hd { fields .i32 7 8 9 5 with imm := true }) (two 0xF00 30)).reg 7 1
    = 0 := by decide

/-- Shift counts clamp (spec 10 R153). -/
theorem test_shl_width : (ran (.SHL hd (fields .n32 7 8 9 0)) (two 5 32)).reg 7 1 = 0 := by decide
theorem test_sra_width : (ran (.SRA hd (fields .n32 7 8 9 0)) (two 0x8000_0000 40)).reg 7 1
    = 0xFFFF_FFFF := by decide

/-- The generated NaNs that spec 10 R157 writes out. -/
theorem test_nan_inf_minus_inf : (fmt32.sub .rn 0x7F80_0000 0x7F80_0000).val = 0x7FC0_0003 := by decide
theorem test_nan_zero_times_inf : (fmt64.mul .rn 0 0x7FF0_0000_0000_0000).val = 0x7FF8_0000_0000_0004 := by
  decide

/-- The fixed order of spec 10 R165: over 1.0, 2^24 and 1.0 the total is 2^24, inexact. -/
theorem test_red_order :
    let s := bench fun w => { (((w.setReg 8 0 0x3F80_0000).setReg 8 5 0x4B80_0000).setReg 8 7 0x3F80_0000) with
      x := 0xA1, o := 0xFF }
    let w := ran (.RED_ADD hd (fields .f32 9 8 0 0)) s
    w.reg 9 0 = 0x4B80_0000 ∧ w.reg 9 7 = 0x4B80_0000 ∧ w.fflags = flagNX := by decide

/-- A lane whose source lane is outside the wave keeps its own value (spec 10 R163). -/
theorem test_shfl_up :
    let s := bench fun w => { ((w.setReg 4 0 11).setReg 4 1 22) with x := 3 }
    let w := ran (.SHFL_UP hd { fields .n32 5 4 1 0 with imm := true }) s
    w.reg 5 0 = 11 ∧ w.reg 5 1 = 11 := by decide

/-- k0 as the carry mask: a carry in of 1, and no carry out (spec 10 R152, spec 02 R24). -/
theorem test_addc_k0 : (ran (.ADDC hd (fields .n32 7 8 9 0)) (two 0xFFFF_FFFF 0)).reg 7 1 = 0 := by decide
theorem test_addc_carries : inMask ((ran (.ADDC hd (fields .n32 7 8 9 3)) (two 0xFFFF_FFFF 1)).kreg 3) 4
    = true := by decide

/-- A step fetches and runs a placed word: v7 becomes v8 + 9, and the unit goes on. -/
theorem test_step_runs_word :
    let s := State.reset.withFetchWord 64 0x3000_0070_8090_0008
    (match step s with
      | .next t => decide ((t.unit 1).pc = 8 ∧ (t.unit 1).reg 7 31 = 9)
      | _ => false) = true := by decide

/-! ## States that meet the hypotheses: lanes (O1 to O13) -/

/-- Lane instructions issue, with operands at the ends of their ranges. -/
theorem witness_integers : ∀ i ∈ [Instr.ADD hd { alu 255 0 255 0 with mod := 1 }, .SUB hd (alu 1 2 3 0),
    .NEG hd (fields .i32 1 2 0 0), .ABS hd (fields .i64 254 0 0 0), .MIN hd (alu 1 2 3 0),
    .MAX hd (alu 1 2 3 0), .MUL_LO hd (alu 1 2 3 0), .MUL_HI hd (fields .i64 2 4 6 0),
    .MAD hd { alu 1 2 3 0x80 with imm := true }, .ADDC hd (alu 1 2 3 0), .ADDC hd (alu 1 2 3 15),
    .SUBB hd (fields .n64 2 4 6 1)], Issues bench i hd := issues_all _ _ _ (by decide)

theorem witness_logic : ∀ i ∈ [Instr.AND hd (alu 1 2 3 0), .OR hd (alu 1 2 3 0), .XOR hd (alu 1 2 3 0),
    .NOT hd (alu 1 2 0 0), .SHL hd { alu 1 2 32 0 with imm := true }, .SHR hd (fields .n64 2 4 5 0),
    .SRA hd (alu 1 2 3 0), .POPC hd (fields .n64 1 2 0 0), .CLZ hd (alu 1 2 0 0), .CTZ hd (alu 1 2 0 0),
    .BREV hd (alu 1 2 0 0)], Issues bench i hd := issues_all _ _ _ (by decide)

theorem witness_fields_moves : ∀ i ∈ [Instr.BFE hd (fields .i32 1 2 3 4), .BFI hd (alu 1 2 3 4),
    .MOV hd (fields .n64 254 0 0 0), .MOVI hd { alu 1 0x80 0 0 with imm := true }, .SEL hd (alu 1 2 3 15),
    .LEA hd { fields .n64 2 4 7 0 with mod := 3 },
    .LEA_SYMBOL hd { fields .n64 2 0 0 0 with imm := true, ext := some 0x4000 }], Issues bench i hd :=
  issues_all _ _ _ (by decide)

theorem witness_comparisons : ∀ i ∈ [Instr.CMP_EQ hd (alu 1 2 3 0), .CMP_NE hd (fields .f32 0 2 3 0),
    .CMP_LT hd (fields .i32 15 2 3 0), .CMP_LE hd (fields .f64 1 2 4 0), .CMP_GT hd (alu 1 2 3 0),
    .CMP_GE hd (alu 1 2 3 0), .CMP_NUM hd (fields .f32 1 2 3 0), .CMP_NAN hd (fields .f32 1 2 3 0)],
    Issues bench i hd := issues_all _ _ _ (by decide)

theorem witness_floats : ∀ i ∈ [Instr.FADD hd { fields .f32 1 2 3 0 with mod := 3 },
    .FSUB hd (fields .f32 1 2 3 0), .FMUL hd (fields .f32 1 2 3 0), .FFMA hd (fields .f32 1 2 3 4),
    .DADD hd (fields .f64 2 4 6 0), .DSUB hd (fields .f64 2 4 6 0), .DMUL hd (fields .f64 2 4 6 0),
    .DFMA hd (fields .f64 2 4 6 8), .FMIN hd (fields .f64 2 4 6 0), .FMAX hd (fields .f32 1 2 3 0),
    .FABS hd (fields .f32 1 2 0 0), .FNEG hd (fields .f64 2 4 0 0), .FRND hd (fields .f32 1 2 0 0),
    .FCMP hd (fields .f64 1 2 4 0), .FCVT hd (fields .e2m1 1 2 0 7), .HFMA2 hd (fields .bf16 1 2 3 4)],
    Issues bench i hd := issues_all _ _ _ (by decide)

/-- NaNs, the largest encoding among them, infinities, numbers and subnormal numbers of the formats, and the
types of conversions. -/
theorem witness_nan : (fmt16.unpack 0x7C01).isNaN = true ∧ 0x7C01 < 2 ^ (fmt16.signBit + 1) ∧
    (fmt16.unpack 0x3C00).isNaN = false ∧ fmt32.unpack 0x8000_0001 = .fin true 1 (-149) ∧
    (fmt64.unpack 0x7FF8_0000_0000_0000).isNaN = true ∧ (fmtB16.unpack 0xFFFF).isNaN = true ∧
    0xFFFF < 2 ^ (fmtB16.signBit + 1) ∧ (fmt16.unpack 0xFC00).isInf = true ∧
    fmt16.unpack 0xFC00 = .inf true ∧ fmt16.unpack 0x3C00 = .fin false 0x400 (-10) ∧
    fmt16.unpack 0x8000 = .fin true 0 (-24) ∧ fmt32.unpack 0x7FA0_0001 = .nan false 0x20_0001 false := by decide

/-- Conversions between every two kinds of type, and results in, below and beyond a range. -/
theorem witness_conversions :
    Ty.i64.fmt? = none ∧ Ty.n32.fmt? = none ∧ Ty.e2m1.fmt? = some fmtE2M1 ∧ Ty.e5m2.fmt? = some fmtE5M2 ∧
    Ty.e4m3.fmt? = some fmtE4M3 ∧ Ty.f16.fmt? = some fmt16 ∧ Ty.f64.fmt? = some fmt64 ∧
    fmtE4M3 ∈ [fmtE4M3, fmtE5M2, fmtE2M1] ∧ fmt16 ∉ [fmtE4M3, fmtE5M2, fmtE2M1] ∧
    Ty.i32.minInt ≤ Ty.i64.toInt (2 ^ 64 - 2 ^ 31) ∧ Ty.i64.toInt (2 ^ 64 - 2 ^ 31) ≤ Ty.i32.maxInt ∧
    Ty.i64.toInt (2 ^ 64 - 2 ^ 31 - 1) < Ty.i32.minInt ∧ Ty.i32.maxInt < Ty.i64.toInt (2 ^ 31) ∧ 2 ≤ fmt16.frac ∧
    IntRounds .rz (dyadic true 3 (-1)) (-1) ∧ dyadic true 3 (-1) ≠ ((-1 : Int) : ℚ) ∧
    dyadic true 4 (-1) = ((-2 : Int) : ℚ) := by
  and_intros <;> first | rfl | decide | norm_num [IntRounds, dyadic]

/-- Operands of R348, of the quotients and of the decoders: a divisor that is zero, one that is not, the
quotient that does not fit; chunks that fail for each reason and chunks that do not. -/
theorem witness_pipe_operands :
    fmt32.unpack 0xC040_0000 = .fin true 0xC0_0000 (-22) ∧ fmt32.unpack 0x3F80_0000 = .fin false 0x80_0000 (-23) ∧
    (fmt32.unpack 0xFF80_0001).isNaN = true ∧ (0x8000_0000 : Nat) < 0xFF80_0000 ∧ fmt32.Has 0 ∧
    Ty.i32.toInt 0x8000_0000 = -2 ^ 31 ∧ Ty.i32.toInt 0xFFFF_FFFF = -1 ∧ Ty.n32.toInt 0 = 0 ∧
    (let pairs := [(0xFF, 1), (2, 31), (3, 0), (4, 1), (0, 0), (0, 0), (0, 0), (0, 0)]
     decRle pairs 2 ≠ none ∧ decRle pairs 3 = none ∧ decRle pairs 9 = none ∧ ∀ q ∈ pairs, q.1 < 256) ∧
    decBits 0x80 0x0038_0101 ≠ none ∧ decBits 0x80 0x0039_0101 = none ∧ decBits 0 9 = none ∧
    decFp4 0xF 0x3F80_00FE ≠ none ∧ decFp4 0 0x3F80_00FF = none ∧ decFp4 0 0x7F80_0000 = none ∧
    decFp4 0 0x3F80_0100 = none := by
  have zero : fmt32.Has 0 := ⟨0, false, 0, -149, by decide, by norm_num [dyadic]⟩
  and_intros <;> first | exact zero | decide

theorem witness_crossing : ∀ i ∈ [Instr.SHFL_IDX hd (alu 1 2 3 0), .SHFL_UP hd (alu 1 2 3 0),
    .SHFL_DOWN hd (alu 1 2 3 0), .SHFL_XOR hd (fields .n64 2 4 5 0),
    .BCAST hd { alu 1 2 31 0 with imm := true }, .VOTE_ANY hd (alu 0 15 0 0), .VOTE_ALL hd (alu 15 0 0 0),
    .VOTE_EQ hd (fields .n64 1 2 0 0), .MATCH hd (alu 1 2 0 0)], Issues bench i hd :=
  issues_all _ _ _ (by decide)

theorem witness_folds : ∀ i ∈ [Instr.RED_ADD hd (fields .f32 1 2 0 0), .RED_MIN hd (alu 1 2 0 0),
    .RED_MAX hd (fields .f32 1 2 0 0), .RED_AND hd (fields .n64 2 4 0 0), .RED_OR hd (alu 1 2 0 0),
    .RED_XOR hd (alu 1 2 0 0), .SCAN_ADD hd { fields .f32 1 2 0 0 with mod := 1 },
    .SCAN_MIN hd { alu 1 2 0 0 with mod := 3 }, .SCAN_MAX hd { alu 1 2 0 0 with mod := 3 },
    .SCAN_AND hd { alu 1 2 0 0 with mod := 1 }, .SCAN_OR hd { alu 1 2 0 0 with mod := 3 },
    .SCAN_XOR hd { fields .i64 2 4 0 0 with mod := 1 }], Issues bench i hd := issues_all _ _ _ (by decide)

theorem witness_transform : ∀ i ∈ [Instr.TRCP hd (fields .f32 1 2 0 0), .TRSQ hd (fields .f32 1 2 0 0),
    .TSQRT hd (fields .f32 1 2 0 0), .TDIV hd (fields .f32 1 2 3 0), .TEXP2 hd (fields .f32 1 2 0 0),
    .TLOG2 hd (fields .f32 1 2 0 0), .TSIN hd (fields .f32 1 2 0 0), .TCOS hd (fields .f32 1 2 0 0),
    .IDIV hd (fields .i32 1 2 3 0), .DEC_RLE hd (alu 16 4 3 0), .DEC_BITS hd (alu 16 4 3 0),
    .DEC_FP4 hd (alu 16 4 3 0)], Issues bench i hd := issues_all _ _ _ (by decide)

/-- An outstanding result of two words in lane 31, the only one of its instruction. -/
def onItsWay : Pend := { seq := 3, op := .NOP hd, pc := 0, dst := 6, n := 2, values := [(31, [5, 6])] }

theorem witness_arrival :
    let w := (bench fun w => { w with pend := [onItsWay], pendSeq := 4 }).unit 1
    w.pend.find? (fun p => p.seq = 3) = some onItsWay ∧
    (onItsWay.values.find? fun v => v.1 = 31) = some (31, [5, 6]) ∧ onItsWay.values.length = 1 ∧
    (∀ q ∈ w.pend, q.status ≠ .declined) ∧ (w.pend.find? fun p => p.seq = 4) = none := by decide

theorem witness_masks : ∀ i ∈ [Instr.KAND hd (alu 1 2 3 0), .KOR hd (alu 0 2 3 0), .KXOR hd (alu 15 2 3 0),
    .KNOT hd (alu 1 2 0 0), .KMOV_K_K hd (alu 1 2 0 0), .KMOV_K_V hd { alu 1 255 0 0 with mod := 1 },
    .XGET hd (alu 1 0 0 0), .XSET hd (alu 0 1 0 0), .XAND hd (alu 0 1 0 0),
    .KMOV_V_K hd { alu 255 1 0 0 with mod := 2 }, .KPOP hd (alu 3 1 0 0), .KFFS hd (alu 3 1 0 0)],
    Acts bench i hd := acts_all _ _ _ (by decide)

/-- With an empty guard no instruction acts. -/
def idleHead : Head := { hd with guard := 5 }

theorem witness_not_acting : (bench.unit bench.cur).acts idleHead = false ∧ Computes bench ∧
    ∀ i ∈ [Instr.EXIT idleHead, .TRAP idleHead 4, .BRK idleHead 4, .ICINV idleHead 1 2, .BRA idleHead 3,
      .CALL idleHead 2 3, .JMP idleHead 2, .RET idleHead 2, .BRX idleHead 2 3, .SYSR idleHead 2 .lane,
      .SYSW idleHead .fflags 2, .KAND idleHead (alu 1 2 3 0), .FENCE_ACQ idleHead 3, .FENCE_REL idleHead 3,
      .DISCARD idleHead 1 2, .WAITU idleHead (wait 9 2 6 10 .eq false true 1 none),
      .SLEEP idleHead (alu 0 1 0 0), .SPAWN idleHead (alu 1 2 0 0), .LAUNCH idleHead (alu 1 2 0 0),
      .TRIG idleHead (alu 0 0 0 0), .WAITP idleHead (alu 1 0 0 0), .CANCEL idleHead (alu 0 2 0 0),
      .CCNT idleHead (alu 2 4 0 0), .TARM idleHead (alu 0 2 3 1), .TWAIT idleHead (alu 0 0 0 1),
      .TREL idleHead (alu 0 0 0 1), .TSTAT idleHead (alu 1 0 0 1), .TCOPY idleHead (alu 0 2 0 1),
      .MSTART idleHead { alu 0 2 0 0 with imm := true, ext := some 8 }, .COLL idleHead (alu 1 2 0 0)],
      Issues bench i idleHead :=
  ⟨by decide, by unfold Computes; decide, issues_all _ _ _ (by decide)⟩


/-- Words of red and scan at the bounds of the clauses about them: imm set, .f32 of and and of xor, and .f32 of max. -/
theorem witness_fold_words :
    let bad := fun (w : DWord) (b : Nat) => decode w 0 = .error (.rsvField (false, b))
    bad 0x8C00_00B0_A000_0008 3 ∧ bad 0x8C00_00B0_A000_056B 3 ∧ bad 0x8C00_00B0_A000_0360 4 ∧
    bad 0x8C00_00B0_A000_0563 4 ∧
    (match decode 0x8C00_00B0_A000_0261 0 with | .ok _ => true | .error _ => false) = true := by decide +kernel
/-! ## States that meet the hypotheses: traps and control (O13 to O20) -/

/-- A unit whose context has a trap entry. -/
def handled (f : Wave → Wave := id) : State :=
  let s := bench f
  s.setCtx 0 { s.ctx 0 with trap := some 0x200 }

/-- The conditions of a trap at issue, for REG_RANGE. -/
theorem witness_trap_at_issue :
    let s := handled fun w => { w with nregs := 8 }
    let i := Instr.ADD hd (alu 8 1 2 0)
    i.head? = some hd ∧ s.ready s.cur = true ∧ (s.unit 1).trapNext = none ∧ (s.unit 1).replaying = false ∧
    (s.draw (s.unit 1).launch).live = false ∧ s.mustWait (s.unit 1) hd i = false ∧
    s.issueTrap (s.unit 1) hd i = some causeRegRange ∧ (s.ctx (s.unit 1).ctx).trap = some 0x200 ∧
    (s.unit 1).inHandler = false ∧ (s.unit 1).results = [] := by decide

/-- One instruction for each kind of check, in their order; the register at the bound traps and the one
below it does not. -/
theorem witness_check_order :
    let s := bench fun w => { w with nregs := 8, pend := [{ onItsWay with dst := 6, n := 2 }] }
    let w := s.unit 1
    let table := fun i => lowestCond (s.tableConds w i)
    (table (.MEET hd 1)).isSome = true ∧
    table (.ADD hd (alu 8 1 2 0)) = none ∧ (∃ r ∈ (Instr.ADD hd (alu 8 1 2 0)).vregs, w.nregs ≤ r) ∧
    table (.TRET hd) = none ∧ w.privileged (.TRET hd) = true ∧
    s.raisesRate w { hd with rate := .S } (.ADD { hd with rate := .S } (alu 1 2 3 0)) = true ∧
    s.raisesRate w hd (.ADD hd (alu 7 1 2 0)) = false ∧
    (¬∃ r ∈ (Instr.ADD hd (alu 7 1 2 0)).vregs, w.nregs ≤ r) ∧
    (∃ r ∈ (Instr.ADD hd (alu 7 1 2 0)).vregs, r ∈ w.outstanding) ∧
    (Instr.ADD hd (alu 7 1 2 0)).asGated = false ∧
    (¬∃ r ∈ (Instr.ADD hd (alu 5 1 2 0)).vregs, r ∈ w.outstanding) := by decide

/-- Words for each clause of ChecksAtIssue about words: the least and the greatest reserved major; an unused
major; unused minors of majors 0x00 and 0x01, alone and with a lower bit set; beqz-like words of major 0x02
with each kind of offending bit, with a high extension word and without; and loads and stores with every
reserved field, and at the bounds that are not reserved. -/
theorem witness_words :
    let bad := fun (w next : DWord) (e : DecodeError) => decode w next = .error e
    let ok := fun (w next : DWord) => (match decode w next with | .ok _ => true | .error _ => false) = true
    bad 0xE000_0000_0000_0000 0 .illegalOp ∧ bad 0xFFFF_FFFF_FFFF_FFFF 0 .illegalOp ∧
    bad 0x1000_0000_0000_0001 0 (.rsvField (false, 58)) ∧ bad 0xB400_0000_0000_0000 0 (.rsvField (false, 58)) ∧
    bad 0x0000_02C0_0000_0000 0 (.rsvField (false, 38)) ∧ bad 0x0000_02C0_0000_0010 0 (.rsvField (false, 4)) ∧
    bad 0x0400_0500_0000_0000 0 (.rsvField (false, 40)) ∧ bad 0x0400_0580_0000_0000 0 (.rsvField (false, 39)) ∧
    bad 0x0800_0000_0000_0000 0 (.rsvField (false, 48)) ∧ bad 0x0801_0000_0000_8000 0 (.rsvField (false, 15)) ∧
    bad 0x0803_0000_0000_0000 0 (.rsvField (false, 49)) ∧
    bad 0x0801_0000_0000_0000 0x1_0000_0000 (.rsvField (true, 32)) ∧ ok 0x0801_0000_0000_0000 0xFFFF_FFFF ∧
    bad 0x9800_0000_0000_0100 0 (.rsvField (false, 8)) ∧ bad 0x9800_0000_0008_0000 0 (.rsvField (false, 19)) ∧
    bad 0x9800_0000_0005_0000 0 (.rsvField (false, 16)) ∧ bad 0x9800_0000_0000_0200 0 (.rsvField (false, 9)) ∧
    bad 0x9800_0000_0000_8000 0 (.rsvField (false, 14)) ∧ bad 0x9C00_0000_0000_4000 0 (.rsvField (false, 14)) ∧
    bad 0x9C00_0000_0000_C000 0 (.rsvField (false, 14)) ∧ bad 0x9800_0010_0003_0000 0 (.rsvField (false, 36)) ∧
    bad 0x9800_0FE0_0004_0000 0 (.rsvField (false, 36)) ∧ bad 0x9801_0000_0000_0000 0 (.rsvField (false, 48)) ∧
    ok 0x9800_0FC0_0004_4200 0 ∧ ok 0x9C00_0FF0_1008_8200 0 := by decide

/-- A unit that fetches a word which is no instruction from the line of its core's instruction cache. -/
def lostUnit (w : DWord) (f : Wave → Wave := id) : State :=
  let s := handled fun x => f { x with pc := 0x78, ahead := [] }
  let line := List.replicate 120 0 ++ leBytes w.toNat 8
  { s with agenda := [.unit 1], mem := { s.mem with icache := AMap.set [] [] (lineKey (tagAsid (s.ctx 0).asid 0x78) 0) line } }

theorem witness_word_trap : ∀ e ∈ [((0xE000_0000_0000_0000 : DWord), DecodeError.illegalOp),
      (0x1000_0000_0000_0000, .rsvField (false, 58))],
    let s := lostUnit e.1
    let x := s.unit 1
    let k := s.core x.core
    let offered : State :=
      { (({ s with agenda := [] } : State).setCore x.core { k with cycle := k.cycle + 1 }).setUnit 1
          { x with turnAt := k.cycle + 1 } with cur := 1 }
    s.ready 1 = true ∧ ({ s with agenda := [] } : State).isFirst 1 = true ∧ x.trapNext = none ∧
    (s.draw x.launch).live = false ∧
    (match offered.fetchInstr 1 with
      | (.words w next, v) => decide (w = e.1) &&
          (match v.decodeFor 1 w next with | .error b => decide (b = e.2) | .ok _ => false)
      | _ => false) = true ∧
    (s.ctx x.ctx).trap = some 0x200 ∧ x.inHandler = false ∧ x.results = [] := by decide +kernel

theorem witness_trap : Acts handled (.TRAP hd 0xFFFF) hd ∧ Acts handled (.BRK hd 7) hd ∧
    (handled.unit 1).results = [] ∧ Computes handled :=
  ⟨acts_of _ _ _ (by decide), acts_of _ _ _ (by decide), by decide, by unfold Computes; decide⟩

/-- No trap entry, and a trap inside the handler. -/
theorem witness_fatal_trap :
    Acts bench (.TRAP hd 1) hd ∧ (bench.ctx (bench.unit 1).ctx).trap = none ∧
    (bench.group (bench.unit 1).group).launch = (bench.unit 1).launch ∧
    (let s := handled fun w => { w with inHandler := true }
     Acts s (.BRK hd 1) hd ∧ (s.unit 1).inHandler = true) ∧
    (bench.work.jobs.get {} (bench.launch (bench.unit 1).launch).job).err = none ∧ (bench.unit 1).results = [] ∧
    Computes bench :=
  ⟨acts_of _ _ _ (by decide), by decide, by decide, ⟨acts_of _ _ _ (by decide), by decide⟩, by decide, by decide,
    by unfold Computes; decide⟩

/-- A fault that has been delivered to the handler. -/
def delivered : Pend :=
  { seq := 3, op := .NOP hd, pc := 0x40, dst := 6, n := 2, values := [], status := .delivered
    faulted := [{ lane := 1, addr := 0, data := [] }] }

/-- A handler that returns: with nothing delivered; to a changed %tpc; and to a leader's access. -/
theorem witness_tret :
    (let s := handled fun w => { w with inHandler := true, tpc := 0x88 }
     Issues s (.TRET hd) hd ∧ (s.unit 1).pend.find? (fun p => p.status = .delivered) = none) ∧
    (let s := handled fun w => { w with inHandler := true, tpc := 0x88, pend := [delivered] }
     Issues s (.TRET hd) hd ∧ (s.unit 1).pend.find? (fun p => p.status = .delivered) = some delivered ∧
       (s.unit 1).tpc.toNat ≠ delivered.pc) ∧
    (let p := { delivered with leader := true }
     let s := handled fun w => { w with inHandler := true, tpc := 0x40, resume := 0x48, pend := [p] }
     Issues s (.TRET hd) hd ∧ (s.unit 1).pend.find? (fun p => p.status = .delivered) = some p ∧
       (s.unit 1).tpc.toNat = p.pc ∧ ∀ q ∈ (s.unit 1).pend, q.seq = p.seq → q = p) :=
  ⟨⟨issues_of _ _ _ (by decide), by decide⟩, ⟨issues_of _ _ _ (by decide), by decide, by decide⟩,
    issues_of _ _ _ (by decide), by decide, by decide, by decide⟩

/-- Results that are still to arrive, and two declined faults of which the second is the older. -/
theorem witness_tret_waits :
    let s := fun ps : List Pend => handled fun w => { w with inHandler := true, pend := ps }
    let declined := fun n o : Nat => { delivered with seq := n, order := o, status := .declined, faulted := [] }
    let due := s [onItsWay]
    let both := s [declined 3 9, declined 4 7]
    (due.ready 1 = true ∧ (due.unit 1).trapNext = none ∧ (due.unit 1).replaying = false ∧
      (due.draw (due.unit 1).launch).live = false ∧ (due.unit 1).results = [onItsWay] ∧
      onItsWay.status ≠ .declined) ∧
    both.ready 1 = true ∧ (both.unit 1).trapNext = none ∧ (both.unit 1).replaying = false ∧
    (both.draw (both.unit 1).launch).live = false ∧ (both.group (both.unit 1).group).launch = (both.unit 1).launch ∧
    (both.unit 1).results = [declined 3 9, declined 4 7] ∧
    (∀ q ∈ (both.unit 1).results, q.status = .declined ∧ q.values = [] ∧ q.todo = []) ∧
    ((both.unit 1).results.find? fun q => (both.unit 1).results.all fun x => q.order ≤ x.order) =
      some (declined 4 7) := by decide

/-- sysw %tpc with the greatest address, with one off a word and one beyond the address space, and tret outside a
handler. -/
theorem witness_sysw_tpc :
    (let s := handled fun w => { pair w 4 (2 ^ 56 - 8) with inHandler := true }
     Acts s (.SYSW hd .tpc 4) hd ∧ (s.unit 1).val true 4 ((s.unit 1).leader hd) = 2 ^ 56 - 8) ∧
    (let s := fun v : Nat => handled fun w => { pair w 4 v with inHandler := true }
     Acts (s 4) (.SYSW hd .tpc 4) hd ∧ Acts (s (2 ^ 56)) (.SYSW hd .tpc 4) hd ∧
       ((s 4).unit 1).val true 4 (((s 4).unit 1).leader hd) = 4 ∧
       ((s (2 ^ 56)).unit 1).val true 4 (((s (2 ^ 56)).unit 1).leader hd) = 2 ^ 56 ∧
       ((s 4).unit 1).results = [] ∧ ((s (2 ^ 56)).unit 1).results = [] ∧ Computes (s 4) ∧
       ((s 4).group ((s 4).unit 1).group).launch = ((s 4).unit 1).launch) ∧
    (handled.ready 1 = true ∧ (handled.unit 1).inHandler = false ∧
      handled.mustWait (handled.unit 1) hd (.TRET hd) = false ∧
      handled.mustWait (handled.unit 1) hd (.SYSW hd .tpc 4) = false ∧
      ∀ q ∈ (Instr.SYSW hd .tpc 254).vregs, q < (handled.unit 1).nregs) :=
  ⟨⟨acts_of _ _ _ (by decide), by decide⟩, ⟨acts_of _ _ _ (by decide), acts_of _ _ _ (by decide), by decide, by decide,
    by decide, by decide, by unfold Computes; decide, by decide⟩, by decide⟩

theorem witness_control : ∀ i ∈ [Instr.NOP { hd with guard := 3, gneg := true }, .IDEM_BEGIN hd, .IDEM_END hd,
    .SAFEPT hd 0, .IFENCE hd], Issues bench i (i.head?.getD hd) := by
  intro i hi
  simp only [List.mem_cons, List.not_mem_nil, or_false] at hi
  rcases hi with rfl | rfl | rfl | rfl | rfl <;> exact issues_of _ _ _ (by decide)

/-- A set region bit, a pre-emption that names the core and context, and a cancelled launch. -/
theorem witness_regions :
    (let s := bench fun w => { w with idem := true }
     Issues s (.IDEM_END hd) hd ∧ (s.unit 1).idem = true) ∧
    (let s : State := { bench with work := { bench.work with preempts := [([0], [0])] } }
     Issues s (.SAFEPT hd 0) hd ∧ s.preempting (s.unit 1).core (s.unit 1).ctx = true) ∧
    (let s := bench.setLaunch 0 { bench.launch 0 with cancelled := true }
     Issues s (.SAFEPT hd 0) hd ∧ s.preempting (s.unit 1).core (s.unit 1).ctx = false ∧
       (s.launch (s.unit 1).launch).cancelled = true ∧ Computes s ∧
       (s.group (s.unit 1).group).launch = (s.unit 1).launch ∧ s.performed (s.unit 1) = true) ∧
    (let st : Pend := { onItsWay with op := .ST hd (memory 6 (address 2 false 0 false 0) .b8 .weak 0), dst := 0, n := 0
                                      values := [], todo := [{ lane := 1, addr := 0x1000, data := [] }] }
     let s := (bench fun w => { w with pend := [st] }).setLaunch 0 { bench.launch 0 with cancelled := true }
     Issues s (.SAFEPT hd 0) hd ∧ s.preempting (s.unit 1).core (s.unit 1).ctx = false ∧
       (s.launch (s.unit 1).launch).cancelled = true ∧ s.performed (s.unit 1) = false) ∧
    (let s := bench fun w => { w with icinvs := [7] }
     Issues s (.IFENCE hd) hd ∧ (s.unit 1).icinvs ≠ [] ∧ (s.unit 1).pend = []) ∧
    bench.preempting (bench.unit 1).core (bench.unit 1).ctx = false ∧ (bench.unit 1).idem = false ∧
    (bench.unit 1).icinvs = [] :=
  ⟨⟨issues_of _ _ _ (by decide), by decide⟩, ⟨issues_of _ _ _ (by decide), by decide⟩,
    ⟨issues_of _ _ _ (by decide), by decide, by decide, by unfold Computes; decide, by decide, by decide⟩,
    ⟨issues_of _ _ _ (by decide), by decide, by decide, by decide⟩,
    ⟨issues_of _ _ _ (by decide), by decide, by decide⟩, by decide, by decide, by decide⟩

/-- icinv of a range that ends at the end of the address space, of one that passes it, and of none. -/
theorem witness_icinv :
    (let s := bench fun w => pair (pair w 4 (2 ^ 56 - 16)) 6 16
     Acts s (.ICINV hd 2 6) hd ∧ (s.unit 1).val true 4 ((s.unit 1).leader hd) + 16 = 2 ^ 56 ∧
       ((s.unit 1).reg 6 ((s.unit 1).leader hd)).toNat = 16) ∧
    (let s := bench fun w => pair (pair w 4 (2 ^ 56 - 16)) 6 17
     Acts s (.ICINV hd 2 6) hd ∧ 2 ^ 56 < (s.unit 1).val true 4 ((s.unit 1).leader hd) + 17) ∧
    (let s := bench fun w => pair (pair w 4 (2 ^ 56 - 1)) 6 0
     Acts s (.ICINV hd 2 6) hd ∧ (s.unit 1).val true 4 ((s.unit 1).leader hd) < 2 ^ 56 ∧
       ((s.unit 1).reg 6 ((s.unit 1).leader hd)).toNat = 0) :=
  ⟨⟨acts_of _ _ _ (by decide), by decide, by decide⟩, ⟨acts_of _ _ _ (by decide), by decide⟩,
    acts_of _ _ _ (by decide), by decide, by decide⟩

theorem witness_exit : Acts bench (.EXIT hd) hd ∧ Computes bench ∧
    (bench.group (bench.unit 1).group).launch = (bench.unit 1).launch ∧ bench.performed (bench.unit 1) = true :=
  ⟨acts_of _ _ _ (by decide), by unfold Computes; decide, by decide, by decide⟩

/-- Branches, with targets at the last aligned address, beyond the address space and off a word. -/
theorem witness_branches :
    (∀ i ∈ [Instr.BRA hd 0x8000_0000, .CALL hd 254 1, .BRX hd 255 0xFFFF_FFFF], Acts bench i hd) ∧
    (let s := bench fun w => pair w 4 (2 ^ 56 - 8)
     ∀ i ∈ [Instr.JMP hd 4, .RET hd 4], Acts s i hd) ∧
    (let s := bench fun w => pair w 4 (2 ^ 56)
     ∀ i ∈ [Instr.JMP hd 4, .RET hd 4], Acts s i hd) ∧
    (let s := bench fun w => pair w 4 4
     ∀ i ∈ [Instr.JMP hd 4, .RET hd 4], Acts s i hd) ∧
    ((bench fun w => pair w 4 (2 ^ 56)).unit 1).val true 4 1 = 2 ^ 56 ∧
    ((bench fun w => pair w 4 4).unit 1).val true 4 1 = 4 ∧ (bench.unit 1).leader hd = 1 :=
  ⟨acts_all _ _ _ (by decide), acts_all _ _ _ (by decide), acts_all _ _ _ (by decide),
    acts_all _ _ _ (by decide), by decide, by decide, by decide⟩

theorem witness_special : ∀ i ∈ [Instr.SYSR hd 255 .lane, .SYSR hd 254 .cyc, .SYSR hd 2 .tinst,
    .SYSR hd 1 .feat, .SYSW hd .fflags 255], Acts bench i hd := acts_all _ _ _ (by decide)

/-- fork of no lane, of every lane, and of one of two, whose record fits the spawn area. -/
def forking (k : Mask) : State :=
  let s := bench fun w => w.setK 4 k
  s.setCtx 0 { s.ctx 0 with spawn := { base := 0x9000, size := 0x4000 } }

theorem witness_fork :
    let i := Instr.FORK hd 4 0 0 7
    (Issues (forking 0x5) i hd ∧ ((forking 0x5).unit 1).kreg 4 &&& ((forking 0x5).unit 1).x = 0) ∧
    (Issues (forking 0x1F) i hd ∧
      ((forking 0x1F).unit 1).kreg 4 &&& ((forking 0x1F).unit 1).x = ((forking 0x1F).unit 1).x) ∧
    Issues (forking 0x10) i hd ∧
      ((forking 0x10).unit 1).kreg 4 &&& ((forking 0x10).unit 1).x = 0x10 ∧
      ((forking 0x10).unit 1).x = 0x12 ∧ Computes (forking 0x10) ∧
      (((((forking 0x10).setUnit 1 { (forking 0x10).unit 1 with held := false }).tellLive ((forking 0x10).unit 1) 0)).spawnPlace 0 0 (recordBytes 1
        ((bitsOf ((forking 0x10).liveEntry ((forking 0x10).unit 1) 0).1 256).filter
          (· < ((forking 0x10).unit 1).nregs)).length)).isSome = true :=
  ⟨⟨issues_of _ _ _ (by decide), by decide⟩, ⟨issues_of _ _ _ (by decide), by decide⟩,
    issues_of _ _ _ (by decide), by decide, by decide, by unfold Computes; decide, by decide⟩

/-- A unit at a meet whose group has some lanes of wave 0 open under the token. -/
def meeting (lanes : List Nat) (own active : Mask) : State :=
  let s := bench fun w => { w with o := own, x := active }
  let s := s.setCtx 0 { s.ctx 0 with spawn := { base := 0x9000, size := 0x4000 } }
  s.setGroup 1 { s.group 1 with opens := lanes.map fun l => (s.tokenKey (s.unit 1) 0, 0, l) }

/-- No lane open; every open lane arriving, with a lane that passes and one that leaves; the last of the open lanes
being an inactive one of the unit, where it goes on in place or, with another lane that passes, waits; and open lanes
left elsewhere, with and without a passing lane. -/
theorem witness_meet :
    let m := Instr.MEET hd 0
    let key := (meeting [] 3 3).tokenKey ((meeting [] 3 3).unit 1) 0
    let arr := fun s : State => maskOf fun l => inMask (s.unit 1).x l &&
      (s.group (s.unit 1).group).opens.contains (key, (s.unit 1).homes.getD l (0, l))
    let met := fun s : State => (s.group (s.unit 1).group).opens.filter fun t =>
      !(t.1 = key && ((s.unit 1).homesOf (arr s)).contains t.2)
    let open_ := fun s : State => (met s).filter fun t =>
      !((s.unit 1).homesOf ((s.unit 1).o &&& ~~~(s.unit 1).x)).contains t.2
    let fits := fun (s : State) (left : List (Nat × Nat × Nat)) =>
      let w := s.unit 1
      let g := s.group 1
      let t := (s.setUnit 1 { w with held := false }).tellLive w 0
      (match w.waitRecs (s.liveEntry w 0) key (w.pc.toNat + m.size) (arr s) with
        | [r] => ((t.setGroup 1 { g with opens := left }).spawnPlace g.core g.ctx r.size).isSome
        | _ => false) = true
    let ok := fun s : State => (s.unit 1).soldered = false ∧ (s.group 1).waits = [] ∧ (s.unit 1).num = 0 ∧
      (s.unit 1).group = 1
    let inPlace := meeting [0] 7 3
    let closing := meeting [0, 1, 2] 7 3
    let staying := meeting [0, 2] 7 3
    let waiting := meeting [0, 1, 3] 3 3
    let parting := meeting [0, 3] 3 3
    Issues (meeting [] 3 3) m hd ∧ arr (meeting [] 3 3) = 0 ∧
    (Issues inPlace m hd ∧ ok inPlace ∧ arr inPlace = 1 ∧ met inPlace = [] ∧ (inPlace.unit 1).x &&& ~~~arr inPlace = 2) ∧
    (Issues closing m hd ∧ ok closing ∧ arr closing = 3 ∧ (closing.unit 1).x = 3 ∧ met closing = [(key, 0, 2)] ∧
      open_ closing = []) ∧
    (Issues staying m hd ∧ ok staying ∧ arr staying = 1 ∧ met staying = [(key, 0, 2)] ∧ fits staying (met staying)) ∧
    (Issues waiting m hd ∧ ok waiting ∧ arr waiting = 3 ∧ (waiting.unit 1).x = 3 ∧ open_ waiting = [(key, 0, 3)] ∧
      fits waiting (open_ waiting)) ∧
    (Issues parting m hd ∧ ok parting ∧ arr parting = 1 ∧ met parting = [(key, 0, 3)] ∧ fits parting (met parting)) :=
  ⟨issues_of _ _ _ (by decide), by decide, ⟨issues_of _ _ _ (by decide), by decide⟩,
    ⟨issues_of _ _ _ (by decide), by decide⟩, ⟨issues_of _ _ _ (by decide), by decide +kernel⟩,
    ⟨issues_of _ _ _ (by decide), by decide +kernel⟩, issues_of _ _ _ (by decide), by decide +kernel⟩
/-! ## States that meet the hypotheses: memory and waiting (O21 to O27) -/

/-- What `State.Homed`, `State.Plain`, `State.Apart`, `State.Holds`, `State.Reads` and `State.Writes` ask, as
tests. -/
def homedB (s : State) (q : Req) : Bool := !s.homeDamaged q.core (tagAsid q.asid q.va) q.va
def plainB (s : State) (tag va n : Nat) : Bool :=
  s.mem.areas.all fun a => !a.tainted || !touches tag va n a.asid a.base a.size
def apartB (s : State) (tag va n : Nat) : Bool := s.mem.areas.all fun a => !touches tag va n a.asid a.base a.size
def holdsB (s : State) (u va n : Nat) (bs : List Byte) : Bool :=
  decide (va < 2 ^ 56) && decide (va % n = 0) && homedB s (s.reqOf u va) &&
  plainB s (tagAsid (s.reqOf u va).asid va) va n &&
  match s.lineFor u va with
  | some l => decide (l.data.length = 128) && l.attr.r && !l.poison && decide (bs = (l.data.drop (va % 128)).take n)
  | none => false
def readsB (s : State) (u va n : Nat) (bs : List Byte) : Bool :=
  holdsB s u va n bs && (s.l1Find (s.unit u).core (tagAsid (s.reqOf u va).asid va) (va / 128)).isNone
def writesB (s : State) (u va n : Nat) (r : Bool) : Bool :=
  decide (va < 2 ^ 56) && decide (va % n = 0) && homedB s (s.reqOf u va) &&
  (!r || apartB s (tagAsid (s.reqOf u va).asid va) va n) &&
  match s.lineFor u va with
  | some l => decide (l.data.length = 128) && l.attr.w && (!r || (l.attr.r && !l.poison))
  | none => false

theorem homed_of (s : State) (q : Req) (h : homedB s q = true) : s.Homed q := by
  simpa [homedB, State.Homed] using h

theorem plain_of (s : State) (tag va n : Nat) (h : plainB s tag va n = true) : s.Plain tag va n := fun a ha ht => by
  have := List.all_eq_true.mp h a ha
  simpa [ht] using this

theorem apart_of (s : State) (tag va n : Nat) (h : apartB s tag va n = true) : s.Apart tag va n := fun a ha => by
  simpa using List.all_eq_true.mp h a ha

theorem holds_of (s : State) (u va n : Nat) (bs : List Byte) (h : holdsB s u va n bs = true) :
    s.Holds u va n bs := by
  simp only [holdsB, Bool.and_eq_true, decide_eq_true_eq] at h
  obtain ⟨⟨⟨⟨a, b⟩, d⟩, e⟩, c⟩ := h
  split at c
  · rename_i l hl
    simp only [Bool.and_eq_true, decide_eq_true_eq, Bool.not_eq_true'] at c
    exact ⟨a, b, homed_of s _ d, plain_of s _ _ _ e, l, hl, c.1.1.1, c.1.1.2, c.1.2, c.2⟩
  · simp at c

theorem reads_of (s : State) (u va n : Nat) (bs : List Byte) (h : readsB s u va n bs = true) :
    s.Reads u va n bs := by
  simp only [readsB, Bool.and_eq_true, Option.isNone_iff_eq_none] at h
  exact ⟨holds_of s u va n bs h.1, fun m hm => by rw [h.2] at hm; cases hm⟩

theorem writes_of (s : State) (u va n : Nat) (r : Bool) (h : writesB s u va n r = true) :
    s.Writes u va n r := by
  simp only [writesB, Bool.and_eq_true, decide_eq_true_eq] at h
  obtain ⟨⟨⟨⟨a, b⟩, d⟩, e⟩, c⟩ := h
  split at c
  · rename_i l hl
    simp only [Bool.and_eq_true, decide_eq_true_eq, Bool.or_eq_true, Bool.not_eq_true'] at c
    refine ⟨a, b, homed_of s _ d, fun hr => apart_of s _ _ _ (by simpa [hr] using e), l, hl, c.1.1, c.1.2,
      fun hr => ?_⟩
    rcases c.2 with hn | hn
    · rw [hr] at hn; cases hn
    · exact hn
  · simp at c

/-- A unit whose pair v4 holds an address in every lane; the line at 0x1000 is held, and v6 and v8 hold
operands. -/
def atAddr (va : Nat) (f : Wave → Wave := id) : State :=
  withLine (bench fun w => f (pair (pair (pair w 4 va) 6 0x55) 8 7)) 0x1000 bytes128

/-- The address in v4. -/
def inV4 : AddrF := address 2 false 0 false 0

theorem witness_loads :
    let s := atAddr 0x1070
    let f := memory 10 inV4 .b128 .acq 2
    (∀ i ∈ [Instr.LD hd f, .LD_POLL hd f], Issues s i hd) ∧
    (∀ l ∈ lanesOf ((s.unit s.cur).acting hd),
      s.Reads s.cur ((s.unit s.cur).addrOf f.addr f.size.bytes l) f.size.bytes (bytes128.drop 0x70)) :=
  ⟨issues_all _ _ _ (by decide), fun l hl => reads_of _ _ _ _ _ (List.all_eq_true.mp
    (show ((lanesOf (((atAddr 0x1070).unit 1).acting hd)).all fun l =>
      readsB (atAddr 0x1070) 1 (((atAddr 0x1070).unit 1).addrOf inV4 16 l) 16 (bytes128.drop 0x70)) = true by
        decide +kernel) l hl)⟩

/-- A polling load beside a copy in L1 that holds other bytes. -/
def oldCopy : State :=
  let s := atAddr 0x1070
  let m : L1Line := { asid := 0, va := 32, data := List.replicate 128 0xEE, attr := (lineOf 0x1000 []).attr, bank := 0, fill := 0 }
  { s with mem := { s.mem with l1 := AMap.set [] [] (l1Key 0 32) [m] } }

theorem witness_polls :
    Issues oldCopy (.LD_POLL hd (memory 10 inV4 .b64 .weak 0)) hd ∧
    (oldCopy.l1Find 0 0 32).isSome = true ∧
    ∀ l ∈ lanesOf ((oldCopy.unit 1).acting hd),
      oldCopy.Holds 1 ((oldCopy.unit 1).addrOf inV4 8 l) 8 ((bytes128.drop 0x70).take 8) :=
  ⟨issues_of _ _ _ (by decide), by decide, fun l hl => holds_of _ _ _ _ _ (List.all_eq_true.mp
    (show ((lanesOf ((oldCopy.unit 1).acting hd)).all fun l =>
      holdsB oldCopy 1 ((oldCopy.unit 1).addrOf inV4 8 l) 8 ((bytes128.drop 0x70).take 8)) = true by decide +kernel) l hl)⟩

theorem witness_stores :
    let s := atAddr 0x107F
    let f := memory 6 inV4 .b8 .weak 0
    Issues s (.ST hd f) hd ∧ (∀ sl, (s.slice sl).spilled = []) ∧
    ∀ l ∈ lanesOf ((s.unit s.cur).acting hd),
      s.Writes s.cur ((s.unit s.cur).addrOf f.addr f.size.bytes l) f.size.bytes false :=
  ⟨issues_of _ _ _ (by decide), fun _ => rfl, fun l hl => writes_of _ _ _ _ _ (List.all_eq_true.mp
    (show ((lanesOf (((atAddr 0x107F).unit 1).acting hd)).all fun l =>
      writesB (atAddr 0x107F) 1 (((atAddr 0x107F).unit 1).addrOf inV4 1 l) 1 false) = true by decide +kernel) l hl)⟩

theorem witness_atomics :
    let s := atAddr 0x1000
    let f := memory 10 inV4 .b32 .acqrel 2
    let x := atomic 6 0 .unsigned false true 0
    (∀ i ∈ [Instr.ATOM_ADD hd f x, .ATOM_SUB hd f x, .ATOM_MIN hd f x, .ATOM_MAX hd f x, .ATOM_AND hd f x,
      .ATOM_OR hd f x, .ATOM_XOR hd f x, .ATOM_EXCH hd f x, .ATOM_CAS hd f { x with b := 8 }, .ATOM_INC hd f x,
      .ATOM_DEC hd f x], Issues s i hd) ∧ (∀ sl, (s.slice sl).spilled = []) ∧
    (∀ l ∈ lanesOf ((s.unit s.cur).acting hd),
      s.Writes s.cur ((s.unit s.cur).addrOf f.addr f.size.bytes l) f.size.bytes true) ∧
    s.farPlace (s.sliceFor s.cur 0x1000) 0 0x1000 = none :=
  ⟨issues_all _ _ _ (by decide), fun _ => rfl, fun l hl => writes_of _ _ _ _ _ (List.all_eq_true.mp
    (show ((lanesOf (((atAddr 0x1000).unit 1).acting hd)).all fun l =>
      writesB (atAddr 0x1000) 1 (((atAddr 0x1000).unit 1).addrOf inV4 4 l) 4 true) = true by decide +kernel) l hl),
    by decide +kernel⟩

/-- Addresses that are not a multiple of the size, or that leave the address space. -/
theorem witness_misaligned :
    (let s := atAddr 0x1002
     let f := memory 10 inV4 .b32 .weak 0
     (∀ i ∈ [Instr.LD hd f, .LD_POLL hd { f with order := .acq }, .ST hd f,
       .ATOM_ADD hd f (atomic 6 0 .unsigned false true 0),
       .ATOM_CAS hd f (atomic 6 8 .unsigned false true 0)], Issues s i hd) ∧
     1 ∈ lanesOf ((s.unit 1).acting hd) ∧ (s.unit 1).addrOf f.addr f.size.bytes 1 % 4 = 2) ∧
    (let s := atAddr (2 ^ 56)
     Issues s (.ST hd (memory 10 inV4 .b8 .weak 0)) hd ∧ (s.unit 1).addrOf inV4 1 1 = 2 ^ 56) :=
  ⟨⟨issues_all _ _ _ (by decide), by decide, by decide⟩, issues_of _ _ _ (by decide), by decide⟩

/-- The last aligned offset of the group's scratchpad range and the one beyond it; a node off its line. -/
theorem witness_scratchpad :
    (let s := atAddr (32768 - 16)
     (∀ i ∈ [Instr.LDS hd (memory 10 inV4 .b128 .weak 0), .STS hd (memory 10 inV4 .b128 .weak 0)],
       Issues s i hd) ∧
     (s.unit 1).offsetOf inV4 16 1 + 16 = (s.group 1).scratch ∧ (s.unit 1).offsetOf inV4 16 4 % 16 = 0) ∧
    (let s := atAddr 32768
     (∀ i ∈ [Instr.LDS hd (memory 10 inV4 .b8 .weak 0), .STS hd (memory 10 inV4 .b8 .weak 0)],
       Issues s i hd) ∧ (s.group 1).scratch < (s.unit 1).offsetOf inV4 1 1 + 1) :=
  ⟨⟨issues_all _ _ _ (by decide), by decide, by decide⟩, issues_all _ _ _ (by decide), by decide⟩

theorem witness_fences :
    let s := atAddr 0x1000
    Acts s (.FENCE_ACQ hd 2) hd ∧ Acts s (.FENCE_REL hd 0x1F) hd ∧ Issues s (.PREF hd inV4) hd :=
  ⟨acts_of _ _ _ (by decide), acts_of _ _ _ (by decide), issues_of _ _ _ (by decide)⟩

/-- discard of a line, of a range that ends at the end of the address space, and of one that passes it. -/
theorem witness_discard :
    (let s := atAddr 0x1000 fun w => w.setReg 20 1 128
     Acts s (.DISCARD hd 2 20) hd ∧ s.deniedAt 0 0x1000 128 = none ∧ s.mem.stalls = [] ∧
       (s.unit 1).val true 4 1 = 0x1000 ∧ ((s.unit 1).reg 20 1).toNat = 128 ∧
       AMap.wf s.mem.l1 [] = true ∧ ∀ sl, (s.slice sl).spilled = []) ∧
    (let s := atAddr (2 ^ 56 - 128) fun w => w.setReg 20 1 128
     Acts s (.DISCARD hd 2 20) hd ∧ s.deniedAt 0 (2 ^ 56 - 128) 128 = none ∧
       (s.unit 1).val true 4 1 + ((s.unit 1).reg 20 1).toNat = 2 ^ 56) ∧
    (let s := atAddr (2 ^ 56 - 128) fun w => w.setReg 20 1 256
     Acts s (.DISCARD hd 2 20) hd ∧ 2 ^ 56 < (s.unit 1).val true 4 1 + ((s.unit 1).reg 20 1).toNat) ∧
    (let s := atAddr (2 ^ 56) fun w => w.setReg 20 1 0
     Acts s (.DISCARD hd 2 20) hd ∧ (s.unit 1).val true 4 1 = 2 ^ 56) :=
  ⟨⟨acts_of _ _ _ (by decide), by decide, by decide, by decide, by decide, by decide, fun _ => rfl⟩,
    ⟨acts_of _ _ _ (by decide), by decide, by decide⟩, ⟨acts_of _ _ _ (by decide), by decide⟩, acts_of _ _ _ (by decide), by decide⟩

/-- A wait on the last word of the line, for the least bound. -/
def waiting (limit : Nat) (cancelled : Bool) : State :=
  let s := atAddr 0x1070 fun w => (pair w 6 0).setReg 12 1 (BitVec.ofNat 32 limit)
  if cancelled then s.setLaunch 0 { s.launch 0 with cancelled := true } else s

/-- waitu: a condition that holds, one that does not with limits 0, 1 and none, a cancelled launch, and a
misaligned word. -/
theorem witness_waitu :
    let i := fun (cmp : WCmp) => Instr.WAITU hd (wait 9 2 6 12 cmp false true 1 none)
    (∀ c ∈ [WCmp.eq, .ge], Acts (waiting 0 false) (i c) hd ∧ Acts (waiting 1 false) (i c) hd ∧
      Acts (waiting 0xFFFF_FFFF false) (i c) hd ∧ Acts (waiting 1 true) (i c) hd) ∧
    (waiting 0 false).Holds 1 0x1078 8 (bytes128.drop 0x78) ∧
    (waiting 1 false).Holds 1 0x1078 8 (bytes128.drop 0x78) ∧
    cmpHolds .ge false true (leNat (bytes128.drop 0x78)) 0 = true ∧
    cmpHolds .eq false true (leNat (bytes128.drop 0x78)) 0 = false ∧
    (((waiting 1 false).slice ((waiting 1 false).sliceFor 1 0x1078)).table.length < 2048) ∧
    ((waiting 1 true).launch 0).cancelled = true ∧
    Acts (atAddr 0x1001) (.WAITU hd (wait 9 2 6 12 .any false true 0 none)) hd := by
  refine ⟨fun c hc => ?_, holds_of _ _ _ _ _ (by decide +kernel), holds_of _ _ _ _ _ (by decide +kernel), by decide,
    by decide, by decide +kernel, by decide, acts_of _ _ _ (by decide)⟩
  simp only [List.mem_cons, List.not_mem_nil, or_false] at hc
  rcases hc with rfl | rfl <;>
    exact ⟨acts_of _ _ _ (by decide), acts_of _ _ _ (by decide), acts_of _ _ _ (by decide),
      acts_of _ _ _ (by decide)⟩

/-- A wait of class 0 at a table that is full but for its last entry's class, and a spill segment of two records. -/
def waitAt (cls stamp token : Nat) : MonEntry :=
  { asid := 0, va := 0x1010, wide := false, signed := false, cmp := .eq, operand := 0, deadline := none, cls := cls
    ctx := 0, token := token, core := 0, part := 0, slot := 0, stamp := stamp, moved := false, fired := none }
def crowded (last : Nat) (taken : List Nat) : State :=
  let s := waiting 1 false
  let s := s.setCtx 0 { s.ctx 0 with spill := { base := 0x50000, size := 0x4000 }, spillSeg := 2 }
  s.setSlice (s.sliceFor 1 0x1078)
    { table := List.replicate 2047 (waitAt 0 5 8) ++ [waitAt last 6 9]
      spilled := taken.map fun n => { entry := waitAt 1 0 (20 + n), index := n } }

/-- A full table whose entries are all of class 0, and one whose youngest entry of the lowest priority a class 0
registration displaces; with a free record in the segment, and with none. -/
theorem witness_full_table :
    let i := Instr.WAITU hd (wait 9 2 6 12 .eq false true 1 none)
    let at_ := fun s : State => s.slice (s.sliceFor 1 0x1078)
    (∀ e ∈ [(0, [1]), (0, [0, 1]), (3, [1]), (3, [0, 1])],
      let s := crowded e.1 e.2
      Acts s i hd ∧ s.Holds 1 0x1078 8 (bytes128.drop 0x78) ∧ 2048 ≤ (at_ s).table.length ∧
      s.classOf (s.unit 1).launch = 0 ∧ (s.launch (s.unit 1).launch).cancelled = false ∧
      s.localLine (0x50000 + ((s.sliceFor 1 0x1078) * 2 + 0) * 32) = none ∧
      (e.1 = 0 → ∀ x ∈ (at_ s).table, x.cls = 0) ∧
      (e.1 = 3 → waitAt 3 6 9 ∈ (at_ s).table ∧ ∀ x ∈ (at_ s).table, x = waitAt 3 6 9 ∨
        x.token ≠ 9 ∧ (x.cls < 3 ∨ x.cls = 3 ∧ x.stamp < 6)) ∧
      (e.2 = [0, 1] → ∀ n, n < (s.ctx 0).spillSeg → ∃ p ∈ (at_ s).spilled, p.entry.ctx = 0 ∧ p.index = n) ∧
      (e.2 = [1] → 0 < (s.ctx 0).spillSeg ∧ ¬∃ p ∈ (at_ s).spilled, p.entry.ctx = 0 ∧ p.index = 0)) := by
  intro i at_ e he
  simp only [List.mem_cons, List.not_mem_nil, or_false] at he
  rcases he with rfl | rfl | rfl | rfl <;>
    exact ⟨acts_of _ _ _ (by decide +kernel), holds_of _ _ _ _ _ (by decide +kernel), by decide +kernel, by decide,
      by decide, by decide +kernel, by decide +kernel, by decide +kernel, by decide +kernel, by decide +kernel⟩

theorem witness_sleep :
    Acts bench (.SLEEP hd { alu 0 0 0 0 with imm := true }) hd ∧
    Acts bench (.SLEEP hd { alu 0 0x80 0 0 with imm := true }) hd ∧
    (bench.unit 1).srcOrImm { alu 0 0x80 0 0 with imm := true } 0x80 false 1 % 2 ^ 32 = 0xFFFF_FF80 :=
  ⟨acts_of _ _ _ (by decide), acts_of _ _ _ (by decide), by decide⟩

/-! ## States that meet the hypotheses: creating and observing work (O28 to O30) -/

/-- A spawn pool record. -/
def poolRec : PoolRec :=
  { launch := 9, entry := 0, regs := 1, scratch := 0, tiles := 0, waves := 1, next := 0, left := 1 }

/-- A unit that spawns: the pool of its core and the waves of the entry's groups. -/
def spawning (pool waves : Nat) : State :=
  let s := atAddr 0x1000
  let s := s.setCtx 0 { s.ctx 0 with objs := [{ benchObj with
    entries := benchObj.entries.map fun e => { e with waves := waves } }] }
  let s := s.setLaunch 0 { s.launch 0 with banked := [0] }
  s.setCore 0 { s.core 0 with pool := List.replicate pool poolRec }

/-- spawn of no group, of groups that no core holds, with a full pool, with one free place, with a pre-emption
of the pool's contexts, in a cancelled launch, and of one group that its core has room for. -/
theorem witness_spawn :
    let i := fun n : Nat => Instr.SPAWN hd { alu 9 n 0 0 with imm := true }
    let r : PoolRec := { launch := 0, entry := 0, regs := 8, scratch := 0, tiles := 0, waves := 1, next := 0, left := 1 }
    (∀ s ∈ [spawning 0 1, spawning 64 1, spawning 63 1, spawning 0 1000], Acts s (i 3) hd ∧
      (s.objOf (s.unit 1)).isSome = true) ∧ Acts (spawning 0 1) (i 0) hd ∧
    ((spawning 0 1).objOf ((spawning 0 1).unit 1)) = some { benchObj with
      entries := benchObj.entries.map fun e => { e with waves := 1 } } ∧
    (emptyRoom 0).place { waves := 1, regs := 8, scratch := 0, tiles := 0 } ≠ none ∧
    (emptyRoom 0).place { waves := 1000, regs := 8, scratch := 0, tiles := 0 } = none ∧
    ((spawning 64 1).core 0).pool.length = 64 ∧ ((spawning 63 1).core 0).pool.length < 64 ∧
    (let s : State := { spawning 1 1 with work := { (spawning 1 1).work with preempts := [([0], [0])] } }
     Acts s (i 1) hd ∧ (s.launch 0).cancelled = false ∧
       ∀ q ∈ (s.core 0).pool ++ [r], s.preempting 0 (s.launch q.launch).ctx = true) ∧
    (let s := (spawning 0 1).setLaunch 0 { (spawning 0 1).launch 0 with cancelled := true }
     Acts s (i 1) hd ∧ (s.launch 0).cancelled = true) ∧
    (Acts (spawning 0 1) (i 1) hd ∧ ((spawning 0 1).core 0).pool = [] ∧
      (spawning 0 1).preempting 0 ((spawning 0 1).launch 0).ctx = false ∧
      ((spawning 0 1).launch 0).banked.contains 0 = true ∧
      (((spawning 0 1).room 0).place { waves := 1, regs := 8, scratch := 0, tiles := 0 }).isSome = true) := by
  refine ⟨fun s hs => ?_, acts_of _ _ _ (by decide +kernel), by decide +kernel, by decide +kernel, by decide +kernel, by decide +kernel, by decide +kernel,
    ⟨acts_of _ _ _ (by decide +kernel), by decide +kernel⟩, ⟨acts_of _ _ _ (by decide +kernel), by decide +kernel⟩,
    acts_of _ _ _ (by decide +kernel), by decide +kernel⟩
  simp only [List.mem_cons, List.not_mem_nil, or_false] at hs
  rcases hs with rfl | rfl | rfl | rfl <;> exact ⟨acts_of _ _ _ (by decide +kernel), by decide +kernel⟩

/-- A unit at a launch record, with a device launch queue and its ring. -/
def launching (va hw ring size : Nat) : State :=
  let s := atAddr va
  s.setCtx 0 { s.ctx 0 with hw := List.replicate hw 77, ringRecs := List.replicate ring 78
                            ring := { base := 0x40000, size := size } }

/-- launch with a free entry, with a free ring record, and with neither; and a misaligned record. -/
theorem witness_launch :
    let i := Instr.LAUNCH hd (alu 9 4 0 0)
    (∀ s ∈ [launching 0x1000 255 0 64, launching 0x1000 256 0 64, launching 0x1000 0 1 128,
      launching 0x1000 256 1 64], Acts s i hd ∧ s.Reads 1 0x1000 64 (bytes128.take 64)) ∧
    Acts (launching 0x1020 0 0 64) i hd ∧
    ((launching 0x1000 255 0 64).ctx 0).hw.length < 256 ∧ ((launching 0x1000 255 0 64).ctx 0).ringRecs = [] ∧
    256 ≤ ((launching 0x1000 256 0 64).ctx 0).hw.length ∧
    ((launching 0x1000 256 0 64).ctx 0).ringRecs.length < 1 ∧
    (launching 0x1000 256 0 64).ringMapped 0 0x40000 = true ∧ (launching 0x1000 256 0 64).localLine 0x40000 = none ∧
    1 ≤ ((launching 0x1000 256 1 64).ctx 0).ringRecs.length ∧
    (let s := launching 0x1000 256 0 64
     let s := s.setCtx 0 { s.ctx 0 with ring := { base := 2 ^ 50, size := 64 } }
     Acts s i hd ∧ s.Reads 1 0x1000 64 (bytes128.take 64) ∧ s.ringMapped 0 (2 ^ 50) = false) := by
  refine ⟨fun s hs => ?_, acts_of _ _ _ (by decide +kernel), by decide +kernel, by decide +kernel, by decide +kernel, by decide +kernel, by decide +kernel,
    by decide +kernel, by decide +kernel, acts_of _ _ _ (by decide +kernel), reads_of _ _ _ _ _ (by decide +kernel), by decide +kernel⟩
  simp only [List.mem_cons, List.not_mem_nil, or_false] at hs
  rcases hs with rfl | rfl | rfl | rfl <;>
    exact ⟨acts_of _ _ _ (by decide +kernel), reads_of _ _ _ _ _ (by decide +kernel)⟩

/-- A launch with flags that depends on another started one. -/
def depending (flags : Nat) (cancelled : Bool) : State :=
  let s := bench.setLaunch 0 { bench.launch 0 with cancelled := cancelled, phase := .started
                                                   form := { flags := flags }, order := 5 }
  s.setLaunch 3 { phase := .started, order := 2, form := { count := 2, flags := 1 } }

theorem witness_waitp :
    let p := Instr.WAITP hd (alu 9 0 0 0)
    (∀ s ∈ [depending 1 true, depending 0 false, depending 1 false], Acts s p hd ∧
      Issues s (.GBAR hd (alu 0 0 0 0)) hd ∧ Acts s (.TRIG hd (alu 0 0 0 0)) hd) ∧
    ((depending 1 false).producers 0).any (fun l => !(depending 1 false).launchTriggered l) = true ∧
    ((depending 0 false).launch 0).form.flags % 2 = 0 ∧ ((depending 1 false).launch 0).form.flags % 2 = 1 ∧
    (depending 1 true).performed ((depending 1 true).unit 1) = true ∧
    (let s := (depending 1 true).setUnit 1 { (depending 1 true).unit 1 with pend := [onItsWay] }
     Issues s (.GBAR hd (alu 0 0 0 0)) hd ∧ s.performed (s.unit 1) = false ∧ ∀ q ∈ (s.unit 1).pend, q.status ≠ .declined) ∧
    -- the last wave of a launch's one group triggers
    (let s := bench.setLaunch 0 { bench.launch 0 with phase := .started, form := { count := 1 }, next := 1 }
     let v := s.setGroup 1 { s.group 1 with trigs := (s.unit 1).homeWaves }
     Acts s (.TRIG hd (alu 0 0 0 0)) hd ∧ (s.launch 0).triggered = false ∧ v.launchTriggered 0 = true) := by
  refine ⟨fun s hs => ?_, by decide +kernel, by decide +kernel, by decide +kernel, by decide +kernel,
    ⟨issues_of _ _ _ (by decide +kernel), by decide +kernel⟩, acts_of _ _ _ (by decide +kernel), by decide +kernel⟩
  simp only [List.mem_cons, List.not_mem_nil, or_false] at hs
  rcases hs with rfl | rfl | rfl <;>
    exact ⟨acts_of _ _ _ (by decide +kernel), issues_of _ _ _ (by decide +kernel), acts_of _ _ _ (by decide +kernel)⟩

/-- A launch, graph, phase and job that one counter address names. -/
def counted (va : Nat) : State :=
  let s := atAddr va
  let s := s.setLaunch 0 { s.launch 0 with
    phase := .started, retired := 4, next := 3, form := { count := 9, counter := 0x1000 }, bytes := some (leBytes 0 8 ++ leBytes 0x1000 8)
    graph := 21, jphase := 22, job := 23 }
  let s := s.setLaunch 5 { phase := .queued, graph := 21, order := 9, bytes := some (leBytes 0 8 ++ leBytes 0x2000 8) }
  { s with work := { s.work with
    graphs := s.work.graphs.set {} 21 { live := true, counter := 0x1000, parent := 22, completed := 3 }
    phases := s.work.phases.set {} 22 { live := true, counter := 0x1000, parent := 23 }
    jobLevels := s.work.jobLevels.set {} 23 { live := true, counter := 0x1000, completed := 2 } } }

/-- Unfinished units of every level that an address names, a queued launch among them; and an address that
names none. -/
theorem witness_cancel :
    (Acts (counted 0x2000) (.CANCEL hd (alu 0 4 0 0)) hd ∧ (counted 0x2000).named 0 .launch 0x2000 = some 5 ∧
      ((counted 0x2000).launch 5).phase = .queued ∧ ((counted 0x2000).launch 5).cancelled = false) ∧
    (Acts (counted 0x1008) (.CANCEL hd (alu 0 4 0 0)) hd ∧ (counted 0x1008).named 0 .launch 0x1008 = none) ∧
    (∀ lv ∈ [(0 : BitVec 3), 1, 2, 3], Acts (counted 0x1000) (.CANCEL hd { alu 0 4 0 0 with mod := lv }) hd ∧
      Acts (counted 0x1000) (.CCNT hd { alu 10 4 0 0 with mod := lv }) hd) ∧
    (counted 0x1000).named 0 .launch 0x1000 = some 0 ∧ (counted 0x1000).named 0 .graph 0x1000 = some 21 ∧
    (counted 0x1000).named 0 .phase 0x1000 = some 22 ∧ (counted 0x1000).named 0 .job 0x1000 = some 23 ∧
    ((counted 0x1000).launch 0).cancelled = false ∧
    ((counted 0x1000).launch 0).phase ∈ [LaunchPhase.queued, .eligible, .started] ∧
    ((counted 0x1000).draw 0).finishing = false ∧
    (((counted 0x1000).work.graphs.get {} 21).live = true ∧
      ((counted 0x1000).work.graphs.get {} 21).done = false ∧
      ((counted 0x1000).work.graphs.get {} 21).cancelled = false) ∧
    (((counted 0x1000).work.phases.get {} 22).live = true ∧
      ((counted 0x1000).work.phases.get {} 22).done = false) ∧
    (((counted 0x1000).work.jobLevels.get {} 23).live = true ∧
      ((counted 0x1000).work.jobLevels.get {} 23).done = false) := by
  refine ⟨⟨acts_of _ _ _ (by decide +kernel), by decide +kernel⟩, ⟨acts_of _ _ _ (by decide +kernel), by decide +kernel⟩,
    fun lv hl => ?_, by decide +kernel⟩
  simp only [List.mem_cons, List.not_mem_nil, or_false] at hl
  rcases hl with rfl | rfl | rfl | rfl <;> exact ⟨acts_of _ _ _ (by decide +kernel), acts_of _ _ _ (by decide +kernel)⟩

/-- An address that names nothing, address 0, and misaligned ones. -/
theorem witness_count :
    let c := Instr.CCNT hd (alu 10 4 0 0)
    (∀ va ∈ [0x1008, 0, 0x1004, 2 ^ 56], Acts (counted va) c hd) ∧
    Acts (counted 0x1008) (.CANCEL hd (alu 0 4 0 0)) hd ∧
    (counted 0x1008).named 0 .launch 0x1008 = none ∧
    (counted 0x1008).Reads 1 0x1008 8 ((bytes128.drop 8).take 8) := by
  refine ⟨fun va hv => ?_, acts_of _ _ _ (by decide +kernel), by decide +kernel, reads_of _ _ _ _ _ (by decide +kernel)⟩
  simp only [List.mem_cons, List.not_mem_nil, or_false] at hv
  rcases hv with rfl | rfl | rfl | rfl <;> exact acts_of _ _ _ (by decide +kernel)

/-! ## States that meet the hypotheses: draws (O31 to O33) -/

/-- A head of a rate. -/
def hdr (r : Rate) : Head := { hd with rate := r }

/-- An element of a rate, with a record of one line. -/
def elemOf (r : Rate) (kids line : Nat) : Elem :=
  { phase := .running, rate := r, parent := 9, object := 2, count := 1, kids := kids, prims := 1, lines := [line] }

/-- A draw with the elements of two lanes and their parent. -/
def drawOf (r : Rate) (kids space : Nat) : Draw :=
  { live := true, blk := { area := 0x8000, maxC := 30, maxV := 300, maxP := 2, width := 64, height := 64 }
    elems := [(9, elemOf .O 3 128), (10, elemOf r kids 256), (11, elemOf r 0 384)]
    holds := [{ rate := 2, first := 1, count := 1, entry := 0 },
      { rate := r.code, first := 2, count := 6, entry := 0 },
      { rate := 7, first := 20, count := 9, entry := 0 }]
    targets := [{}, {}, {}, {}], space := space, size := 128, rates := 255, used := 64 }

/-- A unit of the draw whose lanes 1 and 4 run elements 10 and 11; v15 asks for a number of children. Its slice
holds some lines of the rate-store area. -/
def drawing (r : Rate) (ask kids space : Nat) (lines : List Nat := []) : State :=
  let s := bench fun w => { pair (pair w 14 (ask * 2 ^ 32)) 6 0x0302_01 with
    rate := r, elems := [0, 10, 0, 0, 11] }
  let s := lines.foldl (fun s o => withLine s (0x8000 + o) bytes128) { s with seq := 50 }
  (s.setLaunch 0 { s.launch 0 with phase := .started }).setDraw 0 (drawOf r kids space)

/-- No element has an identifier to come. -/
theorem no_later_elem (r : Rate) (m n : Nat) (e : Nat) (he : 50 ≤ e) : (drawOf r m n).elem e = {} := by
  have h9 : ¬9 = e := by omega
  have h10 : ¬10 = e := by omega
  have h11 : ¬11 = e := by omega
  simp only [Draw.elem, drawOf, AMap.get, if_neg h9, if_neg h10, if_neg h11]

theorem witness_elements :
    Issues (drawing .C 0 1 1000) (.HOLD (hdr .C) (fields .n32 0 6 0 2)) (hdr .C) ∧
    Issues (drawing .C 0 1 1000) (.HOLD (hdr .C) (fields .n64 0 6 0 6)) (hdr .C) ∧
    Issues (drawing .C 0 1 1000) (.TAKE (hdr .C) (fields .n32 8 0 0 1)) (hdr .C) ∧
    Issues (drawing .C 0 1 1000) (.TAKE (hdr .C) (fields .n64 8 0 0 2)) (hdr .C) ∧
    Issues (drawing .S 0 1 1000) (.ZWR (hdr .S) (fields .f32 0 6 0 0)) (hdr .S) ∧
    Issues (drawing .Y 0 1 1000) (.RAYRET (hdr .Y) (fields .n32 0 6 0 0)) (hdr .Y) ∧
    Issues (drawing .S 0 1 1000) (.FBW (hdr .S) (fields .f32 0 8 0 3)) (hdr .S) ∧
    Issues (drawing .S 0 1 1000) (.FBW (hdr .S) (fields .n32 0 8 0 0)) (hdr .S) ∧
    Issues (drawing .P 0 1 1000) (.COV (hdr .P) (fields .n32 9 0 0 0)) (hdr .P) ∧
    Issues (drawing .C 0 1 1000) (.ZTEST (hdr .C) (fields .f32 5 8 12 0)) (hdr .C) ∧
    ((drawing .C 0 1 1000).draw 0).pyramid = none := by
  refine ⟨?_, ?_, ?_, ?_, ?_, ?_, ?_, ?_, ?_, ?_, by decide +kernel⟩ <;> exact issues_of _ _ _ (by decide +kernel)

/-- The slots that lanes 1 and 4 write and read, in lines of the area that their slice holds. -/
theorem witness_slots :
    let s := drawing .C 0 1 1000 [128, 256, 384]
    let d := s.draw 0
    Issues s (.HOLD (hdr .C) (fields .n64 0 6 0 6)) (hdr .C) ∧
    Issues s (.TAKE (hdr .C) (fields .n64 8 0 0 2)) (hdr .C) ∧ s.tainted 0 = false ∧
    (∀ sl, (s.slice sl).spilled = []) ∧ lanesOf ((s.unit 1).acting (hdr .C)) = [1, 4] ∧
    (∀ e ∈ [9, 10, 11], (d.elem e).init = []) ∧ d.slotRate 1 = some .O ∧ d.ancestor .O 7 10 = 9 ∧
    d.slotVa 10 6 = 0x8000 + 256 + 32 ∧
    (∀ e ∈ [10, 11], ∀ k ∈ [6, 7], s.Writes 1 (d.slotVa e k) 4 false) ∧
    ∀ p ∈ [(9, 1), (10, 2), (10, 3), (11, 2), (11, 3)],
      s.Holds 1 (d.slotVa p.1 p.2) 4
        (leBytes (BitVec.ofNat 32 (leNat ((bytes128.drop (d.slotVa p.1 p.2 % 128)).take 4))).toNat 4) := by
  refine ⟨issues_of _ _ _ (by decide +kernel), issues_of _ _ _ (by decide +kernel), by decide +kernel, fun _ => rfl,
    by decide +kernel, by decide +kernel, by decide +kernel, by decide +kernel, by decide +kernel, fun e he k hk => ?_,
    fun p hp => ?_⟩
  · simp only [List.mem_cons, List.not_mem_nil, or_false] at he hk
    rcases he with rfl | rfl <;> rcases hk with rfl | rfl <;> exact writes_of _ _ _ _ _ (by decide +kernel)
  · simp only [List.mem_cons, List.not_mem_nil, or_false] at hp
    rcases hp with rfl | rfl | rfl | rfl | rfl <;> exact holds_of _ _ _ _ _ (by decide +kernel)

/-- A primitive with three vertices, whose position slots 8 to 11 and slot 2 lie in one line each. -/
def cornered : State :=
  let s := drawing .P 0 1 1000 [512, 640, 768]
  let v := fun n line : Nat => ({ elemOf .V 0 line with ordinal := n } : Elem)
  s.setDraw 0 { s.draw 0 with
    blk := { (s.draw 0).blk with pos := 8 }, holds := [{ rate := 4, first := 2, count := 10, entry := 0 }]
    elems := (s.draw 0).elems.map (fun e => (e.1, { e.2 with prim := 3, lines := [], parent := 8 }))
      ++ [(40, v 0 512), (41, v 1 640), (42, v 2 768)]
    prims := [(3, { live := true, cluster := 9, i0 := 0, i1 := 1, i2 := 2 })] }

theorem witness_interpolation :
    Issues cornered (.IPL (hdr .P) (fields .f32 9 0 0 2)) (hdr .P) ∧ cornered.tainted 0 = false ∧
    (cornered.draw 0).blk.sppCode < 4 ∧
    (cornered.draw 0).cornersOf ((cornered.draw 0).prims.get {} ((cornered.draw 0).elem 10).prim) = [40, 41, 42] ∧
    ∀ v ∈ [40, 41, 42], ((cornered.draw 0).elem v).init = [] ∧ ∀ k ∈ [2, 8, 9, 10, 11],
      cornered.Holds 1 ((cornered.draw 0).slotVa v k) 4
        (leBytes (BitVec.ofNat 32 (leNat ((bytes128.drop ((cornered.draw 0).slotVa v k % 128)).take 4))).toNat 4) := by
  refine ⟨issues_of _ _ _ (by decide +kernel), by decide +kernel, by decide +kernel, by decide +kernel, fun v hv => ?_⟩
  simp only [List.mem_cons, List.not_mem_nil, or_false] at hv
  rcases hv with rfl | rfl | rfl <;> refine ⟨by decide +kernel, fun k hk => ?_⟩ <;>
    simp only [List.mem_cons, List.not_mem_nil, or_false] at hk <;>
    rcases hk with rfl | rfl | rfl | rfl | rfl <;> exact holds_of _ _ _ _ _ (by decide +kernel)

/-- What the lanes' elements must be for amplification. -/
def distinctB (s : State) (h : Head) : Bool :=
  let w := s.unit s.cur
  let ls := lanesOf (w.acting h)
  let el := fun l : Nat => w.elems.getD l 0
  ls.all fun l => decide (el l < s.seq) && ls.all fun m => decide (m = l) || decide (el m ≠ el l)

/-- What `State.ReqWrites` asks, as a test. -/
def reqWritesB (s : State) (q : Req) (n : Nat) : Bool :=
  decide (q.va < 2 ^ 56) && decide (q.va % 128 + n ≤ 128) && homedB s q &&
  match s.reqLine q with
  | some l => decide (l.data.length = 128) && l.attr.w
  | none => false

theorem req_writes (s : State) (q : Req) (n : Nat) (h : reqWritesB s q n = true) : s.ReqWrites q n := by
  simp only [reqWritesB, Bool.and_eq_true, decide_eq_true_eq] at h
  obtain ⟨⟨⟨a, b⟩, d⟩, c⟩ := h
  split at c
  · rename_i l hl
    simp only [Bool.and_eq_true, decide_eq_true_eq] at c
    exact ⟨a, b, homed_of s q d, l, hl, c.1, c.2⟩
  · simp at c

/-- Where the limit of a parent is just met, where a record does not fit, and with no record to make. -/
theorem witness_amp :
    (Issues (drawing .O 29 1 100000) (.AMP (hdr .O) (alu 8 15 0 0)) (hdr .O) ∧
      distinctB (drawing .O 29 1 100000) (hdr .O) = true ∧
      ((drawing .O 29 1 100000).draw 0).fits .C 58 = true ∧
      (((drawing .O 29 1 100000).draw 0).elem 10).kids + 29 = 30 ∧
      ((drawing .O 29 1 100000).unit 1).reg 15 1 = 29 ∧ ((drawing .O 29 1 100000).draw 0).requests = [] ∧
      (drawing .O 29 1 100000).seq = 50 ∧
      ((drawing .O 29 1 100000).draw 0) = drawOf .O 1 100000 ∧ ∀ e, 50 ≤ e → (drawOf .O 1 100000).elem e = {}) ∧
    Issues (drawing .O 1 1 64) (.AMP (hdr .O) (alu 8 15 0 0)) (hdr .O) ∧
      ((drawing .O 1 1 64).draw 0).fits .C 2 = false ∧
    Issues (drawing .O 0 1 64) (.AMP (hdr .O) (alu 8 15 0 0)) (hdr .O) ∧
      ((drawing .O 0 1 64).draw 0).fits .C 0 = true :=
  ⟨⟨issues_of _ _ _ (by decide +kernel), by decide +kernel, by decide +kernel, by decide +kernel, by decide +kernel, by decide +kernel,
      by decide +kernel, by decide +kernel, no_later_elem _ _ _⟩,
    issues_of _ _ _ (by decide +kernel), by decide +kernel, issues_of _ _ _ (by decide +kernel), by decide +kernel⟩

/-- The lines of the area that two new records of a rate can take beside the three there are. -/
theorem witness_stored :
    let s := drawing .O 1 1 100000 [0, 128, 256, 384, 512]
    Issues s (.AMP (hdr .O) (alu 8 15 0 0)) (hdr .O) ∧ (∀ sl, (s.slice sl).spilled = []) ∧
    ((s.draw 0).elems.flatMap fun e => e.2.lines).length + 2 * ((s.draw 0).recSize .C / 128) = 5 ∧
    ∀ k, k < 5 → s.ReqWrites (s.storeReq 0 ((s.draw 0).blk.area + 128 * k)) 128 := by
  refine ⟨issues_of _ _ _ (by decide +kernel), fun _ => rfl, by decide +kernel, fun k hk => req_writes _ _ _ ?_⟩
  interval_cases k <;> decide +kernel

theorem witness_emit :
    (Issues (drawing .C 300 0 1000000) (.EMIT_VTX (hdr .C) (fields .n32 0 15 0 0)) (hdr .C) ∧
      ((drawing .C 300 0 1000000).draw 0).fits .V 600 = true ∧
      distinctB (drawing .C 300 0 1000000) (hdr .C) = true) ∧
    (Issues (drawing .C 1 0 64) (.EMIT_VTX (hdr .C) (fields .n32 0 15 0 0)) (hdr .C) ∧
      ((drawing .C 1 0 64).draw 0).fits .V 2 = false) ∧
    (Issues (drawing .C 1 0 64) (.EMIT_PRIM (hdr .C) { fields .n32 0 6 0 0 with mod := 1 }) (hdr .C) ∧
      distinctB (drawing .C 1 0 64) (hdr .C) = true ∧
      ∀ e ∈ [10, 11], (((drawing .C 1 0 64).draw 0).elem e).prims < ((drawing .C 1 0 64).draw 0).blk.maxP) :=
  ⟨⟨issues_of _ _ _ (by decide +kernel), by decide +kernel, by decide +kernel⟩, ⟨issues_of _ _ _ (by decide +kernel), by decide +kernel⟩,
    issues_of _ _ _ (by decide +kernel), by decide +kernel, by decide +kernel⟩

/-- What `State.ReqReads` asks, as a test. -/
def reqReadsB (s : State) (q : Req) (bs : List Byte) : Bool :=
  decide (q.va < 2 ^ 56) && decide (q.va % 128 + bs.length ≤ 128) && homedB s q &&
  plainB s (s.reqTag q) q.va bs.length &&
  match s.reqLine q with
  | some l =>
    decide (l.data.length = 128) && l.attr.r && !l.poison && decide (bs = (l.data.drop (q.va % 128)).take bs.length)
  | none => false

theorem req_reads (s : State) (q : Req) (bs : List Byte) (h : reqReadsB s q bs = true) : s.ReqReads q bs := by
  simp only [reqReadsB, Bool.and_eq_true, decide_eq_true_eq] at h
  obtain ⟨⟨⟨⟨a, b⟩, d⟩, e⟩, c⟩ := h
  split at c
  · rename_i l hl
    simp only [Bool.and_eq_true, decide_eq_true_eq, Bool.not_eq_true'] at c
    exact ⟨a, b, homed_of s q d, plain_of s _ _ _ e, l, hl, c.1.1.1, c.1.1.2, c.1.2, c.2⟩
  · simp at c

/-- A draw whose lanes ask for 40 children of at most two each, or have all the primitives but one that they may
have; its overflow counter lies in a line of its own. -/
def exceeding (r : Rate) (kids prims overflow : Nat) (traps : Bool) : State :=
  let s := withLine (drawing r 40 kids 100000 [0, 128, 256, 384, 512, 640]) 0x2000 bytes128
  let s := s.setCtx 0 { s.ctx 0 with trap := some 0x200 }
  s.setDraw 0 { s.draw 0 with
    blk := { (s.draw 0).blk with maxC := 2, overflow := overflow, flags := if traps then 1 else 0 }
    elems := [(9, elemOf .O 3 128), (10, { elemOf r kids 256 with prims := prims }), (11, elemOf r kids 384)] }

theorem no_later_exceeding (r : Rate) (m n o : Nat) (b : Bool) (e : Nat) (he : 50 ≤ e) :
    ((exceeding r m n o b).draw 0).elem e = {} := by
  have h9 : ¬9 = e := by omega
  have h10 : ¬10 = e := by omega
  have h11 : ¬11 = e := by omega
  show AMap.get ([(9, _), (10, _), (11, _)] : AMap Elem) {} e = {}
  simp only [AMap.get, if_neg h9, if_neg h10, if_neg h11]

/-- Children and primitives past the maximum, with a counter and without, and with the trap; and a spawny of lanes
whose elements have had all their rays. -/
theorem witness_excess :
    (∀ s ∈ [exceeding .O 1 1 0x2010 false, exceeding .O 1 1 0x2010 true, exceeding .O 1 1 0 true],
      Issues s (.AMP (hdr .O) (alu 8 15 0 0)) (hdr .O) ∧ distinctB s (hdr .O) = true ∧ s.seq = 50 ∧
        (s.draw 0).fits .C 2 = true ∧ (s.draw 0).requests = [] ∧ (s.ctx (s.unit 1).ctx).trap = some 0x200 ∧
        (s.unit 1).inHandler = false ∧ (s.unit 1).results = []) ∧
    (let s := exceeding .O 1 1 0x2010 true
     let d := s.draw 0
     s.work.writes = [] ∧ (s.mem.stalls = [] ∧ (s.reqLine (s.storeReq 0 d.blk.overflow)).all (fun m =>
       decide (m.attr.place ≠ 1 ∧ m.attr.place ≠ 2)) = true) ∧ (∀ sl, (s.slice sl).spilled = []) ∧
       s.ReqReads (s.storeReq 0 d.blk.overflow) ((bytes128.drop 16).take 8) ∧
       s.ReqWrites (s.storeReq 0 d.blk.overflow) 8 ∧
       (d.elems.flatMap fun e => e.2.lines).length + 2 * (d.recSize .C / 128) = 5 ∧
       (∀ k, k < 5 → (s.storeReq 0 (d.blk.area + 128 * k)).va / 128 ≠ d.blk.overflow / 128) ∧
       ∀ k, k < 5 → s.ReqWrites (s.storeReq 0 (d.blk.area + 128 * k)) 128) ∧
    (∀ prims ∈ [1, 2], ∀ overflow ∈ [0, 0x2010],
      let s := exceeding .C 1 prims overflow false
      Issues s (.EMIT_PRIM (hdr .C) { fields .n32 0 6 0 0 with mod := 1 }) (hdr .C) ∧
        distinctB s (hdr .C) = true ∧ ((s.draw 0).elem 11).prims < (s.draw 0).blk.maxP ∧
        (((s.draw 0).elem 10).prims < (s.draw 0).blk.maxP ↔ prims = 1)) ∧
    (let s := exceeding .S 256 2 0 true
     Issues s (.SPAWNY (hdr .S) (alu 18 8 6 0)) (hdr .S) ∧ lanesOf ((s.unit 1).acting (hdr .S)) = [1, 4] ∧
       (∀ e ∈ [10, 11], 256 ≤ ((s.draw 0).elem e).kids) ∧ (s.draw 0).requests = [] ∧
       (s.ctx (s.unit 1).ctx).trap = some 0x200) := by
  refine ⟨fun s hs => ?_, ⟨by decide +kernel, by decide +kernel, fun _ => rfl, req_reads _ _ _ (by decide +kernel),
      req_writes _ _ _ (by decide +kernel), by decide +kernel, fun k hk => ?_, fun k hk => req_writes _ _ _ ?_⟩,
    fun p hp o ho => ?_, issues_of _ _ _ (by decide +kernel), by decide +kernel⟩
  · simp only [List.mem_cons, List.not_mem_nil, or_false] at hs
    rcases hs with rfl | rfl | rfl <;> exact ⟨issues_of _ _ _ (by decide +kernel), by decide +kernel⟩
  · interval_cases k <;> decide +kernel
  · interval_cases k <;> decide +kernel
  · simp only [List.mem_cons, List.not_mem_nil, or_false] at hp ho
    rcases hp with rfl | rfl <;> rcases ho with rfl | rfl <;>
      exact ⟨issues_of _ _ _ (by decide +kernel), by decide +kernel⟩

theorem witness_rays :
    let s := drawing .S 1 255 100000 [0, 128, 256, 384, 512]
    Issues s (.SPAWNY (hdr .S) (alu 18 8 6 0)) (hdr .S) ∧
    (s.draw 0).fits .Y 2 = true ∧ (s.draw 0).raySlots = some 20 ∧ (s.draw 0).requests = [] ∧
    ((s.draw 0).elem 10).kids < 256 ∧ distinctB s (hdr .S) = true ∧ s.draw 0 = drawOf .S 255 100000 ∧
    (∀ e, 50 ≤ e → (drawOf .S 255 100000).elem e = {}) ∧ (∀ sl, (s.slice sl).spilled = []) ∧
    ∀ k, k < 5 → s.ReqWrites (s.storeReq 0 ((s.draw 0).blk.area + 128 * k)) 128 := by
  refine ⟨issues_of _ _ _ (by decide +kernel), by decide +kernel, by decide +kernel, by decide +kernel, by decide +kernel,
    by decide +kernel, by decide +kernel, no_later_elem _ _ _, fun _ => rfl, fun k hk => req_writes _ _ _ ?_⟩
  interval_cases k <;> decide +kernel

/-- A node of each kind, at the line that the lanes' pairs name. -/
theorem witness_nodes :
    let s := withLine ((drawing .S 0 1 1000).setUnit 1 { pair ((drawing .S 0 1 1000).unit 1) 4 0x1000 with
      elems := [0, 10, 0, 0, 11] }) 0x1000 bytes128
    Issues s (.BVHT (hdr .S) (alu 20 4 8 0)) (hdr .S) ∧
    (∀ l ∈ [1, 4], s.Reads 1 ((s.unit 1).val true 4 l) 128 bytes128) ∧
    lanesOf ((s.unit 1).acting (hdr .S)) = [1, 4] ∧
    Issues (withLine s 0x1000 bytes128) (.BVHT (hdr .S) (alu 20 4 8 0)) (hdr .S) := by
  refine ⟨issues_of _ _ _ (by decide +kernel), fun l hl => ?_, by decide +kernel, issues_of _ _ _ (by decide +kernel)⟩
  simp only [List.mem_cons, List.not_mem_nil, or_false] at hl
  rcases hl with rfl | rfl <;> exact reads_of _ _ _ _ _ (by decide +kernel)

theorem witness_node_kinds :
    leNat ((leBytes 1 4 ++ leBytes 4 4).take 4) = 1 ∧ leNat ((leBytes 2 4).take 4) = 2 ∧
    leNat (((leBytes 0 4 ++ leBytes 5 4).drop 4).take 4) = 5 ∧
    leNat (((leBytes 0 4 ++ leBytes 4 4).drop 4).take 4) = 4 := by decide +kernel

/-! ## States that meet the hypotheses: tiles, copies, sweeps (O34 to O36) -/

/-- A unit whose group has slot 3 in a state; v10 and v11 hold an offset and a size. -/
def tiled (t : Tile) (o n : Nat) (ntiles : Nat := 64) : State :=
  let s := atAddr 0x1000 fun w => pair w 10 (n * 2 ^ 32 + o)
  s.setGroup 1 { s.group 1 with tiles := AMap.set [] {} 3 t, ntiles := ntiles }

def readyTile : Tile :=
  { state := .ready, base := 64, size := 256, expected := 256, arrived := 256, phase := true, fill := 4 }

/-- A slot beyond the group's, ranges that end at the scratchpad's end and beyond it, and each state. -/
theorem witness_tiles :
    let arm := Instr.TARM hd (alu 0 10 11 3)
    let wait := Instr.TWAIT hd (alu 0 0 0 3)
    let rel := Instr.TREL hd (alu 0 0 0 3)
    let stat := Instr.TSTAT hd (alu 9 0 0 3)
    (∀ i ∈ [arm, wait, rel, stat], Acts (tiled readyTile 0 4 3) i hd ∧ Acts (tiled readyTile 0 4 4) i hd) ∧
    Acts (tiled {} (32768 - 4) 4) arm hd ∧ Acts (tiled {} (32768 - 4) 8) arm hd ∧
    Acts (tiled {} 2 8) arm hd ∧ Acts (tiled {} 0 0) arm hd ∧
    (∀ t ∈ [{ readyTile with state := .filling }, { readyTile with state := .draining }, ({} : Tile),
      { readyTile with state := .filling, failed := true }],
      Acts (tiled t 0 4) wait hd ∧ Acts (tiled t 0 4) rel hd) ∧
    ((tiled readyTile 0 4 3).group 1).ntiles ≤ 3 ∧ 3 < ((tiled readyTile 0 4 4).group 1).ntiles ∧
    ((tiled {} (32768 - 4) 4).unit 1).val false 10 1 + 4 = ((tiled {} (32768 - 4) 4).group 1).scratch ∧
    (let s := tiled readyTile 0 4
     let s := s.setLaunch 0 { s.launch 0 with cancelled := true }
     Acts s wait hd ∧ (s.launch (s.unit 1).launch).cancelled = true ∧ s.performed (s.unit 1) = true) := by
  refine ⟨fun i hi => ?_, acts_of _ _ _ (by decide +kernel), acts_of _ _ _ (by decide +kernel), acts_of _ _ _ (by decide +kernel),
    acts_of _ _ _ (by decide +kernel), fun t ht => ?_, by decide +kernel, by decide +kernel, by decide +kernel, acts_of _ _ _ (by decide +kernel),
    by decide +kernel⟩
  · simp only [List.mem_cons, List.not_mem_nil, or_false] at hi
    rcases hi with rfl | rfl | rfl | rfl <;> exact ⟨acts_of _ _ _ (by decide +kernel), acts_of _ _ _ (by decide +kernel)⟩
  · simp only [List.mem_cons, List.not_mem_nil, or_false] at ht
    rcases ht with rfl | rfl | rfl | rfl <;> exact ⟨acts_of _ _ _ (by decide +kernel), acts_of _ _ _ (by decide +kernel)⟩

/-- A shape record: 4 rows of 16 bytes at 0x1000, without conversion. -/
def shapeRec (dir counter : Nat) : List Byte :=
  leBytes 0x1000 8 ++ leBytes 32 8 ++ leBytes 16 4 ++ leBytes 4 4 ++ leBytes 0 4 ++ leBytes 16 4 ++
    leBytes dir 8 ++ leBytes counter 8 ++ List.replicate 16 0

/-- A unit at a record, in a context with engine firmware. -/
def copying (bs : List Byte) (t : Tile) (fw : Nat) : State :=
  let s := withLine (bench fun w => pair w 4 0x1000) 0x1000 (bs ++ List.replicate 64 9)
  let s := s.setGroup 1 { s.group 1 with tiles := AMap.set [] {} 3 t }
  s.setCtx 0 { s.ctx 0 with trap := some 0x200, tceFw := { obj := fw }, collFw := { obj := fw } }

/-- Where unit 1 alone is listed, every other one is as a unit that has no wave. -/
theorem unit_other (s : State) (u : Nat) (h : AMap.keys s.work.units = [1]) (hu : u ≠ 1) : s.unit u = {} :=
  AMap.get_of_not_mem _ _ _ (by rw [h]; simpa using hu)

theorem witness_copies :
    let i := Instr.TCOPY hd (alu 0 4 0 3)
    (∀ s ∈ [copying (shapeRec 0 0) { readyTile with state := .filling } 1, copying (shapeRec 1 0x1000) readyTile 1,
      copying (shapeRec 0 0) readyTile 1, copying (shapeRec 7 0) readyTile 1],
      Acts s i hd ∧ (s.unit 1).results = [] ∧ (s.core 0).copies.length < 64) ∧
    (copying (shapeRec 1 0x1000) readyTile 1).Reads 1 0x1000 64 (shapeRec 1 0x1000) ∧
    (copying (shapeRec 7 0) readyTile 1).Reads 1 0x1000 64 (shapeRec 7 0) ∧
    (shapeCopy (shapeRec 0 0) 256).isSome = true ∧ (shapeCopy (shapeRec 1 0x1000) 256).isSome = true ∧
    shapeCopy (shapeRec 7 0) 256 = none ∧ ((copying (shapeRec 1 0x1000) readyTile 1).core 0).queues.length < 16 ∧
    (∀ u q, ((copying (shapeRec 1 0x1000) readyTile 1).unit u).park ≠ .twait u q) := by
  refine ⟨fun s hs => ?_, reads_of _ _ _ _ _ (by decide +kernel), reads_of _ _ _ _ _ (by decide +kernel), by decide +kernel, by decide +kernel,
    by decide +kernel, by decide +kernel, fun u q => ?_⟩
  · simp only [List.mem_cons, List.not_mem_nil, or_false] at hs
    rcases hs with rfl | rfl | rfl | rfl <;> exact ⟨acts_of _ _ _ (by decide +kernel), by decide +kernel, by decide +kernel⟩
  · by_cases hu : u = 1
    · subst hu
      have : ((copying (shapeRec 1 0x1000) readyTile 1).unit 1).park = .none := by decide +kernel
      rw [this]
      exact fun h => by cases h
    · rw [unit_other _ u (by decide +kernel) hu]
      exact fun h => by cases h

/-- A start with one free place, and a misaligned argument. -/
theorem witness_starts :
    let i := Instr.MSTART hd { alu 0 4 0 0 with imm := true, ext := some 0x40 }
    Acts (atAddr 0x1000) i hd ∧ Acts (atAddr 0x1004) i hd ∧ Acts (atAddr (2 ^ 56)) i hd ∧
    ((atAddr 0x1000).core 0).msq.starts.length < 4 :=
  ⟨acts_of _ _ _ (by decide +kernel), acts_of _ _ _ (by decide +kernel), acts_of _ _ _ (by decide +kernel), by decide +kernel⟩

/-- A command descriptor. -/
def command (queue op rest : Nat) : List Byte := leBytes queue 1 ++ leBytes op 1 ++ leBytes rest 6 ++ List.replicate 56 7

/-- Commands with the greatest queue and operation, of the numbers beyond them, and with no firmware. -/
theorem witness_commands :
    let i := Instr.COLL hd (alu 9 4 0 0)
    (∀ s ∈ [copying (command 15 31 0) {} 1, copying (command 16 31 0) {} 1, copying (command 15 32 0) {} 1,
      copying (command 15 31 1) {} 1, copying (command 15 31 0) {} 0], Acts s i hd) ∧
    (copying (command 15 31 0) {} 1).Reads 1 0x1000 64 (command 15 31 0) ∧
    (let s := copying (command 15 31 0) {} 1
     let cmd : CollCmd := { num := 1, obs := 1, data := [], fw := { obj := 1 } }
     let s := s.setCtx 0 { s.ctx 0 with
       collQs := AMap.set [] {} 15 { open_ := true, cmds := List.replicate 64 cmd } }
     Acts s i hd ∧ s.Reads 1 0x1000 64 (command 15 31 0) ∧ ((s.ctx 0).collQs.get {} 15).cmds.length = 64) ∧
    ((copying (command 15 31 0) {} 1).ctx 0).collFw.obj ≠ 0 ∧ ((copying (command 15 31 0) {} 0).ctx 0).collFw.obj = 0 := by
  refine ⟨fun s hs => ?_, reads_of _ _ _ _ _ (by decide +kernel),
    ⟨acts_of _ _ _ (by decide +kernel), reads_of _ _ _ _ _ (by decide +kernel), by decide +kernel⟩, by decide +kernel, by decide +kernel⟩
  simp only [List.mem_cons, List.not_mem_nil, or_false] at hs
  rcases hs with rfl | rfl | rfl | rfl | rfl <;> exact acts_of _ _ _ (by decide +kernel)

/-- A unit whose v10, v11 and v12 hold the offsets of a sweep. -/
def sweeping (d a b : Nat) : State :=
  bench fun w => pair (pair w 10 (a * 2 ^ 32 + d)) 12 b

/-- Segments that end at the scratchpad's end, one that passes it, one before its start, one misaligned,
and no active lane. -/
theorem witness_sweeps :
    let f := sweep 10 11 12 2 .n32 0 0xFF80 0
    (∀ i ∈ [Instr.SWP_ADD hd f, .SWP_SUB hd f, .SWP_MUL hd f, .SWP_FMA hd f, .SWP_MIN hd f, .SWP_MAX hd f],
      (∀ s ∈ [sweeping (32768 - 128) 128 0, sweeping (32768 - 124) 128 0, sweeping 0 0 0, sweeping 2 128 0],
        Issues s i hd) ∧ Issues bench (i) hd) ∧
    Issues (sweeping 0 128 0) (.SWP_MOV hd (sweep 10 11 0 1 .f16 0 0 0)) hd ∧
    ((sweeping 0 128 0).unit 1).acting hd ≠ 0 ∧
    Issues (bench fun w => { w with x := 0 }) (.SWP_MOV hd (sweep 10 11 0 1 .f16 0 0 0)) hd ∧
    ((bench fun w => { w with x := 0 }).unit 1).acting hd = 0 := by
  refine ⟨fun i hi => ?_, issues_of _ _ _ (by decide +kernel), by decide +kernel, issues_of _ _ _ (by decide +kernel), by decide +kernel⟩
  simp only [List.mem_cons, List.not_mem_nil, or_false] at hi
  rcases hi with rfl | rfl | rfl | rfl | rfl | rfl <;>
    refine ⟨fun s hs => ?_, issues_of _ _ _ (by decide +kernel)⟩ <;>
    simp only [List.mem_cons, List.not_mem_nil, or_false] at hs <;>
    rcases hs with rfl | rfl | rfl | rfl <;> exact issues_of _ _ _ (by decide +kernel)

theorem witness_sweep_bounds :
    (((sweeping (32768 - 128) 128 0).unit 1).reg 10 1).toNat + 32 * 4 = ((sweeping 0 0 0).group 1).scratch ∧
    (((sweeping 0 128 0).unit 1).reg 11 1).toNat = 128 ∧ (0xFF80 : BitVec 16).toInt = -128 ∧
    lowestLane (((sweeping 0 128 0).unit 1).acting hd) = 1 := by decide +kernel

/-! ## States that meet the hypotheses: the matrix sequencer (O37 to O40) -/

/-- A running program, with registers, a counter and two lines; a word may be in flight. -/
def program (f : Msq → Msq := id) : State :=
  let s := withLine (withLine bench 0x1000 bytes128) 0x1080 bytes128
  s.setMsq 0 (f { s.msq 0 with counter := 0x1070, c0 := 2 ^ 64 - 1, j := 2,
                               m := AMap.set (AMap.set [] 0 1 0x1010) 0 2 (BitVec.ofNat 64 (2 ^ 64 - 2)) })

/-- What `MsqIssues` asks. -/
theorem msq_issues_of (s : State) (i : Instr) (h : ((s.msq s.curMsq).runs && i.conds.isEmpty) = true) :
    MsqIssues s i := by
  simp only [Bool.and_eq_true, List.isEmpty_iff] at h
  exact h

theorem msq_issues_all (s : State) (l : List Instr)
    (h : (l.all fun i => (s.msq s.curMsq).runs && i.conds.isEmpty) = true) : ∀ i ∈ l, MsqIssues s i :=
  fun i hi => msq_issues_of s i (List.all_eq_true.mp h i hi)

theorem witness_scalars : ∀ i ∈ [Instr.MMOV (scalar 1 0 0 true 0x8000_0000), .MADD (scalar 4 1 2 false 0),
    .MSUB (scalar 4 1 2 false 0), .MMUL (scalar 4 1 2 false 0), .MAND (scalar 4 1 2 false 0),
    .MOR (scalar 4 1 2 false 0), .MXOR (scalar 4 1 2 false 0), .MSHL (scalar 4 1 0 true 64),
    .MSHR (scalar 4 1 0 true 63), .MBEQ (branch 1 2 3), .MBNE (branch 1 2 0x8000_0000), .MBLT (branch 1 2 3),
    .MBGE (branch 31 31 3), .MJMP (branch 0 0 3), .MNOP, .MEND], MsqIssues program i :=
  msq_issues_all _ _ (by decide +kernel)

/-- With a word in flight, and with none. -/
theorem witness_mend :
    (program.msq 0).bg = [] ∧
    (let s := program fun m => { m with bg := [{ seq := 0, bank := some 2, lo := 0, hi := 9 }] }
     MsqIssues s .MEND ∧ MsqIssues s (.TINC 0) ∧ (s.msq 0).bg ≠ []) :=
  ⟨by decide +kernel, msq_issues_of _ _ (by decide +kernel), msq_issues_of _ _ (by decide +kernel), by decide +kernel⟩

/-- A program that a cancel has halted ends past its word, and one whose launch goes on does not. -/
theorem witness_halted :
    (let s := (program fun m => { m with halted := true, inWord := true }).setLaunch 0 { program.launch 0 with cancelled := true }
     MsqIssues s (.MMOV (scalar 1 0 0 true 5)) ∧ (s.msq 0).halted = true ∧ s.msqGone 0 = true ∧ (s.msq 0).bg = []) ∧
    (program.msq 0).halted = false :=
  ⟨⟨msq_issues_of _ _ (by decide +kernel), by decide +kernel⟩, by decide +kernel⟩

/-- What `MsqReads` and `MsqWrites` ask. -/
theorem msq_reads_of (s : State) (va : Nat) (bs : List Byte) (l : Line) (hl : s.msqLine va = some l)
    (h : (decide (va < 2 ^ 56) && decide (va % 8 = 0) && decide (l.data.length = 128) && l.attr.r && !l.poison &&
      decide (bs = (l.data.drop (va % 128)).take 8)) = true)
    (hq : (homedB s (s.msqReq s.curMsq va) && plainB s (s.msqTag va) va 8) = true) : s.MsqReads va bs := by
  simp only [Bool.and_eq_true, decide_eq_true_eq, Bool.not_eq_true'] at h hq
  exact ⟨h.1.1.1.1.1, h.1.1.1.1.2, homed_of _ _ hq.1, plain_of _ _ _ _ hq.2, l, hl, h.1.1.1.2, h.1.1.2, h.1.2, h.2⟩

theorem msq_writes_of (s : State) (va : Nat) (l : Line) (hl : s.msqLine va = some l)
    (h : (decide (va < 2 ^ 56) && decide (va % 8 = 0) && homedB s (s.msqReq s.curMsq va) &&
      decide (l.data.length = 128) && l.attr.w) = true) : s.MsqWrites va := by
  simp only [Bool.and_eq_true, decide_eq_true_eq] at h
  exact ⟨h.1.1.1.1, h.1.1.1.2, homed_of _ _ h.1.1.2, l, hl, h.1.2, h.2⟩

/-- The last words of a line, and the counter pair in two lines. -/
theorem witness_matrix_memory :
    (∀ i ∈ [Instr.MLD (scalar 4 1 0 true 0x68), .MST (scalar 4 1 0 true 0x68), .TINC 0x1F], MsqIssues program i) ∧
    program.MsqReads 0x1078 ((bytes128.drop 0x78).take 8) ∧ program.MsqWrites 0x1078 ∧
    program.MsqWrites 0x1070 ∧ program.MsqWrites 0x1080 ∧ program.MsqWrites 0x1088 ∧
    (∀ sl, (program.slice sl).spilled = []) ∧
    (∀ i ∈ [Instr.MLD (scalar 4 1 0 true 0x64), .MST (scalar 4 2 0 true 0x64)], MsqIssues program i) ∧
    -- a tinc that goes on after a fault has counted itself
    (let s := program fun m => { m with inWord := true }
     MsqIssues s (.TINC 1) ∧ (s.msq 0).bg = [] ∧ s.MsqWrites 0x1070 ∧ s.MsqWrites 0x1078) :=
  ⟨msq_issues_all _ _ (by decide +kernel),
    msq_reads_of _ _ _ (lineOf 0x1000 bytes128) (by decide +kernel) (by decide +kernel) (by decide +kernel),
    msq_writes_of _ _ (lineOf 0x1000 bytes128) (by decide +kernel) (by decide +kernel),
    msq_writes_of _ _ (lineOf 0x1000 bytes128) (by decide +kernel) (by decide +kernel),
    msq_writes_of _ _ (lineOf 0x1080 bytes128) (by decide +kernel) (by decide +kernel),
    msq_writes_of _ _ (lineOf 0x1080 bytes128) (by decide +kernel) (by decide +kernel), fun _ => rfl,
    msq_issues_all _ _ (by decide +kernel), msq_issues_of _ _ (by decide +kernel), by decide +kernel,
    msq_writes_of _ _ (lineOf 0x1000 bytes128) (by decide +kernel) (by decide +kernel),
    msq_writes_of _ _ (lineOf 0x1000 bytes128) (by decide +kernel) (by decide +kernel)⟩

/-- A program whose group has slot 3 in a state. -/
def matrix (t : Tile) (f : Msq → Msq := id) (ntiles : Nat := 64) : State :=
  let s := program f
  s.setGroup 1 { s.group 1 with tiles := AMap.set [] {} 3 t, ntiles := ntiles, scratch := 65536 }

/-- Each word on a slot of exactly the size that it needs, on a smaller one, on slots in other states and
beyond the group's, with a word in flight, and with a bank that suits it or not. -/
theorem witness_matrix_words :
    let need := bldBytes .bf16 96 128 false false
    let bank : Bank := { loaded := true, ty := .bf16 }
    (∀ s ∈ [matrix { readyTile with size := need }, matrix { readyTile with size := need - 1 }, matrix {},
        matrix readyTile id 3, matrix readyTile fun m => { m with bg := [{ seq := 0, bank := some 2, lo := 0, hi := 9 }] },
        matrix readyTile fun m => { m with banks := AMap.set [] {} 2 { pending := true } }],
      MsqIssues s (.BLD 2 3 .bf16 false false) ∧ MsqIssues s (.SBLD 2 3)) ∧
    MTy.bf16.shape false = (96, 128) ∧
    (∀ s ∈ [matrix { readyTile with size := aBytes .bf16 16 96 false } fun m => { m with banks := AMap.set [] {} 2 bank },
        matrix readyTile], MsqIssues s (.MMA 2 3 0 false .bf16 false 248) ∧ MsqIssues s (.MMA 2 3 0 false .bf16 false 249)) ∧
    248 * 1024 + 16 * 128 * 4 = 262144 ∧
    (∀ i ∈ [Instr.ACC_CLR 0 256, .ACC_CLR 255 1, .TW 3 true, .TW 3 false], MsqIssues (matrix readyTile) i) ∧
    (∀ s ∈ [matrix { readyTile with failed := true }, matrix readyTile id 3, matrix {}], MsqIssues s (.TW 3 true)) ∧
    MsqIssues (matrix { readyTile with state := .filling, arrived := 0, size := 4096, expected := 4096 })
      (.ACC_ST 3 252 .f32 0 0) ∧ 252 * 1024 + 16 * 64 * 4 = 262144 := by
  refine ⟨fun s hs => ?_, by decide +kernel, fun s hs => ?_, by decide +kernel, msq_issues_all _ _ (by decide +kernel), fun s hs => ?_,
    msq_issues_of _ _ (by decide +kernel), by decide +kernel⟩
  · simp only [List.mem_cons, List.not_mem_nil, or_false] at hs
    rcases hs with rfl | rfl | rfl | rfl | rfl | rfl <;>
      exact ⟨msq_issues_of _ _ (by decide +kernel), msq_issues_of _ _ (by decide +kernel)⟩
  · simp only [List.mem_cons, List.not_mem_nil, or_false] at hs
    rcases hs with rfl | rfl <;> exact ⟨msq_issues_of _ _ (by decide +kernel), msq_issues_of _ _ (by decide +kernel)⟩
  · simp only [List.mem_cons, List.not_mem_nil, or_false] at hs
    rcases hs with rfl | rfl | rfl <;> exact msq_issues_of _ _ (by decide +kernel)

/-- A word in flight that feeds on bank 2, one that loads it, and one that uses the last accumulators. -/
def feeding : BgWord := { seq := 0, bank := some 2, lo := 0, hi := 9 }
def loading : BgWord := { seq := 0, bank := some 2, lo := 0, hi := 0 }
def summing : BgWord := { seq := 0, bank := none, lo := 255, hi := 256 }

/-- Each word beside a word in flight, the last accumulator that an area uses among those that it meets; and each
stop: accumulators past the last, slots one byte too small, in another state, and damaged accumulators. -/
theorem witness_matrix_stops :
    let bank : Bank := { loaded := true, ty := .bf16 }
    let a := aBytes .bf16 16 96 false
    let mma := Instr.MMA 2 3 0 false .bf16 false 248
    let st := Instr.ACC_ST 3 252 .f32 0 0
    let filling : Tile := { readyTile with state := .filling, arrived := 0, size := 4096, expected := 4096 }
    let fed := fun (t : Tile) (f : Msq → Msq) => matrix t fun m => f { m with banks := AMap.set [] {} 2 bank }
    let bad := fun m : Msq => { m with poison := m.poison.set false 255 true }
    (∀ i ∈ [Instr.BLD 2 3 .bf16 false false, .SBLD 2 3], MsqIssues (matrix readyTile fun m => { m with bg := [feeding] }) i) ∧
    (∀ w ∈ [loading, summing], MsqIssues (fed { readyTile with size := a } fun m => { m with bg := [w] }) mma) ∧
    (loading.acc = false ∧ feeding.acc = true ∧ summing.acc = true ∧ summing.meets 248 256 = true ∧
      summing.meets 252 256 = true ∧ summing.meets 248 255 = false) ∧
    (∀ i ∈ [Instr.ACC_CLR 255 1, .ACC_CLR 255 2, st], MsqIssues (matrix filling fun m => { m with bg := [summing] }) i ∧
      MsqIssues (matrix filling) i) ∧
    (∀ t ∈ [{ readyTile with size := a - 1 }, {}, { readyTile with state := .filling, size := a },
        { readyTile with state := .draining, size := a }, { readyTile with size := a }],
      MsqIssues (fed t id) mma ∧ MsqIssues (fed t bad) mma ∧ MsqIssues (matrix t) (.BLD 2 3 .e2m1 false false)) ∧
    MsqIssues (matrix { filling with size := 4095 }) st ∧ MsqIssues (matrix {}) st ∧ MsqIssues (matrix readyTile id 3) st ∧
    MsqIssues (matrix { filling with state := .draining }) st ∧ MsqIssues (matrix filling bad) st ∧
    MsqIssues (matrix filling) (.ACC_ST 3 253 .f32 0 0) ∧ 262144 < 253 * 1024 + 16 * 64 * 4 ∧
    ((fed { readyTile with size := a } bad).msq 0).poison.get false 255 = true := by
  refine ⟨msq_issues_all _ _ (by decide +kernel), fun w hw => ?_, by decide +kernel, fun i hi => ?_, fun t ht => ?_,
    msq_issues_of _ _ (by decide +kernel), msq_issues_of _ _ (by decide +kernel), msq_issues_of _ _ (by decide +kernel),
    msq_issues_of _ _ (by decide +kernel), msq_issues_of _ _ (by decide +kernel),
    msq_issues_of _ _ (by decide +kernel), by decide +kernel, by decide +kernel⟩
  · simp only [List.mem_cons, List.not_mem_nil, or_false] at hw
    rcases hw with rfl | rfl <;> exact msq_issues_of _ _ (by decide +kernel)
  · simp only [List.mem_cons, List.not_mem_nil, or_false] at hi
    rcases hi with rfl | rfl | rfl <;>
      exact ⟨msq_issues_of _ _ (by decide +kernel), msq_issues_of _ _ (by decide +kernel)⟩
  · simp only [List.mem_cons, List.not_mem_nil, or_false] at ht
    rcases ht with rfl | rfl | rfl | rfl | rfl <;>
      exact ⟨msq_issues_of _ _ (by decide +kernel), msq_issues_of _ _ (by decide +kernel),
        msq_issues_of _ _ (by decide +kernel)⟩

/-- A slot with one reader parked on it, and metadata that is not well formed. -/
theorem witness_matrix_checks :
    (((matrix readyTile).msq 0).poison.get false 0 = false) ∧
    metaOk (List.replicate 2 0x55) 4 4 = true ∧ metaOk (List.replicate 1536 0) 96 128 = false := by decide +kernel

/-- A NaN accumulator, a NaN element, a NaN scale, zero times infinity, and a product of zero. -/
theorem witness_matrix_groups :
    (fmt32.unpack 0x7FC0_0001).isNaN = true ∧ (fmt32.unpack 0x7F80_0001).signalling = true ∧
    (fmt32.unpack 0x7F80_0000).isInf = true ∧ (fmt32.unpack 0x8000_0000).isZero = true ∧
    (Fl.fin true 0 5).isZero = true ∧ (Fl.fin false 1 0).isNaN = false := by decide +kernel

/-- Groups of several products, worked by hand from R308 and R309: infinities of both signs, one sign under a negative
band scale, an infinite product with a zero scale, a sum of zero under an infinite scale, a sum under an infinite
scale, a sum that cancels, and 3 * 2 - 1 * 1 times the scales 2 and -4. -/
theorem test_matrix_groups :
    let n := fun i : Int => Fl.fin (decide (i < 0)) i.natAbs 0
    let one := n 1
    groupTerm [(.inf false, one), (n (-1), .inf false)] [one] [one] = some (fmt32.invalid 3) ∧
    groupTerm [(.inf false, one), (n (-2), n 3)] [one] [n (-2)] = some { val := 0xFF80_0000 } ∧
    groupTerm [(.inf false, one)] [n 0] [one] = some (fmt32.invalid 4) ∧
    groupTerm [(n 2, one), (n (-1), n 2)] [.inf false] [one] = some (fmt32.invalid 4) ∧
    groupTerm [(n (-2), one), (one, one)] [one] [.inf false] = some { val := 0xFF80_0000 } ∧
    groupTerm [(n 2, one), (n (-1), n 2)] [n 5] [one] = none ∧
    groupTerm [(n 3, n 2), (n (-1), one)] [n 2] [n (-4)] = some { val := 0xC220_0000 } ∧
    accumulate 0x7F80_0000 (some { val := 0xFF80_0000 }) = fmt32.invalid 3 ∧
    accumulate 0x3F80_0000 (some { val := 0xC220_0000 }) = { val := 0xC21C_0000 } := by decide +kernel

/-! ## States that meet the hypotheses: events (O41 to O46) -/

/-- A state with two lines and its number of records. -/
def held2 : State := { withLine (withLine bench 0x1000 bytes128) 0x1080 bytes128 with seq := 100 }

/-- A start that waits behind one whose group has left the core. -/
def startRec : MStart := { ctx := 0, group := 1, obj := 1, entry := 0x20, arg := 0x1078 }

theorem witness_icinv_complete :
    let s := { held2 with work := { held2.work with icinvs := [(7, 0, 0x100, 0x100), (8, 0, 0, 1)] } }
    (s.work.icinvs.find? fun e => e.1 = 7) = some (7, 0, 0x100, 0x100) ∧
    -- the lines just within the range, and the one after it
    (2 * 128 < 0x100 + 0x100 ∧ 0x100 < 2 * 128 + 128) ∧ ¬4 * 128 < 0x100 + 0x100 := by decide +kernel

/-- A start from each kind of earlier context, and the counter's bytes at the end of a line. -/
theorem witness_matrix_start :
    ∀ prev ∈ [0, 1, 5],
      let s := held2.setMsq 0 { held2.msq 0 with
        running := false, starts := [{ startRec with group := 9 }, startRec], prevCtx := prev, acc := [(3, 4)] }
      let m := s.msq 0
      let same := m.prevCtx = startRec.ctx + 1 ∨ m.prevCtx = 0
      let begun : Msq := { m with
        running := true, fresh := true, halted := false, held := false
        starts := m.starts.erase startRec
        ctx := startRec.ctx, group := startRec.group, obj := startRec.obj
        m := AMap.set [] 0 0 (BitVec.ofNat 64 startRec.arg), pc := startRec.entry, counter := startRec.arg
        c0 := 0, j := 0, mflags := 0, prevCtx := startRec.ctx + 1
        banks := if same then m.banks else AMap.mapVals m.banks {} fun _ b => { b with loaded := false }
        acc := if same then m.acc else []
        side := if same then m.side else [] }
      m.bg = [] ∧ (m.starts.find? fun r => (s.group r.group).phase = .resident) = some startRec ∧
      (s.setMsq 0 begun).ReqReads { core := some 0, ctx := 0, asid := (s.ctx 0).asid, va := 0x1078 }
        ((bytes128.drop 0x78).take 8) := by
  intro prev hp
  simp only [List.mem_cons, List.not_mem_nil, or_false] at hp
  rcases hp with rfl | rfl | rfl <;>
    exact ⟨by decide +kernel, by decide +kernel, req_reads _ _ _ (by decide +kernel)⟩

/-- A word in flight and none, of a program that a cancel has halted at a word and between words. -/
theorem witness_matrix_complete :
    (∀ b ∈ [true, false],
      let s := held2.setMsq 0 { held2.msq 0 with
        running := true, halted := true, inWord := b, bg := [{ seq := 7, bank := none, lo := 0, hi := 1 }] }
      (s.msq 0).inWord = b ∧ (s.msq 0).bg.filter (fun w => w.seq ≠ 7) = []) ∧
    (held2.setLaunch 0 { held2.launch 0 with cancelled := true }).msqGone 0 = true ∧ held2.msqGone 0 = false := by
  decide +kernel

/-- A halted program and a save area with just room for its state. -/
theorem witness_matrix_save :
    let s := held2.setMsq 0 { held2.msq 0 with running := true, halted := true, acc := [(3, 4)] }
    let s := s.setCtx 0 { s.ctx 0 with save := { base := 0x100000, size := 380928 } }
    let s := { s with work := { s.work with preempts := [([0], [0])] } }
    let m := s.msq 0
    (m.running = true ∧ m.bg = [] ∧ m.inWord = false ∧ m.errRec = none ∧ (s.group m.group).core = 0) ∧
    s.preempting 0 m.ctx = true ∧ (s.launch (s.group m.group).launch).cancelled = false ∧
    (∀ p ∈ s.work.preempts, ∃ c ∈ p.1, ∃ e ∈ s.residents c, e.2.ctx ∈ p.2) ∧
    (s.ctx 0).savePlace 380928 = some 0 := by
  refine ⟨by decide +kernel, by decide +kernel, by decide +kernel, by decide +kernel, by decide +kernel⟩

/-- A training result, with counts. -/
def trained (cause : BitVec 8) (cores slices chans ports : Nat) : TrainResult :=
  { cause := cause, cores0 := cores, cores1 := cores, slices0 := slices, slices1 := slices, chans0 := chans
    chans1 := chans, ports := ports, node := 7, routes := [(3, 1), (4, 2)], exports := [], root0 := 0x100000
    homeRoot0 := 0x200000, starvation := 64, lowWater0 := 2, lowWater1 := 3 }

/-- The states of the bring-up, counts at the ends of their ranges, and an image without a signature. -/
theorem witness_bring_up :
    (∀ b ∈ [BringUp.reset, .secureBoot, .fwWait, .training], ∃ s : State, s.host.bringUp = b) ∧
    (∀ key : List Byte, ed448Verify [] key (shake512 [1, 2]) [] = false) ∧
    (∀ r ∈ [trained 5 0 0 0 0, trained 0 192 64 32 18, trained 0 0 0 0 0],
      (r.cause = 5 ∨ r.cause = 0 ∧ r.cores0 ≤ 192 ∧ r.cores1 ≤ 192 ∧ r.slices0 ≤ 64 ∧ r.slices1 ≤ 64 ∧
        r.chans0 ≤ 32 ∧ r.chans1 ≤ 32 ∧ r.ports ≤ 18) ∧ (r.routes.map Prod.fst).Nodup) ∧
    0x1FFFFF8 / 2 ^ 24 = 1 ∧ islandIndex (.security 3) = some 1023 ∧ islandIndex (.coreMatrix 384) = none ∧
    ∀ x ∈ (trained 0 192 64 32 18).routes, x.1.toNat ≠ 5 :=
  ⟨fun b _ => ⟨{ bench with host := { bench.host with bringUp := b } }, rfl⟩, fun _ => rfl, by decide +kernel,
    by decide, by decide, by decide, by decide⟩

/-- The test vector of RFC 8032 for an empty message, which the verifier accepts, and the first bytes of
SHAKE256 of nothing. -/
theorem test_ed448 :
    let hex := fun n len : Nat => (List.range len).map fun i => BitVec.ofNat 8 (n / 256 ^ (len - 1 - i))
    ed448Verify
      (hex 0x533a37f6bbe457251f023c0d88f976ae2dfb504a843e34d2074fd823d41a591f2b233f034f628281f2fd7a22ddd47d7828c59bd0a21bfd3980ff0d2028d4b18a9df63e006c5d1c2d345b925d8dc00b4104852db99ac5c7cdda8530a113a0f4dbb61149f05a7363268c71d95808ff2e652600 114)
      (hex 0x5fd7449b59b461fd2ce787ec616ad46a1da1342485a70e1f8a0ea75d80e96778edf124769b46c7061bd6783df1e50f6cd1fa1abeafe8256180 57)
      [] [] = true := by decide +kernel
theorem test_shake256 : shake256 [] 8 = [0x46, 0xB9, 0xDD, 0x2B, 0x0B, 0xA8, 0x8D, 0x13] := by decide +kernel

/-- A job and a unit of class 0, on core 0, and an entry of class 0 in the table of slice 5. -/
theorem witness_islands :
    let s := (held2.setCtx 3 { held2.ctx 3 with inbox := [{ queue := 5, cls := 0, index := 0, entry := 0, ring := 16 }] }).setSlice 5
      { table := [{ asid := 0, va := 0x1010, wide := false, signed := false, cmp := .eq, operand := 0, deadline := none, cls := 0
                    ctx := 0, token := 1, core := 0, part := 0, slot := 0, stamp := 0, moved := false, fired := none }] }
    (∃ e ∈ s.ctxs, ∃ j ∈ e.2.inbox, j.cls = 0) ∧ (∃ e ∈ (s.slice 5).table, e.cls = 0) ∧
    ∃ e ∈ s.work.units, e.2.live = true ∧ s.isResident e.1 = true ∧ s.classOf e.2.launch = 0 := by decide +kernel

/-- A context with a block at an address, enabled or not. -/
def context (on : Bool) (jobs : Nat) : State :=
  let s := held2.setCtx 3 { held2.ctx 3 with block := 0x2000, enabled := on }
  { s with work := { s.work with jobLevels := if jobs = 0 then [] else [(2, { live := true, ctx := 3 })] } }

/-- A queue descriptor of 2^lg entries. -/
def queueDesc (lg bad head tail : Nat) : List Byte :=
  leBytes 0x10000 8 ++ leBytes lg 1 ++ leBytes 2 1 ++ leBytes bad 6 ++ leBytes head 4 ++ leBytes tail 4 ++ leBytes 0 8

theorem witness_contexts :
    ((context false 0).ctx 3).enabled = false ∧ ((context true 0).ctx 3).enabled = true ∧
    (context true 0).hasWork 3 = false ∧
    (let s := (context true 0).setCtx 3 { (context true 0).ctx 3 with
       collQs := AMap.set [] {} 2 { cmds := [{ num := 1, obs := 0, data := [], fw := { obj := 1 } }] } }
     ∃ e ∈ (s.ctx 3).collQs, e.2.cmds ≠ []) ∧
    (∃ e ∈ ((context true 0).setGroup 9 { phase := .saved, ctx := 3 }).work.groups, e.2.phase ≠ .absent ∧ e.2.ctx = 3) ∧
    goodQueue (queueDesc 4 0 14 3) = true ∧ goodQueue (queueDesc 4 1 14 3) = false ∧
    goodQueue (queueDesc 4 0 16 3) = false ∧
    (let s := (context true 0).writePhys (0x2000 + 32 * 15) (queueDesc 4 0 14 3)
     s.localRead (((s.ctx 3).block).toNat + 32 * 15) 32 = queueDesc 4 0 14 3) := by decide +kernel

/-- A job entry, a phase record and a graph record. -/
def jobBytes (bad : Nat) : List Byte :=
  leBytes 0x1100 8 ++ leBytes 0x20000 8 ++ leBytes 1 4 ++ leBytes bad 4 ++ leBytes 0x3000 8 ++ List.replicate 32 0
def phaseBytes : List Byte := leBytes 0x1108 8 ++ leBytes 0x21000 8 ++ leBytes 1 4 ++ List.replicate 12 0
def graphBytes : List Byte := leBytes 0x1110 8 ++ leBytes 0x22000 8 ++ leBytes 3 2 ++ leBytes 0 2 ++ leBytes 0 4 ++ leBytes 0 8

/-- A job in the inbox, with its records read. -/
def jobIn (bad : Nat) : JobIn :=
  { queue := 5, cls := 2, index := 3, entry := 0x100C0, ring := 16
    read := [(0x100C0, jobBytes bad), (0x20000, phaseBytes), (0x21000, graphBytes)] }

theorem witness_jobs :
    (∀ bad ∈ [0, 1], let s := held2.setCtx 3 { held2.ctx 3 with
        enabled := true, inbox := [jobIn bad, { jobIn bad with index := 4, read := [] }] }
      s.nextJob 3 5 = some (jobIn bad) ∧ s.waits (jobWaiter 3 5) = false ∧
      ((jobIn bad).read.find? fun r => r.1 = 0x100C0 && r.2.length = 64) = some (0x100C0, jobBytes bad)) ∧
    goodJob (jobBytes 0) = true ∧ goodJob (jobBytes 1) = false ∧ goodPhase phaseBytes = true ∧
    goodGraph graphBytes = true ∧
    ((jobIn 0).read.find? fun r => r.1 = 0x20000 && r.2.length = 32) = some (0x20000, phaseBytes) ∧
    ((jobIn 0).read.find? fun r => r.1 = 0x21000 && r.2.length = 32) = some (0x21000, graphBytes) := by
  refine ⟨fun bad hb => ?_, by decide +kernel, by decide +kernel, by decide +kernel, by decide +kernel,
    by decide +kernel, by decide +kernel⟩
  simp only [List.mem_cons, List.not_mem_nil, or_false] at hb
  rcases hb with rfl | rfl <;> exact ⟨by decide +kernel, by decide +kernel, by decide +kernel⟩

/-- A launch record in memory. -/
def launchBytes : List Byte := leBytes 0 8 ++ leBytes 0x3000 8 ++ leBytes 0 8 ++ leBytes 3 4 ++ List.replicate 36 0

/-- A launch of a job's graph, whose record may be read, of a host or a device launch. -/
def queued (phase : LaunchPhase) (form : LaunchRec) (parent : Option Nat) (banked : List Nat) : State :=
  let s := held2.setLaunch 0 { held2.launch 0 with phase := .started, order := 0, form := { flags := 0 } }
  let s := { s with work := { s.work with
    jobs := [(50, { queue := 5 })], jobLevels := [(50, { live := true, members := 1 })]
    phases := [(51, { live := true, members := 1, parent := 50 })]
    graphs := [(52, { live := true, members := 1, parent := 51 })] } }
  let s := s.setLaunch 53 { phase := phase, queue := 5, job := 50, jphase := 51, graph := 52, order := 53
                            recAddr := 0x22000, form := form, bytes := some launchBytes, parent := parent, banked := banked }
  let s := s.setCore 2 { s.core 2 with modes := [(0, 1)] }
  s.setCtx 0 { s.ctx 0 with hw := [53, 60] }

/-- A record whose group has regs registers a lane. -/
def launchForm (regs : Nat) : LaunchRec :=
  { entry := 0x40, counter := 0x3000, count := 3, waves := 2, regs := regs, scratch := 4096, first := 2, cores := 1
    bankMap := 1, flags := 0 }

/-- A record that passes its checks, one that no core holds and one that breaks its table; those of a host
launch and of a device launch. -/
theorem witness_eligible :
    (let s := queued .queued (launchForm 8) none []
     (s.launch 53).unread = none ∧ (s.launch 53).form.hasPred = false ∧
      (s.earlier 53).all s.allPlaced = true ∧ s.phasesDone 53 = true ∧
      (∀ m ∈ s.earlier 53, (s.launch m).phase.finished = true) ∧ s.waits (.record 53) = false ∧
      (s.launch 53).cancelled = false ∧ (s.launch 53).checked = false ∧ (s.work.jobs.get {} 50).err = none) ∧
    ((launchForm 8).good 0x22000 (held2.host.cores0 + held2.host.cores1) = true ∧ (launchForm 8).isDraw = false ∧
      (((emptyRoom 1).place { waves := 2, regs := 8, scratch := 4096, tiles := 0 }).isSome = true)) ∧
    (let f := { launchForm 8 with scratch := 65536 }
     f.good 0x22000 (held2.host.cores0 + held2.host.cores1) = true ∧ f.isDraw = false ∧
      ((emptyRoom f.bankMap).place { waves := f.waves, regs := f.regs, scratch := f.scratch, tiles := f.tiles }).isSome = false) ∧
    (launchForm 900).good 0x22000 (held2.host.cores0 + held2.host.cores1) = false ∧
    (let s := queued .queued {} (some 4) []
     let s := s.setLaunch 53 { s.launch 53 with checked := true }
     (s.launch 53).bytes = some launchBytes ∧ (LaunchRec.ofBytes launchBytes).isDraw = false ∧
      (LaunchRec.ofBytes launchBytes).hasPred = false ∧ (s.ctx 0).hw.head? = some 53 ∧
      s.waits (.record 53) = false ∧ (s.launch 53).checked = true) := by
  refine ⟨by decide +kernel, by decide +kernel, by decide +kernel, by decide +kernel, by decide +kernel⟩

/-- An eligible launch whose first group has room, and one of a draw. -/
theorem witness_start :
    let form := launchForm 8
    let needs : Needs := { waves := form.waves, regs := form.regs, scratch := form.scratch, tiles := form.tiles }
    let s := queued .eligible form none [2]
    (s.launch 53).phase = .eligible ∧ s.wantsPred 53 = false ∧ (s.launch 53).checked = false ∧
    ((s.room form.first).place needs).isSome = true ∧ (s.launch 53).next = 0 ∧ (s.launch 53).again = [] ∧
    form.first ∈ (s.launch 53).banked ∧ (s.draw 53).live = false ∧ s.preempting form.first 0 = false ∧
    (∀ c ∈ s.cores, c.2.pool = []) ∧
    (let begun := s.setLaunch 53
       { s.launch 53 with checked := true, phase := .started, spawnNext := form.count, nextCore := form.first }
     begun.returning = [] ∧ ∀ m ∈ begun.waiting, ¬begun.launchKey m < begun.launchKey 53) ∧
    (let s := queued .eligible { form with flags := 4 } none []
     let s := (s.setLaunch 53 { s.launch 53 with checked := true }).setDraw 53 { space := 100000, blk := { maxC := 9 } }
     (s.launch 53).form.isDraw = true ∧ s.wantsPred 53 = false ∧ (s.launch 53).checked = true ∧
       (s.draw 53).blk.maxC = 9) := by
  and_intros <;> decide +kernel

/-- A group with no wave left, of the launch's grid and a spawned one. -/
def overGroup (num : Nat) : State :=
  (held2.setGroup 7 { phase := .resident, launch := 53, num := num, core := 4 }).setLaunch 53
    { phase := .started, form := { count := 5, counter := 0x1008 }, next := 5, retired := 1 }

/-- A bank of a core in a mode, over whose bytes a group may have its allocation. -/
def banked (old : BitVec 2) (busy : Bool) : State :=
  let s := held2.setCore 5 { held2.core 5 with modes := AMap.set [] 0 3 old }
  if busy then s.setGroup 7 { phase := .resident, core := 5, base := 0, scratch := 4096 } else s

theorem witness_groups :
    (∀ num ∈ [4, 5], (overGroup num).groupOver 7 = true ∧ ((overGroup num).draw 53).live = false) ∧
    (banked 0 false).bankFree 5 3 = true ∧ (banked 0 false).bankFits 5 3 = true ∧
    (banked 1 false).bankFree 5 3 = true ∧ (banked 0 true).bankFree 5 3 = true ∧ (banked 0 true).bankFits 5 3 = true ∧
    (banked 1 true).bankFree 5 3 = false ∧ 5 < (banked 0 false).host.cores0 + (banked 0 false).host.cores1 ∧
    7 < (overGroup 4).seq ∧
    (let s := (held2.setUnit 1 { held2.unit 1 with park := .gbar }).setUnit 2 { benchWave with num := 1, park := .gbar }
     (s.group 1).phase = .resident ∧ s.unitsOf 1 ≠ [] ∧ (∀ u ∈ s.unitsOf 1, (s.unit u).park = .gbar) ∧
      (s.group 1).frags = [] ∧ (s.group 1).waits = []) ∧
    (let s := (held2.setLaunch 0 { held2.launch 0 with phase := .started, form := { flags := 1 } }).setUnit 1
       { held2.unit 1 with park := .waitp 9 0xF0 }
     s.waitOver 0 = true ∧ s.isResident 1 = true ∧ (s.unit 1).launch = 0) := by
  refine ⟨by decide +kernel, by decide +kernel, by decide +kernel, by decide +kernel, by decide +kernel, by decide +kernel⟩
/-! ## States that meet the hypotheses: code objects (O43) -/

/-- A section entry, and a file of one instruction, its presence byte and its note. -/
def sectBytesOf (kind flags off size load : Nat) : List Byte :=
  leBytes kind 2 ++ leBytes flags 2 ++ leBytes 6 1 ++ leBytes 0 3 ++ leBytes off 8 ++ leBytes size 8 ++ leBytes load 8

def objFile (rev : Nat) : List Byte :=
  leBytes 0x014F4350 4 ++ leBytes 1 2 ++ leBytes 5 2 ++ leBytes 32 8 ++ leBytes 217 8 ++ leBytes 0 8 ++
    sectBytesOf 1 5 192 8 0 ++ sectBytesOf 4 1 200 1 64 ++ sectBytesOf 5 1 0 0 128 ++ sectBytesOf 7 0 0 0 0 ++
    sectBytesOf 8 0 201 16 0 ++ leBytes 0 8 ++ [1] ++ leBytes rev 4 ++ leBytes 0 12

/-- A context that accepts unsigned objects, and what its driver gives a load at 0x20000. -/
def loadable : State :=
  let s := { held2 with mem := { held2.mem with roots := AMap.set [] 0 0 0x100000 } }
  s.setCtx 0 { s.ctx 0 with unsigned_ := true }
def loadPlace : LoadPlace :=
  { base := 0x20000, tables := [0x101000, 0x102000, 0x103000, 0x104000], frames := [0x60] }

/-- The same context, whose page at 0x20000 has a leaf already. -/
def mappedPage : State :=
  let w := fun (s : State) (pa v : Nat) => s.writePhys pa (leBytes v 8)
  let s := w (w (w (w loadable 0x100000 0x101001) 0x101000 0x102001) 0x102000 0x103001) 0x103000 0x104001
  w s (0x104000 + 16) (1 + 2 + 0x40000000)

/-- A file that passes every check, one of a later revision, and one that is no code object; objects that are
busy and not; and an unloaded object's firmware, where another object carries the same or none does. -/
theorem witness_objects :
    loadable.loadStatus (loadable.ctx 0) (objFile 0x0100) loadPlace false = 0 ∧
    loadable.loadStatus (loadable.ctx 0) (objFile 0x0100) { loadPlace with frames := [] } false = 7 ∧
    loadable.loadStatus (loadable.ctx 0) (objFile 0x0101) loadPlace false = 5 ∧
    -- of two checks that fail, the first of the table
    loadable.loadStatus (loadable.ctx 0) (objFile 0x0101) { loadPlace with frames := [] } false = 5 ∧
    loadable.loadStatus { loadable.ctx 0 with unsigned_ := false } (objFile 0x0101) loadPlace false = 2 ∧
    loadable.loadStatus (loadable.ctx 0) [] loadPlace false = 1 ∧ loadable.mem.stalls = [] ∧
    (rangePages ((partsOf (objFile 0x0100)).ranges 0x20000) = [2] ∧ mappedPage.isMapped 0 2 = true ∧
      mappedPage.loadStatus (mappedPage.ctx 0) (objFile 0x0100) loadPlace false = 7) ∧
    ((held2.ctx 0).objs.find? fun o => o.id = 1) = some benchObj ∧ held2.busy 0 benchObj = true ∧
    (let s := (held2.setUnit 1 {}).setGroup 1 {}
     let s := { s.setCore 0 {} with work := { s.work with launches := [] } }
     s.busy 0 benchObj = false) ∧
    (let o := { benchObj with id := 9, ranges := [(0x20000, 256)], textAt := 0x20000, msqAt := 0x20080, tceFw := true }
     let x := { mappedPage.ctx 0 with objs := [o], tceFw := { obj := 9, entry := 8, image := [1] } }
     let s := mappedPage.setCtx 0 x
     (x.objs.find? fun p => p.id = 9) = some o ∧ rangePages o.ranges = [2] ∧ s.busy 0 o = false ∧
       x.tceFw.obj = 9 ∧ (∀ p ∈ x.objs.filter (fun p => p.id ≠ 9), p.tceFw = false) ∧
       (match (s.lookup (s.mapDie 0 0x20000).1 0 0x20000).1 with | .leaf _ _ pa => decide (pa = 0x104010) | .absent _ => false) = true) ∧
    ({ loadable with mem := { loadable.mem with l2 := [] } } : State).allLines = [] ∧
    (List.replicate 64 (7 : Byte)).length = 64 := by
  and_intros <;> decide +kernel
/-! ## States that meet the hypotheses: groups, faults and waits (O47 to O50) -/

/-- A recorded lane, a fragment record of some lanes of a wave, and a waiting record. -/
def fragLane (w l : Nat) : FragLane :=
  { wave := w, lane := l, elem := 0, regs := [(3, BitVec.ofNat 32 (w * 100 + l)), (5, 9)], k := [2, 7] }
def fragOf (o n w : Nat) : Frag :=
  { order := o, target := 0x40, token := 3, idem := true, fflags := BitVec.ofNat 32 o, banks := [], size := 256
    rate := .K, pathPos := [], lanes := (List.range n).map fun l => fragLane w (l + 2) }
def waitOf (o : Nat) (ls : List Nat) (w : Nat) : WaitRec :=
  { order := o, token := 3, wave := w, pc := 0x60 + o, idem := true, fflags := BitVec.ofNat 32 o, banks := []
    size := 256, rate := .K, pathPos := [], lanes := ls.map fun l => fragLane w l }

/-- A group with a free allocation and records. -/
def recorded (fs : List Frag) (ws : List WaitRec) : State :=
  (held2.setUnit 1 { held2.unit 1 with num := 9 }).setGroup 1 { held2.group 1 with
    allocs := [{ part := 0, slot := 0, base := 0, unit := some 1 }, { part := 1, slot := 2, base := 8, unit := none }]
    frags := fs, waits := ws, opens := if ws = [] then [] else [(3, 6, 2)] }

/-- Two records that fill a unit exactly, with one of another target; and two waiting records of a home wave. -/
theorem witness_solder_rejoin :
    (let s := recorded [fragOf 5 20 1, fragOf 6 12 2, { fragOf 8 3 0 with target := 0x80 }] []
     let g := s.group 1
     g.freeAlloc = some 1 ∧ g.phase = .resident ∧ g.nextRejoin = none ∧
      (g.frags.filter fun f => f.target = 0x40) = [fragOf 5 20 1, fragOf 6 12 2]) ∧
    (let s := recorded [] [waitOf 5 [1, 2] 4, waitOf 6 [3] 4, waitOf 7 [0] 6]
     let g := s.group 1
     g.freeAlloc = some 1 ∧ g.phase = .resident ∧ g.nextRejoin = some (waitOf 5 [1, 2] 4)) ∧
    (let home : HomeRec := { wave := 4, fflags := 3, tcause := 8, tpc := 0x40, tinst := 5, inHandler := true, resume := 0x48
                             log := [], pendSeq := 9, icinvs := [6] }
     let s := recorded [] [waitOf 5 [1, 2] 4]
     let s := s.setGroup 1 { s.group 1 with homes := [home] }
     (s.group 1).nextRejoin = some (waitOf 5 [1, 2] 4) ∧ (s.group 1).homes.find? (fun r => r.wave = 4) = some home) ∧
    -- a unit of the home wave still runs
    (let s := recorded [] [waitOf 5 [1, 2] 4]
     let s := s.setUnit 1 { s.unit 1 with num := 4, fflags := 8 }
     (s.group 1).freeAlloc = some 1 ∧ (s.group 1).nextRejoin = some (waitOf 5 [1, 2] 4) ∧
       (s.unitsOf 1).find? (fun u => !(s.unit u).soldered && (s.unit u).num = 4) = some 1) ∧
    (((fragLane 1 2).regs.map Prod.fst).Nodup) := by
  refine ⟨by decide +kernel, by decide +kernel, by decide +kernel, by decide +kernel, by decide +kernel⟩

theorem witness_preemption :
    (∀ disc ∈ [true, false],
      let s := (held2.setLaunch 0 { held2.launch 0 with
        phase := .started, form := { flags := if disc then 2 else 0, count := 5 } }).setUnit 1
          { held2.unit 1 with park := .gbar, idem := disc }
      (s.group 1).phase = .resident ∧ s.discardable 1 = disc ∧ (s.unit 1).park.stops = true) ∧
    (let s := held2.setGroup 1 { held2.group 1 with phase := .stopping, fetchHeld := true, scratch := 16, base := 4096 }
     let s := (s.setCore 0 { s.core 0 with msq := {} }).setUnit 1 { s.unit 1 with stopped := true }
     let s := s.setCtx 0 { s.ctx 0 with save := { base := 0x100000, size := 0x20000 } }
     s.canSave 1 = true ∧ (s.launch (s.group 1).launch).cancelled = false ∧ (s.group 1).fetchHeld = true ∧ 1 < s.seq) ∧
    (let s := (held2.setCtx 0 { held2.ctx 0 with park := 1000 }).setCore 0 { held2.core 0 with cycle := 5000, msq := {} }
     let s := s.setUnit 1 { s.unit 1 with park := .waitp 3 4, parkedAt := 4000 }
     s.unitsOf 1 ≠ [] ∧ (s.ctx 0).park ≠ 0 ∧ ∀ v ∈ s.unitsOf 1, ((s.unit v).park.stops = true ∧ (s.unit v).park ≠ .gbar) ∧
      (s.unit v).parkedAt + (s.ctx 0).park ≤ (s.core 0).cycle) := by
  refine ⟨fun disc hd => ?_, by decide +kernel, by decide +kernel⟩
  simp only [List.mem_cons, List.not_mem_nil, or_false] at hd
  rcases hd with rfl | rfl <;> exact ⟨by decide +kernel, by decide +kernel, by decide +kernel⟩

theorem witness_return :
    (let s := held2.setGroup 1 { held2.group 1 with
       phase := .saved, preempted := true, savedScratch := [1, 2], scratch := 4096, allocs := [], launch := 5 }
     let s := (s.setLaunch 5 { phase := .started, banked := [4], next := 9
                               form := { first := 3, cores := 2, bankMap := 1, count := 9, waves := 1 } })
     let s := (s.setCore 4 { s.core 4 with modes := [(0, 1)] }).setCore 0 { s.core 0 with msq := {} }
     let g := s.group 1
     s.readyBack 1 = true ∧ (s.launch g.launch).form.grants 4 = true ∧ s.preempting 4 g.ctx = false ∧
      s.hasMatrix 1 = false ∧ s.copiesFit 1 4 = true ∧ 4 ∈ (s.launch g.launch).banked ∧ (s.core 4).pool = [] ∧ s.returning.head? = some 1 ∧
      (s.ctx (s.launch g.launch).ctx).savedPool = [] ∧
      ((s.room 4).place { waves := g.nwaves, regs := g.nregs, scratch := g.scratch, tiles := g.ntiles }).isSome = true) ∧
    (let s := held2.setUnit 1 { held2.unit 1 with pc := 0x9000 }
     s.ready 1 = true ∧ (s.unit 1).stopped = false ∧
      (match (s.fetchWord 1 0x9000).1 with | .error _ => true | _ => false) = true) := by
  refine ⟨by decide +kernel, by decide +kernel, by decide +kernel, by decide +kernel⟩

/-- A load whose lanes 4 and 5 faulted, with its record. -/
def loadF : MemF :=
  { data := 8, addr := { base := 2, idx := false, index := 0, scl := false, disp := 0 }, size := .b64, order := .weak, obs := 0 }
def raised (values : List (Nat × List Word)) : Pend :=
  { seq := 3, op := .LD hd loadF, pc := 0x18, dst := 8, n := 2, values := values, status := .raised
    faulted := [{ lane := 4, addr := 0x1010, data := [] }, { lane := 5, addr := 0x1078, data := [] }], cause := .perm }
def faultRec (who : Waiter) : FaultRec :=
  { id := 60, who := who, asid := 0, va := 0x1010, cause := .perm, why := .invalid, write := false }
def faulted (p : Pend) (heldBack : Bool) : State :=
  let s := (held2.setUnit 1 { held2.unit 1 with pend := [p], pendSeq := 4, held := heldBack }).setCtx 0
    { held2.ctx 0 with trap := some 0x200 }
  { s with mem := { s.mem with faults := [{ faultRec (.fetch 9) with id := 50 }, faultRec (.unit 1 3)] } }

theorem witness_faults :
    (let s := faulted (raised [(1, [1, 2])]) true
     (s.mem.faults.find? fun x => x.id = 60) = some (faultRec (.unit 1 3)) ∧
      (∀ x ∈ s.mem.faults, x.id ≠ 60 → x.who ≠ .unit 1 3) ∧
      s.Reads 1 0x1010 8 ((bytes128.drop 0x10).take 8) ∧ s.Reads 1 0x1078 8 ((bytes128.drop 0x78).take 8)) ∧
    loadF.size.regs = 2 ∧
    (let s := faulted (raised []) true
     (s.unit 1).held = true ∧ (s.unit 1).park = .none ∧ (s.unit 1).inHandler = false ∧ (s.ctx 0).trap = some 0x200) ∧
    ({ faultRec (.fetch 1) with cause := .ecc } : FaultRec).cause = .ecc ∧ (faultRec (.fetch 1)).cause ≠ .ecc := by
  refine ⟨⟨by decide +kernel, by decide +kernel, reads_of _ _ _ _ _ (by decide +kernel), reads_of _ _ _ _ _ (by decide +kernel)⟩,
    by decide +kernel, ⟨by decide +kernel, by decide +kernel, by decide +kernel, by decide +kernel⟩, by decide +kernel, by decide +kernel⟩

/-- A handler that returns to retry the faulted lanes of a load. -/
theorem witness_retry :
    let p := { raised [] with status := .delivered }
    let s := held2.setUnit 1 { held2.unit 1 with inHandler := true, tpc := 0x18, resume := 0x20, pend := [p] }
    Issues s (.TRET hd) hd ∧ (s.unit 1).pend = [p] ∧ p.status = .delivered ∧ (s.unit 1).tpc.toNat = p.pc ∧
    p.leader = false ∧ p.op = .LD hd loadF ∧ p.n = loadF.size.regs ∧ p.todo = [] ∧
    p.faulted.map (fun r => r.addr) = [0x1010, 0x1078] ∧ s.Reads 1 0x1010 loadF.size.bytes ((bytes128.drop 0x10).take 8) ∧
    s.Reads 1 0x1078 loadF.size.bytes ((bytes128.drop 0x78).take 8) :=
  ⟨issues_of _ _ _ (by decide +kernel), by decide, by decide, by decide, by decide, by decide, by decide, by decide,
    by decide, reads_of _ _ _ _ _ (by decide +kernel), reads_of _ _ _ _ _ (by decide +kernel)⟩

/-- An entry of a monitor table. -/
def entryOf (tok : Nat) (dl : Option Nat) : MonEntry :=
  { asid := 0, va := 0x1010, wide := false, signed := false, cmp := .eq, operand := 0, deadline := dl, cls := 1, ctx := 0
    token := tok, core := 0, part := 0, slot := 0, stamp := 0, moved := false, fired := none }

/-- A unit that sleeps ten cycles from cycle 5. -/
def sleeping (c : Nat) : State :=
  (held2.setUnit 1 { held2.unit 1 with park := .sleep 10, parkedAt := 5 }).setCore 0 { held2.core 0 with cycle := c }

theorem witness_waits :
    (let s := held2.setUnit 1 { held2.unit 1 with park := .waitu 0 0x1010 77 9 0xF0 }
     let s := { s with work := { s.work with tokens := [(77, 2)] }, mem := { s.mem with
       wakes := [{ id := 60, slice := 0, status := 1, entry := entryOf 77 none }] } }
     (s.mem.wakes.find? fun v => v.id = 60).isSome = true ∧ s.work.tokens.get 0 77 = 1 + 1 ∧ s.isResident 1 = true ∧
       (s.unit 1).core = 0 ∧ (s.unit 1).part = 0 ∧ (s.unit 1).slot = 0 ∧ (entryOf 77 none).peer = none) ∧
    -- a wake of a saved group, where the wake list has room for one and where it is full
    (∀ n ∈ [0, 1],
      let s := held2.setGroup 1 { held2.group 1 with phase := .saved }
      let s := s.setCtx 0 { s.ctx 0 with
        wakes := List.replicate n (70, 0), wakeNext := n, wake := { base := 0x9000, size := 8 } }
      let e := { entryOf 77 none with fired := some 1 }
      let s := { s with work := { s.work with tokens := [(77, 2)] }, mem := { s.mem with
        wakes := [{ id := 60, slice := 0, status := 1, entry := e }] } }
      let s := s.setSlice 0 { table := [entryOf 70 none, e] }
      s.wakesAt 1 e = false ∧ ((s.ctx 0).wakes.length < (s.ctx 0).wake.size / 8 ↔ n = 0) ∧ e.peer = none ∧
        s.localLine (0x9000 + 8 * ((s.ctx 0).wakeNext % ((s.ctx 0).wake.size / 8))) = none ∧
        ((s.slice 0).table.filter fun x => x.token ≠ 77 || x.fired.isNone) = [entryOf 70 none]) ∧
    (let c : Slice := { cycle := 500, table := [entryOf 77 (some 900), entryOf 70 (some 499), entryOf 77 (some 499)] }
     (c.table.filter fun e => e.token = 77 && e.fired.isNone && e.expired c.cycle) = [entryOf 77 (some 499)]) ∧
    (entryOf 77 (some 499)).expired 500 = true ∧ (entryOf 77 (some 900)).expired 500 = false ∧
    (∀ c ∈ [14, 15], (sleeping c).isResident 1 = true ∧
      (((sleeping c).unit 1).parkedAt + 10 ≤ ((sleeping c).core 0).cycle ↔ c = 15)) ∧
    (let c : Slice := { cycle := 500, table := [entryOf 70 (some 900)], spilled := [{ entry := entryOf 71 none, index := 0 }] }
     c.spilled.Nodup ∧ (∀ p ∈ c.spilled, p.entry.expired c.cycle = false) ∧ c.table.length + c.spilled.length ≤ 2048) ∧
    (let e := { entryOf 77 none with fired := some 0 }
     let s := (held2.setCtx 0 { held2.ctx 0 with wakes := [], wake := { base := 0x9000, size := 8 } }).setGroup 1
       { held2.group 1 with phase := .saved }
     let s := ({ s with work := { s.work with tokens := [(77, 2)] } } : State).setSlice 5 { table := [e] }
     ((s.slice 5).table = [e] ∧ (s.slice 5).waking = [] ∧ (s.slice 5).spilled = [] ∧ s.mem.wakes = [] ∧
      s.mem.peerWaits = [] ∧ e.peer = none ∧ s.isResident 1 = false ∧
      (∀ x ∈ s.ctxs, x.2.wakes = []) ∧ 0 < (s.ctx e.ctx).wake.size / 8) ∧ ∀ n, (s.ctx n).wakes = []) := by
  refine ⟨by decide +kernel, by decide +kernel, by decide +kernel, by decide +kernel, by decide +kernel, by decide +kernel,
    by decide +kernel, by decide +kernel, fun n => ?_⟩
  by_cases h : n = 0
  · subst h; rfl
  · simp only [State.ctx, State.setCtx, State.setGroup, State.setSlice]
    rw [AMap.get_set_other _ _ _ _ _ h]
    rw [AMap.get_of_not_mem _ _ _ (by rw [show AMap.keys held2.ctxs = [0] by decide +kernel]; simpa using h)]
/-! ## States that meet the hypotheses: pages and the outside (O51, O52) -/

/-- Eight bytes of physical memory; tables whose leaf at level 3 maps 2 MiB of ASID 0; and the same with a table
of level 4, whose leaf maps the page at 0x20000. -/
def put8 (s : State) (pa v : Nat) : State := s.writePhys pa (leBytes v 8)
def leafed (s : State) (leaf : Nat) (top : Nat := 0) : State :=
  put8 (put8 (put8 (put8 { s with mem := { s.mem with roots := AMap.set [] 0 0 0x100000 } }
    (0x100000 + 8 * top) 0x101001) 0x101000 0x102001) 0x102000 0x103001) 0x103000 leaf
def paged (s : State) (leaf : Nat) : State := put8 (leafed s 0x104001) (0x104000 + 16) leaf

/-- A leaf of all permissions with a frame, and a frameless gilt one. -/
def framedLeaf : Nat := 1 + 2 + 8 + 16 + 32 + 0x200000
def giltLeaf : Nat := 1 + 2 + 8 + 16 + 64

/-- A state whose slice holds the line at 0x20080, from a leaf and dirty or not. -/
def translated (leaf : Nat) (line : DWord) (dirty : Bool) : State :=
  let s := paged bench leaf
  let k := setKey (s.homeSlice 0 0x20080) (0x20080 / 128)
  { s with mem := { s.mem with l2 := AMap.set [] [] k [{ lineOf 0x20080 bytes128 with dirty := dirty, leaf := line }] } }

/-- What `leafAt` of PagesAndRegions answers. -/
def leafOf (s : State) : Walk := (s.lookup (s.dieOfSlice (s.homeSlice 0 0x20080)) 0 0x20080).1

/-- The one line, and what its address's leaf is. -/
def translates (leaf : Nat) (line : DWord) (dirty : Bool) (p : State → Walk → Bool) : Bool :=
  let s := translated leaf line dirty
  s.mem.stalls.isEmpty && s.mem.trans.isEmpty &&
    decide (s.allLines.map (fun y => (y.1, y.2.va, y.2.dirty)) = [(s.homeSlice 0 0x20080, 0x20080 / 128, dirty)]) &&
    p s (leafOf s)

/-- A leaf as it stands in memory, none, and one with a frame. -/
def isLeaf (x : DWord) (_ : State) : Walk → Bool
  | .leaf _ y _ => decide (y = x)
  | .absent _ => false
def noLeaf (_ : State) : Walk → Bool
  | .leaf _ _ _ => false
  | .absent _ => true
def hasFrame (s : State) : Walk → Bool
  | .leaf level y _ => !leafPeer y && !leafFrameless y && s.physOk (leafPa level y 0x20080)
  | .absent _ => false

/-- Clean lines whose leaf is the same, another and none; a dirty line whose leaf has a frame, and one whose leaf has
become another without a frame; and a quota that just fits and one that does not. -/
theorem witness_translation :
    translates framedLeaf (BitVec.ofNat 64 framedLeaf) false (isLeaf (BitVec.ofNat 64 framedLeaf)) = true ∧
    translates framedLeaf 5 false (isLeaf (BitVec.ofNat 64 framedLeaf)) = true ∧
    translates 0 5 false noLeaf = true ∧
    translates framedLeaf 5 true hasFrame = true ∧
    translates giltLeaf 5 true (isLeaf (BitVec.ofNat 64 giltLeaf)) = true ∧
    (leafFrameless (BitVec.ofNat 64 giltLeaf) = true ∧ (BitVec.ofNat 64 giltLeaf : DWord) ≠ 5 ∧
      ((translated giltLeaf 5 true).findLine ((translated giltLeaf 5 true).homeSlice 0 0x20080) 0 (0x20080 / 128)).isSome
        = true) ∧
    translates framedLeaf (BitVec.ofNat 64 framedLeaf) true hasFrame = true ∧
    0x20000 < 0x20080 + 128 ∧ 0x20080 < 0x20081 ∧
    entryMeets 0 0x1000 0x1200 (entryKey 0 3 0x1000) = true ∧
    entryMeets 0 0x1000 0x1200 (entryKey 1 3 0x1000) = false ∧
    (let s := held2.setCtx 3 { held2.ctx 3 with gilt := [(1, 1000)] }
     (s.ctxs.map fun e => if e.1 = 0 then 0 else e.2.gilt.get 0 1).sum + 152 = 1152) := by
  decide +kernel

/-- Three lines of a slice that a context holds or not, of which a grant of 0 units leaves none held. -/
def holding : State :=
  let line := fun (k : Nat) (held : Bool) => { lineOf (k * 128) bytes128 with held := held, ctx := 3, alloc := k }
  { bench with mem := { bench.mem with
    l2 := AMap.set [] [] (setKey 5 33) [line 33 true, line 34 true, line 35 false] } }

theorem witness_shrink :
    (∀ k ∈ [33, 34, 35],
      (match holding.findLine 5 0 k with
        | some l => decide ((holding.allLines.filter fun y => y.2.asid = l.asid && y.2.va = l.va) = [(5, l)]) &&
            holding.allLines.all (fun y => decide (y.1 = 5 → y.2.alloc = l.alloc → y = (5, l)))
        | none => false) = true) ∧ holding.dieOfSlice 5 = 0 ∧ (holding.ctxs.map fun e => e.2.gilt.get 0 0).sum = 0 := by
  decide +kernel

/-- A stashed line of a frameless gilt leaf, with a frame in the pool. -/
def stashed : State :=
  let s := paged held2 giltLeaf
  let l := { lineOf 0x20080 bytes128 with
    held := true, attr := { r := true, w := true, x := true, gilt := true }, leaf := BitVec.ofNat 64 giltLeaf }
  (s.setSlice 5 { stash := [l] }).setDie 0 { frames := [7, 9], lowWater := 0 }

theorem witness_stash :
    (match (stashed.slice 5).stash with
      | [l] => decide (l.data.length = 128) && (match stashed.leave 5 l with
        | .frameless level e pa => decide (leafPa level (BitVec.ofNat 64 (e.toNat + 9 * 2 ^ 16)) (l.va * 128) + 128 ≤ pa)
        | _ => false)
      | _ => false) = true ∧ (stashed.die (stashed.dieOfSlice 5)).frames = [7] ++ [9] ∧ stashed.mem.stalls = [] := by
  decide +kernel

/-- A load of a unit that waits for two fills, of which one has stalled at its slice or for a peer. -/
def stalled (place : StallAt) : State :=
  let p : Pend := { seq := 3, op := .LD hd loadF, pc := 0x18, dst := 8, n := 2, values := []
                    todo := [{ lane := 4, addr := 0x1010, data := [] }, { lane := 5, addr := 0x2010, data := [] }] }
  let v : Stall := { place := place, asid := 0, va := 0x1010 / 128, addr := 0x1010, write := false, start := 3, who := .unit 1 3 }
  let s := held2.setUnit 1 { held2.unit 1 with pend := [p], pendSeq := 4 }
  ({ s with mem := { s.mem with stalls := [v] } } : State).setSlice 5 { cycle := 3 + s.starveAfter }

theorem witness_starvation :
    let s := stalled (.slice 5)
    (∀ v ∈ s.mem.stalls, v.place = .slice 5 ∧ v.who = .unit 1 3 ∧ v.start + s.starveAfter ≤ (s.slice 5).cycle) ∧
    s.mem.stalls.length = 1 ∧
    (match (s.unit 1).pend.find? fun p => p.seq = 3 with | some p => !p.leader | none => false) = true := by
  decide +kernel

/-- A region with a map bit and one cached line. -/
def moving : State :=
  let s := { bench with mem := { bench.mem with homeRoots := [(0, 0x200000)] } }
  withLine (put8 (put8 s 0x200000 0x201002) 0x201000 0x210002) 0x1000 bytes128

theorem witness_migrate :
    (moving.mapBit 0 0).isSome = true ∧ moving.mem.stalls = [] ∧ moving.mem.slices = [] ∧
    (moving.allLines.filter fun y => y.2.asid = 0 && y.2.va / 2 ^ 14 = 0).map (fun y => y.2) = [lineOf 0x1000 bytes128] ∧
    tagAsid 0 (0 * 2 ^ 21) = 0 ∧ moving.mem.l2.length = 1 ∧ (moving.mem.l2.all fun e => e.2.length = 1) = true := by
  decide +kernel

/-- Frames of local memory that ASID 0 maps, with their lines, on the page at 0x20000 and at VA bit 55. -/
def framed0 : State := withLine (paged bench (framedLeaf + 2 ^ 20)) 0x20080 bytes128
def framedHigh : State :=
  withLine (leafed bench (1 + 2 + 8 + 16 + 32 + 0x40000000) 128) (2 ^ 55 + 0x1000) bytes128

/-- What a peer may do with its key 6. -/
def exporting (s : State) (r w : Bool) : State :=
  { s with mem := { s.mem with exports := [{ node := 5, key := 6, asid := 0, r := r, w := w, x := false }] } }

/-- The host's write of 8 bytes behind one that waits for its line, whose last 4 bytes it meets. -/
def behind : State :=
  let o : OutReq := { num := 0, node := none, id := 0x3000F4, asid := 0, va := 0x200F4, obs := 0, acc := .write (bytes128.take 8) }
  { framed0 with mem := { framed0.mem with outs := [o] } }

theorem witness_behind :
    0x3000F8 + 8 ≤ behind.localEnd ∧ behind.frameVa 0x3000F8 = some 0x200F8 ∧ (∀ x ∈ behind.mem.outs, x.num < behind.seq) ∧
    (∀ o ∈ behind.mem.outs, o.node = none ∧ o.acc = .write (bytes128.take 8) ∧ tagAsid o.asid o.va = tagAsid 0 0x200F8 ∧
      o.va < 0x200F8 + 8 ∧ 0x200F8 < o.va + 8) ∧ behind.mem.outs ≠ [] ∧
    (∀ o ∈ behind.mem.outs, o.num ≠ behind.seq ∧ o.node ≠ some (5 : BitVec 22)) := by
  decide +kernel

/-- An access to the end of a line, of a frame that ASID 0 maps and of one that it does not, of the host and of
a peer with each grant and without. -/
theorem witness_outside :
    (∀ off ∈ [0x40001078, 0x50000], off % 128 + 8 ≤ 128 ∧ off + 8 ≤ framedHigh.localEnd) ∧
    framedHigh.frameVa 0x40001078 = some (2 ^ 55 + 0x1078) ∧ framedHigh.frameVa 0x50000 = none ∧
    framed0.frameVa (0x300000 + 0xF8) = some 0x200F8 ∧ framed0.mem.outs = [] ∧
    framedHigh.ReqWrites { ctx := 4096, asid := 0, va := 2 ^ 55 + 0x1078 } 8 ∧
    framedHigh.ReqReads { ctx := 4096, asid := 0, va := 2 ^ 55 + 0x1078 } (bytes128.drop 0x78) ∧
    (∀ b ∈ [true, false], ∀ c ∈ [true, false],
      ((exporting bench b c).mem.exports.find? fun e => e.node = 5 && e.key = 6) =
        some { node := 5, key := 6, asid := 0, r := b, w := c, x := false } ∧
      ((exporting bench b c).mem.exports.find? fun e => e.node = 5 && e.key = 7) = none) :=
  ⟨by decide +kernel, by decide +kernel, by decide +kernel, by decide +kernel, by decide +kernel,
    req_writes _ _ _ (by decide +kernel), req_reads _ _ _ (by decide +kernel), by decide +kernel⟩

/-- A request to a peer of the lane that waits. -/
def asked : PeerMsg :=
  { id := 60, node := 3, va := 0x1010, src := 7, key := 1, obs := 0, acc := .read 8, who := .unit 1 3, lane := 4, slice := 5, start := 3 }

/-- A request whose limit has passed or has not; a wait at a peer that is answered; and a wait on a node. -/
theorem witness_peers :
    (∀ c ∈ [3 + 4194303, 3 + 4194304],
      let s := (stalled (.peer 60)).setSlice 5 { cycle := c }
      let s := { s with mem := { s.mem with peerOut := [asked] } }
      (s.mem.peerOut.find? fun m => m.id = 60 && m.answer.isNone) = some asked ∧
        (∀ v ∈ s.mem.stalls, v.place = .peer 60 ∧ v.who = .unit 1 3) ∧ s.mem.stalls.length = 1 ∧
        (asked.start + 4194304 ≤ (s.slice 5).cycle ↔ c = 4194307) ∧
        (match (s.unit 1).pend.find? fun p => p.seq = 3 with | some p => !p.leader | none => false) = true) ∧
    (let s := held2.setUnit 1 { held2.unit 1 with park := .waitu 0 0x20000 77 9 0xF0 }
     let w : PeerWait := { id := 60, token := 77, node := 3 }
     let s := { s with
       work := { s.work with tokens := [(77, 2)] }, mem := { s.mem with peerWaits := [{ w with ended := some 1 }, w] } }
     s.isResident 1 = true ∧ s.work.tokens.get 0 77 = 1 + 1 ∧
       (s.mem.peerWaits.find? fun w => w.id = 60 && w.ended.isNone) = some w ∧ (∀ m ∈ s.mem.peerOut, m.id ≠ 60) ∧
       w ∈ s.mem.peerWaits ∧ s.work.units.length = 1) := by
  decide +kernel

/-- A host line that a slice holds, dirty or not, under the leaf from which it was filled. -/
def hostLine : Line := { lineOf 0x20080 bytes128 with frame := some (2 ^ 51 + 0x200000 + 0x80) }
def hosting (dirty : Bool) : State :=
  let s := paged bench (framedLeaf + 2 ^ 51)
  let k := setKey (s.homeSlice 0 0x20080) (0x20080 / 128)
  { s with mem := { s.mem with l2 := AMap.set [] [] k [{ hostLine with dirty := dirty }] } }

theorem witness_host_write : ∀ d ∈ [true, false],
    let s := hosting d
    let off := 2 ^ 51 + 0x200000 + 0x90
    let c := s.homeSlice 0 0x20080
    let line := 0x20080 / 128
    let bs := bytes128.take 8
    let first := if d = true then s.writeFrame (off / 128 * 128) { hostLine with dirty := d } else s
    let v := ((first.writeChannel off bs).soil 0 (line * 128 + off % 128) bs.length).dropLine c 0 line
    off / 2 ^ 51 = 1 ∧ off % 128 + 8 ≤ 128 ∧ s.namesOf off = [(c, 0, line)] ∧
    s.findLine c 0 line = some { hostLine with dirty := d } ∧ bytes128.length = 128 ∧
    (∀ k ∈ AMap.keys s.mem.slices, (s.slice k).spilled = []) ∧ (s.mem.l2.get [] (setKey c line)).length < 16 ∧
    tagAsid 0 (line * 128) = 0 ∧
    (match (v.lookup (v.dieOfSlice c) 0 (line * 128)).1 with
      | .leaf level e _ => !leafPeer e && !leafFrameless e && decide (leafPa level e (line * 128) = off / 128 * 128)
      | .absent _ => false) = true ∧ v.physOk (off / 128 * 128) = true := by
  intro d hd
  simp only [List.mem_cons, List.not_mem_nil, or_false] at hd
  rcases hd with rfl | rfl <;> and_intros <;> decide +kernel

/-- What soft errors strike: an L1 copy of a page with a frame, and one of a page without. -/
theorem witness_soft_errors :
    (∀ d ∈ [true, false], ∀ x ∈ [framedLeaf, giltLeaf],
      ((translated x (BitVec.ofNat 64 x) d).findLine ((translated x (BitVec.ofNat 64 x) d).homeSlice 0 0x20080) 0 (0x20080 / 128)).map
        (fun l => (l.dirty, leafFrameless l.leaf)) = some (d, decide (x = giltLeaf))) ∧
    (oldCopy.l1Find 0 0 32).isSome = true ∧ oldCopy.bareLine (oldCopy.homeSlice 0 0x1000) 0 32 = false ∧
    (let s := paged bench giltLeaf
     let m : L1Line := { asid := 0, va := 0x20080 / 128, data := bytes128, attr := {}, bank := 0, fill := 0 }
     let s := { s with mem := { s.mem with l1 := AMap.set [] [] (l1Key 0 (0x20080 / 128)) [m] } }
     s.l1Find 0 0 (0x20080 / 128) = some m ∧ s.bareLine (s.homeSlice 0 0x20080) 0 (0x20080 / 128) = true) ∧
    (bench.msq 3).running = false ∧ islandIndex (.bridge 1) = some 1019 := by
  and_intros <;> decide +kernel

/-! ## States that meet the hypotheses: engines and draws (O53, O54) -/

/-- A copy of an element that is not the last into a filling slot. -/
def copyOf : Copy :=
  { num := 5, ctx := 0, group := 1, tile := 3, fill := 4, mem := 0x1000, memStride := 32, rowBytes := 16, rows := 4
    off := 8, stride := 16, dir := 0, conv := 0, obs := 0, counter := 0, op := 0, pos := 5, base := 64, image := [], hints := 0
    held := false }
def copyingIn : State :=
  let t : Tile := { state := .filling, base := 64, size := 256, expected := 64, arrived := 8, phase := true, fill := 4 }
  let s := held2.setGroup 1 { held2.group 1 with tiles := AMap.set [] {} 3 t, base := 8192 }
  s.setCore 0 { s.core 0 with copies := [{ copyOf with group := 9 }, copyOf] }

/-- A queue of two commands, stuck or not. -/
def collecting (stuck : Bool) : CollQ :=
  { open_ := true, counter := 0x1078, accepted := 7, finished := 5, stuck := stuck
    cmds := [{ num := 6, obs := 1, data := [], fw := { obj := 1 } }, { num := 7, obs := 2, data := [], fw := { obj := 1 } }] }

theorem witness_engines :
    (((copyingIn.core 0).copies.find? fun p => (copyingIn.group p.group).phase = .resident || p.ending
        || (p.committed && (copyingIn.group p.group).phase = .absent)) = some copyOf ∧
      (copyingIn.group 1).phase = .resident ∧
      copyOf.pos + 1 < copyOf.total ∧ copyOf.tile < (copyingIn.group 1).ntiles ∧ copyOf.report = none ∧ copyOf.ending = false ∧
      ((copyingIn.group 1).tiles.get {} 3).arrived + 4 < ((copyingIn.group 1).tiles.get {} 3).expected ∧
      copyingIn.ReqReads (copyingIn.copyReq 0 copyOf copyOf.memAt) ((bytes128.drop 0x24).take 4)) ∧
    (∀ b ∈ [true, false],
      let s := held2.setCtx 3 { held2.ctx 3 with collQs := [(18, collecting b)] }
      (s.ctx 3).collQs.get {} (1 * 16 + 2) = collecting b ∧ s.mem.faults = [] ∧ s.mem.stalls = []) ∧
    (let s := held2.setCtx 3 { held2.ctx 3 with collQs := [(18, collecting false)] }
     s.ReqWrites { ctx := 3, asid := (s.ctx 3).asid, va := 0x1078 } 8) :=
  ⟨⟨by decide +kernel, by decide +kernel, by decide +kernel, by decide +kernel, by decide +kernel, by decide +kernel,
    by decide +kernel, req_reads _ _ _ (by decide +kernel)⟩, by decide +kernel, req_writes _ _ _ (by decide +kernel)⟩

/-- A queue's entry in a block that no line holds, and in one whose line a slice holds. -/
def erring (block : DWord) : State :=
  framed0.setCtx 3 { framed0.ctx 3 with block := block, collQs := [(18, collecting false)] }

theorem witness_error_word :
    ([(0, false), (0x2FFD60, true)].all fun e =>
      let s := erring (BitVec.ofNat 64 e.1)
      let place := (s.ctx 3).block.toNat + 0x200 + 1 * 0x100 + 2 * 16 + 8
      decide (place % 8 = 0) && (s.localLine place).isSome == e.2 &&
        (s.localLine place).all fun x => decide (x.2.data.length = 128)) = true := by decide +kernel

/-- Requests of a unit and of a primitive that can be met, and elements that can retire. -/
theorem witness_records :
    (∀ who ∈ [Asker.unit 1, .prim 30],
      let r : Request := { who := who, rate := .V, n := 4, met := false }
      let d : Draw := { live := true, requests := [r, { r with who := .unit 2 }], space := 10000, used := 128
                        blk := { maxV := 100 }, rates := 255 }
      (d.requests.find? fun r => !r.met && d.canMeet r.who r.rate r.n r.subs) = some r) ∧
    (let s := held2.setLaunch 7 { phase := .started, form := { count := 2 }, next := 2 }
     let s := s.setDraw 7 { live := true, objects := 2, used := 500, space := 1000, rates := 255
                            elems := [(10, { rate := .O, phase := .exited, count := 2 }),
                              (11, { rate := .C, phase := .exited, parent := 10, lines := [128] }),
                              (12, { rate := .S, phase := .exited, parent := 10 })]
                            puts := [{ addr := 0, bytes := [], adds := false, object := 0 }] }
     s.drawOf 11 = some 7 ∧ s.canRetire 7 11 = true ∧ (s.draw 7).objects = (s.launch 7).form.count ∧ s.mem.stalls = [] ∧
       ((s.draw 7).elem 12).rate = .S ∧ (s.draw 7).puts ≠ []) := by
  decide +kernel

/-- A draw with 40 ready elements of a rate, in two paths. -/
def startable (r : Rate) : State :=
  let s := held2.setUnit 1 { held2.unit 1 with rate := .O }
  let s := s.setLaunch 7 { phase := .started, form := { count := 2, first := 0, cores := 4, regs := 16, entry := 0x40 }, next := 2 }
  s.setDraw 7 { live := true, rates := 255, elems := (5, { rate := .O, phase := .exited }) :: (List.range 40).map fun k =>
    (k + 10, { rate := r, phase := .ready, parent := 5, order := k + 10, path := if k % 3 = 0 then [true] else [] }) }

theorem witness_wave_start :
    ∀ r ∈ [Rate.C, .P],
      ((startable r).draw 7).startables r ≠ [] ∧
      (∀ q ∈ [Rate.K, .F, .O, .C, .V, .P, .S, .Y], r.code < q.code → ((startable r).draw 7).startables q = []) ∧
      ((startable r).launch 7).form.grants 2 = true ∧ (startable r).preempting 2 0 = false ∧
      ((startable r).core 2).pool = [] ∧
      (let s1 := (startable r).offerPool 2
       s1.returning = [] ∧ (∀ m ∈ s1.waiting, ¬s1.launchKey m < s1.launchKey 7) ∧ (s1.openCore 7 2).1 = true ∧
         (((s1.openCore 7 2).2.room 2).place { waves := 1, regs := 16, scratch := 0, tiles := 0 }).isSome = true) ∧
      ((startable r).work.groups.all fun g => g.2.launch ≠ 7) = true := by
  decide +kernel

/-- A draw with a triangle over its 2 by 2 pixels, or one of no area; its vertices' slots are first contents. -/
def pixels (y : Nat) (i2 : Nat := 2) : State :=
  let vtx := fun (o x y line : Nat) =>
    ({ rate := .V, phase := .exited, parent := 11, ordinal := o, lines := [line]
       init := [(line, List.replicate 16 0 ++ leBytes x 4 ++ leBytes y 4 ++ leBytes 0x3F000000 4 ++ leBytes 0x3F800000 4)] } : Elem)
  let s := held2.setLaunch 7 { phase := .started, form := { count := 1 } }
  s.setDraw 7
    { live := true, rates := 255, space := 100000, used := 64, holds := [{ rate := 4, first := 4, count := 4, entry := 0 }]
      blk := { width := 2, height := 2, sppCode := 0, coarse := 0, pos := 4, maxC := 10, maxV := 10, maxP := 10 }
      elems := [(10, { rate := .O, phase := .exited, count := 1 }), (11, { rate := .C, phase := .exited, parent := 10, object := 1, count := 3 }),
        (20, vtx 0 0xBF800000 0xBF800000 128), (21, vtx 1 0x41200000 0xBF800000 256), (22, vtx 2 0xBF800000 y 384)]
      prims := [(30, { live := true, judged := true, cluster := 11, i0 := 0, i1 := 1, i2 := i2, next := 3 })] }

/-- The position words of the corners of the draw's primitive, its screen values, and whether it can produce an
element. -/
def cornerWord (s : State) (i k : Nat) : Nat :=
  ((s.peekSlots 7 (((s.draw 7).cornersOf ((s.draw 7).prims.get {} 30)).flatMap (s.draw 7).posSlots) []).1.getD (4 * i + k) 0).toNat
def onScreen (s : State) (k i : Nat) : Nat := rDiv (cornerWord s i k) (cornerWord s i 3)
def canProduce (s : State) : Bool :=
  produces (onScreen s 0) (onScreen s 1) (onScreen s 2) fun i => cornerWord s i 3

theorem witness_triangle :
    let s := pixels 0x41200000
    let d := s.draw 7
    let q := d.prims.get {} 30
    (q.next + 1 = d.blk.coarseAll ∧ q.tested = [] ∧ q.count = 0 ∧ d.requests = [] ∧ q.i0 ≠ q.i1 ∧ q.i1 ≠ q.i2 ∧ q.i0 ≠ q.i2) ∧
    (d.hasZwr = false ∧ d.blk.tests = false ∧ d.blk.writes = false ∧ s.tainted 7 = false ∧ q.cluster < s.seq) ∧
    (canProduce s = true ∧ d.blk.sppCode < 4 ∧ (coveredAt d.blk (onScreen s 0) (onScreen s 1) (onScreen s 2) 1 1).length = 1) ∧
    (d.fits .P 1 = true ∧ ({ d with used := d.used + d.recSize .P } : Draw).fits .S 1 = true) ∧
    (∀ v ∈ d.cornersOf q, (d.elem v).phase = .exited) ∧
    canProduce (pixels 0xBF800000) = false ∧ ((pixels 0x41200000 1).draw 7 |>.prims.get {} 30).i2 = 1 := by
  and_intros <;> decide +kernel

/-! ## States that meet the hypotheses: steps and encodings (O56, O58 to O60) -/

/-- The instruction add v1, v2, v3 and its word. -/
def addWord : DWord := (encode (.ADD hd (alu 1 2 3 0))).headD 0

/-- A unit whose core's cache holds the line at its pc. -/
def fetching : State :=
  let s := bench fun w => { w with pc := 0x78, ahead := [] }
  let line := List.replicate 120 0 ++ leBytes addWord.toNat 8
  { s with agenda := [.unit 1], mem := { s.mem with icache := AMap.set [] [] (lineKey (tagAsid (s.ctx 0).asid 0x78) 0) line } }

theorem witness_step :
    fetching.ready 1 = true ∧ fetching.isFirst 1 = true ∧ (fetching.unit 1).trapNext = none ∧ (fetching.draw 0).live = false ∧
    (let line := List.replicate 120 0 ++ leBytes addWord.toNat 8
     let word := fun j => BitVec.ofNat 64 (leNat ((line.drop (0x78 % 128 + 8 * j)).take 8))
     fetching.mem.icache.get [] ((fetching.unit 1).core * 2 ^ 65 + lineKey (tagAsid (fetching.ctx 0).asid 0x78) (0x78 / 128)) = line ∧
      hasExt (word 0) = false ∧ decode (word 0) (word 1) = .ok (.ADD hd (alu 1 2 3 0))) ∧
    fetching.tableConds (fetching.unit 1) (.ADD hd (alu 1 2 3 0)) = [] := by
  and_intros <;> decide +kernel

/-- The words that a unit and a matrix sequencer fetch. -/
theorem witness_fetched :
    (let s := fetching
     let x := s.unit 1
     let k := s.core x.core
     let offered : State :=
       { (({ s with agenda := [] } : State).setCore x.core { k with cycle := k.cycle + 1 }).setUnit 1
           { x with turnAt := k.cycle + 1 } with cur := 1 }
     (match offered.fetchInstr 1 with
       | (.words w next, v) => decide (v.cur = 1) && (match v.decodeFor 1 w next with
         | .ok i => decide (i = .ADD hd (alu 1 2 3 0)) | .error _ => false)
       | _ => false) = true) ∧
    (let s : State := { State.reset.placeCode 0x0400_0000_0000_0000 with agenda := [.msq 0] }
     let at_ : State :=
       { ({ s with agenda := [] } : State).setMsq 0 { s.msq 0 with turnAt := (s.core 0).cycle } with curMsq := 0 }
     (s.msq 0).runs = true ∧ s.agenda = [.msq 0] ∧ (s.msq 0).errRec = none ∧ (s.msq 0).inWord = false ∧
       (match at_.msqFetch 0 with
         | (.word w, _) => decide (decodeMsq w = .ok .MNOP)
         | _ => false) = true) ∧
    -- a word that goes on
    (let s := program fun m => { m with inWord := true, word := 0x0400_0000_0000_0000 }
     (s.msq 0).runs = true ∧ (s.msq 0).errRec = none ∧ decodeMsq (s.msq 0).word = .ok .MNOP) := by decide +kernel

/-- A step of the machine after reset with an event offered, and a well-formed instruction. -/
theorem witness_events_and_forms :
    encode (.DEVICE_RESET) = [] ∧ WellFormed (.ADD hd (alu 1 2 3 0)) ∧ (Instr.ADD hd (alu 1 2 3 0)).head? = some hd ∧
    WellFormed .MNOP ∧ encode .MNOP ≠ [] ∧ Memory.wf fetching.mem.phys = true := by
  unfold WellFormed
  decide +kernel
end Sys2Proof.Tests
end

section
/-!
SUPPORT. Bring-up, the register window and the operating points: what each event of spec 16 R249 and R251 and of
spec 00 R7 and R8 does, case by case, and the proof of O42 from it.
-/

namespace Sys2Proof.Machine

open Sys2Proof

/-! ## SECURE_BOOT and FIRMWARE_LOAD (spec 04 R88, spec 16 R249) -/

theorem execSecureBoot_of_reset (image signature : List Byte) (s : State) (hb : s.host.bringUp = .reset) :
    execSecureBoot image signature s = .next { s with host := { s.host with bringUp := .secureBoot } } := by
  simp [execSecureBoot, hb]

theorem execSecureBoot_of_accepted (image signature : List Byte) (s : State) (hb : s.host.bringUp = .secureBoot)
    (hok : firmwareOk image signature = true) :
    execSecureBoot image signature s =
      .next { s with host := { s.host with bringUp := .fwWait, secMeasure := shake512 image } } := by
  simp [execSecureBoot, hb, hok]

theorem execSecureBoot_of_refused (image signature : List Byte) (s : State) (hb : s.host.bringUp = .secureBoot)
    (hok : firmwareOk image signature = false) :
    execSecureBoot image signature s = .next { s with host := { s.host with bringUp := .failed, cause := 1 } } := by
  simp [execSecureBoot, hb, hok]

theorem execSecureBoot_elsewhere (image signature : List Byte) (s : State) (hr : s.host.bringUp ≠ .reset)
    (hs : s.host.bringUp ≠ .secureBoot) : execSecureBoot image signature s = .next s := by
  cases hb : s.host.bringUp with
  | reset => exact absurd hb hr
  | secureBoot => exact absurd hb hs
  | fwWait | training | ready | failed => simp [execSecureBoot, hb]

theorem execFirmwareLoad_of_accepted (point number : List Byte) (s : State) (hb : s.host.bringUp = .fwWait)
    (hok : firmwareOk s.fwBytes (point ++ number) = true) :
    execFirmwareLoad 1 point number s =
      .next { s with
        host := { s.host with bringUp := .training, cause := 0, dispMeasure := shake512 s.fwBytes } } := by
  simp [execFirmwareLoad, hb, hok]

theorem execFirmwareLoad_of_refused (point number : List Byte) (s : State) (hb : s.host.bringUp = .fwWait)
    (hok : firmwareOk s.fwBytes (point ++ number) = false) :
    execFirmwareLoad 1 point number s = .next { s with host := { s.host with cause := 2 } } := by
  simp [execFirmwareLoad, hb, hok]

theorem execFirmwareLoad_elsewhere (value : BitVec 32) (point number : List Byte) (s : State)
    (h : s.host.bringUp ≠ .fwWait ∨ value ≠ 1) : execFirmwareLoad value point number s = .next s := by
  have hc : (decide (s.host.bringUp ≠ .fwWait) || decide (value ≠ 1)) = true := by simpa using h
  simp only [execFirmwareLoad]
  rw [if_pos hc]

/-! ## The table of routes (spec 16 R253) -/

/-- The entry of each route, set in the order of the list. -/
def setRoutes (t : AMap Nat) (rs : List (BitVec 22 × Nat)) : AMap Nat :=
  rs.foldl (fun t (p : BitVec 22 × Nat) => AMap.set t 0 p.1.toNat (p.2 + 1)) t

theorem setRoutes_cons (t : AMap Nat) (p : BitVec 22 × Nat) (rs : List (BitVec 22 × Nat)) :
    setRoutes t (p :: rs) = setRoutes (t.set 0 p.1.toNat (p.2 + 1)) rs := rfl

theorem get_setRoutes_of_not_mem (rs : List (BitVec 22 × Nat)) (t : AMap Nat) (n : Nat)
    (h : ∀ x ∈ rs, x.1.toNat ≠ n) : (setRoutes t rs).get 0 n = t.get 0 n := by
  induction rs generalizing t with
  | nil => rfl
  | cons p rs ih =>
    obtain ⟨hp, hrs⟩ := List.forall_mem_cons.mp h
    rw [setRoutes_cons, ih _ hrs, AMap.get_set_other _ _ _ _ _ hp.symm]

theorem get_setRoutes_of_mem (rs : List (BitVec 22 × Nat)) (t : AMap Nat) (hnd : (rs.map Prod.fst).Nodup)
    (x : BitVec 22 × Nat) (hx : x ∈ rs) : (setRoutes t rs).get 0 x.1.toNat = x.2 + 1 := by
  induction rs generalizing t with
  | nil => cases hx
  | cons p rs ih =>
    obtain ⟨hp, hnd⟩ := List.nodup_cons.mp hnd
    rw [setRoutes_cons]
    rcases List.mem_cons.mp hx with rfl | hx
    · have later : ∀ y ∈ rs, y.1.toNat ≠ x.1.toNat := fun y hy he =>
        hp (BitVec.eq_of_toNat_eq he ▸ List.mem_map_of_mem hy)
      rw [get_setRoutes_of_not_mem _ _ _ later, AMap.get_set_same]
    · exact ih _ hnd hx

/-! ## TRAINING (spec 16 R249; log entry 82) -/

section manage

variable (s : State) (r : TrainResult)

@[simp] theorem State.host_manage : (s.manage r).host = s.host := rfl
@[simp] theorem State.work_manage : (s.manage r).work = s.work := rfl
@[simp] theorem State.cores_manage : (s.manage r).cores = s.cores := rfl
@[simp] theorem State.ctxs_manage : (s.manage r).ctxs = s.ctxs := rfl
@[simp] theorem State.mem_phys_manage : (s.manage r).mem.phys = s.mem.phys := rfl
@[simp] theorem State.mem_node_manage : (s.manage r).mem.node = r.node := rfl
@[simp] theorem State.mem_exports_manage : (s.manage r).mem.exports = r.exports := rfl
@[simp] theorem State.mem_starvation_manage : (s.manage r).mem.starvation = r.starvation := rfl
@[simp] theorem State.mem_routes_manage : (s.manage r).mem.routes = setRoutes s.mem.routes r.routes := rfl
@[simp] theorem State.mem_roots_manage : (s.manage r).mem.roots = s.mem.roots.set 0 0 r.root0 := rfl
@[simp] theorem State.mem_homeRoots_manage : (s.manage r).mem.homeRoots = s.mem.homeRoots.set 0 0 r.homeRoot0 := rfl

@[simp] theorem State.die_zero_manage : (s.manage r).die 0 = { s.die 0 with lowWater := r.lowWater0 } :=
  (State.die_setDie_other _ 1 _ 0 (by decide)).trans (State.die_setDie_same _ 0 _)

@[simp] theorem State.die_one_manage : (s.manage r).die 1 = { s.die 1 with lowWater := r.lowWater1 } :=
  State.die_setDie_same _ 1 _

theorem State.route_manage_of_mem (hnd : (r.routes.map Prod.fst).Nodup) (x : BitVec 22 × Nat) (hx : x ∈ r.routes) :
    (s.manage r).mem.routes.get 0 x.1.toNat = x.2 + 1 := by
  rw [State.mem_routes_manage, get_setRoutes_of_mem r.routes _ hnd x hx]

theorem State.route_manage_of_not_mem (n : Nat) (h : ∀ x ∈ r.routes, x.1.toNat ≠ n) :
    (s.manage r).mem.routes.get 0 n = s.mem.routes.get 0 n := by
  rw [State.mem_routes_manage, get_setRoutes_of_not_mem r.routes _ n h]

end manage

/-- The host's registers after a training that succeeds: the counts of the part, in READY. -/
def HostState.trained (h : HostState) (r : TrainResult) : HostState :=
  { h with
    bringUp := .ready, cores0 := r.cores0, cores1 := r.cores1, slices0 := r.slices0
    slices1 := r.slices1, chans0 := r.chans0, chans1 := r.chans1, ports := r.ports }

theorem execTraining_of_failed (r : TrainResult) (s : State) (hb : s.host.bringUp = .training)
    (hc : r.cause = 3 ∨ r.cause = 4 ∨ r.cause = 5) :
    execTraining r s = .next { s with host := { s.host with bringUp := .failed, cause := r.cause.toNat } } := by
  rcases hc with hc | hc | hc <;> simp [execTraining, hb, hc]

theorem execTraining_of_trained (r : TrainResult) (s : State) (hb : s.host.bringUp = .training)
    (hc : r.cause = 0) (hw : TrainResult.within r = true) :
    execTraining r s = .next ({ s with host := s.host.trained r }.manage r) := by
  simp [execTraining, hb, hc, hw, HostState.trained]

theorem execTraining_elsewhere (r : TrainResult) (s : State) (hb : s.host.bringUp ≠ .training) :
    execTraining r s = .next s := by
  simp [execTraining, hb]

/-! ## The register window (spec 16 R251; log entry 86) -/

theorem execRegisterWrite_address (v : DWord) (s : State) :
    execRegisterWrite 0x8 v s = .next { s with host := { s.host with fwAddr := v } } := rfl

theorem execRegisterWrite_size (v : DWord) (s : State) :
    execRegisterWrite 0x10 v s = .next { s with host := { s.host with fwSize := v.setWidth 32 } } := rfl

theorem execRegisterWrite_other (off : Nat) (v : DWord) (s : State) (h8 : off ≠ 0x8) (h10 : off ≠ 0x10) :
    execRegisterWrite off v s = .next s := by
  simp [execRegisterWrite, h8, h10]

theorem State.barRead_bringUp (s : State) : s.barRead 0 = s.host.register := rfl

theorem State.barRead_address (s : State) : s.barRead 8 = s.host.fwAddr.toNat := rfl

theorem State.barRead_size (s : State) : s.barRead 0x10 = s.host.fwSize.toNat := rfl

/-- The doorbell pages read 0. -/
theorem State.barRead_doorbell (s : State) (off : Nat) (h : off / 2 ^ 24 = 1) : s.barRead off = 0 := by
  have h0 : off ≠ 0 := by omega
  have h8 : off ≠ 8 := by omega
  have h10 : off ≠ 0x10 := by omega
  simp [State.barRead, h0, h8, h10, h, -Nat.reducePow]

/-- An offset within the control page of a context: the page's part of the BAR, its context and the offset in it. -/
theorem controlPage_parts (n o : Nat) (hn : n < 4096) (ho : o < 4096) :
    (0x2000000 + 4096 * n + o) / 2 ^ 24 = 2 ∧ barPage (0x2000000 + 4096 * n + o) = (n, o) := by
  refine ⟨by omega, Prod.ext ?_ ?_⟩ <;> simp only [barPage] <;> omega

theorem State.barRead_block (s : State) (n : Nat) (hn : n < 4096) :
    s.barRead (0x2000000 + 4096 * n) = (s.ctx n).block.toNat := by
  obtain ⟨hdiv, hpage⟩ := controlPage_parts n 0 hn (by decide)
  rw [Nat.add_zero] at hdiv hpage
  have h8 : 0x2000000 + 4096 * n ≠ 8 := by omega
  have h10 : 0x2000000 + 4096 * n ≠ 0x10 := by omega
  simp [State.barRead, hpage, hdiv, h8, h10, -Nat.reducePow]

theorem State.barRead_enabled (s : State) (n : Nat) (hn : n < 4096) :
    s.barRead (0x2000000 + 4096 * n + 8) = if (s.ctx n).enabled = true then 1 else 0 := by
  obtain ⟨hdiv, hpage⟩ := controlPage_parts n 8 hn (by decide)
  have h10 : 0x2000000 + 4096 * n + 8 ≠ 0x10 := by omega
  simp [State.barRead, hpage, hdiv, h10, Bool.toNat, Bool.cond_eq_ite, -Nat.reducePow]

/-! ## Operating points (spec 00 R7, R8; log entry 63) -/

theorem execIslandOperatingPoint_of_some (island : Island) (point n : Nat) (s : State)
    (h : islandIndex island = some n) :
    execIslandOperatingPoint island point s =
      .next { s with host := { s.host with points := s.host.points.set 0 n point } } := by
  simp [execIslandOperatingPoint, h]

theorem execIslandOperatingPoint_of_none (island : Island) (point : Nat) (s : State)
    (h : islandIndex island = none) : execIslandOperatingPoint island point s = .next s := by
  simp [execIslandOperatingPoint, h]

/-- A class-0 queue has unfinished work where a class-0 job waits in an inbox, or was accepted and is not done. -/
theorem State.classZero_of_unfinished (s : State)
    (h : (∃ e ∈ s.ctxs, ∃ j ∈ e.2.inbox, j.cls = 0) ∨ (∃ e ∈ s.work.jobs, e.2.cls = 0 ∧
      (s.work.jobLevels.get {} e.1).live = true ∧ (s.work.jobLevels.get {} e.1).done = false)) :
    s.classZero = true := by
  rw [State.classZero, Bool.or_eq_true]
  rcases h with ⟨e, he, j, hj, hcls⟩ | ⟨e, he, hcls, hlive, hdone⟩
  · exact .inl (List.any_eq_true.mpr ⟨e, he, List.any_eq_true.mpr ⟨j, hj, by simp [hcls]⟩⟩)
  · exact .inr (List.any_eq_true.mpr ⟨e, he, by simp [hcls, hlive, hdone]⟩)

theorem State.coreZero_of_mem (s : State) (e : Nat × Wave) (he : e ∈ s.work.units) (hlive : e.2.live = true)
    (hres : s.isResident e.1 = true) (hcls : s.classOf e.2.launch = 0) : s.coreZero e.2.core = true :=
  List.any_eq_true.mpr ⟨e, he, by simp [hlive, hres, hcls]⟩

theorem State.pointOf_of_nominal (s : State) (i : Island) (h : s.nominal i = true) : s.pointOf i = 0 := by
  unfold State.pointOf
  cases islandIndex i with
  | none => rfl
  | some n => exact if_pos h

section nominal

variable (s : State) (hz : s.classZero = true)
include hz

theorem State.pointOf_dispatch (n : Nat) : s.pointOf (.dispatch n) = 0 :=
  s.pointOf_of_nominal _ (by simp [State.nominal, hz])

theorem State.pointOf_bridge (n : Nat) : s.pointOf (.bridge n) = 0 :=
  s.pointOf_of_nominal _ (by simp [State.nominal, hz])

theorem State.pointOf_slice (n : Nat) (h : ∃ e ∈ (s.slice n).table, e.cls = 0) : s.pointOf (.slice n) = 0 :=
  s.pointOf_of_nominal _ (by simpa [State.nominal, hz] using h)

theorem State.pointOf_core (c : Nat) (h : s.coreZero c = true) :
    s.pointOf (.coreVector c) = 0 ∧ s.pointOf (.coreMatrix c) = 0 :=
  ⟨s.pointOf_of_nominal _ (by simp [State.nominal, hz, h]),
    s.pointOf_of_nominal _ (by simp [State.nominal, hz, h])⟩

end nominal

/-- Settles O42: each event by the equation of its case, training by what `State.manage` leaves in each field, the
window by the parts of its offsets, and the operating points by `State.pointOf_of_nominal`. -/
theorem bringUp : Obligations.BringUp := by
  unfold Obligations.BringUp
  intro s image half rest value r off v island point
  refine ⟨rfl, execSecureBoot_of_reset image _ s,
    fun hb => ⟨execSecureBoot_of_accepted image _ s hb, execSecureBoot_of_refused image _ s hb⟩,
    execSecureBoot_elsewhere image _ s,
    fun hb => ⟨execFirmwareLoad_of_accepted half rest s hb, execFirmwareLoad_of_refused half rest s hb⟩,
    execFirmwareLoad_elsewhere value half rest s, execTraining_of_failed r s, ?training,
    execTraining_elsewhere r s, execRegisterWrite_address v s, execRegisterWrite_size v s,
    execRegisterWrite_other off v s, ?register, s.barRead_address, s.barRead_size,
    s.barRead_doorbell off,
    fun n hn => ⟨s.barRead_block n hn, s.barRead_enabled n hn⟩,
    fun n => execIslandOperatingPoint_of_some island point n s,
    execIslandOperatingPoint_of_none island point s, ?points⟩
  case training =>
    intro hb hc hc0 hc1 hs0 hs1 hh0 hh1 hp
    have hw : TrainResult.within r = true := by simp [TrainResult.within, hc0, hc1, hs0, hs1, hh0, hh1, hp]
    exact ⟨_, execTraining_of_trained r s hb hc hw, State.host_manage _ r, State.mem_node_manage _ r,
      State.mem_exports_manage _ r, State.mem_starvation_manage _ r, State.route_manage_of_mem _ r,
      State.route_manage_of_not_mem _ r, State.mem_roots_manage _ r, State.mem_homeRoots_manage _ r,
      State.die_zero_manage _ r, State.die_one_manage _ r, State.work_manage _ r, State.cores_manage _ r,
      State.ctxs_manage _ r, State.mem_phys_manage _ r⟩
  case register =>
    rw [State.barRead_bringUp, HostState.register]
    cases s.host.bringUp <;> rfl
  case points =>
    intro hwork
    have hz := s.classZero_of_unfinished hwork
    exact ⟨fun n => ⟨s.pointOf_dispatch hz n, s.pointOf_bridge hz n⟩, s.pointOf_slice hz,
      fun e he hlive hres hcls => s.pointOf_core hz _ (s.coreZero_of_mem e he hlive hres hcls)⟩

end Sys2Proof.Machine
end

section
/-!
SUPPORT. The issue of a wave instruction: the one form that every meaning of one has, the precise trap that it takes, and
the order of the checks (spec 01 R16 to R18).
-/

namespace Sys2Proof.Machine

open Sys2Proof

section forms

variable {i : Instr} {h : Head} {f : AluF} {s : State}

theorem issues_of_lanesOp {g : Wave → Wave} (hx : exec i s = .next (s.lanesOp i g)) :
    ∃ e, exec i s = .next (s.issue i e) := ⟨_, hx⟩

theorem issues_of_waveOp {g : State → State} (hx : exec i s = .next (s.waveOp i h g)) :
    ∃ e, exec i s = .next (s.issue i e) := ⟨_, hx⟩

theorem issues_of_laneOp {d : BitVec 8} {wide : Bool} {g : Wave → Nat → Res}
    (hx : exec i s = .next (laneOp i h d wide g s)) : ∃ e, exec i s = .next (s.issue i e) := issues_of_lanesOp hx

theorem issues_of_lane1 {g : Nat → Res} (hx : exec i s = .next (lane1 i h f g s)) :
    ∃ e, exec i s = .next (s.issue i e) := issues_of_laneOp hx

theorem issues_of_lane2 {g : Nat → Nat → Res} (hx : exec i s = .next (lane2 i h f g s)) :
    ∃ e, exec i s = .next (s.issue i e) := issues_of_laneOp hx

theorem issues_of_lane3 {g : Nat → Nat → Nat → Res} (hx : exec i s = .next (lane3 i h f g s)) :
    ∃ e, exec i s = .next (s.issue i e) := issues_of_laneOp hx

theorem issues_of_laneTest {g : Wave → Nat → Bool × Word} (hx : exec i s = .next (laneTest i h f g s)) :
    ∃ e, exec i s = .next (s.issue i e) := issues_of_lanesOp hx

theorem issues_of_laneCmp {c : CmpOp} (hx : exec i s = .next (laneCmp i h f c s)) :
    ∃ e, exec i s = .next (s.issue i e) := issues_of_laneTest hx

theorem issues_of_laneShuffle {g : Wave → Nat → Int} (hx : exec i s = .next (laneShuffle i h f g s)) :
    ∃ e, exec i s = .next (s.issue i e) := issues_of_laneOp hx

theorem issues_of_pipeOp {g : Wave → Nat → Res} (hx : exec i s = .next (pipeOp i h f g s)) :
    ∃ e, exec i s = .next (s.issue i e) := issues_of_lanesOp hx

theorem issues_of_pipe1 {g : Nat → Res} (hx : exec i s = .next (pipe1 i h f g s)) :
    ∃ e, exec i s = .next (s.issue i e) := issues_of_pipeOp hx

theorem issues_of_pipe2 {g : Nat → Nat → Res} (hx : exec i s = .next (pipe2 i h f g s)) :
    ∃ e, exec i s = .next (s.issue i e) := issues_of_pipeOp hx

end forms

theorem exec_issues (i : Instr) (h : Head) (s : State) (hh : i.head? = some h) :
    ∃ e, exec i s = .next (s.issue i e) := by
  cases i with
  | NOP | TRET | SAFEPT | IDEM_BEGIN | IDEM_END | MEET | IFENCE | BRA | FORK | LD | ST | LDS | STS
  | ATOM_ADD | ATOM_SUB | ATOM_MIN | ATOM_MAX | ATOM_AND | ATOM_OR | ATOM_XOR | ATOM_EXCH | ATOM_CAS
  | ATOM_INC | ATOM_DEC | PREF | LD_POLL | GBAR | HOLD | TAKE | IPL | AMP | EMIT_VTX | EMIT_PRIM
  | ZTEST | ZWR | FBW | SPAWNY | RAYRET | BVHT | SWP_ADD | SWP_SUB | SWP_MUL | SWP_FMA | SWP_MIN
  | SWP_MAX | SWP_MOV => exact ⟨_, rfl⟩
  | EXIT | TRAP | BRK | ICINV | CALL | JMP | RET | BRX | SYSR | SYSW | KAND | KOR | KXOR | KNOT
  | KMOV_K_K | KMOV_K_V | KMOV_V_K | KPOP | KFFS | XGET | XSET | XAND | FENCE_ACQ | FENCE_REL | DISCARD
  | WAITU | SLEEP | SPAWN | LAUNCH | TRIG | WAITP | CANCEL | CCNT | TARM | TWAIT | TREL | TSTAT | TCOPY
  | MSTART | COLL => exact issues_of_waveOp rfl
  | ADDC | SUBB | VOTE_ANY | VOTE_ALL | VOTE_EQ | RED_ADD | RED_MIN | RED_MAX | RED_AND | RED_OR
  | RED_XOR | SCAN_ADD | SCAN_MIN | SCAN_MAX | SCAN_AND | SCAN_OR | SCAN_XOR | COV | DEC_RLE | DEC_BITS
  | DEC_FP4 => exact issues_of_lanesOp rfl
  | SHL | SHR | SRA | BFE | BFI | POPC | CLZ | CTZ | MOVI | SEL | LEA | LEA_SYMBOL | FCMP | FCVT
  | HFMA2 | MATCH => exact issues_of_laneOp rfl
  | NEG | ABS | NOT | BREV | MOV | FABS | FNEG | FRND => exact issues_of_lane1 rfl
  | ADD | SUB | MIN | MAX | MUL_LO | MUL_HI | AND | OR | XOR | FADD | FSUB | FMUL | FMIN | FMAX | DADD
  | DSUB | DMUL => exact issues_of_lane2 rfl
  | MAD | FFMA | DFMA => exact issues_of_lane3 rfl
  | CMP_EQ | CMP_NE | CMP_LT | CMP_LE | CMP_GT | CMP_GE | CMP_NUM | CMP_NAN => exact issues_of_laneCmp rfl
  | SHFL_IDX | SHFL_UP | SHFL_DOWN | SHFL_XOR | BCAST => exact issues_of_laneShuffle rfl
  | TRCP | TRSQ | TSQRT | TEXP2 | TLOG2 | TSIN | TCOS => exact issues_of_pipe1 rfl
  | TDIV | IDIV => exact issues_of_pipe2 rfl
  | _ => cases hh
/-! ## Traps at issue (spec 01 R17, R18) -/

theorem State.park_of_ready {s : State} {u : Nat} (h : s.ready u = true) : (s.unit u).park = .none := by
  simp only [State.ready, Bool.and_eq_true, decide_eq_true_eq] at h
  exact h.1.1.2

/-- The unit enters its handler where its context has one and it is not inside it. -/
theorem State.enterHandler_of_entry (s : State) (u : Nat) (c : Word) (pc inst : DWord) (entry : Nat)
    (he : (s.ctx (s.unit u).ctx).trap = some entry) (hh : (s.unit u).inHandler = false)
    (hp : (s.unit u).park = .none) :
    s.enterHandler u c pc inst = s.setUnit u
      { s.unit u with tcause := c, tpc := pc, tinst := inst, resume := (s.unit u).pc, pc := BitVec.ofNat 64 entry
                      inHandler := true, trapNext := none, held := false, park := .none } := by
  simp [State.enterHandler, he, hh, hp]

/-- A trap of an instruction whose unit has no result outstanding is taken at once. -/
theorem State.trap_of_no_results (s : State) (i : Instr) (c : Word) (hr : (s.unit s.cur).results = []) :
    s.trap i c = s.enterHandler s.cur c (s.unit s.cur).pc (firstWord i) := by
  simp [State.trap, hr, State.takeTrap]

/-- Where the unit can enter its handler, a trap changes the unit alone. -/
theorem State.trap_of_entry (s : State) (i : Instr) (c : Word) (entry : Nat)
    (he : (s.ctx (s.unit s.cur).ctx).trap = some entry) (hh : (s.unit s.cur).inHandler = false)
    (hr : (s.unit s.cur).results = []) (hp : (s.unit s.cur).park = .none) :
    s.trap i c = s.setUnit s.cur ((s.unit s.cur).trapped i c entry) := by
  rw [State.trap_of_no_results s i c hr, State.enterHandler_of_entry s s.cur c _ _ entry he hh hp]
  rfl

theorem TakesTrap.of_trap {s : State} {i : Instr} {c : Word} (hp : (s.unit s.cur).park = .none)
    (hx : exec i s = .next (s.trap i c)) : TakesTrap s i c := by
  unfold TakesTrap
  intro w entry he hh hr
  rw [UnitTo, hx, State.trap_of_entry s i c entry he hh hr hp]

/-- A trap that an instruction's effect raises: its unit is no longer held. -/
theorem TakesTrap.of_trap_unheld {s : State} {i : Instr} {c : Word} (hp : (s.unit s.cur).park = .none)
    (hx : exec i s = .next ((s.setUnit s.cur { s.unit s.cur with held := false }).trap i c)) : TakesTrap s i c := by
  unfold TakesTrap
  intro w entry he hh hr
  rw [UnitTo, hx, State.trap_of_entry _ i c entry] <;> simp only [State.cur_setUnit, State.unit_setUnit_same,
    State.ctx_setUnit, State.setUnit_setUnit]
  · rfl
  · exact he
  · exact hh
  · exact hr
  · exact hp

/-- What keeps the current unit from an instruction's effect, but for the checks at issue: it can be offered issue, no
trap of it waits, in a draw the instruction is of its rate, and it is not the replay of a leader's access. -/
structure Offers (s : State) (i : Instr) (h : Head) : Prop where
  ready : s.ready s.cur = true
  clear : (s.unit s.cur).trapNext = none
  head  : i.head? = some h
  rate  : (s.draw (s.unit s.cur).launch).live = true → h.rate = (s.unit s.cur).rate
  fresh : (s.unit s.cur).replaying = false

/-- Where nothing else keeps it, an instruction waits, or takes the first trap of the checks, or has its effect. -/
theorem State.issue_of_offers {s : State} {i : Instr} {h : Head} (e : State → State) (ho : Offers s i h) :
    s.issue i e =
      if s.mustWait (s.unit s.cur) h i then s.hold s.cur
      else match s.issueTrap (s.unit s.cur) h i with
        | some c => s.trap i c
        | none => e (s.setUnit s.cur { s.unit s.cur with held := false }) := by
  obtain ⟨hr, ht, hh, hq, hf⟩ := ho
  simp only [State.issue, hr, ht, hh, hf, Bool.not_true, Bool.false_eq_true, if_false]
  split
  next hc =>
    simp only [Bool.and_eq_true, decide_eq_true_eq] at hc
    exact absurd (hq hc.1) hc.2
  next => rfl

/-- Every wave instruction that meets a trap condition at issue takes the precise trap. -/
theorem takesTrap_of_issueTrap {s : State} {i : Instr} {h : Head} {c : Word} (ho : Offers s i h)
    (hw : s.mustWait (s.unit s.cur) h i = false) (hc : s.issueTrap (s.unit s.cur) h i = some c) : TakesTrap s i c := by
  obtain ⟨e, hx⟩ := exec_issues i h s ho.head
  rw [State.issue_of_offers e ho, hw, hc] at hx
  exact .of_trap (State.park_of_ready ho.ready) hx

/-! ## The order of the checks (spec 01 R18, spec 06 R104) -/

section checks

variable {s : State} {w : Wave} {h : Head} {i : Instr}

theorem State.issueTrap_of_tableCond {c : Cond} (ht : lowestCond (s.tableConds w i) = some c) :
    s.issueTrap w h i = some (causeRsv c) := by
  simp [State.issueTrap, ht]

variable (ht : lowestCond (s.tableConds w i) = none)
include ht

theorem State.issueTrap_of_range (hr : ∃ r ∈ i.vregs, w.nregs ≤ r) : s.issueTrap w h i = some causeRegRange := by
  have hany : (i.vregs.any fun r => w.nregs ≤ r) = true := by simpa using hr
  simp only [State.issueTrap, ht, hany, if_true]

/-- The checks after REG_RANGE, where no register is out of range. -/
theorem State.issueTrap_of_no_range (hr : ¬∃ r ∈ i.vregs, w.nregs ≤ r) :
    s.issueTrap w h i =
      if w.privileged i then some causePriv
      else if s.raisesRate w h i then some causeRate
      else if !h.gate && !i.asGated && i.vregs.any fun r => w.outstanding.contains r then some causeHazard
      else none := by
  have hany : (i.vregs.any fun r => w.nregs ≤ r) = false := by simpa using hr
  simp only [State.issueTrap, ht, hany, Bool.false_eq_true, if_false]

end checks

theorem hazard_iff (w : Wave) (h : Head) (i : Instr) :
    (!h.gate && !i.asGated && i.vregs.any fun r => w.outstanding.contains r) = true ↔
      h.gate = false ∧ i.asGated = false ∧ ∃ r ∈ i.vregs, r ∈ w.outstanding := by
  simp [and_assoc]

end Sys2Proof.Machine
end

section
/-!
SUPPORT. Words that are no instruction: the condition that %tcause reports, the offending bits of a first word, and
what the decoder answers for the formats of major 0x00, 0x01 and 0x02, of loads and of stores, and for unused majors
(spec 01 R19, spec 03 R46).
-/

namespace Sys2Proof

/-! ## The condition that %tcause reports -/

/-- A condition that is reported no later than another: one of the first word before one of the extension word, and
of the same word the lower bit (spec 01 R19). -/
def Cond.upTo (c e : Cond) : Prop := c.1 = false ∧ e.1 = true ∨ c.1 = e.1 ∧ c.2 ≤ e.2

theorem Cond.upTo_refl (c : Cond) : c.upTo c := .inr ⟨rfl, le_rfl⟩

theorem Cond.upTo_trans {c e d : Cond} (h : c.upTo e) (h' : e.upTo d) : c.upTo d := by
  unfold Cond.upTo at *
  rcases h with ⟨hc, he⟩ | ⟨hce, hle⟩ <;> rcases h' with ⟨he', hd⟩ | ⟨hed, hle'⟩
  · simp [he] at he'
  · exact .inl ⟨hc, hed ▸ he⟩
  · exact .inl ⟨hce.trans he', hd⟩
  · exact .inr ⟨hce.trans hed, hle.trans hle'⟩

/-- The first of two conditions is one of them, and no later than either. -/
theorem Cond.first_spec (c e : Cond) :
    (c.first e = c ∨ c.first e = e) ∧ (c.first e).upTo c ∧ (c.first e).upTo e := by
  obtain ⟨cx, cb⟩ := c
  obtain ⟨ex, eb⟩ := e
  unfold Cond.first Cond.upTo
  by_cases hx : cx = ex
  · subst hx
    by_cases hb : cb ≤ eb
    · simp [hb]
    · simp [hb]
      omega
  · cases cx <;> cases ex <;> simp_all

theorem Cond.upTo_antisymm {c e : Cond} (h : c.upTo e) (h' : e.upTo c) : c = e := by
  unfold Cond.upTo at *
  obtain ⟨cx, cb⟩ := c
  obtain ⟨ex, eb⟩ := e
  cases cx <;> cases ex <;> simp_all <;> omega

theorem lowestCond_eq_none {cs : List Cond} : lowestCond cs = none ↔ cs = [] := by
  cases cs with
  | nil => simp [lowestCond]
  | cons c cs =>
    simp only [lowestCond]
    split <;> simp

/-- The condition reported is the one that no other condition precedes. -/
theorem lowestCond_spec {cs : List Cond} {m : Cond} (h : lowestCond cs = some m) :
    m ∈ cs ∧ ∀ c ∈ cs, m.upTo c := by
  induction cs generalizing m with
  | nil => cases h
  | cons c cs ih =>
    simp only [lowestCond] at h
    split at h
    next hn =>
      cases h
      simp [lowestCond_eq_none.mp hn, Cond.upTo_refl]
    next e he =>
      cases h
      obtain ⟨hmem, hle⟩ := ih he
      obtain ⟨hor, hc, h'⟩ := c.first_spec e
      refine ⟨?_, fun d hd => ?_⟩
      · rcases hor with hor | hor <;> simp [hor, hmem]
      · rcases List.mem_cons.mp hd with rfl | hd
        · exact hc
        · exact Cond.upTo_trans h' (hle d hd)

theorem lowestCond_eq_some {cs : List Cond} {m : Cond} (hm : m ∈ cs) (hle : ∀ c ∈ cs, m.upTo c) :
    lowestCond cs = some m := by
  cases h : lowestCond cs with
  | none => simp [lowestCond_eq_none.mp h] at hm
  | some e =>
    obtain ⟨he, hle'⟩ := lowestCond_spec h
    rw [Cond.upTo_antisymm (hle' m hm) (hle e he)]

/-! ## Offending bits of a first word -/

/-- Conditions of the first word are at bits of a list, and at each bit of the list or below it there is one: of a field
that must be zero only the lowest bit that is set has a condition. -/
structure Reports (cs : List Cond) (ks : List Nat) : Prop where
  sound : ∀ c ∈ cs, c.1 = false ∧ c.2 ∈ ks
  covers : ∀ k ∈ ks, ∃ j ≤ k, (false, j) ∈ cs

theorem Reports.append {cs cs' : List Cond} {ks ks' : List Nat} (h : Reports cs ks) (h' : Reports cs' ks') :
    Reports (cs ++ cs') (ks ++ ks') where
  sound c hc := by
    rcases List.mem_append.mp hc with hc | hc
    · exact (h.sound c hc).imp_right (List.mem_append_left _)
    · exact (h'.sound c hc).imp_right (List.mem_append_right _)
  covers k hk := by
    rcases List.mem_append.mp hk with hk | hk
    · obtain ⟨j, hj, hm⟩ := h.covers k hk
      exact ⟨j, hj, List.mem_append_left _ hm⟩
    · obtain ⟨j, hj, hm⟩ := h'.covers k hk
      exact ⟨j, hj, List.mem_append_right _ hm⟩

theorem Reports.congr {cs : List Cond} {ks ks' : List Nat} (h : Reports cs ks) (he : ∀ k, k ∈ ks' ↔ k ∈ ks) :
    Reports cs ks' :=
  ⟨fun c hc => (h.sound c hc).imp_right (he c.2).mpr, fun k hk => h.covers k ((he k).mp hk)⟩

theorem Reports.nil : Reports [] [] := ⟨by simp, by simp⟩

theorem Reports.single (k : Nat) : Reports [(false, k)] [k] := ⟨by simp, by simp⟩

theorem Reports.condIf {p : Bool} {P : Prop} [Decidable P] (k : Nat) (h : p = true ↔ P) :
    Reports (condIf p (false, k)) (if P then [k] else []) := by
  unfold Sys2Proof.condIf
  by_cases hP : P
  · simpa [h.mpr hP, hP] using Reports.single k
  · simpa [Bool.eq_false_iff.mpr (mt h.mp hP), hP] using Reports.nil

theorem Reports.eq_nil {cs : List Cond} (h : Reports cs []) : cs = [] :=
  List.eq_nil_iff_forall_not_mem.mpr fun c hc => List.not_mem_nil (h.sound c hc).2

theorem Reports.ite {cs : List Cond} {ks : List Nat} {p : Bool} {P : Prop} [Decidable P] (h : p = true ↔ P)
    (hr : Reports cs ks) : Reports (if p then [] else cs) (if P then [] else ks) := by
  by_cases hP : P
  · simpa [h.mpr hP, hP] using Reports.nil
  · simpa [Bool.eq_false_iff.mpr (mt h.mp hP), hP] using hr

/-! ## Fields that must be zero -/

/-- The bits of a number that are set in a field, from the lowest up. -/
def setBits (n lo len : Nat) : List Nat := ((List.range len).map (· + lo)).filter fun k => n.testBit k

theorem mem_setBits {n lo len k : Nat} : k ∈ setBits n lo len ↔ lo ≤ k ∧ k < lo + len ∧ n.testBit k = true := by
  simp only [setBits, List.mem_filter, List.mem_map, List.mem_range]
  constructor
  · rintro ⟨⟨j, hj, rfl⟩, hk⟩
    exact ⟨by omega, by omega, hk⟩
  · rintro ⟨h1, h2, hk⟩
    exact ⟨⟨k - lo, by omega, by omega⟩, hk⟩

/-- Of a number of at most so many bits that is not 0, the lowest set bit. -/
theorem lowestSet_spec {k n : Nat} (hn : n ≠ 0) (hk : n < 2 ^ k) :
    n.testBit (lowestSet n k) = true ∧ ∀ j, n.testBit j = true → lowestSet n k ≤ j := by
  induction k generalizing n with
  | zero => omega
  | succ k ih =>
    unfold lowestSet
    by_cases h : n % 2 = 1
    · simp [h, Nat.testBit_zero]
    · simp only [h, if_false]
      obtain ⟨ht, hle⟩ := ih (n := n / 2) (by omega) (by omega)
      rw [Nat.add_comm 1]
      refine ⟨by rwa [Nat.testBit_succ], fun j hj => ?_⟩
      cases j with
      | zero => simp [Nat.testBit_zero, h] at hj
      | succ j =>
        rw [Nat.testBit_succ] at hj
        exact Nat.succ_le_succ (hle j hj)

theorem testBit_bits (n lo len j : Nat) : (bits n lo len).testBit j = (decide (j < len) && n.testBit (lo + j)) := by
  rw [bits, Nat.testBit_mod_two_pow, Nat.testBit_div_two_pow, Nat.add_comm]

theorem Reports.mustZero (n lo len : Nat) (hlen : len ≤ 64) :
    Reports (mustZero false lo (bits n lo len)) (setBits n lo len) := by
  unfold Sys2Proof.mustZero
  by_cases h0 : bits n lo len = 0
  · rw [if_pos h0]
    refine ⟨by simp, fun k hk => ?_⟩
    obtain ⟨h1, h2, hb⟩ := mem_setBits.mp hk
    have := testBit_bits n lo len (k - lo)
    rw [h0, Nat.add_sub_cancel' h1, hb] at this
    simp at this
    omega
  · rw [if_neg h0]
    have hlt : bits n lo len < 2 ^ 64 :=
      lt_of_lt_of_le (Nat.mod_lt _ (Nat.two_pow_pos _)) (Nat.pow_le_pow_right (by omega) hlen)
    obtain ⟨ht, hle⟩ := lowestSet_spec h0 hlt
    rw [testBit_bits, Bool.and_eq_true, decide_eq_true_eq] at ht
    refine ⟨fun c hc => ?_, fun k hk => ?_⟩
    · rw [List.mem_singleton.mp hc]
      exact ⟨rfl, mem_setBits.mpr ⟨by omega, by omega, ht.2⟩⟩
    · obtain ⟨h1, h2, hb⟩ := mem_setBits.mp hk
      have := hle (k - lo) (by rw [testBit_bits, Nat.add_sub_cancel' h1, hb]; simp; omega)
      exact ⟨_, by omega, List.mem_singleton.mpr rfl⟩

theorem foldl_min_spec (ks : List Nat) (m : Nat) :
    (ks.foldl min m = m ∨ ks.foldl min m ∈ ks) ∧ ks.foldl min m ≤ m ∧ ∀ k ∈ ks, ks.foldl min m ≤ k := by
  induction ks generalizing m with
  | nil => simp
  | cons k ks ih =>
    obtain ⟨h1, h2, h3⟩ := ih (min m k)
    simp only [List.foldl_cons, List.mem_cons, forall_eq_or_imp]
    refine ⟨?_, by omega, by omega, h3⟩
    rcases h1 with h1 | h1
    · rw [h1]; omega
    · exact .inr (.inr h1)

/-- Where a bit of the first word offends, the lowest of them is reported, whatever offends in the extension word. -/
theorem Reports.lowestCond_append {cs xs : List Cond} {ks : List Nat} (h : Reports cs ks) (hne : ks ≠ [])
    (h63 : ∀ k ∈ ks, k ≤ 63) (hx : ∀ c ∈ xs, c.1 = true) :
    lowestCond (cs ++ xs) = some (false, ks.foldl min 63) := by
  obtain ⟨hm, hle, hall⟩ := foldl_min_spec ks 63
  have hmem : ks.foldl min 63 ∈ ks := by
    rcases hm with hm | hm
    · obtain ⟨k, hk⟩ := List.exists_mem_of_ne_nil ks hne
      have h1 := hall k hk
      have h2 := h63 k hk
      rw [show ks.foldl min 63 = k by omega]
      exact hk
    · exact hm
  obtain ⟨j, hj, hin⟩ := h.covers _ hmem
  have hjm : ks.foldl min 63 = j := le_antisymm (hall j (h.sound _ hin).2) hj
  refine lowestCond_eq_some (hjm ▸ List.mem_append_left _ hin) fun c hc => ?_
  rcases List.mem_append.mp hc with hc | hc
  · exact .inr ⟨(h.sound c hc).1.symm, hall c.2 (h.sound c hc).2⟩
  · exact .inl ⟨rfl, hx c hc⟩

theorem Reports.lowestCond {cs : List Cond} {ks : List Nat} (h : Reports cs ks) (hne : ks ≠ [])
    (h63 : ∀ k ∈ ks, k ≤ 63) : lowestCond cs = some (false, ks.foldl min 63) := by
  simpa using h.lowestCond_append (xs := []) hne h63 (by simp)

/-! ## Words that do not decode (spec 03 R46) -/

theorem bit_eq_testBit (n k : Nat) : bit n k = n.testBit k := by
  rw [bit, Nat.testBit_eq_decide_div_mod_eq]

/-- The major of a first word is its top six bits. -/
theorem major_eq (w : DWord) : bits w.toNat 58 6 = w.toNat / 2 ^ 58 := by
  have := w.isLt
  unfold bits
  omega

/-- The extension of a first word, where it has one. -/
def extOf (w next : DWord) : Option Nat := if hasExt w then some next.toNat else none

theorem decode_of_reserved_major {w next : DWord} (h : 0x38 ≤ bits w.toNat 58 6) :
    decode w next = .error .illegalOp := by
  simp [decode, decodeWith, h]

theorem decode_of_lowestCond {w next : DWord} {c : Cond} (h : bits w.toNat 58 6 < 0x38)
    (hc : lowestCond (decodeParts w.toNat (extOf w next)).1 = some c) : decode w next = .error (.rsvField c) := by
  unfold extOf at hc
  simp [decode, decodeWith, not_le.mpr h, hc]

theorem decode_of_no_conds {w next : DWord} {i : Instr} (h : bits w.toNat 58 6 < 0x38)
    (hc : (decodeParts w.toNat (extOf w next)).1 = []) (hi : (decodeParts w.toNat (extOf w next)).2 = some i) :
    decode w next = .ok i := by
  unfold extOf at hc hi
  simp [decode, decodeWith, not_le.mpr h, hc, hi, lowestCond]

/-- The majors that no instruction uses (spec 03 R46, R60). -/
def unusedMajors : List Nat :=
  [0x04, 0x05, 0x06, 0x07, 0x09, 0x0A, 0x0B, 0x10, 0x11, 0x12, 0x13, 0x14, 0x15, 0x16, 0x17, 0x1C,
    0x1D, 0x1E, 0x1F, 0x20, 0x21, 0x24, 0x25, 0x2D]

theorem decodeParts_of_unused_major {n : Nat} (ext : Option Nat) (h : bits n 58 6 ∈ unusedMajors) :
    decodeParts n ext = ([(false, 58)], none) := by
  unfold decodeParts
  generalize bits n 58 6 = m at h
  fin_cases h <;> rfl

theorem decodeParts_control {n : Nat} (ext : Option Nat) (h : bits n 58 6 = 0x00) :
    decodeParts n ext = decodeControl n ext := by simp [decodeParts, h]

theorem decodeParts_branch {n : Nat} (ext : Option Nat) (h : bits n 58 6 = 0x01) :
    decodeParts n ext = decodeBranch n ext := by simp [decodeParts, h]

theorem decodeParts_fork {n : Nat} (ext : Option Nat) (h : bits n 58 6 = 0x02) :
    decodeParts n ext = decodeFork n ext := by simp [decodeParts, h]

theorem decodeParts_ld {n : Nat} (ext : Option Nat) (h : bits n 58 6 = 0x26) :
    decodeParts n ext = decodeMem .ld .LD n ext := by simp [decodeParts, h]

theorem decodeParts_st {n : Nat} (ext : Option Nat) (h : bits n 58 6 = 0x27) :
    decodeParts n ext = decodeMem .st .ST n ext := by simp [decodeParts, h]

/-- An unused minor of major 0x00 (log entry 99). -/
theorem decodeControl_of_unused_minor {n : Nat} (ext : Option Nat) (h : 0x0B ≤ bits n 38 6) :
    decodeControl n ext = (mustZero false 0 (bits n 0 38) ++ [(false, 38)], none) := by
  simp only [decodeControl]
  split
  case h_12 => rfl
  all_goals omega

/-- An unused minor of major 0x01 (log entry 99). -/
theorem decodeBranch_of_unused_minor {n : Nat} (ext : Option Nat) (h : 5 ≤ bits n 40 4) :
    decodeBranch n ext = (mustZero false 0 (bits n 0 40) ++ [(false, 40)], none) := by
  simp only [decodeBranch]
  split
  case h_6 => rfl
  all_goals omega

theorem toNat_bit (n k : Nat) : (bit n k).toNat = n / 2 ^ k % 2 := by
  unfold bit
  rcases Nat.mod_two_eq_zero_or_one (n / 2 ^ k) with h | h <;> simp [h]

/-- The guard field of a head is bits 53:49 of its word (spec 08 R133). -/
theorem noGuardConds_headOf (n : Nat) : noGuardConds (headOf n) = mustZero false 49 (bits n 49 5) := by
  unfold noGuardConds headOf
  congr 1
  simp only [BitVec.toNat_ofNat, toNat_bit, bits]
  omega

/-- The offending bits of a fork's first word (spec 03 R56, spec 08 R135). -/
def forkOffends (n : Nat) : List Nat := setBits n 0 16 ++ setBits n 49 5 ++ if n.testBit 48 then [] else [48]

theorem reports_fork (n : Nat) (ext : Option Nat) (hext : ext.isSome = n.testBit 48) :
    Reports (noGuardConds (headOf n) ++ mustZero false 0 (bits n 0 16) ++ condIf ext.isNone (false, 48))
      (forkOffends n) := by
  have h48 : Reports (condIf ext.isNone (false, 48)) (if ¬n.testBit 48 = true then [48] else []) :=
    .condIf 48 (by simp [← hext])
  rw [noGuardConds_headOf]
  refine (((Reports.mustZero n 49 5 (by omega)).append (.mustZero n 0 16 (by omega))).append h48).congr fun k => ?_
  simp only [forkOffends, List.mem_append, ite_not]
  tauto

theorem isSome_extOf (w next : DWord) : (extOf w next).isSome = w.toNat.testBit 48 := by
  rw [← bit_eq_testBit]
  unfold extOf hasExt
  split <;> simp_all

/-! ## Loads and stores (spec 03 R51) -/

/-- index and scl are one field of nine bits, which must be zero with idx clear. -/
theorem reports_idx (n : Nat) (ext : Option Nat) :
    Reports (idxConds (memRawOf n ext)) (if n.testBit 28 then [] else setBits n 19 9) := by
  have hf : (memRawOf n ext).index * 2 + (memRawOf n ext).scl.toNat = bits n 19 9 := by
    simp only [memRawOf, toNat_bit, bits]
    omega
  unfold idxConds
  rw [hf]
  exact .ite (by simp [memRawOf, bit_eq_testBit]) (.mustZero n 19 9 (by omega))

theorem setBits_one (n k : Nat) : setBits n k 1 = if n.testBit k = true then [k] else [] := by
  simp [setBits, List.filter_cons]

/-- The offending bits of a load or a store (spec 01 R15, spec 03 R51). -/
def offends (n : Nat) : List Nat :=
  setBits n 8 1 ++ setBits n 48 1 ++ (if n.testBit 28 then [] else setBits n 19 9)
    ++ (if 5 ≤ bits n 16 3 then [16] else []) ++ (if bits n 14 2 = 0 then setBits n 9 5 else [])
    ++ (if bits n 14 2 = 3 ∨ n / 2 ^ 58 = 0x26 ∧ bits n 14 2 = 2 ∨ n / 2 ^ 58 = 0x27 ∧ bits n 14 2 = 1 then [14]
        else [])
    ++ (if bits n 16 3 = 3 ∧ bits n 36 8 % 2 = 1 ∨ bits n 16 3 = 4 ∧ (bits n 36 8 % 2 = 1 ∨ bits n 36 8 = 254) then [36]
        else [])

/-- The conditions of a load or a store, of which the one on its order is given. -/
theorem reports_mem (n : Nat) (ext : Option Nat) (hext : ext.isSome = n.testBit 48) {p : Bool}
    (hp : p = true ↔ bits n 14 2 = 3 ∨ n / 2 ^ 58 = 0x26 ∧ bits n 14 2 = 2 ∨ n / 2 ^ 58 = 0x27 ∧ bits n 14 2 = 1) :
    Reports (condIf (memRawOf n ext).mbz (false, 8) ++ idxConds (memRawOf n ext)
      ++ condIf ((memRawOf n ext).size > 4) (false, 16) ++ condIf p (false, 14)
      ++ condIf ((memRawOf n ext).size = 4 && (memRawOf n ext).data = 254) (false, 36)
      ++ condIf (((memRawOf n ext).size = 3 || (memRawOf n ext).size = 4) && (memRawOf n ext).data % 2 = 1) (false, 36)
      ++ (if (memRawOf n ext).order = 0 then mustZero false 9 (memRawOf n ext).obs else [])
      ++ condIf (memRawOf n ext).ext.isSome (false, 48)) (offends n) := by
  have hmbz : Reports (condIf (memRawOf n ext).mbz (false, 8)) (if n.testBit 8 = true then [8] else []) :=
    .condIf 8 (by simp [memRawOf, bit_eq_testBit])
  have hsize : Reports (condIf ((memRawOf n ext).size > 4) (false, 16)) (if 5 ≤ bits n 16 3 then [16] else []) :=
    .condIf 16 decide_eq_true_iff
  have hdata : Reports (condIf ((memRawOf n ext).size = 4 && (memRawOf n ext).data = 254) (false, 36)
      ++ condIf (((memRawOf n ext).size = 3 || (memRawOf n ext).size = 4) && (memRawOf n ext).data % 2 = 1) (false, 36))
      (if bits n 16 3 = 3 ∧ bits n 36 8 % 2 = 1 ∨ bits n 16 3 = 4 ∧ (bits n 36 8 % 2 = 1 ∨ bits n 36 8 = 254) then [36]
        else []) := by
    refine (Reports.append (.condIf (P := bits n 16 3 = 4 ∧ bits n 36 8 = 254) 36 ?_)
      (.condIf (P := (bits n 16 3 = 3 ∨ bits n 16 3 = 4) ∧ bits n 36 8 % 2 = 1) 36 ?_)).congr fun k => ?_
    · unfold memRawOf; simp
    · unfold memRawOf; simp
    · simp only [List.mem_append, List.mem_ite_nil_right, List.mem_singleton]
      tauto
  have hobs : Reports (if (memRawOf n ext).order = 0 then mustZero false 9 (memRawOf n ext).obs else [])
      (if bits n 14 2 = 0 then setBits n 9 5 else []) := by
    by_cases h : bits n 14 2 = 0
    · simpa [memRawOf, h] using Reports.mustZero n 9 5 (by omega)
    · simpa [memRawOf, h] using Reports.nil
  have hext' : Reports (condIf (memRawOf n ext).ext.isSome (false, 48)) (if n.testBit 48 = true then [48] else []) :=
    .condIf 48 (by simp [memRawOf, hext])
  have hfields := (((hmbz.append (reports_idx n ext)).append hsize).append (.condIf 14 hp)).append hdata
  have h := ((hfields.append hobs).append hext').congr (ks' := offends n) fun k => by
    simp only [offends, setBits_one, List.mem_append]
    apply Iff.of_eq
    ac_rfl
  simpa only [List.append_assoc] using h

theorem reports_ld (n : Nat) (ext : Option Nat) (hext : ext.isSome = n.testBit 48) (hn : n / 2 ^ 58 = 0x26) :
    Reports (memConds .ld (memRawOf n ext)) (offends n) := by
  have hlt : bits n 14 2 < 4 := Nat.mod_lt _ (by omega)
  exact reports_mem n ext hext (p := (memRawOf n ext).order > 1) (by unfold memRawOf; simp; omega)

theorem reports_st (n : Nat) (ext : Option Nat) (hext : ext.isSome = n.testBit 48) (hn : n / 2 ^ 58 = 0x27) :
    Reports (memConds .st (memRawOf n ext)) (offends n) :=
  reports_mem n ext hext (p := (memRawOf n ext).order = 1 || (memRawOf n ext).order = 3)
    (by unfold memRawOf; simp; omega)

theorem offends_le {n k : Nat} (h : k ∈ offends n) : k ≤ 63 := by
  simp only [offends, List.mem_append, List.mem_ite_nil_right, List.mem_ite_nil_left, mem_setBits,
    List.mem_singleton] at h
  omega

/-- Where no bit offends, the size of a memory word is not reserved, and it has typed fields. -/
theorem typed_of_offends_nil {n : Nat} (ext : Option Nat) (h : offends n = []) :
    ∃ f, (memRawOf n ext).typed = some f := by
  have hs : bits n 16 3 < 5 := by
    by_contra hs
    have : 16 ∈ offends n := by simp [offends, not_lt.mp hs]
    simp [h] at this
  have : ∃ z, Size.ofCode (memRawOf n ext).size = some z := by
    simp only [memRawOf]
    generalize bits n 16 3 = m at hs
    interval_cases m <;> exact ⟨_, rfl⟩
  obtain ⟨z, hz⟩ := this
  exact ⟨_, by rw [MemRaw.typed, hz]; rfl⟩

/-- A load or a store reports its lowest offending bit, and is an instruction where it has none. -/
theorem decode_mem {w next : DWord} {op : MemOp} {mk : Head → MemF → Instr} (hlt : bits w.toNat 58 6 < 0x38)
    (hd : decodeParts w.toNat (extOf w next) = decodeMem op mk w.toNat (extOf w next))
    (hr : Reports (memConds op (memRawOf w.toNat (extOf w next))) (offends w.toNat)) :
    (offends w.toNat ≠ [] → decode w next = .error (.rsvField (false, (offends w.toNat).foldl min 63))) ∧
      (offends w.toNat = [] → ∃ i, decode w next = .ok i) := by
  refine ⟨fun hne => decode_of_lowestCond hlt ?_, fun hnil => ?_⟩
  · rw [hd]
    exact hr.lowestCond hne fun k => offends_le
  · obtain ⟨f, hf⟩ := typed_of_offends_nil (extOf w next) hnil
    rw [hnil] at hr
    exact ⟨mk (headOf w.toNat) f, decode_of_no_conds hlt (by rw [hd]; exact hr.eq_nil) (by
      rw [hd, decodeMem, hf]; rfl)⟩

/-! ## Forks -/

theorem forkOffends_le {n k : Nat} (h : k ∈ forkOffends n) : k ≤ 63 := by
  simp only [forkOffends, List.mem_append, List.mem_ite_nil_left, mem_setBits, List.mem_singleton] at h
  omega

/-- A fork reports its lowest offending bit, one of the extension word only where the first word has none. -/
theorem decode_fork {w next : DWord} (h : bits w.toNat 58 6 = 0x02) :
    (forkOffends w.toNat ≠ [] →
      decode w next = .error (.rsvField (false, (forkOffends w.toNat).foldl min 63))) ∧
    (forkOffends w.toNat = [] → 2 ^ 32 ≤ next.toNat → decode w next = .error (.rsvField (true, 32))) ∧
    (forkOffends w.toNat = [] → next.toNat < 2 ^ 32 → ∃ i, decode w next = .ok i) := by
  have hlt : bits w.toNat 58 6 < 0x38 := by omega
  have hr := reports_fork w.toNat (extOf w next) (isSome_extOf w next)
  have hp := decodeParts_fork (extOf w next) h
  have hext : forkOffends w.toNat = [] → (extOf w next).getD 0 = next.toNat := fun hnil => by
    have h48 : w.toNat.testBit 48 = true := by
      by_contra h48
      have : 48 ∈ forkOffends w.toNat := by simp [forkOffends, h48]
      simp [hnil] at this
    simp [extOf, hasExt, bit_eq_testBit, h48]
  refine ⟨fun hne => decode_of_lowestCond hlt ?_, fun hnil hn => decode_of_lowestCond hlt ?_, fun hnil hn => ?_⟩
  · rw [hp]
    refine hr.lowestCond_append hne (fun k => forkOffends_le) fun c hc => ?_
    unfold condIf at hc
    split at hc <;> simp_all
  · rw [hp]
    have hne : next.toNat / 2 ^ 32 ≠ 0 := by omega
    simp only [decodeFork, hext hnil]
    rw [(hr.congr (ks' := []) (by simp [hnil])).eq_nil]
    simp only [condIf, hne, ne_eq, not_false_eq_true, decide_true, if_true, List.nil_append]
    rfl
  · have h0 : next.toNat / 2 ^ 32 = 0 := by omega
    refine ⟨_, decode_of_no_conds hlt ?_ (by rw [hp]; rfl)⟩
    rw [hp]
    simp only [decodeFork, hext hnil]
    rw [(hr.congr (ks' := []) (by simp [hnil])).eq_nil]
    simp only [condIf, h0, ne_eq, not_true_eq_false, decide_false, Bool.false_eq_true, if_false, List.nil_append]

/-! ## Unused majors and minors -/

theorem decode_of_unused_major {w next : DWord} (h : bits w.toNat 58 6 ∈ unusedMajors) :
    decode w next = .error (.rsvField (false, 58)) := by
  have hlt : bits w.toNat 58 6 < 0x38 := by
    generalize bits w.toNat 58 6 = m at h
    fin_cases h <;> decide
  exact decode_of_lowestCond hlt (by rw [decodeParts_of_unused_major _ h]; rfl)

/-- A field that must be zero below a bit that offends in any case: the bits of an unused minor. -/
theorem decode_of_unused_minor {w next : DWord} {len : Nat} (hlen : len ≤ 63) (hlt : bits w.toNat 58 6 < 0x38)
    (h : decodeParts w.toNat (extOf w next) = (mustZero false 0 (bits w.toNat 0 len) ++ [(false, len)], none)) :
    decode w next = .error (.rsvField (false, (setBits w.toNat 0 len ++ [len]).foldl min 63)) := by
  refine decode_of_lowestCond hlt ?_
  rw [h]
  refine ((Reports.mustZero w.toNat 0 len (by omega)).append (.single len)).lowestCond (by simp) fun k hk => ?_
  simp only [List.mem_append, mem_setBits, List.mem_singleton] at hk
  omega

end Sys2Proof
end

section
/-!
SUPPORT. What the operations of the memory system leave as it was: the work, the cores, the contexts and the agenda.
-/

namespace Sys2Proof.Machine

open Sys2Proof

/-- The parts of the state that the memory system does not write: an access, a fill or a write at a home slice
changes the caches, the firmware's events, the stamps and the free values alone. -/
def State.outside (s : State) : WorkState × AMap Core × AMap Ctx × List Turn × Nat × Nat :=
  (s.work, s.cores, s.ctxs, s.agenda, s.cur, s.curMsq)

theorem State.outside_foldl {α : Type} (f : State → α → State) (hf : ∀ s x, (f s x).outside = s.outside)
    (xs : List α) (s : State) : (xs.foldl f s).outside = s.outside := by
  induction xs generalizing s with
  | nil => rfl
  | cons x xs ih => exact (ih (f s x)).trans (hf s x)

/-- A state that an operation answers in a pair. -/
theorem State.outside_of_eq {α : Type} {p : α × State} {a : α} {s t : State} (h : p = (a, t))
    (hp : p.2.outside = s.outside) : t.outside = s.outside := by
  rw [← hp, h]

section parts

variable (s : State)

@[simp] theorem State.outside_tell (e : FwEvent) : (s.tell e).outside = s.outside := rfl
@[simp] theorem State.outside_stamp : s.stamp.2.outside = s.outside := rfl
@[simp] theorem State.outside_fresh : s.fresh.2.outside = s.outside := rfl
@[simp] theorem State.outside_setSlice (n : Nat) (v : Slice) : (s.setSlice n v).outside = s.outside := rfl
@[simp] theorem State.outside_setDie (n : Nat) (v : Die) : (s.setDie n v).outside = s.outside := rfl
@[simp] theorem State.outside_writePhys (pa : Nat) (bs : List Byte) : (s.writePhys pa bs).outside = s.outside := rfl
@[simp] theorem State.outside_writeFrame (pa : Nat) (l : Line) : (s.writeFrame pa l).outside = s.outside := rfl
@[simp] theorem State.outside_retag (asid page level : Nat) (e : DWord) :
    (s.retag asid page level e).outside = s.outside := rfl
@[simp] theorem State.outside_soil (asid va n : Nat) : (s.soil asid va n).outside = s.outside := rfl
@[simp] theorem State.outside_sendWake (sl : Nat) (e : MonEntry) (status : Nat) :
    (s.sendWake sl e status).outside = s.outside := rfl
@[simp] theorem State.outside_raiseFault (who : Waiter) (asid va : Nat) (c : DFault) (why : Absence) (write : Bool) :
    (s.raiseFault who asid va c why write).2.outside = s.outside := rfl
@[simp] theorem State.outside_forget (p : Waiter → Bool) : (s.forget p).outside = s.outside := rfl
@[simp] theorem State.outside_dropPeer (id : Nat) : (s.dropPeer id).outside = s.outside := rfl

@[simp] theorem State.outside_writeChannel (pa : Nat) (bs : List Byte) :
    (s.writeChannel pa bs).outside = s.outside := by
  unfold State.writeChannel
  split <;> rfl

@[simp] theorem State.outside_homeDie (core : Option Nat) (asid va : Nat) :
    (s.homeDie core asid va).2.outside = s.outside := by
  simp only [State.homeDie]
  split
  · rfl
  · cases core <;> dsimp only <;> split <;> rfl

@[simp] theorem State.outside_tellHome (asid va : Nat) : (s.tellHome asid va).outside = s.outside :=
  s.outside_homeDie _ _ _

@[simp] theorem State.outside_cacheLeaf (u : Nat) (t : TransUnit) (key : Nat) (e : DWord) (pa : Nat) :
    (s.cacheLeaf u t key e pa).outside = s.outside := by
  unfold State.cacheLeaf
  split <;> rfl

@[simp] theorem State.outside_translate (d asid va : Nat) : (s.translate d asid va).2.outside = s.outside := by
  unfold State.translate
  rcases s.lookup d asid va with ⟨_ | _, seen⟩
  · exact s.outside_cacheLeaf _ _ _ _ _
  · rfl

@[simp] theorem State.outside_putLine (sl : Nat) (l : Line) : (s.putLine sl l).outside = s.outside := by
  simp only [State.putLine]
  split
  · rfl
  · split <;> rfl

@[simp] theorem State.outside_dropLine (sl asid line : Nat) : (s.dropLine sl asid line).outside = s.outside := by
  simp only [State.dropLine]
  split <;> rfl

@[simp] theorem State.outside_checkPool (d : Nat) : (s.checkPool d).outside = s.outside := by
  unfold State.checkPool
  split <;> rfl

@[simp] theorem State.outside_tellStays (sl line : Nat) : (s.tellStays sl line).outside = s.outside := by
  simp only [State.tellStays]
  split
  · rfl
  · exact State.outside_foldl _ (fun t (l : Line) => t.outside_tell (.writeBack l.asid (l.va * 128))) _ s

@[simp] theorem State.outside_addStall (place : StallAt) (asid va : Nat) (who : Waiter) (write : Bool)
    (inst : DWord) : (s.addStall place asid va who write inst).outside = s.outside := by
  simp only [State.addStall]
  split <;> rfl

end parts

/-! ## Fills -/

theorem State.outside_assignFrame {s t : State} {sl : Nat} {l : Line} {level : Nat} {e : DWord} {pa f : Nat}
    (h : s.assignFrame sl l level e pa = some (f, t)) : t.outside = s.outside := by
  simp only [State.assignFrame] at h
  split at h
  · cases h
  · cases h
    simp

theorem State.outside_evict {s t : State} {sl : Nat} {l : Line} {how : Leave} (h : s.evict sl l how = some t) :
    t.outside = s.outside := by
  unfold State.evict at h
  split at h
  · cases h; simp
  · cases h; simp
  · cases h
  · split at h
    next hf =>
      cases h
      simp [State.outside_assignFrame hf]
    next =>
      simp only at h
      split at h
      · cases h; simp
      · cases h

theorem State.outside_makeRoom {s t : State} {sl line : Nat} (h : s.makeRoom sl line = some t) :
    t.outside = s.outside := by
  simp only [State.makeRoom] at h
  split at h
  · cases h; rfl
  · split at h
    · exact State.outside_evict h
    · cases h

section access

variable (s : State)

@[simp] theorem State.outside_allocate (sl : Nat) (l : Line) : (s.allocate sl l).2.outside = s.outside := by
  simp only [State.allocate]
  split
  next => simp
  next hr => exact (State.outside_makeRoom hr).trans (s.outside_tellStays sl l.va)

@[simp] theorem State.outside_fill (sl : Nat) (q : Req) : (s.fill sl q).2.outside = s.outside := by
  simp only [State.fill]
  rcases ht : s.translate (s.dieOfSlice sl) (tagAsid q.asid q.va) (q.va / 128 * 128) with ⟨_ | _, t⟩
  all_goals have h := State.outside_of_eq ht (s.outside_translate _ _ _)
  · dsimp only
    split_ifs <;> simp [h]
  · exact h

@[simp] theorem State.outside_access (q : Req) : (s.access q).2.outside = s.outside := by
  simp only [State.access]
  split
  · rfl
  split
  · rfl
  rcases hd : s.homeDie q.core (tagAsid q.asid q.va) q.va with ⟨d, t⟩
  have h := State.outside_of_eq hd (s.outside_homeDie _ _ _)
  dsimp only
  split
  · split
    · exact h
    · split
      · exact h
      · rw [State.outside_putLine]
        exact h
  · exact (t.outside_fill _ q).trans h

/-! ## Reads, writes and the monitor -/

@[simp] theorem State.outside_blurFrom (asid va : Nat) (bs : List Byte) :
    (s.blurFrom asid va bs).2.outside = s.outside := by
  induction bs generalizing s va with
  | nil => rfl
  | cons b bs ih =>
    simp only [State.blurFrom]
    split
    · exact ih _ _
    · exact ih _ _

@[simp] theorem State.outside_blur (asid va : Nat) (bs : List Byte) :
    (s.blur asid va bs).2.outside = s.outside := by
  unfold State.blur
  split
  · exact s.outside_blurFrom _ _ _
  · rfl

@[simp] theorem State.outside_lineBytesAt (q : Req) (l : Line) (n : Nat) :
    (s.lineBytesAt q l n).2.outside = s.outside := s.outside_blur _ _ _

@[simp] theorem State.outside_tellLocal (pa n : Nat) : (s.tellLocal pa n).outside = s.outside := by
  refine State.outside_foldl _ (fun t c => ?_) _ s
  split
  · exact t.outside_tellHome _ _
  · rfl

@[simp] theorem State.outside_localPatch (pa : Nat) (bs : List Byte) :
    (s.localPatch pa bs).outside = s.outside := by
  simp only [State.localPatch]
  split <;> simp

@[simp] theorem State.outside_clearSpill (sl : Nat) (p : Spill) : (s.clearSpill sl p).outside = s.outside := by
  simp [State.clearSpill]

@[simp] theorem State.outside_endAside (sl : Nat) (e : MonEntry) (status : Nat) :
    (s.endAside sl e status).outside = s.outside := rfl

@[simp] theorem State.outside_endEntries (sl status : Nat) (ends : MonEntry → Bool) :
    (s.endEntries sl status ends).outside = s.outside := by
  rw [State.endEntries, State.outside_foldl _ fun t e => t.outside_sendWake sl _ status]
  exact s.outside_setSlice _ _

@[simp] theorem State.outside_expireSpilled (sl : Nat) : (s.expireSpilled sl).outside = s.outside := by
  refine State.outside_foldl _ (fun t p => ?_) _ s
  rw [State.outside_endAside, State.outside_clearSpill]

@[simp] theorem State.outside_walk (sl : Nat) (ends : MonEntry → Bool) : (s.walk sl ends).outside = s.outside := by
  rw [State.walk, State.outside_expireSpilled]
  refine (State.outside_foldl _ (fun t p => ?_) _ _).trans (s.outside_setSlice _ _)
  rw [State.outside_endAside, State.outside_clearSpill]

@[simp] theorem State.outside_reevaluate (sl : Nat) (l : Line) (lo n : Nat) :
    (s.reevaluate sl l lo n).outside = s.outside := by
  simp only [State.reevaluate]
  split <;> simp

@[simp] theorem State.outside_writeLine (sl : Nat) (l : Line) (lo : Nat) (bs : List Byte) :
    (s.writeLine sl l lo bs).outside = s.outside := by
  simp [State.writeLine]

@[simp] theorem State.outside_askPeer (q : Req) (node : BitVec 22) (acc : PeerAcc) (obs : BitVec 5) :
    (s.askPeer q node acc obs).2.outside = s.outside := by
  unfold State.askPeer
  split
  · split <;> rfl
  · split <;> rfl

@[simp] theorem State.outside_peerAccess (q : Req) (node : BitVec 22) (acc : PeerAcc) (obs : BitVec 5) :
    (s.peerAccess q node acc obs).2.outside = s.outside := by
  unfold State.peerAccess
  rcases ha : s.askPeer q node acc obs with ⟨_ | _ | _, t⟩ <;>
    exact State.outside_of_eq ha (s.outside_askPeer _ _ _ _)

@[simp] theorem State.outside_writeHome (q : Req) (bs : List Byte) (obs : BitVec 5) :
    (s.writeHome q bs obs).2.outside = s.outside := by
  unfold State.writeHome
  rcases ha : s.access { q with w := true } with ⟨_ | _ | _ | _, t⟩ <;>
    have h := State.outside_of_eq ha (s.outside_access _) <;> simp [h]

@[simp] theorem State.outside_writePieces (q : Req) (obs : BitVec 5) (cs : List (Nat × Nat)) (bs : List Byte) :
    (s.writePieces q obs cs bs).2.outside = s.outside := by
  induction cs generalizing s bs with
  | nil => rfl
  | cons c cs ih =>
    obtain ⟨va, k⟩ := c
    simp only [State.writePieces]
    rcases ha : s.writeHome { q with va := va } (bs.take k) obs with ⟨_ | _ | _, t⟩ <;>
      have h := State.outside_of_eq ha (s.outside_writeHome _ _ _) <;> simp [h, ih]

@[simp] theorem State.outside_writeRange (q : Req) (bs : List Byte) (obs : BitVec 5) :
    (s.writeRange q bs obs).2.outside = s.outside := s.outside_writePieces _ _ _ _

/-- An atomic at its frame: what becomes of the home slice's copy first. -/
@[simp] theorem State.outside_atomFar (sl asid va pa n : Nat) (new : Nat → Nat) :
    (s.atomFar sl asid va pa n new).2.outside = s.outside := by
  simp only [State.atomFar]
  cases s.findLine sl asid (va / 128) with
  | none => 
    dsimp only
    split <;> simp
  | some l =>
    dsimp only
    split <;> simp <;> split <;> simp

@[simp] theorem State.outside_atomHere (q : Req) (n : Nat) (new : Nat → Nat) :
    (s.atomHere q n new).2.2.outside = s.outside := by
  simp only [State.atomHere]
  rcases hd : s.homeDie q.core (tagAsid q.asid q.va) q.va with ⟨d, t⟩
  have h := State.outside_of_eq hd (s.outside_homeDie _ _ _)
  dsimp only
  split
  next => exact (t.outside_atomFar _ _ _ _ _ _).trans h
  next =>
    rcases ha : t.access { q with r := true, w := true } with ⟨_ | _ | _ | _, v⟩ <;>
      have hv := (State.outside_of_eq ha (t.outside_access _)).trans h <;> simp [hv]

/-! ## Code -/

@[simp] theorem State.outside_codeLine (who : Waiter) (c ctx asid va : Nat) :
    (s.codeLine who c ctx asid va).2.outside = s.outside := by
  simp only [State.codeLine]
  split
  · rfl
  · rcases ha : s.access { core := some c, ctx := ctx, asid := asid, va := va / 128 * 128, x := true, who := who }
      with ⟨_ | _ | _ | _, t⟩
    all_goals have h := State.outside_of_eq ha (s.outside_access _)
    · dsimp only
      split
      · exact h
      · exact (t.outside_lineBytesAt _ _ _).trans h
    · exact (t.outside_peerAccess _ _ _ _).trans h
    · exact h
    · exact h

end access

end Sys2Proof.Machine
end

section
/-!
SUPPORT. What a fetch leaves as it was, the turn of a unit whose words do not decode, and the proof of O13 from these
and from the laws of issue and of words.
-/

namespace Sys2Proof.Machine

open Sys2Proof

/-! ## What a fetch leaves -/

section outside

variable {s t : State} (h : t.outside = s.outside)
include h

theorem State.work_of_outside : t.work = s.work := congrArg (·.1) h
theorem State.cores_of_outside : t.cores = s.cores := congrArg (·.2.1) h
theorem State.ctxs_of_outside : t.ctxs = s.ctxs := congrArg (·.2.2.1) h
theorem State.cur_of_outside : t.cur = s.cur := congrArg (·.2.2.2.2.1) h

theorem State.unit_of_outside (u : Nat) : t.unit u = s.unit u := by
  rw [State.unit, State.work_of_outside h, State.unit]

theorem State.ctx_of_outside (c : Nat) : t.ctx c = s.ctx c := by
  rw [State.ctx, State.ctxs_of_outside h, State.ctx]

theorem State.draw_of_outside (l : Nat) : t.draw l = s.draw l := by
  rw [State.draw, State.work_of_outside h, State.draw]

theorem State.outside_setUnit_congr (u : Nat) (w : Wave) : (t.setUnit u w).outside = (s.setUnit u w).outside := by
  unfold State.outside State.setUnit
  dsimp only
  rw [State.work_of_outside h, State.cores_of_outside h, State.ctxs_of_outside h, State.cur_of_outside h,
    show t.agenda = s.agenda from congrArg (·.2.2.2.1) h, show t.curMsq = s.curMsq from congrArg (·.2.2.2.2.2) h]

end outside

/-- A word that is fetched changes what its unit has taken ahead, and the memory system. -/
theorem State.fetchWord_ok {s t : State} {u va : Nat} {w : DWord} (h : s.fetchWord u va = (.ok w, none, t)) :
    ∃ a, t.outside = (s.setUnit u { s.unit u with ahead := a }).outside := by
  simp only [State.fetchWord] at h
  split at h
  next =>
    cases h
    exact ⟨_, rfl⟩
  next =>
    rcases hc : s.codeLine (.fetch u) (s.unit u).core (s.unit u).ctx (s.ctx (s.unit u).ctx).asid va with ⟨bs | _ | _, v⟩
    all_goals
      have hv := State.outside_of_eq hc (s.outside_codeLine _ _ _ _ _)
      rw [hc] at h
      dsimp only at h
    · refine ⟨(wordsFrom va bs).filter fun e => va < e.1, ?_⟩
      rw [← State.unit_of_outside hv u]
      split at h <;> cases h <;> exact State.outside_setUnit_congr hv u _
    · cases h
    · cases h

theorem State.fetchInstr_words {s v : State} {u : Nat} {w next : DWord} (h : s.fetchInstr u = (.words w next, v)) :
    ∃ a, v.outside = (s.setUnit u { s.unit u with ahead := a }).outside := by
  simp only [State.fetchInstr] at h
  split at h
  · cases h
  · cases h
  next w t hw =>
    obtain ⟨a, ht⟩ := State.fetchWord_ok hw
    split at h
    · cases h
      exact ⟨a, ht⟩
    · split at h
      · cases h
      · cases h
      next w' t' hw' =>
        cases h
        obtain ⟨b, hb⟩ := State.fetchWord_ok hw'
        refine ⟨b, hb.trans ?_⟩
        rw [State.outside_setUnit_congr ht, State.unit_of_outside ht]
        simp

section forget

variable (s : State) (p : Waiter → Bool)

@[simp] theorem State.cur_forget : (s.forget p).cur = s.cur := rfl
@[simp] theorem State.unit_forget (u : Nat) : (s.forget p).unit u = s.unit u := rfl
@[simp] theorem State.ctx_forget (c : Nat) : (s.forget p).ctx c = s.ctx c := rfl
@[simp] theorem State.draw_forget (l : Nat) : (s.forget p).draw l = s.draw l := rfl

end forget

/-! ## The turn of a unit whose words do not decode (spec 01 R16) -/

/-- What a turn of a unit begins with: it takes one cycle of its core, in which the unit was offered issue last. -/
theorem State.offer_eq (s : State) (u : Nat) :
    s.offer u =
      { (s.setCore (s.unit u).core
            { s.core (s.unit u).core with cycle := (s.core (s.unit u).core).cycle + 1 }).setUnit u
          { s.unit u with turnAt := (s.core (s.unit u).core).cycle + 1 } with cur := u } := by
  simp [State.offer, State.tickCore]

theorem State.unit_offer (s : State) (u : Nat) :
    (s.offer u).unit u = { s.unit u with turnAt := (s.core (s.unit u).core).cycle + 1 } := by
  rw [State.offer_eq]
  exact State.unit_setUnit_same _ _ _

/-- A turn of the first unit of a partition, outside a draw and with no trap that waits, fetches and runs. -/
theorem State.unitTurn_of_first {s : State} {u : Nat} (hr : s.ready u = true) (hf : s.isFirst u = true)
    (ht : (s.unit u).trapNext = none) (hl : (s.draw (s.unit u).launch).live = false) :
    s.unitTurn u = settleTurn (s.unit u).group (s.offer u).fetchAndRun := by
  have hl' : ((s.offer u).draw (s.unit u).launch).live = false := by
    rw [State.offer_eq]
    exact hl
  simp [State.unitTurn, hr, hf, State.unit_offer, ht, State.readBlock, State.drawSkip, hl']

/-- A unit whose fetched words do not decode takes its turn for the trap of the word. -/
theorem State.fetchAndRun_of_error {s v : State} {w next : DWord} {e : DecodeError}
    (h : s.fetchInstr s.cur = (.words w next, v)) (hc : v.cur = s.cur) (he : v.decodeFor s.cur w next = .error e) :
    s.fetchAndRun = .next ((v.forget fun p => p = .fetch s.cur).badWord w (DecodeError.cause e)) := by
  have hd : (v.forget fun p => p = .fetch v.cur).decodeFor v.cur w next = .error e := hc ▸ he
  simp only [State.fetchAndRun, h, State.runWords]
  rw [← hc]
  change (match (v.forget fun p => p = .fetch v.cur).decodeFor v.cur w next with | .ok i => _ | .error e => _) = _
  rw [hd]

/-- A word that is no instruction takes its trap where the unit can enter its handler. -/
theorem State.badWord_of_entry {s : State} (w : DWord) (c : Word) (entry : Nat)
    (hl : (s.draw (s.unit s.cur).launch).live = false)
    (he : (s.ctx (s.unit s.cur).ctx).trap = some entry) (hh : (s.unit s.cur).inHandler = false)
    (hr : (s.unit s.cur).results = []) (hp : (s.unit s.cur).park = .none) :
    s.badWord w c = s.setUnit s.cur
      { s.unit s.cur with tcause := c, tpc := (s.unit s.cur).pc, tinst := w, resume := (s.unit s.cur).pc
                          pc := BitVec.ofNat 64 entry, inHandler := true, trapNext := none, held := false
                          park := .none } := by
  simp only [State.badWord, hl, hr, Bool.false_and, Bool.false_eq_true, if_false, if_true]
  exact State.enterHandler_of_entry s s.cur c _ w entry he hh hp

/-- A turn of a unit whose words do not decode takes the precise trap with the first word in %tinst (spec 01 R16,
R17). -/
theorem State.unitTurn_of_decode_error {s v : State} {u entry : Nat} {w next : DWord} {e : DecodeError}
    (hr : s.ready u = true) (hf : s.isFirst u = true) (ht : (s.unit u).trapNext = none)
    (hl : (s.draw (s.unit u).launch).live = false) (hw : (s.offer u).fetchInstr u = (.words w next, v))
    (he : v.decodeFor u w next = .error e) (htrap : (s.ctx (s.unit u).ctx).trap = some entry)
    (hh : (s.unit u).inHandler = false) (hres : (s.unit u).results = []) :
    s.unitTurn u = settleTurn (s.unit u).group (.next ((v.forget fun p => p = .fetch u).setUnit u
      { v.unit u with tcause := DecodeError.cause e, tpc := (s.unit u).pc, tinst := w, resume := (s.unit u).pc
                      pc := BitVec.ofNat 64 entry, inHandler := true, held := false, park := .none
                      trapNext := none })) := by
  obtain ⟨a, hv⟩ := State.fetchInstr_words hw
  have hcur : v.cur = u := by
    rw [State.cur_of_outside hv, State.offer_eq]
    rfl
  have hunit : v.unit u = { s.unit u with turnAt := (s.core (s.unit u).core).cycle + 1, ahead := a } := by
    rw [State.unit_of_outside hv, State.unit_offer]
    exact State.unit_setUnit_same _ _ _
  have hctx : ∀ c, v.ctx c = s.ctx c := fun c => by
    rw [State.ctx_of_outside hv, State.offer_eq]
    rfl
  have hdraw : ∀ l, v.draw l = s.draw l := fun l => by
    rw [State.draw_of_outside hv, State.offer_eq]
    rfl
  rw [State.unitTurn_of_first hr hf ht hl, State.fetchAndRun_of_error hw hcur he]
  have hpark := State.park_of_ready hr
  change settleTurn _ (.next ((v.forget fun p => p = .fetch u).badWord w (DecodeError.cause e))) = _
  rw [State.badWord_of_entry (entry := entry)] <;>
    simp only [State.cur_forget, State.unit_forget, State.ctx_forget, State.draw_forget, hcur]
  · rw [hunit]
  · rw [hdraw, hunit]; exact hl
  · rw [hctx, hunit]; exact htrap
  · rw [hunit]; exact hh
  · rw [hunit]; exact hres
  · rw [hunit]; exact hpark

/-- A step that gives such a unit its turn. -/
theorem step_of_unit {s : State} {u : Nat} {rest : List Turn} (ha : s.agenda = .unit u :: rest) :
    step s = ({ s with agenda := rest } : State).unitTurn u := by
  simp only [step, ha]
  rfl

/-- Settles O13: the checks at issue by the one form that every wave instruction has, the words by the offending bits of
their formats, and the step by what a fetch leaves as it was. -/
theorem checksAtIssue : Obligations.ChecksAtIssue := by
  unfold Obligations.ChecksAtIssue
  refine ⟨?issue, ?order, ?words, ?step⟩
  case issue =>
    intro s i h c w hh hr ht hf hq hw hc
    exact takesTrap_of_issueTrap ⟨hr, ht, hh, hq, hf⟩ hw hc
  case order =>
    intro s w h i
    refine ⟨fun c => State.issueTrap_of_tableCond, State.issueTrap_of_range, fun ht hr hp => ?_, fun ht hr hp hq => ?_,
      fun ht hr hp hq hz => ?_, fun ht hr hp hq hz => ?_⟩
    all_goals rw [State.issueTrap_of_no_range ht hr]
    · rw [if_pos hp]
    · simp only [hp, hq, Bool.false_eq_true, if_false, if_true]
    · simp only [hp, hq, Bool.false_eq_true, if_false, if_pos ((hazard_iff w h i).mpr hz)]
    · simp only [hp, hq, Bool.false_eq_true, if_false, if_neg (mt (hazard_iff w h i).mp hz)]
  case words =>
    intro w next
    have hm := major_eq w
    refine ⟨fun h => decode_of_reserved_major (hm ▸ h), fun h => decode_of_unused_major (hm ▸ h), fun h h' => ?control,
      fun h h' => ?branch, fun h => decode_fork (hm.trans h), fun h => ?mem⟩
    case control =>
      exact decode_of_unused_minor (by omega) (by omega)
        ((decodeParts_control _ (hm.trans h)).trans (decodeControl_of_unused_minor _ h'))
    case branch =>
      exact decode_of_unused_minor (by omega) (by omega)
        ((decodeParts_branch _ (hm.trans h)).trans (decodeBranch_of_unused_minor _ h'))
    case mem =>
      rcases h with h | h
      · exact decode_mem (by omega) (decodeParts_ld _ (hm.trans h)) (reports_ld _ _ (isSome_extOf w next) h)
      · exact decode_mem (by omega) (decodeParts_st _ (hm.trans h)) (reports_st _ _ (isSome_extOf w next) h)
  case step =>
    intro s v u entry rest w next e x k offered done cause ha hr hf ht hl hw he htrap hh hres
    rw [step_of_unit ha]
    have hw' : (({ s with agenda := rest } : State).offer u).fetchInstr u = (.words w next, v) := by
      rw [State.offer_eq]
      exact hw
    refine (State.unitTurn_of_decode_error (s := { s with agenda := rest }) hr hf ht hl hw' he htrap hh hres).trans ?_
    cases e <;> rfl

end Sys2Proof.Machine
end

section
/-!
SUPPORT. The end of a unit and of its group, and the proof of O14: what a trap that no handler takes leaves (spec 01 R17,
spec 07 R117, spec 08 R139).
-/

namespace Sys2Proof

/-! ## Entries of a map -/

section AMap

variable {β : Type}

theorem AMap.mem_erase {m : AMap β} {k : Nat} {e : Nat × β} : e ∈ m.erase k ↔ e ∈ m ∧ e.1 ≠ k := by
  induction m with
  | nil => simp [AMap.erase]
  | cons a t ih =>
    obtain ⟨j, v⟩ := a
    unfold AMap.erase
    split
    next h =>
      rw [ih, List.mem_cons]
      constructor
      · exact fun ⟨he, hk⟩ => ⟨.inr he, hk⟩
      · rintro ⟨rfl | he, hk⟩
        · exact absurd h hk
        · exact ⟨he, hk⟩
    next h =>
      simp only [List.mem_cons, ih]
      constructor
      · rintro (rfl | ⟨he, hk⟩)
        · exact ⟨.inl rfl, h⟩
        · exact ⟨.inr he, hk⟩
      · rintro ⟨rfl | he, hk⟩
        · exact .inl rfl
        · exact .inr ⟨he, hk⟩

theorem AMap.mem_insert {m : AMap β} {k : Nat} {v : β} {e : Nat × β} :
    e ∈ m.insert k v ↔ e = (k, v) ∨ e ∈ m := by
  induction m with
  | nil => simp [AMap.insert]
  | cons a t ih =>
    unfold AMap.insert
    split
    · simp
    · simp only [List.mem_cons, ih]
      tauto

/-- A write leaves the entries of every other key. -/
theorem AMap.mem_set_of_ne [DecidableEq β] {m : AMap β} {d v x : β} {k j : Nat} (h : j ≠ k) :
    (j, x) ∈ m.set d k v ↔ (j, x) ∈ m := by
  unfold AMap.set
  split <;> simp [AMap.mem_erase, AMap.mem_insert, h]

/-- What a key reads as is listed, where it is not the default. -/
theorem AMap.mem_of_get_ne {m : AMap β} {d : β} {k : Nat} (h : m.get d k ≠ d) : (k, m.get d k) ∈ m := by
  induction m with
  | nil => exact absurd rfl h
  | cons a t ih =>
    obtain ⟨j, v⟩ := a
    unfold AMap.get at h ⊢
    split
    next hj => exact hj ▸ List.mem_cons_self
    next hj =>
      rw [if_neg hj] at h
      exact List.mem_cons_of_mem _ (ih h)

end AMap

end Sys2Proof

namespace Sys2Proof.Machine

open Sys2Proof

/-! ## Writes of counters and error records -/

/-- The parts of the state that a write of a counter leaves: all but the memory system and the writes that wait. -/
def State.beyondWrites (s : State) : WorkState × AMap Core × AMap Ctx × List Turn × Nat × Nat :=
  ({ s with work := { s.work with writes := [] } } : State).outside

section beyondWrites

variable {s t : State}

theorem State.beyondWrites_of_outside (h : t.outside = s.outside) : t.beyondWrites = s.beyondWrites := by
  simp only [State.outside, Prod.mk.injEq] at h
  simp only [State.beyondWrites, State.outside, h]

/-- The units, groups, launches and jobs, which neither a write of a counter nor what a unit's end does to draws and
triggers changes. -/
def State.roster (s : State) : AMap Wave × AMap Group × AMap Job := (s.work.units, s.work.groups, s.work.jobs)

theorem State.roster_of_beyondWrites (h : t.beyondWrites = s.beyondWrites) : t.roster = s.roster := by
  have hw : ({ t.work with writes := [] } : WorkState) = { s.work with writes := [] } := congrArg Prod.fst h
  simp only [WorkState.mk.injEq] at hw
  simp [State.roster, hw]

theorem State.unit_of_roster (h : t.roster = s.roster) (u : Nat) : t.unit u = s.unit u := by
  rw [State.unit, show t.work.units = s.work.units from congrArg (·.1) h, State.unit]

theorem State.group_of_roster (h : t.roster = s.roster) (g : Nat) : t.group g = s.group g := by
  rw [State.group, show t.work.groups = s.work.groups from congrArg (·.2.1) h, State.group]

theorem State.jobs_of_roster (h : t.roster = s.roster) : t.work.jobs = s.work.jobs := congrArg (·.2.2) h

end beyondWrites

section writes

variable (s : State)

@[simp] theorem State.outside_writeCounter (q : Req) (c : CtrWrite) : (s.writeCounter q c).2.outside = s.outside := by
  unfold State.writeCounter
  split
  · exact s.outside_writeRange _ _ _
  · rcases ha : s.atomHere q 8 fun old => (old + leNat c.bytes) % 2 ^ 64 with ⟨node, got, t⟩
    have h : t.outside = s.outside := by
      have := s.outside_atomHere q 8 fun old => (old + leNat c.bytes) % 2 ^ 64
      rwa [ha] at this
    cases node with
    | none => exact h
    | some node => exact (t.outside_peerAccess _ _ _ _).trans h

@[simp] theorem State.beyondWrites_flushList (cs : List CtrWrite) :
    (s.flushList cs).beyondWrites = s.beyondWrites := by
  induction cs generalizing s with
  | nil => rfl
  | cons c cs ih =>
    simp only [State.flushList]
    split
    · exact ih _
    · rcases hw : s.writeCounter
        { ctx := c.ctx, asid := (s.ctx c.ctx).asid, va := c.addr, who := .counter c.num } c with ⟨_ | _ | _, t⟩
      all_goals have h := State.outside_of_eq hw (s.outside_writeCounter _ _)
      · exact (ih t).trans (State.beyondWrites_of_outside h)
      · refine (ih _).trans ?_
        change (t.raiseFault _ _ _ _ _ true).2.beyondWrites = s.beyondWrites
        exact State.beyondWrites_of_outside ((t.outside_raiseFault _ _ _ _ _ _).trans h)
      · refine (ih _).trans ?_
        change (t.addStall _ _ _ _ true).beyondWrites = s.beyondWrites
        exact State.beyondWrites_of_outside ((t.outside_addStall _ _ _ _ _ _).trans h)

@[simp] theorem State.roster_flushWrites : s.flushWrites.roster = s.roster :=
  State.roster_of_beyondWrites (State.beyondWrites_flushList _ _)

@[simp] theorem State.roster_pushWrite (job ctx addr : Nat) (bytes : List Byte) (isErr : Bool) (recAddr : Nat) :
    (s.pushWrite job ctx addr bytes isErr recAddr).roster = s.roster := by
  unfold State.pushWrite
  split
  · rfl
  · exact State.roster_flushWrites _

@[simp] theorem State.roster_pushAdd (job ctx addr n recAddr : Nat) :
    (s.pushAdd job ctx addr n recAddr).roster = s.roster := by
  unfold State.pushAdd
  split
  · rfl
  · exact State.roster_flushWrites _

@[simp] theorem State.roster_countOver (l n : Nat) : (s.countOver l n).roster = s.roster := by
  simp only [State.countOver]
  split
  · rfl
  · exact s.roster_pushAdd _ _ _ _ _

/-- An error record of a job leaves the units and the groups. -/
theorem State.units_recordError (job : Nat) (e : ErrRec) :
    (s.recordError job e).work.units = s.work.units ∧ (s.recordError job e).work.groups = s.work.groups := by
  simp only [State.recordError]
  split
  all_goals
    constructor
    · exact congrArg (·.1) (State.roster_pushWrite _ _ _ _ _ _ _)
    · exact congrArg (·.2.1) (State.roster_pushWrite _ _ _ _ _ _ _)

/-- A first error fills its job's record. -/
theorem State.err_recordError (job : Nat) (e : ErrRec) (h : (s.work.jobs.get {} job).err = none) :
    ((s.recordError job e).work.jobs.get {} job).err = some e := by
  simp only [State.recordError, h]
  rw [State.jobs_of_roster (State.roster_pushWrite _ _ _ _ _ _ _)]
  simp

end writes

/-! ## The end of a unit (spec 08 R139) -/

section exitUnit

variable (s : State)

@[simp] theorem State.roster_exitElems (g : Nat) : (s.exitElems g).roster = s.roster := by
  simp only [State.exitElems]
  split
  · rfl
  · exact State.roster_countOver _ _ _

@[simp] theorem State.roster_noteTrigger (l : Nat) : (s.noteTrigger l).roster = s.roster := by
  unfold State.noteTrigger
  split <;> rfl

/-- An access that is still to be performed when its unit is gone. -/
theorem Wave.of_mem_remains {w : Wave} {p : Pend} (h : p ∈ w.remains) :
    (p.op.writes = true ∧ p.leader = false ∧ p.status ≠ .delivered) ∧ p.status ≠ .declined ∧
      ¬(p.todo = [] ∧ p.faulted = []) ∧ p = { p with dst := 0, n := 0, values := [] } := by
  obtain ⟨q, hq, hp⟩ := List.mem_filterMap.mp h
  have hq : q.op.writes = true ∧ q.leader = false ∧ q.status ≠ .delivered := by
    simpa [and_assoc] using (List.mem_filter.mp hq).2
  by_cases hd : q.status = .declined
  · simp only [hd, if_true, Option.ite_none_left_eq_some, Option.some.injEq] at hp
    obtain ⟨hl, rfl⟩ := hp
    exact ⟨⟨hq.1, hq.2.1, nofun⟩, nofun, by simpa using hl, rfl⟩
  · simp only [hd, if_false, Option.ite_none_left_eq_some, Option.some.injEq] at hp
    obtain ⟨hl, rfl⟩ := hp
    exact ⟨hq, hd, by simpa using hl, rfl⟩

/-- What of a unit's accesses is still to be performed remains so when its unit is gone. -/
theorem Wave.remains_of_pend_remains (w v : Wave) (h : v.pend = w.remains) : v.remains = w.remains := by
  have hkeep : w.remains.filter (fun p => p.op.writes && !p.leader && p.status ≠ .delivered) = w.remains :=
    List.filter_eq_self.mpr fun p hp => by simpa [and_assoc] using (Wave.of_mem_remains hp).1
  rw [Wave.remains, h, hkeep]
  refine (List.filterMap_congr fun p hp => ?_).trans List.filterMap_some
  obtain ⟨-, hd, hl, heq⟩ := Wave.of_mem_remains hp
  have hlive : ¬(decide (p.todo = []) && decide (p.faulted = [])) = true := by simpa using hl
  simp only [if_neg hd, if_neg hlive, ← heq]

/-- A unit that is cleared runs no more, with the accesses that are still to be performed. -/
theorem State.unit_clearUnit_same (u : Nat) :
    ((s.clearUnit u).unit u).live = false ∧ ((s.clearUnit u).unit u).pend = (s.unit u).remains := by
  simp only [State.clearUnit]
  rw [State.unit_setUnit_same]
  split
  next h => exact ⟨rfl, h.symm⟩
  next h => exact ⟨rfl, rfl⟩

theorem State.unit_clearUnit_other (u v : Nat) (h : v ≠ u) : (s.clearUnit u).unit v = s.unit v := by
  simp only [State.clearUnit]
  exact State.unit_setUnit_other _ _ _ _ h

theorem State.jobs_clearUnit (u : Nat) : (s.clearUnit u).work.jobs = s.work.jobs := rfl

/-- The end of a unit is that of its records of the group and of the draw, and what becomes of the unit itself. -/
theorem State.roster_exitUnit (u : Nat) :
    ∃ t : State, (s.exitUnit u).roster = (t.clearUnit u).roster ∧ t.work.units = s.work.units ∧
      t.work.jobs = s.work.jobs := by
  refine ⟨_, (State.roster_noteTrigger _ _).trans (State.roster_exitElems _ _), ?_, ?_⟩ <;> split <;> rfl

theorem State.unit_exitUnit_same (u : Nat) :
    ((s.exitUnit u).unit u).live = false ∧ ((s.exitUnit u).unit u).pend = (s.unit u).remains := by
  obtain ⟨t, hr, hu, -⟩ := s.roster_exitUnit u
  rw [State.unit_of_roster hr, show s.unit u = t.unit u by rw [State.unit, State.unit, hu]]
  exact t.unit_clearUnit_same u

theorem State.unit_exitUnit_other (u v : Nat) (h : v ≠ u) : (s.exitUnit u).unit v = s.unit v := by
  obtain ⟨t, hr, hu, -⟩ := s.roster_exitUnit u
  rw [State.unit_of_roster hr, State.unit_clearUnit_other _ _ _ h, State.unit, hu, State.unit]

theorem State.jobs_exitUnit (u : Nat) : (s.exitUnit u).work.jobs = s.work.jobs := by
  obtain ⟨t, hr, -, hj⟩ := s.roster_exitUnit u
  rw [State.jobs_of_roster hr, State.jobs_clearUnit, hj]

end exitUnit

/-! ## The end of a group (spec 07 R117) -/

section exitUnits

/-- The ends of several units leave every other unit, and the jobs. -/
theorem State.exitUnits_other (us : List Nat) (s : State) :
    (∀ v, v ∉ us → (us.foldl State.exitUnit s).unit v = s.unit v) ∧
      (us.foldl State.exitUnit s).work.jobs = s.work.jobs := by
  induction us generalizing s with
  | nil => exact ⟨fun _ _ => rfl, rfl⟩
  | cons u us ih =>
    obtain ⟨hu, hj⟩ := ih (s.exitUnit u)
    refine ⟨fun v hv => ?_, hj.trans (s.jobs_exitUnit u)⟩
    obtain ⟨hne, hv⟩ : v ≠ u ∧ v ∉ us := by simpa using hv
    exact (hu v hv).trans (s.unit_exitUnit_other u v hne)

/-- The remains of a unit stay as they are while units end, its own end included. -/
theorem State.remains_exitUnits (us : List Nat) (s : State) (v : Nat) :
    ((us.foldl State.exitUnit s).unit v).remains = (s.unit v).remains := by
  induction us generalizing s with
  | nil => rfl
  | cons u us ih =>
    refine (ih (s.exitUnit u)).trans ?_
    by_cases h : v = u
    · rw [h]
      exact Wave.remains_of_pend_remains _ _ (s.unit_exitUnit_same u).2
    · rw [s.unit_exitUnit_other u v h]

/-- Each of several units that end runs no more, and leaves what is still to be performed. -/
theorem State.exitUnits_mem (us : List Nat) (s : State) (v : Nat) (h : v ∈ us) :
    ((us.foldl State.exitUnit s).unit v).live = false ∧
      ((us.foldl State.exitUnit s).unit v).pend = (s.unit v).remains := by
  induction us generalizing s with
  | nil => cases h
  | cons u us ih =>
    by_cases hv : v ∈ us
    · obtain ⟨hl, hp⟩ := ih (s.exitUnit u) hv
      exact ⟨hl, hp.trans (State.remains_exitUnits [u] s v)⟩
    · rw [List.foldl_cons, (State.exitUnits_other us (s.exitUnit u)).1 v hv,
        (List.mem_cons.mp h).resolve_right hv]
      exact s.unit_exitUnit_same u

end exitUnits

/-- What the termination of a group leaves (spec 07 R117). -/
theorem State.terminate_spec (s : State) (g status : Nat) (c : Word) (pc inst : DWord) :
    (∀ u ∈ s.unitsOf g, ((s.terminate g status c pc inst).unit u).live = false ∧
      ((s.terminate g status c pc inst).unit u).pend = (s.unit u).remains) ∧
    (∀ u, u ∉ s.unitsOf g → (s.terminate g status c pc inst).unit u = s.unit u) ∧
    ((s.terminate g status c pc inst).group g).opens = [] ∧ ((s.terminate g status c pc inst).group g).frags = [] ∧
    ((s.terminate g status c pc inst).group g).waits = [] ∧
    ((s.work.jobs.get {} (s.launch (s.group g).launch).job).err = none →
      ((s.terminate g status c pc inst).work.jobs.get {} (s.launch (s.group g).launch).job).err = some
        { status := status, group := (s.group g).num, addr := (s.launch (s.group g).launch).recAddr
          tcause := c.toNat, tpc := pc.toNat, tinst := inst.toNat, count := 0 }) := by
  let l := s.launch (s.group g).launch
  let r : ErrRec := { status := status, group := (s.group g).num, addr := l.recAddr, tcause := c.toNat
                      tpc := pc.toNat, tinst := inst.toNat, count := 0 }
  let s1 := s.recordError l.job r
  let s2 := (s1.unitsOf g).foldl State.exitUnit s1
  let s3 := s2.setGroup g { s2.group g with opens := [], frags := [], waits := [], homes := [] }
  have hs : s.terminate g status c pc inst = s3.exitElems g := rfl
  have hr : (s3.exitElems g).roster = s3.roster := s3.roster_exitElems g
  have hu1 : s1.work.units = s.work.units := (s.units_recordError l.job r).1
  have hunits : s1.unitsOf g = s.unitsOf g := by rw [State.unitsOf, hu1, State.unitsOf]
  have hunit1 : ∀ u, s1.unit u = s.unit u := fun u => by rw [State.unit, hu1, State.unit]
  have hunit : ∀ u, (s3.exitElems g).unit u = s2.unit u := fun u => State.unit_of_roster hr u
  have hgroup : (s3.exitElems g).group g = { s2.group g with opens := [], frags := [], waits := [], homes := [] } :=
    (State.group_of_roster hr g).trans (State.group_setGroup_same _ _ _)
  rw [hs]
  refine ⟨fun u hu => ?_, fun u hu => ?_, by rw [hgroup], by rw [hgroup], by rw [hgroup], fun he => ?_⟩
  · rw [hunit, ← hunit1 u]
    exact State.exitUnits_mem _ s1 u (hunits ▸ hu)
  · rw [hunit, ← hunit1 u]
    exact (State.exitUnits_other _ s1).1 u (hunits ▸ hu)
  · rw [State.jobs_of_roster hr, show s3.work.jobs = s1.work.jobs from (State.exitUnits_other _ s1).2]
    exact s.err_recordError l.job r he

/-! ## The units of a group -/

theorem State.mem_unitsOf {s : State} {g u : Nat} :
    u ∈ s.unitsOf g ↔ ∃ w, (u, w) ∈ s.work.units ∧ w.live = true ∧ w.group = g := by
  simp [State.unitsOf, AMap.keys, AMap.findAll]

theorem State.mem_unitsOf_of_live {s : State} {u : Nat} (h : (s.unit u).live = true) :
    u ∈ s.unitsOf (s.unit u).group :=
  have hne : s.work.units.get {} u ≠ {} := fun hd => by
    rw [State.unit, hd] at h
    cases h
  State.mem_unitsOf.mpr ⟨s.unit u, AMap.mem_of_get_ne hne, h, rfl⟩

theorem State.mem_unitsOf_setUnit {s : State} {g u v : Nat} {w : Wave} (h : v ≠ u) :
    v ∈ (s.setUnit u w).unitsOf g ↔ v ∈ s.unitsOf g := by
  simp only [State.mem_unitsOf, State.setUnit, AMap.mem_set_of_ne h]

/-- An instruction whose unit's group terminates, from a state that differs in the unit alone, ends the group. -/
theorem GroupEnds.of_terminate {s : State} {i : Instr} {w : Wave} {status : Nat} {c : Word} {pc inst : DWord}
    (hl : w.live = true) (hg : w.group = (s.unit s.cur).group)
    (hx : exec i s = .next ((s.setUnit s.cur w).terminate (s.unit s.cur).group status c pc inst)) :
    GroupEnds s i status c pc inst := by
  obtain ⟨hin, hout, ho, hf, hw, he⟩ :=
    (s.setUnit s.cur w).terminate_spec (s.unit s.cur).group status c pc inst
  have hcur : s.cur ∈ (s.setUnit s.cur w).unitsOf (s.unit s.cur).group := by
    have := State.mem_unitsOf_of_live (s := s.setUnit s.cur w) (u := s.cur) (by simpa using hl)
    simpa [hg] using this
  refine ⟨_, hx, fun u hu => ?_, fun u hu hne => ?_, ho, hf, hw, he⟩
  · by_cases hc : u = s.cur
    · exact ⟨(hin u (hc ▸ hcur)).1, fun hne => absurd hc hne⟩
    · obtain ⟨h1, h2⟩ := hin u ((State.mem_unitsOf_setUnit hc).mpr hu)
      exact ⟨h1, fun _ => by rw [h2, State.unit_setUnit_other _ _ _ _ hc]⟩
  · rw [hout u (mt (State.mem_unitsOf_setUnit hne).mp hu), State.unit_setUnit_other _ _ _ _ hne]

/-! ## Fatal traps (spec 01 R17) -/

/-- A trap that no handler takes terminates the group of its unit. -/
theorem State.enterHandler_fatal (s : State) (u : Nat) (c : Word) (pc inst : DWord)
    (h : (s.ctx (s.unit u).ctx).trap = none ∨ (s.unit u).inHandler = true) :
    s.enterHandler u c pc inst =
      s.terminate (s.unit u).group (if c.toNat % 256 < 0x10 then 4 else 5) c pc inst := by
  simp only [State.enterHandler]
  split
  next he hh =>
    simp [he, hh] at h
  next => rfl

/-- A trap that an instruction's effect raises with no result outstanding and no handler to take it ends the group. -/
theorem GroupEnds.of_trap_unheld {s : State} {i : Instr} {c : Word} (hready : s.ready s.cur = true)
    (hx : exec i s = .next ((s.setUnit s.cur { s.unit s.cur with held := false }).trap i c))
    (h : (s.ctx (s.unit s.cur).ctx).trap = none ∨ (s.unit s.cur).inHandler = true)
    (hr : (s.unit s.cur).results = []) (hc : c.toNat % 256 < 0x10) :
    GroupEnds s i 4 c (s.unit s.cur).pc (firstWord i) := by
  have hl : (s.unit s.cur).live = true := by
    simp only [State.ready, Bool.and_eq_true] at hready
    exact hready.1.1.1
  rw [State.trap_of_no_results _ _ _ (by simp only [State.cur_setUnit, State.unit_setUnit_same]; exact hr),
    State.enterHandler_fatal _ _ _ _ _ (by simpa using h), if_pos hc] at hx
  refine GroupEnds.of_terminate (w := { s.unit s.cur with held := false }) hl rfl ?_
  simpa using hx

/-- trap and brk raise their causes where they act (spec 01 R19). -/
theorem exec_trap_or_brk {s : State} {i : Instr} {h : Head} {c : Word} (ha : Acts s i h)
    (hi : i = .TRAP h (BitVec.ofNat 16 (c.toNat / 2 ^ 16)) ∧ c.toNat % 2 ^ 16 = 8 ∨
      (∃ code, i = .BRK h code) ∧ c = 9) :
    exec i s = .next ((s.setUnit s.cur { s.unit s.cur with held := false }).trap i c) := by
  rcases hi with ⟨rfl, hc⟩ | ⟨⟨code, rfl⟩, rfl⟩
  · have hcause : causeTrap (BitVec.ofNat 16 (c.toNat / 2 ^ 16)) = c := by
      have := c.isLt
      apply BitVec.eq_of_toNat_eq
      simp only [causeTrap, BitVec.toNat_ofNat]
      omega
    rw [exec_TRAP, execTrap, State.waveOp_of_acts _ _ _ _ ha, hcause]
  · rw [exec_BRK, execBrk, State.waveOp_of_acts _ _ _ _ ha]
    rfl

/-- Settles O14: both instructions raise their cause, which the handler takes, or which ends the group. -/
theorem trapsAreTakenOrFatal : Obligations.TrapsAreTakenOrFatal := by
  unfold Obligations.TrapsAreTakenOrFatal
  intro s i h c w ha hi
  have hx := exec_trap_or_brk ha hi
  have hc : c.toNat % 256 < 0x10 := by
    rcases hi with ⟨-, hc⟩ | ⟨-, rfl⟩
    · omega
    · decide
  exact ⟨.of_trap_unheld (State.park_of_ready ha.1.ready) hx,
    fun hfatal hr _ _ => .of_trap_unheld ha.1.ready hx hfatal hr hc⟩

end Sys2Proof.Machine
end

section
/-!
SUPPORT. A state whose L1 holds two copies of one line, and the refutation of O15 by it.
-/

namespace Sys2Proof.Machine

open Sys2Proof

/-! ## An L1 set with two copies of one line

The model's L1 is a list of copies, and `State.Reads` speaks of the copy that `State.l1Find` finds first. In the state
below the set of lines 0 and 256 lists two copies of line 256, the second with other bytes, and one way serves the set.
The retry of a load of both lines first brings in line 0, which takes the way of the first copy; the load of line 256
then takes the second. -/

/-- A line of zeros, which grants reading, at its home slice. -/
def lineOfZeros (line : Nat) : Line :=
  { asid := 0, va := line, data := List.replicate 128 0, dirty := true, held := false, ctx := 0, attr := { r := true }
    retain := false, stream := false, poison := false, leaf := 0, used := 0, alloc := 0 }

/-- A copy of line 256 in a bank, with one byte repeated. -/
def copy256 (bank : Nat) (byte : Byte) : L1Line :=
  { asid := 0, va := 256, data := List.replicate 128 byte, attr := { r := true }, bank := bank, fill := 1 }

/-- A head of rate K with no guard. -/
def bareHead : Head := { gate := false, rate := .K, guard := 0, gneg := false, hints := 0 }

/-- The form of a load of one register. -/
def wordForm : MemF :=
  { data := 4, addr := { base := 0, idx := false, index := 0, scl := false, disp := 0 }, size := .b32
    order := .weak, obs := 0 }

/-- A lane's request for a line. -/
def laneFor (lane line : Nat) : LaneReq := { lane := lane, addr := 128 * line, data := [] }

/-- A load whose lanes 0 and 1, of lines 0 and 256, have faulted, as the handler was told. -/
def deliveredLoad : Pend :=
  { seq := 0, op := .LD bareHead wordForm, pc := 0, dst := 4, n := 1, reqs := [laneFor 0 0, laneFor 1 256], todo := []
    faulted := [laneFor 0 0, laneFor 1 256], status := .delivered }

/-- Its unit, in the handler, with %tpc at the load. -/
def handlingUnit : Wave :=
  { live := true, group := 1, nregs := 256, inHandler := true, resume := 8, pend := [deliveredLoad], pendSeq := 1 }

/-- The state in which its core, with bank 0 for its L1, lists a second copy of line 256. -/
def shadowedCopy : State :=
  { mem := { l2 := [(0, [lineOfZeros 0]), (4, [lineOfZeros 256])], l1 := [(0, [copy256 0 0, copy256 1 0xFF])] }
    work := { units := [(1, handlingUnit)], groups := [(1, { phase := .resident })] }
    cores := [(0, { modes := (List.range 31).map fun b => (b + 1, 1) })]
    host := { slices0 := 1, slices1 := 0 }
    cur := 1 }

theorem issues_shadowedCopy : Issues shadowedCopy (.TRET bareHead) bareHead where
  ready := by decide
  clear := rfl
  head := rfl
  rate := fun h => absurd h (by decide)
  fresh := by decide
  passes := by decide
  sound := by decide

/-- Each faulted lane reads zeros at the home slice, and so does the copy that its core finds. -/
theorem reads_shadowedCopy (x : LaneReq) (hx : x ∈ deliveredLoad.faulted) :
    shadowedCopy.Reads 1 x.addr 4 (List.replicate 4 0) := by
  rcases List.mem_pair.mp hx with rfl | rfl
  · refine ⟨⟨by decide, by decide, rfl, nofun, lineOfZeros 0, by decide, rfl, rfl, rfl, rfl⟩, fun m hm => ?_⟩
    have hnone : shadowedCopy.l1Find 0 0 0 = none := by decide
    cases hnone.symm.trans hm
  · refine ⟨⟨by decide, by decide, rfl, nofun, lineOfZeros 256, by decide, rfl, rfl, rfl, rfl⟩, fun m hm => ?_⟩
    have hfound : shadowedCopy.l1Find 0 0 256 = some (copy256 0 0) := by decide
    obtain rfl : copy256 0 0 = m := Option.some.inj (hfound.symm.trans hm)
    decide

/-- A line that its core does not hold takes the one way of a full set. -/
theorem State.l1Return_of_one_way (s : State) (c : Nat) (l : Line) (b : Nat)
    (hnone : (s.mem.l1.get [] (l1Key c l.va)).any (·.isAt l.asid l.va) = false) (hways : s.cacheBanks c = [b])
    (hfull : (s.mem.l1.get [] (l1Key c l.va)).any (·.bank = b) = true) :
    s.l1Return c l true = ({ s with seq := s.seq + 1, freeCount := s.freeCount + 1 } : State).l1Set c l.va
      (((s.mem.l1.get [] (l1Key c l.va)).filter fun m => m.bank ≠ b) ++
        [{ asid := l.asid, va := l.va, data := l.data, attr := l.attr, bank := b, fill := s.seq }]) := by
  have hways' : ({ s with seq := s.seq + 1 } : State).cacheBanks c = [b] := hways
  simp only [State.l1Return, State.stamp, hnone, hways', List.filter, hfull, Bool.not_true, Bool.false_eq_true,
    if_false, List.length_singleton, Nat.mod_one, List.getD_cons_zero]

/-- The state in which the retry performs lanes: the handler has ended. -/
def retryingState : State :=
  (shadowedCopy.setUnit 1 { handlingUnit with held := false }).trapReturn 1

/-- The request of lane 0, of line 0. -/
def lane0Req : Req :=
  { ({ retryingState.laneReq 1 0 0 0 with since := some 2 } : Req).hinted 0 with obs := obsOf .weak 0 }

/-- What its access of the home slice of line 0 finds, and leaves. -/
def lane0Access : Acc × State := retryingState.access { lane0Req with r := true }

/-- The state after lane 0: line 0 has the way of the first copy of line 256. -/
def lane0Done : State :=
  ({ lane0Access.2 with seq := 4, freeCount := 1 } : State).l1Set 0 0
    [copy256 1 0xFF, { asid := 0, va := 0, data := List.replicate 128 0, attr := { r := true }, bank := 0, fill := 3 }]

/-- A load that finds no copy reads its home slice, whose line its core may take. -/
theorem State.loadAt_of_home {s t t' t'' : State} {u n sl : Nat} {q : Req} {l : Line} {bs : List Byte}
    (hnear : s.l1Find (s.unit u).core (tagAsid q.asid q.va) (q.va / 128) = none)
    (hacc : s.access { q with r := true } = (.line sl l, t))
    (hret : t.l1Return (s.unit u).core l (q.fillsL1 l) = t') (hbytes : t'.lineBytesAt q l n = (bs, t'')) :
    s.loadAt u q false n = (.words (wordsOf bs), t'') := by
  simp [State.loadAt, hnear, hacc, hret, hbytes]

/-- Lane 0 finds no copy, and its line takes the one way of its core's L1. -/
theorem performLane_zero :
    retryingState.performLane 1 0 2 deliveredLoad.op (laneFor 0 0) = (.words [0], lane0Done) := by
  have hcore : (retryingState.unit 1).core = 0 := by decide +kernel
  have hnear : retryingState.l1Find 0 (tagAsid lane0Req.asid lane0Req.va) (lane0Req.va / 128) = none := by
    decide +kernel
  have hacc : retryingState.access { lane0Req with r := true } =
      (.line 0 { lineOfZeros 0 with used := 2 }, lane0Access.2) := by decide +kernel
  have hret : lane0Access.2.l1Return 0 { lineOfZeros 0 with used := 2 }
      (lane0Req.fillsL1 { lineOfZeros 0 with used := 2 }) = lane0Done :=
    (State.l1Return_of_one_way _ _ _ 0 (by decide +kernel) (by decide +kernel) (by decide +kernel)).trans
      (by decide +kernel)
  have hbytes : lane0Done.lineBytesAt lane0Req { lineOfZeros 0 with used := 2 } 4 =
      (List.replicate 4 0, lane0Done) := by decide +kernel
  exact State.loadAt_of_home (hcore ▸ hnear) hacc (hcore ▸ hret) hbytes

/-- Lane 1 then finds the second copy of line 256. -/
theorem performLane_one :
    lane0Done.performLane 1 0 2 deliveredLoad.op (laneFor 1 256) = (.words [0xFFFFFFFF], lane0Done) := by
  decide +kernel

/-- What the retry of both lanes gives. -/
def retryPass : Pass := { values := [(0, [0]), (1, [0xFFFFFFFF])] }

theorem performLanes_retrying :
    retryingState.performLanes 1 0 2 deliveredLoad.op deliveredLoad.faulted {} = (retryPass, lane0Done) := by
  show retryingState.performLanes 1 0 2 deliveredLoad.op [laneFor 0 0, laneFor 1 256] {} = _
  simp only [State.performLanes, performLane_zero, performLane_one]
  rfl

/-- The delivered load as the end of the handler leaves it: to be retried. -/
def resolvedLoad : Pend := { deliveredLoad with status := .resolved, order := 1 }

/-- The state after the retry. -/
def retriedState : State :=
  (lane0Done.settle 1 { resolvedLoad with faulted := [], status := .replaying } deliveredLoad.faulted
    retryPass).replay 1 7

theorem replay_retrying : retryingState.replay 1 8 = retriedState := by
  have hnext : (retryingState.unit 1).nextReplay = some resolvedLoad := by decide +kernel
  have hseq : retryingState.seq = 2 := by decide +kernel
  have hpass : retryingState.performLanes 1 resolvedLoad.seq 2 resolvedLoad.op resolvedLoad.faulted {} =
      (retryPass, lane0Done) := performLanes_retrying
  simp only [State.replay, hnext, hseq, hpass]
  rfl

theorem exec_shadowedCopy : exec (.TRET bareHead) shadowedCopy = .next retriedState := by
  rw [exec_TRET, execTret, State.issue_of_issues _ _ _ _ issues_shadowedCopy]
  exact congrArg Host.Outcome.next replay_retrying

/-- Lane 1 gets the bytes of the second copy, which are not those of its home slice. -/
theorem pend_retriedState : (retriedState.unit 1).pend.map (·.values) = [[(0, [0]), (1, [0xFFFFFFFF])]] := by
  decide +kernel

/-- Refutes O15, by its part on the retry: where the L1 of a core lists two copies of one line, of which only the first
holds the bytes of the home slice, the retry of a delivered load can take the second. In `shadowedCopy` the line of an
earlier lane takes the way of the first copy. -/
theorem not_theHandlerReturns : ¬ Obligations.TheHandlerReturns := by
  unfold Obligations.TheHandlerReturns
  intro h
  obtain ⟨-, -, -, hretry, -⟩ := h shadowedCopy bareHead 0 .lane
  obtain ⟨t, ht, -, -, hunit⟩ := hretry deliveredLoad bareHead wordForm (fun _ => List.replicate 4 0)
    issues_shadowedCopy rfl rfl rfl rfl rfl rfl rfl nofun reads_shadowedCopy
  obtain rfl : retriedState = t := Host.Outcome.next.inj (exec_shadowedCopy.symm.trans ht)
  have hpend : (retriedState.unit 1).pend.map (·.values) = [[(0, [0]), (1, [0])]] :=
    (congrArg (fun w : Wave => w.pend.map (·.values)) hunit).trans (by decide)
  exact absurd (pend_retriedState.symm.trans hpend) (by decide)

end Sys2Proof.Machine
end

section
/-!
SUPPORT. The wave-wide instructions that change their unit alone, and the proofs of O11 and O18 from them: the mask
instructions and the branches (spec 02 R24, spec 08 R133, R134, R136, R137).
-/

namespace Sys2Proof.Machine

open Sys2Proof

/-! ## A unit that goes on at an address -/

/-- A unit that is not held and whose pc is an address: where `Wave.after` and the branches leave it. -/
def Wave.movedTo (w : Wave) (pc : DWord) : Wave := { w with held := false, pc := pc }

theorem Wave.after_eq_movedTo (w : Wave) (i : Instr) : w.after i = w.movedTo (w.pc + BitVec.ofNat 64 i.size) := rfl

theorem Wave.unheld_eq_movedTo (w : Wave) : { w with held := false } = w.movedTo w.pc := rfl

@[simp] theorem Wave.pc_movedTo (w : Wave) (p : DWord) : (w.movedTo p).pc = p := rfl
@[simp] theorem Wave.acts_movedTo (w : Wave) (h : Head) (p : DWord) : (w.movedTo p).acts h = w.acts h := rfl
@[simp] theorem Wave.leader_movedTo (w : Wave) (h : Head) (p : DWord) : (w.movedTo p).leader h = w.leader h := rfl
@[simp] theorem Wave.destMask_movedTo (w : Wave) (h : Head) (p : DWord) :
    (w.movedTo p).destMask h = w.destMask h := rfl
@[simp] theorem Wave.reg_movedTo (w : Wave) (p : DWord) (r l : Nat) : (w.movedTo p).reg r l = w.reg r l := rfl
@[simp] theorem Wave.val_movedTo (w : Wave) (p : DWord) (wide : Bool) (r l : Nat) :
    (w.movedTo p).val wide r l = w.val wide r l := rfl

theorem Wave.setK_movedTo (w : Wave) (p : DWord) (i : Nat) (m : Mask) :
    (w.movedTo p).setK i m = (w.setK i m).movedTo p := by
  unfold Wave.setK
  split <;> rfl

theorem Wave.setVal_movedTo (w : Wave) (p : DWord) (wide : Bool) (r l n : Nat) :
    (w.movedTo p).setVal wide r l n = (w.setVal wide r l n).movedTo p := by
  cases wide <;> rfl

@[simp] theorem Wave.setDest_movedTo (w : Wave) (p : DWord) (m : Mask) (wide : Bool) (r n : Nat) :
    (w.movedTo p).setDest m wide r n = (w.setDest m wide r n).movedTo p :=
  List.foldl_hom (Wave.movedTo · p) fun w l => w.setVal_movedTo p wide r l n

theorem State.advance_setUnit_movedTo (s : State) (i : Instr) (w : Wave) (p : DWord) :
    (s.setUnit s.cur (w.movedTo p)).advance i = s.setUnit s.cur (w.movedTo (p + BitVec.ofNat 64 i.size)) := by
  simp only [State.advance, State.cur_setUnit, State.unit_setUnit_same, State.setUnit_setUnit]
  rfl

theorem State.goto_setUnit_movedTo (s : State) (w : Wave) (p q : DWord) :
    (s.setUnit s.cur (w.movedTo p)).goto q = s.setUnit s.cur (w.movedTo q) := by
  simp only [State.goto, State.cur_setUnit, State.unit_setUnit_same, State.setUnit_setUnit]
  rfl

/-! ## Wave-wide instructions that change their unit alone (spec 08 R133) -/

/-- A wave-wide instruction that acts and changes its unit leaves it past the instruction, changed in that way, where
the change does not turn on the unit's pc. -/
theorem UnitTo.of_waveOp {s : State} {i : Instr} {h : Head} {f : Wave → Wave} (ha : Acts s i h)
    (hf : ∀ (w : Wave) p, f (w.movedTo p) = (f w).movedTo p)
    (hx : exec i s = .next (s.waveOp i h fun s => (s.setUnit s.cur (f (s.unit s.cur))).advance i)) :
    UnitTo s i (f ((s.unit s.cur).after i)) := by
  rw [State.waveOp_of_acts s i h _ ha] at hx
  unfold UnitTo
  simpa only [State.cur_setUnit, State.unit_setUnit_same, State.setUnit_setUnit, Wave.unheld_eq_movedTo,
    Wave.after_eq_movedTo, State.advance_setUnit_movedTo, hf] using hx

/-- A mask instruction that acts and writes kD. -/
theorem UnitTo.of_setK {s : State} {i : Instr} {h : Head} {d : Nat} {v : Wave → Mask} (ha : Acts s i h)
    (hv : ∀ (w : Wave) p, v (w.movedTo p) = v w)
    (hx : exec i s = .next (s.waveOp i h fun s =>
      (s.setUnit s.cur ((s.unit s.cur).setK d (v (s.unit s.cur)))).advance i)) :
    UnitTo s i (((s.unit s.cur).after i).setK d (v (s.unit s.cur))) := by
  have hu := UnitTo.of_waveOp (f := fun w => w.setK d (v w)) ha (fun w p => by rw [hv, Wave.setK_movedTo]) hx
  rwa [Wave.after_eq_movedTo, hv] at hu

/-! ## Writes of a destination -/

theorem Wrote.of_setDest (w : Wave) (m : Mask) (wide : Bool) (d n : Nat) :
    Wrote w (w.setDest m wide d n) m d wide n :=
  ⟨w.foldl_setVal_eq wide d (fun _ => n) _,
    fun l hl hm => w.val_foldl wide d (fun _ => n) _ (lanesOf_lt m) (lanesOf_nodup m) l
      ((mem_lanesOf m l).mpr ⟨hl, hm⟩),
    fun q l hl hn => w.reg_foldl_other wide d (fun _ => n) _ (lanesOf_lt m) q l hl
      fun ⟨hmem, hq⟩ => hn ⟨((mem_lanesOf m l).mp hmem).2, hq⟩⟩

/-- One value for all lanes of a mask, without a flag. -/
theorem LaneResult.of_wrote {s : State} {i : Instr} {w' : Wave} {m : Mask} {d n : Nat} {wide : Bool}
    {P : Nat → Nat → Prop} (hu : UnitTo s i w') (hw : Wrote ((s.unit s.cur).after i) w' m d wide n)
    (hP : ∀ l, P l (n % 2 ^ destBits wide)) : LaneResult s i m d wide P fun _ => 0 := by
  obtain ⟨hregs, hval, hother⟩ := hw
  have hflags : (lanesOf m).foldl (fun a _ => a ||| (0 : Word)) (s.unit s.cur).fflags = (s.unit s.cur).fflags := by
    simp
  refine ⟨w', hu, ?_, fun l hl hm => hval l hl hm ▸ hP l, hother⟩
  rw [hflags]
  exact hregs

/-- A mask instruction that writes a number made of kA to the lanes of its acting set. -/
theorem WaveLaw.of_mask {mk : Head → AluF → Instr} {v : Mask → Nat} {P : Wave → Head → AluF → Nat → Nat → Prop}
    (hx : ∀ s h f, exec (mk h f) s = .next (s.waveOp (mk h f) h fun s =>
      (s.setUnit s.cur ((s.unit s.cur).setDest ((s.unit s.cur).destMask h) false f.d.toNat
        (v ((s.unit s.cur).kreg f.a.toNat)))).advance (mk h f)))
    (hP : ∀ w h f l, P w h f l (v (w.kreg f.a.toNat) % 2 ^ 32)) : WaveLaw mk oneReg P := by
  intro s h f ha
  have hu := UnitTo.of_waveOp (f := fun w => w.setDest (w.destMask h) false f.d.toNat (v (w.kreg f.a.toNat))) ha
    (fun w p => w.setDest_movedTo p _ _ _ _) (hx s h f)
  exact .of_wrote hu (.of_setDest _ _ _ _ _) (hP _ h f)

/-! ## Counts and searches in a mask (spec 08 R136) -/

theorem testBit_toNat_eq_inMask (m : Mask) (l : Nat) : decide (m.toNat / 2 ^ l % 2 = 1) = inMask m l :=
  Nat.testBit_eq_decide_div_mod_eq.symm

theorem popCount_toNat (m : Mask) : popCount 32 m.toNat = (lanesOf m).length := by
  simp only [popCount, lanesOf, testBit_toNat_eq_inMask]

theorem lanesOf_length_le (m : Mask) : (lanesOf m).length ≤ 32 :=
  (List.length_filter_le _ _).trans_eq List.length_range

/-- The lowest set lane of a mask, 32 when it is empty. -/
theorem ctzRes_toNat_spec (m : Mask) :
    ctzRes 32 m.toNat ≤ 32 ∧ (∀ l, l < ctzRes 32 m.toNat → inMask m l = false) ∧
      (ctzRes 32 m.toNat < 32 → inMask m (ctzRes 32 m.toNat) = true) := by
  simp only [ctzRes, testBit_toNat_eq_inMask]
  cases hfind : (List.range 32).find? fun l => inMask m l with
  | none =>
    rw [List.find?_range_eq_none] at hfind
    exact ⟨le_rfl, fun l hl => by simpa using hfind l hl, fun hl => absurd hl (lt_irrefl 32)⟩
  | some n =>
    obtain ⟨hn, hlt, hbelow⟩ := List.find?_range_eq_some.mp hfind
    exact ⟨(List.mem_range.mp hlt).le, fun l hl => by simpa using hbelow l hl, fun _ => hn⟩

/-! ## k registers and x (spec 02 R24, spec 08 R136, R137) -/

/-- Settles O11: each mask instruction is one write of its unit, which `UnitTo.of_setK`, `UnitTo.of_waveOp` or
`WaveLaw.of_mask` carries past the instruction. -/
theorem maskInstructions : Obligations.MaskInstructions := by
  unfold Obligations.MaskInstructions
  refine ⟨fun w i j m => ⟨w.kreg_zero, rfl, w.kreg_setK_same i m, w.kreg_setK_other i j m⟩,
    fun s h f => ⟨?kand, ?kor, ?kxor, ?knot, ?kmovKK, ?kmovKV, ?xget, ?xset, ?xand⟩, ?kmovVK, ?kpop, ?kffs⟩
  case kand => exact fun ha => .of_setK (v := fun w => w.kreg f.a.toNat &&& w.kreg f.b.toNat) ha (fun _ _ => rfl) rfl
  case kor => exact fun ha => .of_setK (v := fun w => w.kreg f.a.toNat ||| w.kreg f.b.toNat) ha (fun _ _ => rfl) rfl
  case kxor => exact fun ha => .of_setK (v := fun w => w.kreg f.a.toNat ^^^ w.kreg f.b.toNat) ha (fun _ _ => rfl) rfl
  case knot => exact fun ha => .of_setK (v := fun w => ~~~w.kreg f.a.toNat) ha (fun _ _ => rfl) rfl
  case kmovKK => exact fun ha => .of_setK (v := fun w => w.kreg f.a.toNat) ha (fun _ _ => rfl) rfl
  case kmovKV => exact fun ha => .of_setK (v := fun w => w.reg f.a.toNat (w.leader h)) ha (fun _ _ => rfl) rfl
  case xget => exact fun ha => .of_setK (v := Wave.x) ha (fun _ _ => rfl) rfl
  case xset =>
    exact fun ha => .of_waveOp (f := fun w => { w with x := w.kreg f.a.toNat &&& w.o }) ha (fun _ _ => rfl) rfl
  case xand =>
    exact fun ha => .of_waveOp (f := fun w => { w with x := w.x &&& w.kreg f.a.toNat }) ha (fun _ _ => rfl) rfl
  case kmovVK =>
    exact .of_mask (v := BitVec.toNat) (fun _ _ _ => rfl) fun w _ f _ => Nat.mod_eq_of_lt (w.kreg f.a.toNat).isLt
  case kpop =>
    refine .of_mask (v := fun m => popCount 32 m.toNat) (fun _ _ _ => rfl) fun w _ f _ => ?_
    have hle := lanesOf_length_le (w.kreg f.a.toNat)
    rw [popCount_toNat, Nat.mod_eq_of_lt (by omega)]
  case kffs =>
    refine .of_mask (v := fun m => ctzRes 32 m.toNat) (fun _ _ _ => rfl) fun w _ f _ => ?_
    have hspec := ctzRes_toNat_spec (w.kreg f.a.toNat)
    rwa [Nat.mod_eq_of_lt (by omega)]

/-! ## Branches (spec 08 R134) -/

/-- Targets are formed modulo 2^56. -/
theorem toNat_target (pc : DWord) (off : Int) :
    ((target pc off).toNat : Int) = ((pc.toNat : Int) + 8 * off) % 2 ^ 56 := by
  simp only [target, wrap, BitVec.toNat_ofNat]
  omega

theorem badAddr_eq_false {va size : Nat} : badAddr va size = false ↔ va < 2 ^ 56 ∧ va % size = 0 := by
  simp [badAddr]

theorem badAddr_eq_true {va size : Nat} : badAddr va size = true ↔ 2 ^ 56 ≤ va ∨ va % size ≠ 0 := by
  simp [badAddr]

/-- In a compute launch no path is recorded (spec 18 R265). -/
theorem State.recordPath_of_computes {s : State} (h : Head) (bit : Nat → Bool) (hc : Computes s) :
    s.recordPath s.cur h bit = s := by
  have hlive : (s.draw (s.unit s.cur).launch).live = false := hc
  simp [State.recordPath, hlive]

theorem Computes.setUnit_movedTo {s : State} (hc : Computes s) (p : DWord) :
    Computes (s.setUnit s.cur ((s.unit s.cur).movedTo p)) := by
  rw [Computes, State.cur_setUnit, State.unit_setUnit_same, State.draw_setUnit]
  exact hc

section branches

variable {s : State} {h : Head} {r : BitVec 8} {off : BitVec 32}

theorem UnitTo.of_bra (ha : Acts s (.BRA h off) h) (hc : Computes s) :
    UnitTo s (.BRA h off) ((s.unit s.cur).movedTo (target (s.unit s.cur).pc off.toInt)) := by
  have hrec := State.recordPath_of_computes h (fun _ => true) (hc.setUnit_movedTo (s.unit s.cur).pc)
  rw [State.cur_setUnit] at hrec
  rw [UnitTo, exec_BRA, execBra, State.issue_of_issues _ _ h _ ha.1]
  simp only [State.cur_setUnit, State.unit_setUnit_same, Wave.unheld_eq_movedTo, Wave.acts_movedTo, Wave.pc_movedTo,
    hrec, ha.2, if_true, State.goto_setUnit_movedTo]

theorem UnitTo.of_call (ha : Acts s (.CALL h r off) h) :
    UnitTo s (.CALL h r off) (((s.unit s.cur).movedTo (target (s.unit s.cur).pc off.toInt)).setDest
      ((s.unit s.cur).destMask h) true r.toNat ((s.unit s.cur).pc.toNat + 8)) := by
  rw [UnitTo, exec_CALL, execCall, State.waveOp_of_acts _ _ _ _ ha]
  simp only [State.cur_setUnit, State.unit_setUnit_same, State.setUnit_setUnit, Wave.unheld_eq_movedTo,
    Wave.destMask_movedTo, Wave.pc_movedTo, Wave.setDest_movedTo, State.goto_setUnit_movedTo]

theorem UnitTo.of_brx (ha : Acts s (.BRX h r off) h) :
    UnitTo s (.BRX h r off) ((s.unit s.cur).movedTo (target (s.unit s.cur).pc
      (off.toInt + ((s.unit s.cur).reg r.toNat ((s.unit s.cur).leader h)).toNat))) := by
  rw [UnitTo, exec_BRX, execBrx, State.waveOp_of_acts _ _ _ _ ha]
  simp only [State.cur_setUnit, State.unit_setUnit_same, Wave.unheld_eq_movedTo, Wave.leader_movedTo,
    Wave.reg_movedTo, Wave.pc_movedTo, State.goto_setUnit_movedTo]

/-- A branch to the leader's pair goes there, or raises ALIGN. -/
theorem State.branchTo_of_acts {i : Instr} (ha : Acts s i h) :
    s.branchTo i h r =
      let t := (s.unit s.cur).val true r.toNat ((s.unit s.cur).leader h)
      if badAddr t 8 then (s.setUnit s.cur ((s.unit s.cur).movedTo (s.unit s.cur).pc)).trap i causeAlign
      else s.setUnit s.cur ((s.unit s.cur).movedTo (BitVec.ofNat 64 t)) := by
  rw [State.branchTo, State.waveOp_of_acts _ _ _ _ ha]
  simp only [State.cur_setUnit, State.unit_setUnit_same, Wave.unheld_eq_movedTo, Wave.leader_movedTo,
    Wave.val_movedTo, State.goto_setUnit_movedTo]

end branches

theorem exec_jmp_or_ret {s : State} {h : Head} {r : BitVec 8} {i : Instr} (hi : i ∈ [.JMP h r, .RET h r]) :
    exec i s = .next (s.branchTo i h r) := by
  simp only [List.mem_cons, List.not_mem_nil, or_false] at hi
  rcases hi with rfl | rfl <;> rfl

/-- Settles O18: a PC-relative branch leaves its unit at `target`, and a branch to a pair at the pair's value where
`badAddr` lets it pass. -/
theorem branches : Obligations.Branches := by
  unfold Obligations.Branches
  intro s h r off w t goes moved
  refine ⟨fun ha hc => ⟨_, .of_bra ha hc, rfl, toNat_target _ _⟩, fun ha => ⟨_, .of_call ha, ?_, ?_⟩,
    fun ha => ⟨_, .of_brx ha, rfl, toNat_target _ _⟩, fun i hi ha => ?_⟩
  · rw [Wave.setDest_movedTo]
    exact toNat_target _ _
  · rw [Wave.setDest_movedTo, Wave.pc_movedTo, ← Wave.setDest_movedTo]
    exact .of_setDest _ _ _ _ _
  · have hx := exec_jmp_or_ret (s := s) hi
    rw [State.branchTo_of_acts ha] at hx
    refine ⟨fun hlt hal => ?_, fun hbad => .of_trap_unheld (State.park_of_ready ha.1.ready) ?_⟩
    · rwa [if_neg (Bool.eq_false_iff.mp (badAddr_eq_false.mpr ⟨hlt, hal⟩))] at hx
    · rwa [if_pos (badAddr_eq_true.mpr hbad)] at hx

end Sys2Proof.Machine
end

section
/-!
SUPPORT. The fields of a word: a word is what its fields pack to, from the lowest bit up, exactly where each field reads
as its value. With this the head of a first word and the codes of the typed fields (spec 03 R39, R47).
-/

namespace Sys2Proof

/-! ## Packing and reading fields -/

/-- The number whose fields, from the lowest bit up, have the given widths and values. -/
def packed : List (Nat × Nat) → Nat
  | [] => 0
  | (k, v) :: fs => v + 2 ^ k * packed fs

/-- The bits that the fields take together. -/
def totalWidth : List (Nat × Nat) → Nat
  | [] => 0
  | (k, _) :: fs => k + totalWidth fs

/-- Every value is small enough for its field. -/
def Fits : List (Nat × Nat) → Prop
  | [] => True
  | (k, v) :: fs => v < 2 ^ k ∧ Fits fs

/-- The fields stand in a number from the bit `lo` up. -/
def Holds (n : Nat) : Nat → List (Nat × Nat) → Prop
  | _, [] => True
  | lo, (k, v) :: fs => bits n lo k = v ∧ Holds n (lo + k) fs

theorem bits_lt (n lo len : Nat) : bits n lo len < 2 ^ len := Nat.mod_lt _ (Nat.two_pow_pos len)

theorem bits_add (n lo j k : Nat) : bits n lo (j + k) = bits n lo j + 2 ^ j * bits n (lo + j) k := by
  simp only [bits, Nat.pow_add, Nat.mod_mul, Nat.div_div_eq_div_mul]

theorem eq_and_eq_of_add_mul_eq {m x y a b : Nat} (hx : x < m) (hy : y < m) (h : x + m * a = y + m * b) :
    x = y ∧ a = b := by
  have hm : 0 < m := by omega
  have hmod := congrArg (· % m) h
  have hdiv := congrArg (· / m) h
  simp only [Nat.add_mul_mod_self_left, Nat.mod_eq_of_lt hx, Nat.mod_eq_of_lt hy] at hmod
  simp only [Nat.add_mul_div_left _ _ hm, Nat.div_eq_of_lt hx, Nat.div_eq_of_lt hy, Nat.zero_add] at hdiv
  exact ⟨hmod, hdiv⟩

/-- A part of a number is what fields pack to exactly where each field stands in it. -/
theorem bits_eq_packed {n : Nat} : ∀ {fs : List (Nat × Nat)} {lo : Nat}, Fits fs →
    (bits n lo (totalWidth fs) = packed fs ↔ Holds n lo fs)
  | [], lo, _ => by simp [bits, totalWidth, packed, Holds, Nat.mod_one]
  | (k, v) :: fs, lo, ⟨hv, hfs⟩ => by
    simp only [totalWidth, packed, Holds, bits_add, ← bits_eq_packed hfs]
    constructor
    · exact eq_and_eq_of_add_mul_eq (bits_lt n lo k) hv
    · rintro ⟨h1, h2⟩
      rw [h1, h2]

theorem packed_lt : ∀ {fs : List (Nat × Nat)}, Fits fs → packed fs < 2 ^ totalWidth fs
  | [], _ => by simp [packed, totalWidth]
  | (k, v) :: fs, ⟨hv, hfs⟩ => by
    have := packed_lt hfs
    calc v + 2 ^ k * packed fs < 2 ^ k + 2 ^ k * packed fs := by omega
      _ = 2 ^ k * (packed fs + 1) := by ring
      _ ≤ 2 ^ k * 2 ^ totalWidth fs := Nat.mul_le_mul_left _ this
      _ = 2 ^ totalWidth ((k, v) :: fs) := by rw [totalWidth, Nat.pow_add]

theorem bits_toNat (w : DWord) : bits w.toNat 0 64 = w.toNat := by
  simp [bits, Nat.mod_eq_of_lt w.isLt]

/-- A word is what its fields pack to exactly where each field stands in it. -/
theorem ofNat_eq_iff_holds {w : DWord} {n : Nat} {fs : List (Nat × Nat)} (hn : n = packed fs) (hfit : Fits fs)
    (hw : totalWidth fs = 64) : BitVec.ofNat 64 n = w ↔ Holds w.toNat 0 fs := by
  have hlt := packed_lt hfit
  rw [hw] at hlt
  rw [← bits_eq_packed hfit, hw, bits_toNat, hn, ← BitVec.toNat_inj, BitVec.toNat_ofNat, Nat.mod_eq_of_lt hlt, eq_comm]

/-! ## Codes of the typed fields -/

theorem toNat_ofNat_bits (n lo k : Nat) : (BitVec.ofNat k (bits n lo k)).toNat = bits n lo k := by
  rw [BitVec.toNat_ofNat, Nat.mod_eq_of_lt (bits_lt n lo k)]

theorem ofNat_bits_eq_iff {n lo k : Nat} {v : BitVec k} : BitVec.ofNat k (bits n lo k) = v ↔ bits n lo k = v.toNat := by
  rw [← BitVec.toNat_inj, toNat_ofNat_bits]

theorem bits_one_eq_iff {n k : Nat} {b : Bool} : bits n k 1 = b.toNat ↔ bit n k = b := by
  rw [bits, pow_one, ← toNat_bit]
  cases bit n k <;> cases b <;> decide

theorem Rate.code_lt (r : Rate) : r.code < 2 ^ 3 := by cases r <;> decide

theorem Rate.ofCode_eq_iff {n : Nat} (hn : n < 2 ^ 3) {r : Rate} : Rate.ofCode n = r ↔ n = r.code := by
  revert n
  cases r <;> decide

theorem Ty.code_lt (t : Ty) : t.code < 2 ^ 4 := by cases t <;> decide

theorem Ty.ofCode_eq_some {n : Nat} {t : Ty} : Ty.ofCode n = some t ↔ n = t.code := by
  constructor
  · unfold Ty.ofCode
    split <;> rintro ⟨⟩ <;> rfl
  · rintro rfl
    cases t <;> rfl

theorem Size.code_lt (z : Size) : z.code < 2 ^ 3 := by cases z <;> decide

theorem Size.ofCode_eq_some {n : Nat} {z : Size} : Size.ofCode n = some z ↔ n = z.code := by
  constructor
  · unfold Size.ofCode
    split <;> rintro ⟨⟩ <;> rfl
  · rintro rfl
    cases z <;> rfl

theorem Order.code_lt (o : Order) : o.code < 2 ^ 2 := by cases o <;> decide

theorem Order.ofCode_eq_iff {n : Nat} (hn : n < 2 ^ 2) {o : Order} : Order.ofCode n = o ↔ n = o.code := by
  revert n
  cases o <;> decide

theorem AtomOp.code_lt (op : AtomOp) : op.code < 2 ^ 4 := by cases op <;> decide

theorem AtomOp.ofCode_eq_some {n : Nat} {op : AtomOp} : AtomOp.ofCode n = some op ↔ n = op.code := by
  constructor
  · unfold AtomOp.ofCode
    split <;> rintro ⟨⟩ <;> rfl
  · rintro rfl
    cases op <;> rfl

theorem Kind.code_lt (k : Kind) : k.code < 2 ^ 2 := by cases k <;> decide

theorem Kind.ofCode_eq_some {n : Nat} {k : Kind} : Kind.ofCode n = some k ↔ n = k.code := by
  constructor
  · unfold Kind.ofCode
    split <;> rintro ⟨⟩ <;> rfl
  · rintro rfl
    cases k <;> rfl

theorem Special.code_lt (sp : Special) : sp.code < 2 ^ 8 := by cases sp <;> decide

theorem Special.ofCode_eq_some {n : Nat} {sp : Special} : Special.ofCode n = some sp ↔ n = sp.code := by
  constructor
  · unfold Special.ofCode
    split <;> rintro ⟨⟩ <;> rfl
  · rintro rfl
    cases sp <;> rfl

theorem WCmp.code_lt (c : WCmp) : c.code < 2 ^ 3 := by cases c <;> decide

theorem WCmp.ofCode_eq_some {n : Nat} {c : WCmp} : WCmp.ofCode n = some c ↔ n = c.code := by
  constructor
  · unfold WCmp.ofCode
    split <;> rintro ⟨⟩ <;> rfl
  · rintro rfl
    cases c <;> rfl

theorem SweepOp.code_lt (op : SweepOp) : op.code < 2 ^ 4 := by cases op <;> decide

theorem SweepOp.ofCode_eq_some {n : Nat} {op : SweepOp} : SweepOp.ofCode n = some op ↔ n = op.code := by
  constructor
  · unfold SweepOp.ofCode
    split <;> rintro ⟨⟩ <;> rfl
  · rintro rfl
    cases op <;> rfl

theorem MTy.code_lt (t : MTy) : t.code < 2 ^ 3 := by cases t <;> decide

theorem MTy.ofCode_eq_some {n : Nat} {t : MTy} : MTy.ofCode n = some t ↔ n = t.code := by
  constructor
  · unfold MTy.ofCode
    split <;> rintro ⟨⟩ <;> rfl
  · rintro rfl
    cases t <;> rfl

/-! ## First words (spec 03 R39) -/

theorem headOf_eq_iff {n : Nat} {h : Head} : headOf n = h ↔
    bit n 57 = h.gate ∧ bits n 54 3 = h.rate.code ∧ bits n 50 4 = h.guard.toNat ∧ bit n 49 = h.gneg ∧
      bits n 44 4 = h.hints.toNat := by
  obtain ⟨gate, rate, guard, gneg, hints⟩ := h
  simp only [headOf, Head.mk.injEq, Rate.ofCode_eq_iff (bits_lt n 54 3), ofNat_bits_eq_iff]

theorem bits_one_eq_zero_iff {n k : Nat} : bits n k 1 = 0 ↔ bit n k = false :=
  bits_one_eq_iff (b := false)

/-- A word is a first word of a major, a head and fields below bit 44 exactly where it has them. -/
theorem word_eq_iff {M : Nat} {h : Head} {e : Bool} {low : Nat} {w : DWord} {fs : List (Nat × Nat)}
    (hM : M < 2 ^ 6) (hlow : low = packed fs) (hfit : Fits fs) (hw : totalWidth fs = 44) :
    word M h e low = w ↔
      bits w.toNat 58 6 = M ∧ headOf w.toNat = h ∧ hasExt w = e ∧ Holds w.toNat 0 fs := by
  have hlt := packed_lt hfit
  rw [hw] at hlt
  rw [word, ofNat_eq_iff_holds (fs := [(44, low), (4, h.hints.toNat), (1, e.toNat), (1, h.gneg.toNat),
    (4, h.guard.toNat), (3, h.rate.code), (1, h.gate.toNat), (6, M)]), headOf_eq_iff, ← bits_eq_packed hfit, hw, ← hlow]
  · simp only [Holds, Nat.zero_add, Nat.reduceAdd, bits_one_eq_iff, hasExt]
    tauto
  · simp only [headBits, packed]
    ring
  · exact ⟨hlow ▸ hlt, h.hints.isLt, e.toNat_lt, h.gneg.toNat_lt, h.guard.isLt, h.rate.code_lt, h.gate.toNat_lt, hM,
      trivial⟩
  · rfl

end Sys2Proof
end

section
/-!
SUPPORT. The formats of majors 0x00 to 0x03: what their words and their fields have to do with each other (spec 03 R54 to
R57).
-/

namespace Sys2Proof

/-! ## Conditions and words -/

@[simp] theorem condIf_eq_nil {p : Bool} {c : Cond} : condIf p c = [] ↔ p = false := by
  cases p <;> simp [condIf]

@[simp] theorem mustZero_eq_nil {ext : Bool} {lo n : Nat} : mustZero ext lo n = [] ↔ n = 0 := by
  unfold mustZero
  split <;> simp_all

@[simp] theorem noExt_map_eq_nil {x : Option DWord} : noExt (x.map BitVec.toNat) = [] ↔ x = none := by
  cases x <;> simp [noExt]

section formats
variable {w : DWord} {l : List DWord} {x : Option DWord} {h : Head}

/-- The decoder reads the words as the instruction. -/
structure ReadAs (w : DWord) (x : Option DWord) (i : Instr) : Prop where
  major_lt : bits w.toNat 58 6 < 0x38
  hasExt_eq : hasExt w = x.isSome
  parts_eq : decodeParts w.toNat (x.map BitVec.toNat) = ([], some i)

/-! ## Control (spec 03 R54) -/

theorem controlWord_eq_iff {minor operand : Nat} {fs : List (Nat × Nat)} (hm : minor < 64)
    (hop : operand = packed fs) (hfit : Fits fs) (hw : totalWidth fs = 38) :
    word 0x00 h false (minor * 2 ^ 38 + operand) = w ↔
      bits w.toNat 58 6 = 0x00 ∧ headOf w.toNat = h ∧ hasExt w = false ∧ bits w.toNat 38 6 = minor ∧
        Holds w.toNat 0 fs := by
  have hlt := packed_lt hfit
  rw [hw] at hlt
  rw [word_eq_iff (fs := [(38, operand), (6, minor)]) (by decide) (by simp only [packed]; ring)
    ⟨hop ▸ hlt, hm, trivial⟩ rfl, ← bits_eq_packed hfit, hw, ← hop]
  simp only [Holds, Nat.zero_add]
  tauto

theorem encodeControl_zero_eq_iff {minor : Nat} (hm : minor < 64) :
    encodeControl minor h 0 = w :: l ↔
      (bits w.toNat 58 6 = 0x00 ∧ headOf w.toNat = h ∧ hasExt w = false ∧ bits w.toNat 38 6 = minor ∧
        bits w.toNat 0 38 = 0) ∧ [] = l := by
  rw [encodeControl, List.cons.injEq, controlWord_eq_iff (fs := [(38, 0)]) hm (by rfl) ⟨by decide, trivial⟩ rfl]
  simp only [Holds, and_true]

theorem encodeControl_code_eq_iff {minor : Nat} (hm : minor < 64) {k : Nat} (hk : k ≤ 38) (code : BitVec k) :
    encodeControl minor h code.toNat = w :: l ↔
      (bits w.toNat 58 6 = 0x00 ∧ headOf w.toNat = h ∧ hasExt w = false ∧ bits w.toNat 38 6 = minor ∧
        bits w.toNat 0 k = code.toNat ∧ bits w.toNat k (38 - k) = 0) ∧ [] = l := by
  rw [encodeControl, List.cons.injEq, controlWord_eq_iff (fs := [(k, code.toNat), (38 - k, 0)]) hm (by simp [packed])
    ⟨code.isLt, by simp, trivial⟩ (by simp [totalWidth]; omega)]
  simp only [Holds, and_true, Nat.zero_add]

theorem encodeControl_range_eq_iff {minor : Nat} (hm : minor < 64) (base : BitVec 7) (len : BitVec 8) :
    encodeControl minor h (base.toNat * 2 ^ 31 + len.toNat * 2 ^ 23) = w :: l ↔
      (bits w.toNat 58 6 = 0x00 ∧ headOf w.toNat = h ∧ hasExt w = false ∧ bits w.toNat 38 6 = minor ∧
        bits w.toNat 0 23 = 0 ∧ bits w.toNat 23 8 = len.toNat ∧ bits w.toNat 31 7 = base.toNat) ∧ [] = l := by
  rw [encodeControl, List.cons.injEq, controlWord_eq_iff (fs := [(23, 0), (8, len.toNat), (7, base.toNat)]) hm
    (by simp only [packed]; ring) ⟨by decide, len.isLt, base.isLt, trivial⟩ rfl]
  simp only [Holds, and_true, Nat.zero_add, Nat.reduceAdd]

theorem decodeControl_sound {i : Instr} (hM : bits w.toNat 58 6 = 0x00) (hx : hasExt w = x.isSome)
    (hd : decodeControl w.toNat (x.map BitVec.toNat) = ([], some i)) : WellFormed i ∧ encode i = w :: x.toList := by
  simp only [decodeControl] at hd
  split at hd <;> simp only [Prod.mk.injEq, List.append_eq_nil_iff, mustZero_eq_nil, noExt_map_eq_nil,
    Option.some.injEq, reduceCtorEq, and_false] at hd <;> obtain ⟨hc, rfl⟩ := hd
  all_goals
    simp only [WellFormed, Instr.conds, encode, encodeControl_zero_eq_iff, encodeControl_code_eq_iff,
      encodeControl_range_eq_iff, Nat.reduceLT, Nat.reduceLeDiff, -Nat.reducePow]
    simp only [toNat_ofNat_bits, Option.toList_none, Option.isSome_none, and_self, *]

theorem decodeControl_complete {i : Instr} {code : BitVec 16} {token : BitVec 12} {base : BitVec 7} {len : BitVec 8}
    (hi : i ∈ [.NOP h, .EXIT h, .TRAP h code, .BRK h code, .TRET h, .SAFEPT h token, .IDEM_BEGIN h, .IDEM_END h,
      .MEET h token, .ICINV h base len, .IFENCE h]) (hwf : WellFormed i) (he : encode i = w :: x.toList) :
    ReadAs w x i := by
  simp only [List.mem_cons, List.not_mem_nil, or_false] at hi
  rcases hi with rfl | rfl | rfl | rfl | rfl | rfl | rfl | rfl | rfl | rfl | rfl
  all_goals
    simp only [encode, encodeControl_zero_eq_iff, encodeControl_code_eq_iff, encodeControl_range_eq_iff, Nat.reduceLT,
      Nat.reduceLeDiff, Nat.reduceSub, -Nat.reducePow, eq_comm (a := []), Option.toList_eq_nil_iff] at he
    obtain ⟨⟨hM, rfl, hx, hm, hz⟩, rfl⟩ := he
    simp only [WellFormed, Instr.conds] at hwf
    refine ⟨by omega, hx, (decodeParts_control _ hM).trans ?_⟩
    simp [decodeControl, noExt, hm, hz, hwf]

/-! ## Branches (spec 03 R55) -/

theorem encodeBranch_eq_iff {minor r off : Nat} (hm : minor < 2 ^ 4) (hr : r < 2 ^ 8) (hoff : off < 2 ^ 32) :
    encodeBranch minor h r off = w :: l ↔
      (bits w.toNat 58 6 = 0x01 ∧ headOf w.toNat = h ∧ hasExt w = false ∧ bits w.toNat 40 4 = minor ∧
        bits w.toNat 32 8 = r ∧ bits w.toNat 0 32 = off) ∧ [] = l := by
  rw [encodeBranch, List.cons.injEq, word_eq_iff (fs := [(32, off), (8, r), (4, minor)]) (by decide)
    (by simp only [packed]; ring) ⟨hoff, hr, hm, trivial⟩ rfl]
  simp only [Holds, and_true, Nat.zero_add, Nat.reduceAdd]
  tauto

theorem decodeBranch_sound {i : Instr} (hM : bits w.toNat 58 6 = 0x01) (hx : hasExt w = x.isSome)
    (hd : decodeBranch w.toNat (x.map BitVec.toNat) = ([], some i)) : WellFormed i ∧ encode i = w :: x.toList := by
  simp only [decodeBranch] at hd
  split at hd <;> simp only [Prod.mk.injEq, List.append_eq_nil_iff, mustZero_eq_nil, noExt_map_eq_nil, condIf_eq_nil,
    Option.some.injEq, reduceCtorEq, and_false] at hd <;> obtain ⟨hc, rfl⟩ := hd
  all_goals
    refine ⟨?_, (encodeBranch_eq_iff (by decide) (by simp only [↓BitVec.isLt, ↓Nat.two_pow_pos])
      (by simp only [↓BitVec.isLt, ↓Nat.two_pow_pos])).mpr ?_⟩
    all_goals simp only [WellFormed, Instr.conds, toNat_ofNat_bits, condIf_eq_nil, Option.toList_none,
      Option.isSome_none, and_self, *]

theorem decodeBranch_complete {i : Instr} {r : BitVec 8} {off : BitVec 32}
    (hi : i ∈ [.BRA h off, .CALL h r off, .JMP h r, .RET h r, .BRX h r off]) (hwf : WellFormed i)
    (he : encode i = w :: x.toList) :
    ReadAs w x i := by
  simp only [List.mem_cons, List.not_mem_nil, or_false] at hi
  rcases hi with rfl | rfl | rfl | rfl | rfl
  all_goals
    rw [encode, encodeBranch_eq_iff (by decide) (by simp only [↓BitVec.isLt, ↓Nat.two_pow_pos])
      (by simp only [↓BitVec.isLt, ↓Nat.two_pow_pos]), eq_comm (a := []), Option.toList_eq_nil_iff] at he
    obtain ⟨⟨hM, rfl, hx, hm, hr, hoff⟩, rfl⟩ := he
    simp only [WellFormed, Instr.conds, condIf_eq_nil] at hwf
    refine ⟨by omega, hx, (decodeParts_branch _ hM).trans ?_⟩
    simp [decodeBranch, noExt, hm, hr, hoff, hwf]

/-! ## Forks (spec 03 R56) -/

theorem encodeFork_eq_iff {k : BitVec 4} {live join : BitVec 12} {off : BitVec 32} :
    encode (.FORK h k live join off) = w :: l ↔
      (bits w.toNat 58 6 = 0x02 ∧ headOf w.toNat = h ∧ hasExt w = true ∧ bits w.toNat 0 16 = 0 ∧
        bits w.toNat 16 12 = join.toNat ∧ bits w.toNat 28 12 = live.toNat ∧ bits w.toNat 40 4 = k.toNat) ∧
      [BitVec.ofNat 64 off.toNat] = l := by
  rw [encode, List.cons.injEq, word_eq_iff (fs := [(16, 0), (12, join.toNat), (12, live.toNat), (4, k.toNat)])
    (by decide) (by simp only [packed]; ring) ⟨by decide, join.isLt, live.isLt, k.isLt, trivial⟩ rfl]
  simp only [Holds, and_true, Nat.zero_add, Nat.reduceAdd]

/-- A word is the number of its low 32 bits exactly where the others are zero. -/
theorem ofNat_toNat_eq_iff {e : DWord} {v : BitVec 32} :
    BitVec.ofNat 64 v.toNat = e ↔ e.toNat / 2 ^ 32 = 0 ∧ bits e.toNat 0 32 = v.toNat := by
  have hv := v.isLt
  have he := e.isLt
  rw [← BitVec.toNat_inj, BitVec.toNat_ofNat, bits]
  omega

theorem decodeFork_sound {i : Instr} (hM : bits w.toNat 58 6 = 0x02) (hx : hasExt w = x.isSome)
    (hd : decodeFork w.toNat (x.map BitVec.toNat) = ([], some i)) : WellFormed i ∧ encode i = w :: x.toList := by
  cases x with
  | none => simp [decodeFork, condIf] at hd
  | some e =>
    simp only [decodeFork, Option.map_some, Option.getD_some, Prod.mk.injEq, List.append_eq_nil_iff, mustZero_eq_nil,
      condIf_eq_nil, Option.some.injEq, ne_eq, decide_not, Bool.not_eq_false', decide_eq_true_eq] at hd
    obtain ⟨⟨⟨⟨hg, h0⟩, -⟩, hhigh⟩, rfl⟩ := hd
    refine ⟨hg, encodeFork_eq_iff.mpr ?_⟩
    have hlow : BitVec.ofNat 64 (BitVec.ofNat 32 (bits e.toNat 0 32)).toNat = e :=
      ofNat_toNat_eq_iff.mpr ⟨hhigh, (toNat_ofNat_bits _ _ _).symm⟩
    rw [hlow]
    simp only [toNat_ofNat_bits, Option.toList_some, hM, hx, h0, Option.isSome_some, and_self]

theorem decodeFork_complete {k : BitVec 4} {live join : BitVec 12} {off : BitVec 32}
    (hwf : WellFormed (.FORK h k live join off)) (he : encode (.FORK h k live join off) = w :: x.toList) :
    ReadAs w x (.FORK h k live join off) := by
  rw [encodeFork_eq_iff] at he
  obtain ⟨⟨hM, rfl, hx, h0, hj, hl, hk⟩, he⟩ := he
  cases x with
  | none => simp at he
  | some e =>
    simp only [Option.toList_some, List.cons.injEq, and_true, ofNat_toNat_eq_iff] at he
    simp only [WellFormed, Instr.conds] at hwf
    have hlt : e.toNat < 4294967296 := Nat.lt_of_div_eq_zero (by decide) he.1
    refine ⟨by omega, hx, (decodeParts_fork _ hM).trans ?_⟩
    simp [decodeFork, hwf, h0, hj, hl, hk, he.2, hlt]

/-! ## Special registers (spec 03 R57) -/

theorem decodeParts_special {n : Nat} (ext : Option Nat) (hM : bits n 58 6 = 0x03) :
    decodeParts n ext = decodeSpecial n ext := by simp [decodeParts, hM]

theorem encodeSpecial_eq_iff {r : BitVec 8} {sp : Special} {write : Bool} :
    encodeSpecial h r.toNat sp write = w :: l ↔
      (bits w.toNat 58 6 = 0x03 ∧ headOf w.toNat = h ∧ hasExt w = false ∧ bits w.toNat 0 27 = 0 ∧
        bit w.toNat 27 = write ∧ bits w.toNat 28 8 = sp.code ∧ bits w.toNat 36 8 = r.toNat) ∧ [] = l := by
  rw [encodeSpecial, List.cons.injEq, word_eq_iff (fs := [(27, 0), (1, write.toNat), (8, sp.code), (8, r.toNat)])
    (by decide) (by simp only [packed]; ring) ⟨by decide, write.toNat_lt, sp.code_lt, r.isLt, trivial⟩ rfl]
  simp only [Holds, and_true, Nat.zero_add, Nat.reduceAdd, bits_one_eq_iff]

theorem decodeSpecial_sound {i : Instr} (hM : bits w.toNat 58 6 = 0x03) (hx : hasExt w = x.isSome)
    (hd : decodeSpecial w.toNat (x.map BitVec.toNat) = ([], some i)) : WellFormed i ∧ encode i = w :: x.toList := by
  simp only [decodeSpecial] at hd
  split at hd
  next => simp at hd
  next sp hsp =>
    rw [Special.ofCode_eq_some] at hsp
    split at hd <;> simp only [Prod.mk.injEq, List.append_eq_nil_iff, mustZero_eq_nil, noExt_map_eq_nil,
      Option.some.injEq] at hd <;> obtain ⟨hc, rfl⟩ := hd
    all_goals
      refine ⟨?_, encodeSpecial_eq_iff.mpr ?_⟩
      all_goals simp only [WellFormed, Instr.conds, toNat_ofNat_bits, List.append_eq_nil_iff, Option.toList_none,
        Option.isSome_none, and_self, *]

theorem decodeSpecial_complete {i : Instr} {r : BitVec 8} {sp : Special} (hi : i ∈ [.SYSR h r sp, .SYSW h sp r])
    (hwf : WellFormed i) (he : encode i = w :: x.toList) :
    ReadAs w x i := by
  simp only [List.mem_cons, List.not_mem_nil, or_false] at hi
  rcases hi with rfl | rfl
  all_goals
    rw [encode, encodeSpecial_eq_iff, eq_comm (a := []), Option.toList_eq_nil_iff] at he
    obtain ⟨⟨hM, rfl, hx, h0, hw, hsp, hr⟩, rfl⟩ := he
    simp only [WellFormed, Instr.conds, List.append_eq_nil_iff] at hwf
    refine ⟨by omega, hx, (decodeParts_special _ hM).trans ?_⟩
    simp only [decodeSpecial, Special.ofCode_eq_some.mpr hsp]
    simp [noExt, h0, hw, hr, hwf]

end formats
end Sys2Proof
end

section
/-!
SUPPORT. The ALU format: what its rows, its constructors and its words have to do with each other (spec 03 R49, R61 to
R64).
-/

namespace Sys2Proof

/-! ## Rows and constructors -/

/-- The majors of the ALU format (spec 03 R61 to R64). -/
def aluMajors : List Nat :=
  [0x08, 0x0C, 0x0D, 0x0E, 0x0F, 0x18, 0x19, 0x1A, 0x1B, 0x22, 0x23, 0x2F, 0x30, 0x31, 0x32, 0x33, 0x34, 0x35, 0x36]

/-- A constructor makes the instructions of one row, which has the given major and minor. -/
def OfRow (mk : Head → AluF → Instr) (major minor : Nat) : Prop :=
  ∃ r : AluRow, r.major = major ∧ r.minor = minor ∧ ∀ h f, (mk h f).alu? = some (r, h, f)

theorem OfRow.ite {p : Prop} [Decidable p] {a b : Head → AluF → Instr} {major minor : Nat} (ha : OfRow a major minor)
    (hb : OfRow b major minor) : OfRow (if p then a else b) major minor := by
  split
  · exact ha
  · exact hb

theorem aluMk_ofRow {major minor mod : Nat} {mk : Head → AluF → Instr} (hM : major ∈ aluMajors) (hm : minor < 2 ^ 4)
    (hmk : aluMk major minor mod = some mk) : OfRow mk major minor := by
  fin_cases hM <;> interval_cases minor <;> cases hmk
  all_goals
    repeat' apply OfRow.ite
    all_goals exact ⟨_, rfl, rfl, fun _ _ => rfl⟩

/-- What an instruction of the ALU format is under its row: its words, its conditions and its place in the tables. -/
structure Instr.UnderRow (i : Instr) (r : AluRow) (h : Head) (f : AluF) : Prop where
  major : r.major ∈ aluMajors
  minor : r.minor < 2 ^ 4
  words : encode i = encodeAlu r h f
  conds : i.conds = (if r.major = 0x2F && r.minor = 7 then noGuardConds h else []) ++ aluConds r f.raw

theorem Instr.underRow {i : Instr} {r : AluRow} {h : Head} {f : AluF} (hi : i.alu? = some (r, h, f)) :
    i.UnderRow r h f := by
  cases i <;> cases hi <;> exact ⟨by decide, by decide, rfl, rfl⟩

theorem aluMk_kmov (mod : Nat) : aluMk 0x08 4 mod =
    some (if mod = 1 then .KMOV_K_V else if mod = 2 then .KMOV_V_K else .KMOV_K_K) := rfl

theorem aluMk_emit (mod : Nat) : aluMk 0x31 1 mod = some (if mod = 1 then .EMIT_PRIM else .EMIT_VTX) := rfl

/-- The reductions and scans of major 0x23, which bit 0 of mod tells apart. -/
theorem aluMk_fold (mod : Nat) :
    aluMk 0x23 0 mod = some (if mod % 2 = 1 then .SCAN_ADD else .RED_ADD) ∧
    aluMk 0x23 1 mod = some (if mod % 2 = 1 then .SCAN_MIN else .RED_MIN) ∧
    aluMk 0x23 2 mod = some (if mod % 2 = 1 then .SCAN_MAX else .RED_MAX) ∧
    aluMk 0x23 3 mod = some (if mod % 2 = 1 then .SCAN_AND else .RED_AND) ∧
    aluMk 0x23 4 mod = some (if mod % 2 = 1 then .SCAN_OR else .RED_OR) ∧
    aluMk 0x23 5 mod = some (if mod % 2 = 1 then .SCAN_XOR else .RED_XOR) :=
  ⟨rfl, rfl, rfl, rfl, rfl, rfl⟩

/-- The constructor at an instruction's place in the tables is its own, where mod is one that its row lists. -/
theorem aluMk_of_alu? {i : Instr} {r : AluRow} {h : Head} {f : AluF} (hi : i.alu? = some (r, h, f))
    (hm : modConds r.mod f.mod.toNat = []) : ∃ mk, aluMk r.major r.minor f.mod.toNat = some mk ∧ mk h f = i := by
  cases i <;> cases hi
  case KMOV_K_K | KMOV_K_V | KMOV_V_K =>
    refine ⟨_, aluMk_kmov _, ?_⟩
    simp only [modConds, condIf_eq_nil, decide_eq_false_iff_not, not_not] at hm
    simp [hm]
  case EMIT_VTX | EMIT_PRIM =>
    refine ⟨_, aluMk_emit _, ?_⟩
    simp only [modConds, condIf_eq_nil, decide_eq_false_iff_not, not_not] at hm
    simp [hm]
  case RED_ADD | RED_MIN | RED_MAX | RED_AND | RED_OR | RED_XOR | SCAN_ADD | SCAN_MIN | SCAN_MAX
    | SCAN_AND | SCAN_OR | SCAN_XOR =>
    simp only [modConds, condIf_eq_nil, decide_eq_false_iff_not, not_not, List.append_eq_nil_iff] at hm
    simp [aluMk_fold, hm]
  all_goals exact ⟨_, rfl, rfl⟩

/-! ## Words -/

section words
variable {w : DWord} {x : Option DWord} {h : Head}

theorem toList_eq_toList_iff {α : Type} {a b : Option α} : a.toList = b.toList ↔ a = b := by
  cases a <;> cases b <;> simp

theorem aluRawOf_eq_raw_iff {n : Nat} {f : AluF} : aluRawOf n (x.map BitVec.toNat) = f.raw ↔
    bits n 36 8 = f.d.toNat ∧ bits n 28 8 = f.a.toNat ∧ bits n 20 8 = f.b.toNat ∧ bits n 12 8 = f.c.toNat ∧
      bits n 4 4 = f.ty.code ∧ bit n 3 = f.imm ∧ bits n 0 3 = f.mod.toNat ∧ x = f.ext := by
  simp only [aluRawOf, AluF.raw, AluRaw.mk.injEq, Option.map_inj_right fun _ _ => BitVec.eq_of_toNat_eq]

theorem typed_aluRawOf_eq_some {n : Nat} {f : AluF} :
    (aluRawOf n (x.map BitVec.toNat)).typed = some f ↔ aluRawOf n (x.map BitVec.toNat) = f.raw := by
  have hx : (x.map BitVec.toNat).map (BitVec.ofNat 64) = x := by cases x <;> simp
  rw [aluRawOf_eq_raw_iff]
  obtain ⟨d, a, b, c, ty, imm, mod, ext⟩ := f
  simp only [AluRaw.typed, aluRawOf, Option.map_eq_some_iff, Ty.ofCode_eq_some, AluF.mk.injEq, ofNat_bits_eq_iff, hx]
  constructor
  · rintro ⟨t, ht, hd, ha, hb, hc, rfl, hrest⟩
    exact ⟨hd, ha, hb, hc, ht, hrest⟩
  · rintro ⟨hd, ha, hb, hc, ht, hrest⟩
    exact ⟨ty, ht, hd, ha, hb, hc, rfl, hrest⟩

/-- The words of an ALU instruction are those whose fields are its own. -/
theorem encodeAlu_eq_iff {r : AluRow} {f : AluF} (hM : r.major < 2 ^ 6) (hm : r.minor < 2 ^ 4) :
    encodeAlu r h f = w :: x.toList ↔
      bits w.toNat 58 6 = r.major ∧ headOf w.toNat = h ∧ hasExt w = x.isSome ∧ bits w.toNat 8 4 = r.minor ∧
        aluRawOf w.toNat (x.map BitVec.toNat) = f.raw := by
  rw [encodeAlu, List.cons.injEq, word_eq_iff (fs := [(3, f.mod.toNat), (1, f.imm.toNat), (4, f.ty.code), (4, r.minor),
    (8, f.c.toNat), (8, f.b.toNat), (8, f.a.toNat), (8, f.d.toNat)]) hM (by simp only [packed]; ring)
    ⟨f.mod.isLt, f.imm.toNat_lt, f.ty.code_lt, hm, f.c.isLt, f.b.isLt, f.a.isLt, f.d.isLt, trivial⟩ rfl,
    aluRawOf_eq_raw_iff]
  simp only [Holds, Nat.zero_add, Nat.reduceAdd, bits_one_eq_iff, and_true, toList_eq_toList_iff]
  constructor
  · rintro ⟨⟨hM, hh, he, hmod, himm, hty, hmi, hc, hb, ha, hd⟩, rfl⟩
    exact ⟨hM, hh, he, hmi, hd, ha, hb, hc, hty, himm, hmod, rfl⟩
  · rintro ⟨hM, hh, he, hmi, hd, ha, hb, hc, hty, himm, hmod, rfl⟩
    exact ⟨⟨hM, hh, he, hmod, himm, hty, hmi, hc, hb, ha, hd⟩, rfl⟩

/-- What the decoder answers for a place in the tables where there is a row. -/
theorem decodeAlu_of_alu? {mk : Head → AluF → Instr} {r : AluRow} {n : Nat} {ext : Option Nat}
    (hmk : aluMk (bits n 58 6) (bits n 8 4) (aluRawOf n ext).mod = some mk)
    (hr : ∀ h f, (mk h f).alu? = some (r, h, f)) :
    decodeAlu n ext =
      ((if r.major = 0x2F && r.minor = 7 then noGuardConds (headOf n) else []) ++ aluConds r (aluRawOf n ext),
      (aluRawOf n ext).typed.map (mk (headOf n))) := by
  simp only [decodeAlu, hmk, hr]

theorem decodeParts_alu {n : Nat} (ext : Option Nat) (h : bits n 58 6 ∈ aluMajors) :
    decodeParts n ext = decodeAlu n ext := by
  unfold decodeParts
  generalize hm : bits n 58 6 = m at h
  fin_cases h <;> rfl

theorem decodeAlu_sound {i : Instr} (hM : bits w.toNat 58 6 ∈ aluMajors) (hx : hasExt w = x.isSome)
    (hd : decodeAlu w.toNat (x.map BitVec.toNat) = ([], some i)) : WellFormed i ∧ encode i = w :: x.toList := by
  cases hmk : aluMk (bits w.toNat 58 6) (bits w.toNat 8 4) (aluRawOf w.toNat (x.map BitVec.toNat)).mod with
  | none => simp [decodeAlu, hmk, unusedMinorConds] at hd
  | some mk =>
    obtain ⟨r, hrM, hrm, hr⟩ := aluMk_ofRow hM (bits_lt _ 8 4) hmk
    rw [decodeAlu_of_alu? hmk hr, Prod.mk.injEq, Option.map_eq_some_iff] at hd
    obtain ⟨hc, f, hf, rfl⟩ := hd
    have hu := Instr.underRow (hr (headOf w.toNat) f)
    rw [typed_aluRawOf_eq_some] at hf
    rw [hf] at hc
    exact ⟨hu.conds.trans hc, hu.words.trans ((encodeAlu_eq_iff (hrM ▸ bits_lt _ 58 6) hu.minor).mpr
      ⟨hrM.symm, rfl, hx, hrm.symm, hf⟩)⟩

theorem decodeAlu_complete {i : Instr} {r : AluRow} {f : AluF} (hi : i.alu? = some (r, h, f)) (hwf : WellFormed i)
    (he : encode i = w :: x.toList) :
    ReadAs w x i := by
  have hu := Instr.underRow hi
  have hM : r.major < 2 ^ 6 := (by decide : ∀ m ∈ aluMajors, m < 2 ^ 6) _ hu.major
  rw [hu.words, encodeAlu_eq_iff hM hu.minor] at he
  obtain ⟨hm, rfl, hx, hmi, hraw⟩ := he
  rw [WellFormed, hu.conds] at hwf
  have hmod : modConds r.mod f.mod.toNat = [] := by
    simp only [aluConds, List.append_eq_nil_iff] at hwf
    exact hwf.2.1.2
  obtain ⟨mk, hmk, rfl⟩ := aluMk_of_alu? hi hmod
  obtain ⟨r', -, -, hr⟩ := aluMk_ofRow hu.major hu.minor hmk
  obtain rfl : r' = r := by simpa [hr] using hi
  have hM' : bits w.toNat 58 6 ∈ aluMajors := hm ▸ hu.major
  refine ⟨(by decide : ∀ m ∈ aluMajors, m < 0x38) _ hM', hx, (decodeParts_alu _ hM').trans ?_⟩
  rw [decodeAlu_of_alu? (by rw [hm, hmi, hraw]; exact hmk) hr, hraw, hwf, ← hraw, typed_aluRawOf_eq_some.mpr hraw]
  rfl

end words
end Sys2Proof
end

section
/-!
SUPPORT. The memory format and its uses, waitu and the sweeps: what their words and their fields have to do with each
other (spec 01 R14, spec 03 R51 to R53, R58, R59).
-/

namespace Sys2Proof

section formats
variable {w : DWord} {x : Option DWord} {l : List DWord} {h : Head}

/-! ## Memory words (spec 01 R14) -/

/-- A memory word is the one whose fields are the given ones, with bit 8 zero. -/
theorem memWord_eq_iff {M data size order obs : Nat} {a : AddrF} {e : Bool} (ext : Option Nat) (hM : M < 2 ^ 6)
    (hdata : data < 2 ^ 8) (hsize : size < 2 ^ 3) (horder : order < 2 ^ 2) (hobs : obs < 2 ^ 5) :
    word M h e (memBits data a size order obs) = w ↔
      bits w.toNat 58 6 = M ∧ headOf w.toNat = h ∧ hasExt w = e ∧
        memRawOf w.toNat ext =
          { data := data, base := a.base.toNat, idx := a.idx, index := a.index.toNat, scl := a.scl, size := size
            order := order, obs := obs, mbz := false, disp := a.disp.toNat, ext := ext } := by
  rw [word_eq_iff (fs := [(8, a.disp.toNat), (1, 0), (5, obs), (2, order), (3, size), (1, a.scl.toNat),
    (8, a.index.toNat), (1, a.idx.toNat), (7, a.base.toNat), (8, data)]) hM (by simp only [packed, memBits]; ring)
    ⟨a.disp.isLt, by decide, hobs, horder, hsize, a.scl.toNat_lt, a.index.isLt, a.idx.toNat_lt, a.base.isLt, hdata,
      trivial⟩ rfl]
  simp only [Holds, Nat.zero_add, Nat.reduceAdd, bits_one_eq_iff, bits_one_eq_zero_iff, and_true, memRawOf,
    MemRaw.mk.injEq]
  constructor
  · rintro ⟨hM, hh, he, hdisp, hmbz, hobs, hord, hsz, hscl, hix, hidx, hbase, hdata⟩
    exact ⟨hM, hh, he, hdata, hbase, hidx, hix, hscl, hsz, hord, hobs, hmbz, hdisp⟩
  · rintro ⟨hM, hh, he, hdata, hbase, hidx, hix, hscl, hsz, hord, hobs, hmbz, hdisp⟩
    exact ⟨hM, hh, he, hdisp, hmbz, hobs, hord, hsz, hscl, hix, hidx, hbase, hdata⟩

theorem memWord_raw_eq_iff {M : Nat} {f : MemF} {e : Bool} (ext : Option Nat) (hM : M < 2 ^ 6) :
    word M h e (memBits f.data.toNat f.addr f.size.code f.order.code f.obs.toNat) = w ↔
      bits w.toNat 58 6 = M ∧ headOf w.toNat = h ∧ hasExt w = e ∧ memRawOf w.toNat ext = f.raw ext :=
  memWord_eq_iff ext hM f.data.isLt f.size.code_lt f.order.code_lt f.obs.isLt

theorem typed_memRawOf_eq_some {n : Nat} {ext : Option Nat} {f : MemF} (hmbz : (memRawOf n ext).mbz = false) :
    (memRawOf n ext).typed = some f ↔ memRawOf n ext = f.raw ext := by
  obtain ⟨data, ⟨base, idx, index, scl, disp⟩, size, order, obs⟩ := f
  simp only [memRawOf] at hmbz
  simp only [MemRaw.typed, MemRaw.addr, memRawOf, MemF.raw, Option.map_eq_some_iff, Size.ofCode_eq_some, MemF.mk.injEq,
    AddrF.mk.injEq, MemRaw.mk.injEq, ofNat_bits_eq_iff, Order.ofCode_eq_iff (bits_lt n 14 2), hmbz, and_true, true_and]
  constructor
  · rintro ⟨z, hz, hdata, ⟨hbase, hidx, hix, hscl, hdisp⟩, rfl, hord, hobs⟩
    exact ⟨hdata, hbase, hidx, hix, hscl, hz, hord, hobs, hdisp⟩
  · rintro ⟨hdata, hbase, hidx, hix, hscl, hz, hord, hobs, hdisp⟩
    exact ⟨size, hz, hdata, ⟨hbase, hidx, hix, hscl, hdisp⟩, rfl, hord, hobs⟩

theorem mbz_of_memConds {op : MemOp} {f : MemRaw} (hc : memConds op f = []) : f.mbz = false := by
  simp only [memConds, List.append_eq_nil_iff, condIf_eq_nil] at hc
  exact hc.1.1.1.1.1.1.1

/-! ## Loads and stores (spec 03 R51) -/

/-- A constructor makes the loads or stores of a major. -/
structure OfMajor (mk : Head → MemF → Instr) (op : MemOp) (M : Nat) : Prop where
  major : M < 0x38
  notAtom : op ≠ .atom
  parts : ∀ n ext, bits n 58 6 = M → decodeParts n ext = decodeMem op mk n ext
  words : ∀ h f, encode (mk h f) = encodeMem M h f
  conds : ∀ h f, (mk h f).conds = memConds op (f.raw none)

theorem ofMajor_ld : OfMajor .LD .ld 0x26 :=
  ⟨by decide, by decide, fun _ _ hM => by simp [decodeParts, hM], fun _ _ => rfl, fun _ _ => rfl⟩

theorem ofMajor_st : OfMajor .ST .st 0x27 :=
  ⟨by decide, by decide, fun _ _ hM => by simp [decodeParts, hM], fun _ _ => rfl, fun _ _ => rfl⟩

theorem ofMajor_lds : OfMajor .LDS .lds 0x28 :=
  ⟨by decide, by decide, fun _ _ hM => by simp [decodeParts, hM], fun _ _ => rfl, fun _ _ => rfl⟩

theorem ofMajor_sts : OfMajor .STS .sts 0x29 :=
  ⟨by decide, by decide, fun _ _ hM => by simp [decodeParts, hM], fun _ _ => rfl, fun _ _ => rfl⟩

theorem ofMajor_poll : OfMajor .LD_POLL .poll 0x2C :=
  ⟨by decide, by decide, fun _ _ hM => by simp [decodeParts, hM], fun _ _ => rfl, fun _ _ => rfl⟩

theorem ext_of_memConds {op : MemOp} {f : MemRaw} (hop : op ≠ .atom) (hc : memConds op f = []) : f.ext = none := by
  cases op
  case atom => exact absurd rfl hop
  all_goals
    simp only [memConds, List.append_eq_nil_iff, condIf_eq_nil] at hc
    exact Option.isNone_iff_eq_none.mp (Option.isSome_eq_false_iff.mp hc.2)

theorem decodeMem_sound {mk : Head → MemF → Instr} {op : MemOp} {M : Nat} {i : Instr} (hmk : OfMajor mk op M)
    (hM : bits w.toNat 58 6 = M) (hx : hasExt w = x.isSome)
    (hd : decodeMem op mk w.toNat (x.map BitVec.toNat) = ([], some i)) : WellFormed i ∧ encode i = w :: x.toList := by
  simp only [decodeMem, Prod.mk.injEq, Option.map_eq_some_iff] at hd
  obtain ⟨hc, f, hf, rfl⟩ := hd
  have hnone : x.map BitVec.toNat = none := ext_of_memConds hmk.notAtom hc
  obtain rfl := Option.map_eq_none_iff.mp hnone
  rw [typed_memRawOf_eq_some (mbz_of_memConds hc)] at hf
  rw [hf] at hc
  refine ⟨(hmk.conds _ f).trans hc, ?_⟩
  rw [hmk.words, encodeMem, (memWord_raw_eq_iff (e := false) none (by have := hmk.major; omega)).mpr ⟨hM, rfl, hx, hf⟩]
  rfl

theorem decodeMem_complete {mk : Head → MemF → Instr} {op : MemOp} {M : Nat} {f : MemF} (hmk : OfMajor mk op M)
    (hwf : WellFormed (mk h f)) (he : encode (mk h f) = w :: x.toList) :
    ReadAs w x (mk h f) := by
  rw [hmk.words, encodeMem, List.cons.injEq, memWord_raw_eq_iff none (by have := hmk.major; omega), eq_comm (a := []),
    Option.toList_eq_nil_iff] at he
  obtain ⟨⟨hM, rfl, hx, hraw⟩, rfl⟩ := he
  rw [WellFormed, hmk.conds] at hwf
  refine ⟨hM ▸ hmk.major, hx, (hmk.parts _ _ hM).trans ?_⟩
  rw [decodeMem, Option.map_none, (typed_memRawOf_eq_some (by rw [hraw]; rfl)).mpr hraw, hraw, hwf]
  rfl

/-! ## Atomics (spec 03 R52) -/

theorem decodeParts_atom {n : Nat} (ext : Option Nat) (hM : bits n 58 6 = 0x2A) :
    decodeParts n ext = decodeAtom n ext := by simp [decodeParts, hM]

theorem AtomOp.encode_mk (op : AtomOp) (f : MemF) (y : AtomF) : encode (op.mk h f y) = encodeAtom op h f y := by
  cases op <;> rfl

/-- Which extension word an atomic has makes no difference to the conditions of its first word. -/
theorem AtomOp.conds_mk (op : AtomOp) (f : MemF) (y : AtomF) (e : Nat) :
    (op.mk h f y).conds = memConds .atom (f.raw (some e)) ++ atomConds (f.raw (some e)) (y.raw op) := by
  cases op <;> rfl

theorem Instr.eq_mk_of_atom? {i : Instr} {op : AtomOp} {f : MemF} {y : AtomF} (hi : i.atom? = some (op, h, f, y)) :
    i = op.mk h f y := by
  cases i <;> cases hi <;> rfl

theorem atomWord_eq_iff {e : DWord} {op : AtomOp} {y : AtomF} :
    BitVec.ofNat 64 (y.a.toNat * 2 ^ 56 + y.b.toNat * 2 ^ 48 + op.code * 2 ^ 44 + y.kind.code * 2 ^ 42
      + y.imm.toNat * 2 ^ 41 + y.ret.toNat * 2 ^ 40 + y.value.toNat) = e ↔ atomRawOf e.toNat = y.raw op := by
  rw [ofNat_eq_iff_holds (fs := [(32, y.value.toNat), (8, 0), (1, y.ret.toNat), (1, y.imm.toNat), (2, y.kind.code),
    (4, op.code), (8, y.b.toNat), (8, y.a.toNat)]) (by simp only [packed]; ring)
    ⟨y.value.isLt, by decide, y.ret.toNat_lt, y.imm.toNat_lt, y.kind.code_lt, op.code_lt, y.b.isLt, y.a.isLt,
      trivial⟩ rfl]
  simp only [Holds, Nat.zero_add, Nat.reduceAdd, bits_one_eq_iff, and_true, atomRawOf, AtomF.raw, AtomRaw.mk.injEq]
  constructor
  · rintro ⟨hv, hmbz, hret, himm, hk, hop, hb, ha⟩
    exact ⟨ha, hb, hop, hk, himm, hret, hmbz, hv⟩
  · rintro ⟨ha, hb, hop, hk, himm, hret, hmbz, hv⟩
    exact ⟨hv, hmbz, hret, himm, hk, hop, hb, ha⟩

theorem typed_atomRawOf {n : Nat} {op : AtomOp} {y : AtomF} (hmbz : (atomRawOf n).mbz = 0) :
    AtomOp.ofCode (atomRawOf n).op = some op ∧ (atomRawOf n).typed = some y ↔ atomRawOf n = y.raw op := by
  obtain ⟨a, b, kind, imm, ret, value⟩ := y
  simp only [atomRawOf] at hmbz
  simp only [AtomRaw.typed, atomRawOf, AtomF.raw, Option.map_eq_some_iff, Kind.ofCode_eq_some, AtomOp.ofCode_eq_some,
    AtomF.mk.injEq, AtomRaw.mk.injEq, ofNat_bits_eq_iff, hmbz, true_and]
  constructor
  · rintro ⟨hop, k, hk, ha, hb, rfl, himm, hret, hv⟩
    exact ⟨ha, hb, hop, hk, himm, hret, hv⟩
  · rintro ⟨ha, hb, hop, hk, himm, hret, hv⟩
    exact ⟨hop, kind, hk, ha, hb, rfl, himm, hret, hv⟩

theorem mbz_of_atomConds {f : MemRaw} {y : AtomRaw} (hc : atomConds f y = []) : y.mbz = 0 := by
  simp only [atomConds, List.append_eq_nil_iff, condIf_eq_nil, ite_eq_left_iff, reduceCtorEq, imp_false, not_not] at hc
  exact hc.1.1.1.2

theorem decodeAtom_sound {i : Instr} (hM : bits w.toNat 58 6 = 0x2A) (hx : hasExt w = x.isSome)
    (hd : decodeAtom w.toNat (x.map BitVec.toNat) = ([], some i)) : WellFormed i ∧ encode i = w :: x.toList := by
  cases x with
  | none => simp [decodeAtom] at hd
  | some e =>
    simp only [decodeAtom, Option.map_some, Prod.mk.injEq, List.append_eq_nil_iff] at hd
    obtain ⟨⟨hc, hc'⟩, hd⟩ := hd
    split at hd
    next op f y hop hf hy =>
      cases hd
      rw [typed_memRawOf_eq_some (mbz_of_memConds hc)] at hf
      have hraw := (typed_atomRawOf (mbz_of_atomConds hc')).mp ⟨hop, hy⟩
      rw [hf] at hc hc'
      rw [hraw] at hc'
      refine ⟨by rw [WellFormed, AtomOp.conds_mk, hc, hc']; rfl, ?_⟩
      rw [AtomOp.encode_mk, encodeAtom, (memWord_raw_eq_iff (e := true) (some e.toNat) (by decide)).mpr ⟨hM, rfl, hx, hf⟩,
        atomWord_eq_iff.mpr hraw]
      rfl
    next => cases hd

theorem decodeAtom_complete {i : Instr} {op : AtomOp} {f : MemF} {y : AtomF} (hi : i.atom? = some (op, h, f, y))
    (hwf : WellFormed i) (he : encode i = w :: x.toList) :
    ReadAs w x i := by
  obtain rfl := Instr.eq_mk_of_atom? hi
  rw [AtomOp.encode_mk, encodeAtom, List.cons.injEq] at he
  obtain ⟨hw, he⟩ := he
  cases x with
  | none => cases he
  | some e =>
    simp only [Option.toList_some, List.cons.injEq, and_true, atomWord_eq_iff] at he
    obtain ⟨hM, rfl, hx, hraw⟩ := (memWord_raw_eq_iff (some e.toNat) (by decide)).mp hw
    rw [WellFormed, AtomOp.conds_mk _ _ _ e.toNat] at hwf
    obtain ⟨hop, hy⟩ := (typed_atomRawOf (by rw [he]; rfl)).mpr he
    refine ⟨by omega, hx, (decodeParts_atom _ hM).trans ?_⟩
    simp only [decodeAtom, Option.map_some, hop, hy, (typed_memRawOf_eq_some (by rw [hraw]; rfl)).mpr hraw]
    rw [hraw, he, hwf]

/-! ## Fences, discard and pref (spec 03 R53) -/

theorem decodeParts_cache {n : Nat} (ext : Option Nat) (hM : bits n 58 6 = 0x2B) :
    decodeParts n ext = decodeCache n ext := by simp [decodeParts, hM]

theorem sizeZero_eq_nil {size : Nat} : sizeZero size = [] ↔ size = 0 := by
  simp only [sizeZero, List.append_eq_nil_iff, condIf_eq_nil, mustZero_eq_nil, decide_eq_false_iff_not]
  omega

/-- The word of a fence whose order has the given code. -/
theorem fenceWord_eq_iff {order : Nat} {obs : BitVec 5} (horder : order < 2 ^ 2) :
    word 0x2B h false (order * 2 ^ 14 + obs.toNat * 2 ^ 9) = w ↔
      bits w.toNat 58 6 = 0x2B ∧ headOf w.toNat = h ∧ hasExt w = false ∧
        memRawOf w.toNat none =
          { data := 0, base := 0, idx := false, index := 0, scl := false, size := 0, order := order, obs := obs.toNat
            mbz := false, disp := 0, ext := none } := by
  have hlow : order * 2 ^ 14 + obs.toNat * 2 ^ 9 =
      memBits 0 { base := 0, idx := false, index := 0, scl := false, disp := 0 } 0 order obs.toNat := by
    simp [memBits]
  rw [hlow, memWord_eq_iff none (by decide) (by decide) (by decide) horder obs.isLt]
  rfl

theorem discardWord_eq_iff {base : BitVec 7} {len : BitVec 8} :
    word 0x2B h false (1 * 2 ^ 36 + base.toNat * 2 ^ 29 + 2 ^ 28 + len.toNat * 2 ^ 20) = w ↔
      bits w.toNat 58 6 = 0x2B ∧ headOf w.toNat = h ∧ hasExt w = false ∧
        memRawOf w.toNat none =
          { data := 1, base := base.toNat, idx := true, index := len.toNat, scl := false, size := 0, order := 0, obs := 0
            mbz := false, disp := 0, ext := none } := by
  have hlow : 1 * 2 ^ 36 + base.toNat * 2 ^ 29 + 2 ^ 28 + len.toNat * 2 ^ 20 =
      memBits 1 { base := base, idx := true, index := len, scl := false, disp := 0 } 0 0 0 := by
    simp [memBits]
  rw [hlow, memWord_eq_iff none (by decide) (by decide) (by decide) (by decide) (by decide)]
  rfl

theorem fenceConds_eq_nil {f : MemRaw} : fenceConds f = [] ↔
    f.base = 0 ∧ f.idx = false ∧ f.index = 0 ∧ f.scl = false ∧ f.size = 0 ∧ (f.order ≠ 0 ∧ f.order ≠ 3) ∧
      f.mbz = false ∧ f.disp = 0 ∧ f.ext = none := by
  have hbits : f.idx.toNat * 512 + f.index * 2 + f.scl.toNat = 0 ↔ f.idx = false ∧ f.index = 0 ∧ f.scl = false := by
    cases f.idx <;> cases f.scl <;> simp
  simp only [fenceConds, List.append_eq_nil_iff, condIf_eq_nil, mustZero_eq_nil, sizeZero_eq_nil, hbits,
    Option.isSome_eq_false_iff, Option.isNone_iff_eq_none]
  by_cases h0 : f.order = 0
  · simp [h0]
  · simp only [h0, if_false, Bool.or_eq_false_iff, decide_eq_false_iff_not, ne_eq, not_false_eq_true, true_and, and_true]
    tauto

theorem discardConds_eq_nil {f : MemRaw} : discardConds f = [] ↔
    f.idx = true ∧ f.scl = false ∧ f.size = 0 ∧ f.order = 0 ∧ f.obs = 0 ∧ f.mbz = false ∧ f.disp = 0 ∧ f.ext = none := by
  simp only [discardConds, List.append_eq_nil_iff, condIf_eq_nil, mustZero_eq_nil, sizeZero_eq_nil,
    Option.isSome_eq_false_iff, Option.isNone_iff_eq_none, Bool.not_eq_false']
  tauto

theorem prefConds_eq_nil {f : MemRaw} : prefConds f = [] ↔
    idxConds f = [] ∧ f.size = 0 ∧ f.order = 0 ∧ f.obs = 0 ∧ f.mbz = false ∧ f.ext = none := by
  simp only [prefConds, List.append_eq_nil_iff, condIf_eq_nil, mustZero_eq_nil, sizeZero_eq_nil,
    Option.isSome_eq_false_iff, Option.isNone_iff_eq_none]
  tauto

theorem decodeCache_sound {i : Instr} (hM : bits w.toNat 58 6 = 0x2B) (hx : hasExt w = x.isSome)
    (hd : decodeCache w.toNat (x.map BitVec.toNat) = ([], some i)) : WellFormed i ∧ encode i = w :: x.toList := by
  simp only [decodeCache] at hd
  split at hd <;> rw [Prod.mk.injEq] at hd
  next hdata =>
    obtain ⟨hc, hi⟩ := hd
    obtain ⟨hbase, hidx, hix, hscl, hsize, ⟨ho0, ho3⟩, hmbz, hdisp, hext⟩ := fenceConds_eq_nil.mp hc
    obtain rfl := Option.map_eq_none_iff.mp hext
    have hw (order : Nat) (ho : bits w.toNat 14 2 = order) : [word 0x2B (headOf w.toNat) false
        (order * 2 ^ 14 + (BitVec.ofNat 5 (bits w.toNat 9 5)).toNat * 2 ^ 9)] = w :: (none : Option DWord).toList := by
      rw [(fenceWord_eq_iff (ho ▸ bits_lt _ 14 2)).mpr]
      · rfl
      · rw [toNat_ofNat_bits, memRawOf, MemRaw.mk.injEq]
        exact ⟨hM, rfl, hx, hdata, hbase, hidx, hix, hscl, hsize, ho, rfl, hmbz, hdisp, rfl⟩
    split at hi <;> cases hi
    next ho1 => exact ⟨rfl, hw 1 ho1⟩
    next ho1 =>
      have hlt : (memRawOf w.toNat (Option.map BitVec.toNat (none : Option DWord))).order < 2 ^ 2 := bits_lt _ 14 2
      have ho2 : (memRawOf w.toNat (Option.map BitVec.toNat (none : Option DWord))).order = 2 := by omega
      exact ⟨rfl, hw 2 ho2⟩
  next hdata =>
    obtain ⟨hc, hi⟩ := hd
    obtain ⟨hidx, hscl, hsize, hord, hobs, hmbz, hdisp, hext⟩ := discardConds_eq_nil.mp hc
    obtain rfl := Option.map_eq_none_iff.mp hext
    cases hi
    refine ⟨rfl, congrArg (· :: []) (discardWord_eq_iff.mpr ?_)⟩
    rw [memRawOf, MemRaw.mk.injEq]
    exact ⟨hM, rfl, hx, hdata, (toNat_ofNat_bits _ _ _).symm, hidx, (toNat_ofNat_bits _ _ _).symm, hscl, hsize, hord,
      hobs, hmbz, hdisp, rfl⟩
  next hdata =>
    obtain ⟨hc, hi⟩ := hd
    obtain ⟨hidx, hsize, hord, hobs, hmbz, hext⟩ := prefConds_eq_nil.mp hc
    obtain rfl := Option.map_eq_none_iff.mp hext
    cases hi
    have hraw : memRawOf w.toNat none =
        { data := 2, base := (memRawOf w.toNat none).addr.base.toNat, idx := (memRawOf w.toNat none).addr.idx
          index := (memRawOf w.toNat none).addr.index.toNat, scl := (memRawOf w.toNat none).addr.scl, size := 0
          order := 0, obs := 0, mbz := false, disp := (memRawOf w.toNat none).addr.disp.toNat, ext := none } := by
      simp only [MemRaw.addr]
      rw [memRawOf, MemRaw.mk.injEq]
      exact ⟨hdata, (toNat_ofNat_bits _ _ _).symm, rfl, (toNat_ofNat_bits _ _ _).symm, rfl, hsize, hord, hobs, hmbz,
        (toNat_ofNat_bits _ _ _).symm, rfl⟩
    refine ⟨?_, congrArg (· :: []) ((memWord_eq_iff none (by decide) (by decide) (by decide) (by decide)
      (by decide)).mpr ⟨hM, rfl, hx, hraw⟩)⟩
    rw [WellFormed, Instr.conds, Option.map_none, ← hraw]
    exact hc
  next => simp [reservedCacheConds] at hd

theorem decodeCache_complete {i : Instr} {obs : BitVec 5} {base : BitVec 7} {len : BitVec 8} {f : AddrF}
    (hi : i ∈ [.FENCE_ACQ h obs, .FENCE_REL h obs, .DISCARD h base len, .PREF h f]) (hwf : WellFormed i)
    (he : encode i = w :: x.toList) :
    ReadAs w x i := by
  simp only [List.mem_cons, List.not_mem_nil, or_false] at hi
  rcases hi with rfl | rfl | rfl | rfl <;>
    rw [encode, List.cons.injEq, eq_comm (a := []), Option.toList_eq_nil_iff] at he
  case inl | inr.inl =>
    rw [fenceWord_eq_iff (by decide)] at he
    obtain ⟨⟨hM, rfl, hx, hraw⟩, rfl⟩ := he
    refine ⟨by omega, hx, (decodeParts_cache _ hM).trans ?_⟩
    simp only [decodeCache, Option.map_none, hraw]
    simp [fenceConds_eq_nil]
  case inr.inr.inl =>
    rw [discardWord_eq_iff] at he
    obtain ⟨⟨hM, rfl, hx, hraw⟩, rfl⟩ := he
    refine ⟨by omega, hx, (decodeParts_cache _ hM).trans ?_⟩
    simp only [decodeCache, Option.map_none, hraw]
    simp [discardConds_eq_nil]
  case inr.inr.inr =>
    rw [memWord_eq_iff none (by decide) (by decide) (by decide) (by decide) (by decide)] at he
    obtain ⟨⟨hM, rfl, hx, hraw⟩, rfl⟩ := he
    rw [WellFormed, Instr.conds] at hwf
    refine ⟨by omega, hx, (decodeParts_cache _ hM).trans ?_⟩
    simp only [decodeCache, Option.map_none, hraw, hwf, MemRaw.addr]
    simp

/-! ## waitu (spec 03 R58) -/

theorem decodeParts_waitu {n : Nat} (ext : Option Nat) (hM : bits n 58 6 = 0x2E) :
    decodeParts n ext = decodeWaitu n ext := by simp [decodeParts, hM]

/-- Extension words are given numbers of 32 bits exactly where they are the same numbers. -/
theorem map_ofNat_eq_iff {v : Option (BitVec 32)} :
    (v.map fun e => BitVec.ofNat 64 e.toNat) = x ↔ x.map BitVec.toNat = v.map BitVec.toNat := by
  have hv (v : BitVec 32) : (BitVec.ofNat 64 v.toNat).toNat = v.toNat := by
    rw [BitVec.toNat_ofNat, Nat.mod_eq_of_lt (by omega)]
  rw [← (Option.map_injective fun _ _ => BitVec.eq_of_toNat_eq).eq_iff, Option.map_map, eq_comm]
  simp only [Function.comp_def, hv]

theorem map_toNat_ofNat {ext : Option Nat} (hext : ∀ e ∈ ext, e / 2 ^ 32 = 0) :
    (ext.map (BitVec.ofNat 32)).map BitVec.toNat = ext := by
  cases ext with
  | none => rfl
  | some e =>
    have hlt := Nat.lt_of_div_eq_zero (by decide) (hext e rfl)
    rw [Option.map_some, Option.map_some, BitVec.toNat_ofNat, Nat.mod_eq_of_lt hlt]

theorem ext_of_waituConds {operand limit cmp : Nat} {signed wide : Bool} {ext : Option Nat}
    (hc : waituConds operand limit cmp signed wide ext = []) : ∀ e ∈ ext, e / 2 ^ 32 = 0 := by
  rintro e rfl
  simp only [waituConds, List.append_eq_nil_iff, condIf_eq_nil, decide_eq_false_iff_not, not_not] at hc
  exact hc.2.2

theorem encodeWaitu_eq_iff {f : WaituF} : encode (.WAITU h f) = w :: x.toList ↔
    bits w.toNat 58 6 = 0x2E ∧ headOf w.toNat = h ∧ hasExt w = x.isSome ∧ bits w.toNat 36 8 = f.d.toNat ∧
      bits w.toNat 29 7 = f.base.toNat ∧ bits w.toNat 21 8 = f.operand.toNat ∧ bits w.toNat 13 8 = f.limit.toNat ∧
      bits w.toNat 10 3 = f.cmp.code ∧ bit w.toNat 9 = f.signed ∧ bit w.toNat 8 = f.wide ∧
      bits w.toNat 0 8 = f.disp.toNat ∧ x.map BitVec.toNat = f.ext.map BitVec.toNat := by
  have hsome (he : x.map BitVec.toNat = f.ext.map BitVec.toNat) : f.ext.isSome = x.isSome := by
    simpa using (congrArg Option.isSome he).symm
  rw [encode, encodeWaitu, List.cons.injEq, toList_eq_toList_iff, map_ofNat_eq_iff, word_eq_iff (fs := [(8, f.disp.toNat),
    (1, f.wide.toNat), (1, f.signed.toNat), (3, f.cmp.code), (8, f.limit.toNat), (8, f.operand.toNat),
    (7, f.base.toNat), (8, f.d.toNat)]) (by decide) (by simp only [packed]; ring) ⟨f.disp.isLt, f.wide.toNat_lt,
      f.signed.toNat_lt, f.cmp.code_lt, f.limit.isLt, f.operand.isLt, f.base.isLt, f.d.isLt, trivial⟩ rfl]
  simp only [Holds, Nat.zero_add, Nat.reduceAdd, bits_one_eq_iff, and_true]
  constructor
  · rintro ⟨⟨hM, hh, hx, hdisp, hwd, hsg, hcmp, hlim, hop, hbase, hd⟩, he⟩
    exact ⟨hM, hh, hx.trans (hsome he), hd, hbase, hop, hlim, hcmp, hsg, hwd, hdisp, he⟩
  · rintro ⟨hM, hh, hx, hd, hbase, hop, hlim, hcmp, hsg, hwd, hdisp, he⟩
    exact ⟨⟨hM, hh, hx.trans (hsome he).symm, hdisp, hwd, hsg, hcmp, hlim, hop, hbase, hd⟩, he⟩

theorem decodeWaitu_sound {i : Instr} (hM : bits w.toNat 58 6 = 0x2E) (hx : hasExt w = x.isSome)
    (hd : decodeWaitu w.toNat (x.map BitVec.toNat) = ([], some i)) : WellFormed i ∧ encode i = w :: x.toList := by
  simp only [decodeWaitu, Prod.mk.injEq, Option.map_eq_some_iff, WCmp.ofCode_eq_some] at hd
  obtain ⟨hc, cmp, hcmp, rfl⟩ := hd
  have hext := map_toNat_ofNat (ext_of_waituConds hc)
  refine ⟨?_, encodeWaitu_eq_iff.mpr ?_⟩
  · simp only [WellFormed, Instr.conds, toNat_ofNat_bits, hext, ← hcmp, hc]
  · simp only [toNat_ofNat_bits, hM, hx, hcmp, hext, and_self]

theorem decodeWaitu_complete {f : WaituF} (hwf : WellFormed (.WAITU h f)) (he : encode (.WAITU h f) = w :: x.toList) :
    ReadAs w x (.WAITU h f) := by
  obtain ⟨hM, rfl, hx, hd, hbase, hop, hlim, hcmp, hsg, hwd, hdisp, hext⟩ := encodeWaitu_eq_iff.mp he
  have hext' : (f.ext.map BitVec.toNat).map (BitVec.ofNat 32) = f.ext := by cases f.ext <;> simp
  rw [WellFormed, Instr.conds] at hwf
  refine ⟨by omega, hx, (decodeParts_waitu _ hM).trans ?_⟩
  simp only [decodeWaitu, hext, hd, hbase, hop, hlim, hcmp, hsg, hwd, hdisp, hwf, hext',
    (WCmp.ofCode_eq_some (c := f.cmp)).mpr rfl, Option.map_some, BitVec.ofNat_toNat, BitVec.setWidth_eq]

/-! ## Sweeps (spec 03 R59) -/

theorem decodeParts_sweep {n : Nat} (ext : Option Nat) (hM : bits n 58 6 = 0x37) :
    decodeParts n ext = decodeSweep n ext := by simp [decodeParts, hM]

theorem SweepOp.encode_mk (op : SweepOp) (f : SweepF) : encode (op.mk h f) = encodeSweep op h f := by
  cases op <;> rfl

theorem SweepOp.conds_mk (op : SweepOp) (f : SweepF) :
    (op.mk h f).conds = sweepConds f.b.toNat f.count.toNat op.code f.ty.code f.stepB.toNat 0 true := by
  cases op <;> rfl

theorem Instr.eq_mk_of_sweep? {i : Instr} {op : SweepOp} {f : SweepF} (hi : i.sweep? = some (op, h, f)) :
    i = op.mk h f := by
  cases i <;> cases hi <;> rfl

theorem encodeSweep_eq_iff {e : DWord} {op : SweepOp} {f : SweepF} : encodeSweep op h f = [w, e] ↔
    (bits w.toNat 58 6 = 0x37 ∧ headOf w.toNat = h ∧ hasExt w = true ∧ bits w.toNat 36 8 = f.d.toNat ∧
      bits w.toNat 28 8 = f.a.toNat ∧ bits w.toNat 20 8 = f.b.toNat ∧ bits w.toNat 8 12 = f.count.toNat ∧
      bits w.toNat 4 4 = op.code ∧ bits w.toNat 0 4 = f.ty.code) ∧
    bits e.toNat 48 16 = f.stepD.toNat ∧ bits e.toNat 32 16 = f.stepA.toNat ∧ bits e.toNat 16 16 = f.stepB.toNat ∧
      bits e.toNat 0 16 = 0 := by
  rw [encodeSweep, List.cons.injEq, List.cons.injEq, word_eq_iff (fs := [(4, f.ty.code), (4, op.code), (12, f.count.toNat),
    (8, f.b.toNat), (8, f.a.toNat), (8, f.d.toNat)]) (by decide) (by simp only [packed]; ring)
    ⟨f.ty.code_lt, op.code_lt, f.count.isLt, f.b.isLt, f.a.isLt, f.d.isLt, trivial⟩ rfl,
    ofNat_eq_iff_holds (fs := [(16, 0), (16, f.stepB.toNat), (16, f.stepA.toNat), (16, f.stepD.toNat)])
      (by simp only [packed]; ring) ⟨by decide, f.stepB.isLt, f.stepA.isLt, f.stepD.isLt, trivial⟩ rfl]
  simp only [Holds, Nat.zero_add, Nat.reduceAdd, and_true]
  tauto

theorem decodeSweep_sound {i : Instr} (hM : bits w.toNat 58 6 = 0x37) (hx : hasExt w = x.isSome)
    (hd : decodeSweep w.toNat (x.map BitVec.toNat) = ([], some i)) : WellFormed i ∧ encode i = w :: x.toList := by
  cases x with
  | none => simp [decodeSweep, sweepConds] at hd
  | some e =>
    simp only [decodeSweep, Option.map_some, Option.getD_some, Prod.mk.injEq] at hd
    obtain ⟨hc, hd⟩ := hd
    split at hd
    next op ty hop hty =>
      cases hd
      rw [SweepOp.ofCode_eq_some] at hop
      rw [Ty.ofCode_eq_some] at hty
      have h0 : bits e.toNat 0 16 = 0 := by
        simp only [sweepConds, List.append_eq_nil_iff, condIf_eq_nil, decide_eq_false_iff_not, not_not] at hc
        exact hc.1.2
      refine ⟨?_, ?_⟩
      · simp only [WellFormed, SweepOp.conds_mk, toNat_ofNat_bits]
        rwa [hop, hty, h0] at hc
      · rw [SweepOp.encode_mk, Option.toList_some, encodeSweep_eq_iff]
        simp only [toNat_ofNat_bits, hM, hx, hop, hty, h0, Option.isSome_some, and_self]
    next => cases hd

theorem decodeSweep_complete {i : Instr} {op : SweepOp} {f : SweepF} (hi : i.sweep? = some (op, h, f))
    (hwf : WellFormed i) (he : encode i = w :: x.toList) :
    ReadAs w x i := by
  obtain rfl := Instr.eq_mk_of_sweep? hi
  rw [SweepOp.encode_mk] at he
  cases x with
  | none => simp [encodeSweep] at he
  | some e =>
    rw [Option.toList_some, encodeSweep_eq_iff] at he
    obtain ⟨⟨hM, rfl, hx, hd, ha, hb, hcount, hop, hty⟩, hsd, hsa, hsb, h0⟩ := he
    rw [WellFormed, SweepOp.conds_mk] at hwf
    refine ⟨by omega, hx, (decodeParts_sweep _ hM).trans ?_⟩
    simp only [decodeSweep, Option.map_some, Option.getD_some, Option.isSome_some, hd, ha, hb, hcount, hop, hty,
      hsd, hsa, hsb, h0, hwf, (SweepOp.ofCode_eq_some (op := op)).mpr rfl, (Ty.ofCode_eq_some (t := f.ty)).mpr rfl,
      BitVec.ofNat_toNat, BitVec.setWidth_eq]

end formats

end Sys2Proof
end

section
/-!
SUPPORT. Matrix words: what their words and their fields have to do with each other (spec 03 R65 to R67).
-/

namespace Sys2Proof

section msq
variable {w : DWord} {i : Instr}

/-! ## Words -/

theorem msqSOf_eq_iff {n : Nat} {f : MsqS} : msqSOf n = f ↔ bits n 53 5 = f.d.toNat ∧ bits n 48 5 = f.a.toNat ∧
    bits n 43 5 = f.b.toNat ∧ bit n 42 = f.imm ∧ bits n 0 32 = f.value.toNat := by
  obtain ⟨d, a, b, imm, value⟩ := f
  simp only [msqSOf, MsqS.mk.injEq, ofNat_bits_eq_iff]

theorem encodeMsqS_eq_iff {op : Nat} {f : MsqS} (hop : op < 2 ^ 6) :
    encodeMsqS op f = [w] ↔ bits w.toNat 58 6 = op ∧ bits w.toNat 32 10 = 0 ∧ msqSOf w.toNat = f := by
  rw [encodeMsqS, List.cons.injEq, msqSOf_eq_iff, ofNat_eq_iff_holds (fs := [(32, f.value.toNat),
    (10, 0), (1, f.imm.toNat), (5, f.b.toNat), (5, f.a.toNat), (5, f.d.toNat), (6, op)]) (by simp only [packed]; ring)
    ⟨f.value.isLt, by decide, f.imm.toNat_lt, f.b.isLt, f.a.isLt, f.d.isLt, hop, trivial⟩ rfl]
  simp only [Holds, Nat.zero_add, Nat.reduceAdd, bits_one_eq_iff, and_true]
  tauto

/-- The fields of a branch word. -/
def msqBOf (n : Nat) : MsqB :=
  { a := BitVec.ofNat 5 (bits n 53 5), b := BitVec.ofNat 5 (bits n 48 5), off := BitVec.ofNat 32 (bits n 0 32) }

theorem msqBOf_eq_iff {n : Nat} {f : MsqB} : msqBOf n = f ↔ bits n 53 5 = f.a.toNat ∧ bits n 48 5 = f.b.toNat ∧
    bits n 0 32 = f.off.toNat := by
  obtain ⟨a, b, off⟩ := f
  simp only [msqBOf, MsqB.mk.injEq, ofNat_bits_eq_iff]

theorem encodeMsqB_eq_iff {op : Nat} {f : MsqB} (hop : op < 2 ^ 6) :
    encodeMsqB op f = [w] ↔ bits w.toNat 58 6 = op ∧ bits w.toNat 32 16 = 0 ∧ msqBOf w.toNat = f := by
  rw [encodeMsqB, List.cons.injEq, msqBOf_eq_iff, ofNat_eq_iff_holds (fs := [(32, f.off.toNat),
    (16, 0), (5, f.b.toNat), (5, f.a.toNat), (6, op)]) (by simp only [packed]; ring) ⟨f.off.isLt, by decide, f.b.isLt, f.a.isLt, hop, trivial⟩ rfl]
  simp only [Holds, Nat.zero_add, Nat.reduceAdd, and_true]
  tauto

theorem encodeMsqW_eq_iff {op low : Nat} {fs : List (Nat × Nat)} (hop : op < 2 ^ 6) (hlow : low = packed fs)
    (hfit : Fits fs) (hw : totalWidth fs = 58) :
    encodeMsqW op low = [w] ↔ bits w.toNat 58 6 = op ∧ Holds w.toNat 0 fs := by
  have hlt := packed_lt hfit
  rw [hw] at hlt
  rw [encodeMsqW, List.cons.injEq, ofNat_eq_iff_holds (fs := [(58, low), (6, op)]) (by simp only [packed]; ring)
    ⟨hlow ▸ hlt, hop, trivial⟩ rfl, ← bits_eq_packed hfit, hw, ← hlow]
  simp only [Holds, Nat.zero_add, and_true]
  tauto

theorem encodeMsqW_zero_eq_iff {op : Nat} (hop : op < 2 ^ 6) :
    encodeMsqW op 0 = [w] ↔ bits w.toNat 58 6 = op ∧ bits w.toNat 0 58 = 0 := by
  rw [encodeMsqW_eq_iff (fs := [(58, 0)]) hop (by rfl) ⟨by decide, trivial⟩ rfl]
  simp only [Holds, and_true]

theorem encode_bld_eq_iff {bank : BitVec 2} {tile : BitVec 6} {ty : MTy} {variant scl : Bool} :
    encode (.BLD bank tile ty variant scl) = [w] ↔
      bits w.toNat 58 6 = 0x20 ∧ bits w.toNat 0 45 = 0 ∧ bit w.toNat 45 = scl ∧ bit w.toNat 46 = variant ∧
        bits w.toNat 47 3 = ty.code ∧ bits w.toNat 50 6 = tile.toNat ∧ bits w.toNat 56 2 = bank.toNat := by
  rw [encode, encodeMsqW_eq_iff (fs := [(45, 0), (1, scl.toNat), (1, variant.toNat), (3, ty.code), (6, tile.toNat),
    (2, bank.toNat)]) (by decide) (by simp only [packed]; ring)
    ⟨by decide, scl.toNat_lt, variant.toNat_lt, ty.code_lt, tile.isLt, bank.isLt, trivial⟩ rfl]
  simp only [Holds, Nat.zero_add, Nat.reduceAdd, bits_one_eq_iff, and_true]

theorem encode_sbld_eq_iff {bank : BitVec 2} {tile : BitVec 6} : encode (.SBLD bank tile) = [w] ↔
    bits w.toNat 58 6 = 0x21 ∧ bits w.toNat 0 50 = 0 ∧ bits w.toNat 50 6 = tile.toNat ∧
      bits w.toNat 56 2 = bank.toNat := by
  rw [encode, encodeMsqW_eq_iff (fs := [(50, 0), (6, tile.toNat), (2, bank.toNat)]) (by decide)
    (by simp only [packed]; ring) ⟨by decide, tile.isLt, bank.isLt, trivial⟩ rfl]
  simp only [Holds, Nat.zero_add, Nat.reduceAdd, and_true]

theorem encode_mma_eq_iff {bank : BitVec 2} {tile : BitVec 6} {m : BitVec 4} {variant sparse : Bool} {ty : MTy}
    {base : BitVec 8} : encode (.MMA bank tile m variant ty sparse base) = [w] ↔
      bits w.toNat 58 6 = 0x22 ∧ bits w.toNat 0 33 = 0 ∧ bits w.toNat 33 8 = base.toNat ∧ bit w.toNat 41 = sparse ∧
        bits w.toNat 42 3 = ty.code ∧ bits w.toNat 45 4 = m.toNat ∧ bit w.toNat 49 = variant ∧
        bits w.toNat 50 6 = tile.toNat ∧ bits w.toNat 56 2 = bank.toNat := by
  rw [encode, encodeMsqW_eq_iff (fs := [(33, 0), (8, base.toNat), (1, sparse.toNat), (3, ty.code), (4, m.toNat),
    (1, variant.toNat), (6, tile.toNat), (2, bank.toNat)]) (by decide) (by simp only [packed]; ring)
    ⟨by decide, base.isLt, sparse.toNat_lt, ty.code_lt, m.isLt, variant.toNat_lt, tile.isLt, bank.isLt, trivial⟩ rfl]
  simp only [Holds, Nat.zero_add, Nat.reduceAdd, bits_one_eq_iff, and_true]

theorem encode_accClr_eq_iff {base : BitVec 8} {count : BitVec 9} : encode (.ACC_CLR base count) = [w] ↔
    bits w.toNat 58 6 = 0x23 ∧ bits w.toNat 0 24 = 0 ∧ bits w.toNat 24 9 = count.toNat ∧
      bits w.toNat 33 8 = base.toNat ∧ bits w.toNat 41 17 = 0 := by
  rw [encode, encodeMsqW_eq_iff (fs := [(24, 0), (9, count.toNat), (8, base.toNat), (17, 0)]) (by decide)
    (by simp only [packed]; ring) ⟨by decide, count.isLt, base.isLt, by decide, trivial⟩ rfl]
  simp only [Holds, Nat.zero_add, Nat.reduceAdd, and_true]

theorem encode_accSt_eq_iff {tile : BitVec 6} {base : BitVec 8} {ty : Ty} {rows : BitVec 4} {cols : BitVec 2} :
    encode (.ACC_ST tile base ty rows cols) = [w] ↔
      bits w.toNat 58 6 = 0x24 ∧ bits w.toNat 0 32 = 0 ∧ bits w.toNat 32 2 = cols.toNat ∧
        bits w.toNat 34 4 = rows.toNat ∧ bits w.toNat 38 4 = ty.code ∧ bits w.toNat 42 8 = base.toNat ∧
        bits w.toNat 50 6 = tile.toNat ∧ bits w.toNat 56 2 = 0 := by
  rw [encode, encodeMsqW_eq_iff (fs := [(32, 0), (2, cols.toNat), (4, rows.toNat), (4, ty.code), (8, base.toNat),
    (6, tile.toNat), (2, 0)]) (by decide) (by simp only [packed]; ring)
    ⟨by decide, cols.isLt, rows.isLt, ty.code_lt, base.isLt, tile.isLt, by decide, trivial⟩ rfl]
  simp only [Holds, Nat.zero_add, Nat.reduceAdd, and_true]

theorem encode_tw_eq_iff {tile : BitVec 6} {phase : Bool} : encode (.TW tile phase) = [w] ↔
    bits w.toNat 58 6 = 0x25 ∧ bits w.toNat 0 49 = 0 ∧ bit w.toNat 49 = phase ∧ bits w.toNat 50 6 = tile.toNat ∧
      bits w.toNat 56 2 = 0 := by
  rw [encode, encodeMsqW_eq_iff (fs := [(49, 0), (1, phase.toNat), (6, tile.toNat), (2, 0)]) (by decide)
    (by simp only [packed]; ring) ⟨by decide, phase.toNat_lt, tile.isLt, by decide, trivial⟩ rfl]
  simp only [Holds, Nat.zero_add, Nat.reduceAdd, bits_one_eq_iff, and_true]

theorem encode_tinc_eq_iff {obs : BitVec 5} : encode (.TINC obs) = [w] ↔
    bits w.toNat 58 6 = 0x26 ∧ bits w.toNat 0 53 = 0 ∧ bits w.toNat 53 5 = obs.toNat := by
  rw [encode, encodeMsqW_eq_iff (fs := [(53, 0), (5, obs.toNat)]) (by decide) (by simp only [packed]; ring)
    ⟨by decide, obs.isLt, trivial⟩ rfl]
  simp only [Holds, Nat.zero_add, and_true]

/-! ## Conditions -/

/-- The conditions of a scalar word are those of its fields, and that bits 41:32 are zero. -/
theorem decodeMsqS_conds_eq_nil {mk : MsqS → Instr} {useA useB : Bool} {n : Nat} :
    (decodeMsqS mk useA useB n).1 = [] ↔ bits n 32 10 = 0 ∧
      msqScalarConds useA useB (msqSOf n).a.toNat (msqSOf n).b.toNat (msqSOf n).imm 0 (msqSOf n).value.toNat = [] := by
  simp only [decodeMsqS, msqScalarConds, msqSOf, toNat_ofNat_bits, List.append_eq_nil_iff, mustZero_eq_nil, true_and,
    and_assoc]

theorem decodeMsqB_conds_eq_nil {mk : MsqB → Instr} {uses : Bool} {n : Nat} :
    (decodeMsqB mk uses n).1 = [] ↔ bits n 32 16 = 0 ∧ (uses = false →
      mustZero false 53 (msqBOf n).a.toNat ++ mustZero false 48 (msqBOf n).b.toNat = []) := by
  cases uses <;> simp [decodeMsqB, msqBOf, -BitVec.toNat_ofNat, toNat_ofNat_bits]

theorem MTy.code_le (ty : MTy) : ty.code ≤ 4 := by cases ty <;> decide

theorem MTy.code_eq_zero_iff {ty : MTy} : ty.code = 0 ↔ ty = .e2m1 := by cases ty <;> decide

/-- The codes of the types that acc.st converts to, and those types, are the same. -/
theorem accTys_code (ty : Ty) :
    (ty.code = 4 || ty.code = 5 || ty.code = 6 || ty.code = 8 || ty.code = 9 || ty.code = 10) =
      [Ty.f16, .bf16, .f32, .e4m3, .e5m2, .e2m1].any fun t => t = ty := by
  cases ty <;> decide

/-! ## Decoding -/

theorem decodeMsq_eq_ok_iff : decodeMsq w = .ok i ↔ decodeMsqParts w.toNat = ([], some i) := by
  unfold decodeMsq
  rw [Prod.ext_iff]
  constructor
  · intro h
    split at h
    · cases h
    next hc =>
      split at h <;> cases h
      exact ⟨lowestCond_eq_none.mp hc, ‹_›⟩
  · rintro ⟨hc, hi⟩
    rw [hc, hi]
    rfl

theorem decodeMsqParts_sound (hd : decodeMsqParts w.toNat = ([], some i)) : WellFormed i ∧ encode i = [w] := by
  unfold decodeMsqParts at hd
  split at hd <;> rename_i hop <;> rw [Prod.ext_iff] at hd <;> obtain ⟨hc, hi⟩ := hd
  case h_26 => cases hi
  case h_1 | h_2 =>
    cases hi
    exact ⟨rfl, (encodeMsqW_zero_eq_iff (by decide)).mpr ⟨hop, mustZero_eq_nil.mp hc⟩⟩
  case h_3 | h_4 | h_5 | h_6 | h_7 | h_8 | h_9 | h_10 | h_11 =>
    cases hi
    obtain ⟨hz, hc⟩ := decodeMsqS_conds_eq_nil.mp hc
    exact ⟨hc, (encodeMsqS_eq_iff (by decide)).mpr ⟨hop, hz, rfl⟩⟩
  case h_17 | h_18 =>
    cases hi
    rw [List.append_eq_nil_iff, decodeMsqS_conds_eq_nil] at hc
    obtain ⟨⟨hz, hc⟩, hm⟩ := hc
    exact ⟨List.append_eq_nil_iff.mpr ⟨hc, hm⟩, (encodeMsqS_eq_iff (by decide)).mpr ⟨hop, hz, rfl⟩⟩
  case h_12 | h_13 | h_14 | h_15 =>
    cases hi
    obtain ⟨hz, -⟩ := decodeMsqB_conds_eq_nil.mp hc
    exact ⟨rfl, (encodeMsqB_eq_iff (by decide)).mpr ⟨hop, hz, rfl⟩⟩
  case h_16 =>
    cases hi
    obtain ⟨hz, hc⟩ := decodeMsqB_conds_eq_nil.mp hc
    exact ⟨hc rfl, (encodeMsqB_eq_iff (by decide)).mpr ⟨hop, hz, rfl⟩⟩
  case h_19 =>
    obtain ⟨ty, hty, rfl⟩ := Option.map_eq_some_iff.mp hi
    rw [MTy.ofCode_eq_some] at hty
    simp only [List.append_eq_nil_iff, mustZero_eq_nil, condIf_eq_nil, hty] at hc
    refine ⟨condIf_eq_nil.mpr ?_, encode_bld_eq_iff.mpr ?_⟩
    · simpa [MTy.code_eq_zero_iff] using hc.2
    · exact ⟨hop, hc.1.1, rfl, rfl, hty, (toNat_ofNat_bits _ _ _).symm, (toNat_ofNat_bits _ _ _).symm⟩
  case h_20 =>
    cases hi
    exact ⟨rfl, encode_sbld_eq_iff.mpr ⟨hop, mustZero_eq_nil.mp hc, (toNat_ofNat_bits _ _ _).symm,
      (toNat_ofNat_bits _ _ _).symm⟩⟩
  case h_21 =>
    obtain ⟨ty, hty, rfl⟩ := Option.map_eq_some_iff.mp hi
    rw [MTy.ofCode_eq_some] at hty
    exact ⟨rfl, encode_mma_eq_iff.mpr ⟨hop, mustZero_eq_nil.mp (List.append_eq_nil_iff.mp hc).1,
      (toNat_ofNat_bits _ _ _).symm, rfl, hty, (toNat_ofNat_bits _ _ _).symm, rfl, (toNat_ofNat_bits _ _ _).symm,
      (toNat_ofNat_bits _ _ _).symm⟩⟩
  case h_22 =>
    cases hi
    simp only [List.append_eq_nil_iff, mustZero_eq_nil, condIf_eq_nil] at hc
    refine ⟨condIf_eq_nil.mpr ?_, encode_accClr_eq_iff.mpr ?_⟩
    · simpa only [toNat_ofNat_bits] using hc.2
    · exact ⟨hop, hc.1.2, (toNat_ofNat_bits _ _ _).symm, (toNat_ofNat_bits _ _ _).symm, hc.1.1⟩
  case h_23 =>
    obtain ⟨ty, hty, rfl⟩ := Option.map_eq_some_iff.mp hi
    rw [Ty.ofCode_eq_some] at hty
    simp only [List.append_eq_nil_iff, mustZero_eq_nil, condIf_eq_nil, hty, accTys_code] at hc
    exact ⟨condIf_eq_nil.mpr hc.2, encode_accSt_eq_iff.mpr ⟨hop, hc.1.2, (toNat_ofNat_bits _ _ _).symm,
      (toNat_ofNat_bits _ _ _).symm, hty, (toNat_ofNat_bits _ _ _).symm, (toNat_ofNat_bits _ _ _).symm, hc.1.1⟩⟩
  case h_24 =>
    cases hi
    simp only [List.append_eq_nil_iff, mustZero_eq_nil] at hc
    exact ⟨rfl, encode_tw_eq_iff.mpr ⟨hop, hc.2, rfl, (toNat_ofNat_bits _ _ _).symm, hc.1⟩⟩
  case h_25 =>
    cases hi
    exact ⟨rfl, encode_tinc_eq_iff.mpr ⟨hop, mustZero_eq_nil.mp hc, (toNat_ofNat_bits _ _ _).symm⟩⟩

theorem decodeMsqParts_complete (hh : i.head? = none) (hwf : WellFormed i) (he : encode i = [w]) :
    decodeMsqParts w.toNat = ([], some i) := by
  cases i
  case MEND | MNOP =>
    obtain ⟨hop, h0⟩ := (encodeMsqW_zero_eq_iff (by decide)).mp he
    simp [decodeMsqParts, hop, h0]
  case MMOV f | MADD f | MSUB f | MMUL f | MAND f | MOR f | MXOR f | MSHL f | MSHR f =>
    obtain ⟨hop, hz, rfl⟩ := (encodeMsqS_eq_iff (by decide)).mp he
    simp only [decodeMsqParts, hop]
    exact Prod.ext_iff.mpr ⟨decodeMsqS_conds_eq_nil.mpr ⟨hz, hwf⟩, rfl⟩
  case MLD f | MST f =>
    obtain ⟨hop, hz, rfl⟩ := (encodeMsqS_eq_iff (by decide)).mp he
    obtain ⟨hc, hm⟩ := List.append_eq_nil_iff.mp hwf
    simp only [decodeMsqParts, hop, decodeMsqS_conds_eq_nil.mpr ⟨hz, hc⟩, List.nil_append]
    exact Prod.ext_iff.mpr ⟨hm, rfl⟩
  case MBEQ f | MBNE f | MBLT f | MBGE f =>
    obtain ⟨hop, hz, rfl⟩ := (encodeMsqB_eq_iff (by decide)).mp he
    simp only [decodeMsqParts, hop]
    exact Prod.ext_iff.mpr ⟨decodeMsqB_conds_eq_nil.mpr ⟨hz, nofun⟩, rfl⟩
  case MJMP f =>
    obtain ⟨hop, hz, rfl⟩ := (encodeMsqB_eq_iff (by decide)).mp he
    simp only [decodeMsqParts, hop]
    exact Prod.ext_iff.mpr ⟨decodeMsqB_conds_eq_nil.mpr ⟨hz, fun _ => hwf⟩, rfl⟩
  case BLD bank tile ty variant scl =>
    obtain ⟨hop, h0, rfl, rfl, hty, htile, hbank⟩ := encode_bld_eq_iff.mp he
    have hscl := condIf_eq_nil.mp hwf
    simpa [decodeMsqParts, hop, h0, hty, htile, hbank, MTy.code_eq_zero_iff, ty.code_le, MTy.ofCode_eq_some] using hscl
  case SBLD bank tile =>
    obtain ⟨hop, h0, htile, hbank⟩ := encode_sbld_eq_iff.mp he
    simp [decodeMsqParts, hop, h0, htile, hbank]
  case MMA bank tile m variant ty sparse base =>
    obtain ⟨hop, h0, hbase, rfl, hty, hm, rfl, htile, hbank⟩ := encode_mma_eq_iff.mp he
    simp [decodeMsqParts, hop, h0, hbase, hty, hm, htile, hbank, ty.code_le, MTy.ofCode_eq_some]
  case ACC_CLR base count =>
    obtain ⟨hop, h0, hcount, hbase, hz⟩ := encode_accClr_eq_iff.mp he
    have hc := condIf_eq_nil.mp hwf
    simpa [decodeMsqParts, hop, h0, hcount, hbase, hz] using hc
  case ACC_ST tile base ty rows cols =>
    obtain ⟨hop, h0, hcols, hrows, hty, hbase, htile, hz⟩ := encode_accSt_eq_iff.mp he
    have hc := condIf_eq_nil.mp hwf
    rw [← accTys_code] at hc
    simpa [decodeMsqParts, hop, h0, hcols, hrows, hty, hbase, htile, hz, Ty.ofCode_eq_some] using hc
  case TW tile phase =>
    obtain ⟨hop, h0, rfl, htile, hz⟩ := encode_tw_eq_iff.mp he
    simp [decodeMsqParts, hop, h0, htile, hz]
  case TINC obs =>
    obtain ⟨hop, h0, hobs⟩ := encode_tinc_eq_iff.mp he
    simp [decodeMsqParts, hop, h0, hobs]
  all_goals cases hh
  all_goals cases he
end msq
end Sys2Proof
end

section
/-!
SUPPORT. The decoder and the encoder undo each other: of wave instructions, as words and as their bytes, and of matrix
words (spec 03 R39 to R67). The proofs of O58 and O59 from these.
-/

namespace Sys2Proof

/-! ## The formats together (spec 03 R60) -/

section words
variable {w : DWord} {x : Option DWord} {i : Instr}

/-- What the decoder finds in a first word and its extension is well formed, and has these words. -/
theorem decodeParts_sound (hx : hasExt w = x.isSome)
    (hd : decodeParts w.toNat (x.map BitVec.toNat) = ([], some i)) : WellFormed i ∧ encode i = w :: x.toList := by
  by_cases halu : bits w.toNat 58 6 ∈ aluMajors
  · exact decodeAlu_sound halu hx (decodeParts_alu _ halu ▸ hd)
  unfold decodeParts at hd
  split at hd <;> rename_i hM
  case h_1 => exact decodeControl_sound hM hx hd
  case h_2 => exact decodeBranch_sound hM hx hd
  case h_3 => exact decodeFork_sound hM hx hd
  case h_4 => exact decodeSpecial_sound hM hx hd
  case h_24 => exact decodeMem_sound ofMajor_ld hM hx hd
  case h_25 => exact decodeMem_sound ofMajor_st hM hx hd
  case h_26 => exact decodeMem_sound ofMajor_lds hM hx hd
  case h_27 => exact decodeMem_sound ofMajor_sts hM hx hd
  case h_28 => exact decodeAtom_sound hM hx hd
  case h_29 => exact decodeCache_sound hM hx hd
  case h_30 => exact decodeMem_sound ofMajor_poll hM hx hd
  case h_31 => exact decodeWaitu_sound hM hx hd
  case h_32 => exact decodeSweep_sound hM hx hd
  case h_33 => cases hd
  all_goals exact absurd (by rw [hM]; decide) halu

/-- The words of a well-formed wave instruction are those that the decoder reads as it. -/
theorem readAs_of_encode {h : Head} (hh : i.head? = some h) (hwf : WellFormed i) (he : encode i = w :: x.toList) :
    ReadAs w x i := by
  cases halu : i.alu? with
  | some p => exact decodeAlu_complete (h := p.2.1) halu hwf he
  | none =>
  cases hatom : i.atom? with
  | some p => exact decodeAtom_complete (h := p.2.1) hatom hwf he
  | none =>
  cases hsweep : i.sweep? with
  | some p => exact decodeSweep_complete (h := p.2.1) hsweep hwf he
  | none =>
  cases i
  case NOP h | EXIT h | TRET h | IDEM_BEGIN h | IDEM_END h | IFENCE h =>
    exact decodeControl_complete (h := h) (code := 0) (token := 0) (base := 0) (len := 0) (by simp) hwf he
  case TRAP h code | BRK h code =>
    exact decodeControl_complete (h := h) (code := code) (token := 0) (base := 0) (len := 0) (by simp) hwf he
  case SAFEPT h token | MEET h token =>
    exact decodeControl_complete (h := h) (code := 0) (token := token) (base := 0) (len := 0) (by simp) hwf he
  case ICINV h base len =>
    exact decodeControl_complete (h := h) (code := 0) (token := 0) (base := base) (len := len) (by simp) hwf he
  case BRA h off => exact decodeBranch_complete (h := h) (r := 0) (off := off) (by simp) hwf he
  case CALL h r off | BRX h r off => exact decodeBranch_complete (h := h) (r := r) (off := off) (by simp) hwf he
  case JMP h r | RET h r => exact decodeBranch_complete (h := h) (r := r) (off := 0) (by simp) hwf he
  case FORK => exact decodeFork_complete hwf he
  case SYSR h r sp | SYSW h sp r => exact decodeSpecial_complete (h := h) (r := r) (sp := sp) (by simp) hwf he
  case LD => exact decodeMem_complete ofMajor_ld hwf he
  case ST => exact decodeMem_complete ofMajor_st hwf he
  case LDS => exact decodeMem_complete ofMajor_lds hwf he
  case STS => exact decodeMem_complete ofMajor_sts hwf he
  case LD_POLL => exact decodeMem_complete ofMajor_poll hwf he
  case FENCE_ACQ h obs | FENCE_REL h obs =>
    exact decodeCache_complete (h := h) (obs := obs) (base := 0) (len := 0) (f := ⟨0, false, 0, false, 0⟩) (by simp) hwf
      he
  case DISCARD h base len =>
    exact decodeCache_complete (h := h) (obs := 0) (base := base) (len := len) (f := ⟨0, false, 0, false, 0⟩) (by simp) hwf
      he
  case PREF h f => exact decodeCache_complete (h := h) (obs := 0) (base := 0) (len := 0) (f := f) (by simp) hwf he
  case WAITU => exact decodeWaitu_complete hwf he
  all_goals cases halu
  all_goals cases hatom
  all_goals cases hsweep
  all_goals cases hh

/-! ## Decoding words and bytes (spec 03 R41) -/

theorem decode_of_readAs (h : ReadAs w x i) : decode w (x.getD 0) = .ok i := by
  have hext : extOf w (x.getD 0) = x.map BitVec.toNat := by
    rw [extOf, h.hasExt_eq]
    cases x <;> rfl
  exact decode_of_no_conds h.major_lt (by rw [hext, h.parts_eq]) (by rw [hext, h.parts_eq])

theorem decodeParts_of_decode {next : DWord} (hd : decode w next = .ok i) :
    decodeParts w.toNat (extOf w next) = ([], some i) := by
  simp only [decode, decodeWith, List.append_nil] at hd
  split at hd
  · cases hd
  · split at hd
    · cases hd
    next hc =>
      split at hd <;> cases hd
      exact Prod.ext (lowestCond_eq_none.mp hc) ‹_›

theorem ofNat_leNat_leBytes (w : DWord) : BitVec.ofNat 64 (leNat (leBytes w.toNat 8)) = w := by
  rw [Machine.leNat_leBytes, ← BitVec.toNat_inj, BitVec.toNat_ofNat]
  have := w.isLt
  omega

/-- Decoding from the bytes of a first word and its extension is decoding them. -/
theorem decodeBytes_words (hx : hasExt w = x.isSome) (rest : List Byte) :
    decodeBytes ((w :: x.toList).flatMap (fun w => leBytes w.toNat 8) ++ rest) = some (decode w (x.getD 0), rest) := by
  cases x with
  | none => simp [decodeBytes, ofNat_leNat_leBytes, hx]
  | some e =>
    have hlen : 16 ≤ 8 + (8 + rest.length) := by omega
    have hdrop : (leBytes w.toNat 8 ++ (leBytes e.toNat 8 ++ rest)).drop 16 = rest := by
      rw [← List.append_assoc, List.drop_left' (by simp)]
    simp [decodeBytes, ofNat_leNat_leBytes, hx, hlen, hdrop]

/-! ## The words of an instruction -/

/-- A wave instruction has a first word, and one more or none. -/
theorem encode_of_head? {h : Head} (hh : i.head? = some h) :
    ∃ (w : DWord) (x : Option DWord), encode i = w :: x.toList := by
  cases halu : i.alu? with
  | some p => exact ⟨_, p.2.2.ext, (Instr.underRow (h := p.2.1) halu).words⟩
  | none =>
  cases hatom : i.atom? with
  | some p =>
    obtain rfl := Instr.eq_mk_of_atom? (h := p.2.1) hatom
    exact ⟨_, some _, AtomOp.encode_mk _ _ _⟩
  | none =>
  cases hsweep : i.sweep? with
  | some p =>
    obtain rfl := Instr.eq_mk_of_sweep? (h := p.2.1) hsweep
    exact ⟨_, some _, SweepOp.encode_mk _ _⟩
  | none =>
  cases i
  case FORK => exact ⟨_, some _, rfl⟩
  case WAITU h f => exact ⟨_, f.ext.map _, rfl⟩
  all_goals cases halu
  all_goals cases hatom
  all_goals cases hsweep
  all_goals cases hh
  all_goals exact ⟨_, none, rfl⟩

/-- What is no wave instruction is a matrix word, which has one word, or an event, which has none. -/
theorem encode_of_head?_eq_none (hh : i.head? = none) : encode i = [] ∨ ∃ w : DWord, encode i = [w] := by
  cases i
  case MEND | MNOP | MMOV | MADD | MSUB | MMUL | MAND | MOR | MXOR | MSHL | MSHR | MBEQ | MBNE | MBLT | MBGE | MJMP
    | MLD | MST | BLD | SBLD | MMA | ACC_CLR | ACC_ST | TW | TINC => exact .inr ⟨_, rfl⟩
  all_goals cases hh
  all_goals exact .inl rfl

end words

/-! ## The obligations -/

/-- Settles O59: a format's decoder answers only with instructions of which the word's fields are the fields. -/
theorem everyWordHasOneMeaning : Obligations.EveryWordHasOneMeaning := by
  unfold Obligations.EveryWordHasOneMeaning
  refine ⟨fun w next i hd => ?_, fun w i hd => decodeMsqParts_sound (decodeMsq_eq_ok_iff.mp hd)⟩
  have hparts := decodeParts_of_decode hd
  cases hx : hasExt w with
  | false =>
    rw [extOf, hx] at hparts
    exact decodeParts_sound (x := none) hx hparts
  | true =>
    rw [extOf, hx] at hparts
    exact decodeParts_sound (x := some next) hx hparts

/-- Settles O58: the words of an instruction have its fields, and each format's decoder answers with what has them. -/
theorem decodingUndoesEncoding : Obligations.DecodingUndoesEncoding := by
  unfold Obligations.DecodingUndoesEncoding
  refine fun i hwf => ⟨fun h hh rest => ?_, fun hh hne => ?_⟩
  · obtain ⟨w, x, he⟩ := encode_of_head? hh
    have hread := readAs_of_encode hh hwf he
    rw [he, decodeBytes_words hread.hasExt_eq, decode_of_readAs hread]
  · obtain ⟨w, he⟩ := (encode_of_head?_eq_none hh).resolve_left hne
    exact ⟨w, he, decodeMsq_eq_ok_iff.mpr (decodeMsqParts_complete hh hwf he)⟩

end Sys2Proof
end

section
/-!
SUPPORT. A group whose waiting record names a home lane of 32, and the refutation of O47 by it.
-/

namespace Sys2Proof.Machine

open Sys2Proof

/-! ## A waiting record with a home lane of 32

A home lane of a record is a number, which nothing in `State` keeps below 32, and a unit's registers lie at register × 32
+ lane. In the state below a waiting record holds lane 0, with no register, and a lane 32, with register 0. REJOIN writes
that register at 32, which is the place of register 1 of lane 0, whose record has none. -/

/-- A lane of home wave 0 in a record. -/
def recordLane (lane : Nat) (regs : AMap Word) : FragLane := { wave := 0, lane := lane, elem := 0, regs := regs, k := [] }

/-- A waiting record of home wave 0 with lanes 0 and 32. -/
def recordOf32 : WaitRec :=
  { order := 0, token := 0, wave := 0, pc := 0, idem := false, fflags := 0, banks := [], size := 0, rate := .K
    pathPos := [], lanes := [recordLane 0 [], recordLane 32 [(0, 1)]] }

/-- The state in which the record waits in a resident group with one free allocation. -/
def rejoining32 : State :=
  { work := { groups := [(0, { phase := .resident, allocs := [{ part := 0, slot := 0, base := 0, unit := none }]
                               waits := [recordOf32] })] } }

/-- The state that REJOIN of home wave 0 leaves. -/
def rejoined32 : State :=
  match exec (.REJOIN 0 0) rejoining32 with
  | .next t => t
  | _ => {}

theorem exec_rejoining32 : exec (.REJOIN 0 0) rejoining32 = .next rejoined32 := rfl

/-- Lane 0 has register 0 of lane 32 in its register 1. -/
theorem reg_rejoined32 : (rejoined32.unit rejoining32.seq).reg 1 0 = 1 := by decide +kernel

/-- Refutes O47, by its part on REJOIN: where a waiting record names a home lane of 32, its register 0 is written in the
place of register 1 of lane 0, as in `rejoining32`. -/
theorem not_solderAndRejoin : ¬ Obligations.SolderAndRejoin := by
  unfold Obligations.SolderAndRejoin
  intro h
  obtain ⟨-, hrejoin⟩ := h rejoining32 0 0 0 0
  obtain ⟨w, as, hexec, -, -, -, -, hlanes⟩ := hrejoin recordOf32 (by decide) (by decide) (by decide) (by decide)
  have hunit : rejoined32.unit rejoining32.seq = w := by
    rw [Host.Outcome.next.inj (exec_rejoining32.symm.trans hexec)]
    exact State.unit_setUnit_same _ _ _
  have honly : ∀ f', (0, f') ∈ [(0, recordLane 0 []), (32, recordLane 32 [(0, 1)])] → f' = recordLane 0 [] := by simp
  obtain ⟨hreg, -⟩ := hlanes 0 (recordLane 0 []) (by decide) (by decide) (by decide) honly
  have hzero : w.reg 1 0 = 0 := hreg 1
  exact absurd (reg_rejoined32.symm.trans ((congrArg (·.reg 1 0) hunit).trans hzero)) (by decide)

end Sys2Proof.Machine
end

section
/-!
SUPPORT. The words of a line that the instruction cache holds, what a unit fetches and runs from them, and the proof
of O56.
-/

namespace Sys2Proof.Machine

open Sys2Proof

/-! ## The words of a line -/

/-- The word at an offset of a line. -/
def wordAt (line : List Byte) (k : Nat) : DWord := BitVec.ofNat 64 (leNat ((line.drop k).take 8))

/-- A word taken ahead stands at a multiple of 8. -/
theorem mod8_of_mem_wordsFrom {va : Nat} {line : List Byte} {e : Nat × DWord} (h : e ∈ wordsFrom va line) :
    e.1 % 8 = 0 := by
  obtain ⟨i, -, hi⟩ := List.mem_filterMap.1 h
  split at hi
  · rw [← Option.some.inj hi]
    change (va / 128 * 128 + i * 8) % 8 = 0
    omega
  · exact absurd hi (by simp)

/-- The word of an address among those of its line from an earlier address on. -/
theorem find?_wordsFrom {va a : Nat} (line : List Byte) (ha : a % 8 = 0) (hline : a / 128 = va / 128) (hle : va ≤ a) :
    (wordsFrom va line).find? (·.1 = a) = some (a, wordAt line (a % 128)) := by
  have hplace : va / 128 * 128 + a % 128 / 8 * 8 = a := by omega
  have hoff : a % 128 / 8 * 8 = a % 128 := by omega
  have hfirst : va % 128 ≤ a % 128 := by omega
  have hi : (List.range 16).find? (fun i => (if va % 128 ≤ i * 8 then
      some (va / 128 * 128 + i * 8, wordAt line (i * 8)) else none).any (·.1 = a)) = some (a % 128 / 8) := by
    rw [List.find?_range_eq_some]
    refine ⟨?_, List.mem_range.2 (by omega), fun j hj => ?_⟩
    · rw [hoff, if_pos hfirst, ← hoff, hplace]
      simp
    · have : ¬ va / 128 * 128 + j * 8 = a := by omega
      split <;> simp [this]
  have hw : wordsFrom va line = (List.range 16).filterMap fun i =>
      if va % 128 ≤ i * 8 then some (va / 128 * 128 + i * 8, wordAt line (i * 8)) else none := rfl
  rw [hw, List.find?_filterMap, hi, Option.bind_some, hoff, if_pos hfirst, ← hoff, hplace]

/-- What is left of the words of a line behind a multiple of 8 begins 8 further on. -/
theorem filter_wordsFrom_behind {va a : Nat} (line : List Byte) (ha : a % 8 = 0) :
    (wordsFrom va line).filter (fun e => a < e.1) = (wordsFrom va line).filter fun e => a + 8 ≤ e.1 := by
  refine List.filter_congr fun e he => ?_
  have := mod8_of_mem_wordsFrom he
  exact decide_eq_decide.2 (by omega)

/-! ## Fetching from the instruction cache -/

/-- A state in which a unit has only its words taken ahead changed. -/
def State.withAhead (s : State) (u : Nat) (ws : List (Nat × DWord)) : State :=
  s.setUnit u { s.unit u with ahead := ws }

theorem State.unit_withAhead (s : State) (u : Nat) (ws : List (Nat × DWord)) :
    (s.withAhead u ws).unit u = { s.unit u with ahead := ws } :=
  State.unit_setUnit_same _ _ _

theorem State.withAhead_withAhead (s : State) (u : Nat) (ws vs : List (Nat × DWord)) :
    (s.withAhead u ws).withAhead u vs = s.withAhead u vs := by
  rw [State.withAhead, State.unit_withAhead]
  exact State.setUnit_setUnit _ _ _ _

/-- A word that has been taken ahead is fetched, and those up to it are taken ahead no longer. -/
theorem State.fetchWord_of_ahead {s : State} {u va : Nat} {e : Nat × DWord}
    (h : (s.unit u).ahead.find? (·.1 = va) = some e) :
    s.fetchWord u va = (.ok e.2, none, s.withAhead u ((s.unit u).ahead.filter fun e => va < e.1)) := by
  simp only [State.fetchWord, h]
  rfl

section cached

variable {s : State} {u va : Nat} {line : List Byte} (hnone : ∀ e ∈ (s.unit u).ahead, e.1 ≠ va)
  (hline : s.mem.icache.get [] ((s.unit u).core * 2 ^ 65
    + lineKey (tagAsid (s.ctx (s.unit u).ctx).asid va) (va / 128)) = line)
  (hlen : line.length = 128) (hva : va % 8 = 0)

include hnone hline hlen hva

/-- A word of a line that the instruction cache holds is fetched from it, with the rest of the line ahead. -/
theorem State.fetchWord_of_cached :
    s.fetchWord u va =
      (.ok (wordAt line (va % 128)), none, s.withAhead u ((wordsFrom va line).filter fun e => va + 8 ≤ e.1)) := by
  have hahead : (s.unit u).ahead.find? (·.1 = va) = none := List.find?_eq_none.2 fun e he => by simpa using hnone e he
  have hne : line ≠ [] := by
    rintro rfl
    exact absurd hlen (by decide)
  have hcode : s.codeLine (.fetch u) (s.unit u).core (s.unit u).ctx (s.ctx (s.unit u).ctx).asid va
      = (.bytes line, s) := by
    simp only [State.codeLine, hline, if_pos hne]
  simp only [State.fetchWord, hahead, hcode, find?_wordsFrom line hva rfl (le_refl va)]
  rw [← filter_wordsFrom_behind line hva]
  rfl

/-- An instruction whose words stand in a line that the instruction cache holds is fetched from it. -/
theorem State.fetchInstr_of_cached (hpc : (s.unit u).pc.toNat = va)
    (hfit : va % 128 + sizeOfWord (wordAt line (va % 128)) ≤ 128) :
    s.fetchInstr u =
      (.words (wordAt line (va % 128))
          (if hasExt (wordAt line (va % 128)) then wordAt line (va % 128 + 8) else 0),
        s.withAhead u ((wordsFrom va line).filter fun e => va + sizeOfWord (wordAt line (va % 128)) ≤ e.1)) := by
  have hfst := State.fetchWord_of_cached hnone hline hlen hva
  rcases Bool.eq_false_or_eq_true (hasExt (wordAt line (va % 128))) with hx | hx
  · rw [sizeOfWord, if_pos hx] at hfit
    have hsnd : ((s.withAhead u ((wordsFrom va line).filter fun e => va + 8 ≤ e.1)).unit u).ahead.find?
        (·.1 = va + 8) = some (va + 8, wordAt line (va % 128 + 8)) := by
      rw [State.unit_withAhead]
      change ((wordsFrom va line).filter fun e => va + 8 ≤ e.1).find? (·.1 = va + 8) = _
      have hmod : (va + 8) % 128 = va % 128 + 8 := by omega
      rw [List.find?_filter, ← hmod, ← find?_wordsFrom line (by omega) (by omega : (va + 8) / 128 = va / 128) (by omega)]
      congr 1
      funext e
      exact decide_eq_decide.2 (by simp; omega)
    have hrest : ((wordsFrom va line).filter fun e => va + 8 ≤ e.1).filter (fun e => va + 8 < e.1)
        = (wordsFrom va line).filter fun e => va + 16 ≤ e.1 := by
      rw [List.filter_filter, ← filter_wordsFrom_behind (a := va + 8) line (by omega)]
      congr 1
      funext e
      simp
      omega
    simp only [State.fetchInstr, hpc, hfst, hx, State.fetchWord_of_ahead hsnd]
    rw [State.withAhead_withAhead, State.unit_withAhead]
    simp only [sizeOfWord, hx, if_true, ← hrest]
    rfl
  · simp only [State.fetchInstr, hpc, hfst, hx]
    simp [sizeOfWord, hx]

end cached

/-! ## Decoding and running what has been fetched -/

/-- The following word matters only where bit 48 is set. -/
theorem decode_ite_hasExt (w next : DWord) : decode w (if hasExt w then next else 0) = decode w next := by
  rcases Bool.eq_false_or_eq_true (hasExt w) with hx | hx <;> simp [decode, decodeWith, hx]

/-- What decodes, and meets the conditions of its code object's tables, decodes where a unit runs it. -/
theorem State.decodeFor_of_decode {s : State} {u : Nat} {w next : DWord} {i : Instr} (hd : decode w next = .ok i)
    (ht : s.tableConds (s.unit u) i = []) : s.decodeFor u w next = .ok i := by
  have hp : (decodeParts w.toNat (if hasExt w then some next.toNat else none)).2 = some i :=
    congrArg Prod.snd (decodeParts_of_decode hd)
  simp only [State.decodeFor, hp, ht]
  exact hd

/-- A unit whose fetched words decode executes their instruction, as no longer waiting for its fetch. -/
theorem State.fetchAndRun_of_ok {s v : State} {w next : DWord} {i : Instr}
    (h : s.fetchInstr s.cur = (.words w next, v)) (hc : v.cur = s.cur) (hi : v.decodeFor s.cur w next = .ok i) :
    s.fetchAndRun = exec i (v.forget fun p => p = .fetch s.cur) := by
  have hd : (v.forget fun p => p = .fetch v.cur).decodeFor v.cur w next = .ok i := hc ▸ hi
  simp only [State.fetchAndRun, h, State.runWords]
  rw [← hc]
  change (match (v.forget fun p => p = .fetch v.cur).decodeFor v.cur w next with | .ok i => _ | .error e => _) = _
  rw [hd]

/-- A fetch is forgotten by keeping what waits for another. -/
theorem State.forget_fetch (s : State) (u : Nat) :
    (s.forget fun p => p = .fetch u) =
      { s with mem := { s.mem with stalls := s.mem.stalls.filter fun t => t.who ≠ .fetch u
                                   faults := s.mem.faults.filter fun f => f.who ≠ .fetch u
                                   peerOut := s.mem.peerOut.filter fun m => m.who ≠ .fetch u } } := by
  simp only [State.forget, decide_not]

/-- The step of the first unit of a partition whose fetched words decode, outside a draw and with no trap that waits. -/
theorem step_of_fetched {s v : State} {u : Nat} {i : Instr} {rest : List Turn} {w next : DWord}
    (ha : s.agenda = .unit u :: rest) (hr : s.ready u = true) (hf : s.isFirst u = true)
    (ht : (s.unit u).trapNext = none) (hl : (s.draw (s.unit u).launch).live = false)
    (hw : (({ s with agenda := rest } : State).offer u).fetchInstr u = (.words w next, v))
    (hi : v.decodeFor u w next = .ok i) (hc : v.cur = u) :
    step s = settleTurn (s.unit u).group (exec i (v.forget fun p => p = .fetch u)) := by
  have hcur : (({ s with agenda := rest } : State).offer u).cur = u := by rw [State.offer_eq]
  rw [step_of_unit ha, State.unitTurn_of_first (s := { s with agenda := rest }) hr hf ht hl,
    State.fetchAndRun_of_ok (hcur.symm ▸ hw) (hc.trans hcur.symm) (hcur.symm ▸ hi), hcur]
  rfl

/-! ## A turn of a matrix sequencer and an event -/

theorem State.msq_setMsq (s : State) (c : Nat) (m : Msq) : (s.setMsq c m).msq c = m := by
  simp [State.msq, State.setMsq]

/-- A program without an error record to write issues a word in its turn. -/
theorem State.msqTurn_of_runs {s : State} {c : Nat} (he : (s.msq c).errRec = none) (hr : (s.msq c).runs = true) :
    s.msqTurn c = (s.setMsq c { s.msq c with turnAt := (s.core c).cycle }).msqRun c := by
  simp only [State.msqTurn, State.msq_setMsq]
  split
  next h => exact absurd (he.symm.trans h) (by simp)
  next => exact if_pos hr

/-- A program whose next word decodes executes it. -/
theorem State.msqRun_of_word {s v : State} {c : Nat} {w : DWord} {i : Instr}
    (hw : ({ s with curMsq := c } : State).msqWord c = (.word w, v)) (hd : decodeMsq w = .ok i) :
    s.msqRun c = exec i v := by
  simp only [State.msqRun, hw, hd]

theorem step_of_msq {s : State} {c : Nat} {rest : List Turn} (ha : s.agenda = .msq c :: rest) :
    step s = settleEvent (({ s with agenda := rest } : State).msqTurn c) := by
  simp only [step, ha]
  rfl

/-- The step of a program that runs the word that its turn gives it. -/
theorem step_of_msqWord {s v : State} {c : Nat} {w : DWord} {i : Instr} {rest : List Turn}
    (ha : s.agenda = .msq c :: rest) (he : (s.msq c).errRec = none) (hr : (s.msq c).runs = true)
    (hd : decodeMsq w = .ok i)
    (hw : ({ ({ s with agenda := rest } : State).setMsq c
      { s.msq c with turnAt := (s.core c).cycle } with curMsq := c } : State).msqWord c = (.word w, v)) :
    step s = settleEvent (exec i v) := by
  rw [step_of_msq ha, State.msqTurn_of_runs (s := { s with agenda := rest }) he hr]
  exact congrArg settleEvent (State.msqRun_of_word hw hd)

/-- An event of the agenda is performed as it is. -/
theorem step_of_event {s : State} {i : Instr} {rest : List Turn} (ha : s.agenda = .event i :: rest)
    (hi : encode i = []) : step s = settleEvent (exec i { s with agenda := rest }) := by
  have hev : Instr.isEvent i = true := decide_eq_true hi
  simp only [step, ha]
  exact if_pos hev

/-- Settles O56: a unit by the words that it fetches, from a cached line too, a matrix sequencer by its word, and an
event as it is. -/
theorem aStepRunsTheDecodedInstruction : Obligations.AStepRunsTheDecodedInstruction := by
  unfold Obligations.AStepRunsTheDecodedInstruction
  intro s u i rest x va k offered done
  have hdone : ∀ v : State, (v.forget fun p => p = .fetch u) = done v := fun v => v.forget_fetch u
  have hoffer : ({ s with agenda := rest } : State).offer u = offered := State.offer_eq _ _
  refine ⟨fun ha hr hf ht hl => ⟨?cached, ?fetched⟩, ?msq, step_of_event⟩
  case cached =>
    intro line word size hnone hlen hmod hfit hline hd htab
    have hunit : offered.unit u = { x with turnAt := k.cycle + 1 } := State.unit_setUnit_same _ _ _
    have hw := State.fetchInstr_of_cached (s := offered) (u := u) (va := va) (line := line) (by rw [hunit]; exact hnone)
      (by rw [hunit]; exact hline) hlen hmod (by rw [hunit]) hfit
    have hv : offered.withAhead u ((wordsFrom va line).filter fun e => va + size ≤ e.1)
        = offered.setUnit u { x with
          turnAt := k.cycle + 1, ahead := (wordsFrom va line).filter fun e => va + size ≤ e.1 } := by
      rw [State.withAhead, hunit]
    rw [← hdone, ← hv]
    refine step_of_fetched ha hr hf ht hl ((congrArg (·.fetchInstr u) hoffer).trans hw)
      (State.decodeFor_of_decode ?_ ?_) rfl
    · exact (decode_ite_hasExt _ _).trans hd
    · rw [State.unit_withAhead, hunit]
      exact htab
  case fetched =>
    intro w next v hw hi hc
    rw [← hdone]
    exact step_of_fetched ha hr hf ht hl (hoffer ▸ hw) hi hc
  case msq =>
    intro c w v ha he hr hd at_
    have hturn : at_.msq c = { s.msq c with turnAt := (s.core c).cycle } := State.msq_setMsq _ _ _
    refine ⟨fun hin hword => step_of_msqWord ha he hr hd ?_, fun hin hw => step_of_msqWord ha he hr hd ?_⟩
    · change at_.msqWord c = _
      rw [State.msqWord, hturn, hword]
      exact if_pos hin
    · change at_.msqWord c = _
      rw [State.msqWord, hturn, ← hw]
      exact if_neg (by rw [hin]; decide)

end Sys2Proof.Machine
end

section
/-!
SUPPORT. States of which a map lists one key twice, and the refutations of O16 and O20 by them.
-/

namespace Sys2Proof.Machine

open Sys2Proof

/-! ## Maps that list a key twice

A read of a map takes the first entry of its key, a write leaves one entry, and some operations of the model see every
entry. A map in its canonical form (`AMap.wf`) lists no key twice; O16 and O20 speak of every state, and each fails in
one of which a map does. -/

/-- An object whose text is the word at 0 and whose live-register table has one entry. -/
def oneWordObj : Obj :=
  { id := 0, base := 0, ranges := [], textAt := 0, textSize := 8, msqAt := 0, msqSize := 0, lives := 1, holds := []
    entries := [], bound := [], uses := [], hasTrap := false, tceFw := false, collFw := false, measurement := [] }

/-- Unit 0 of a resident group, at that word. -/
def wordUnit : Wave := { live := true, homes := [(0, 0)] }

/-- A state whose map of units is given, with a cancelled launch. -/
def withUnits (us : AMap Wave) (g : Group) : State :=
  { work := { units := us, groups := [(0, { g with phase := .resident })], launches := [(0, { cancelled := true })] }
    ctxs := [(0, { objs := [oneWordObj] })] }

/-! ### safept of a unit that is listed twice -/

/-- What a unit that has left with a lane of the same home wave is still to perform: a store. -/
def leftStore : Pend := { seq := 0, op := .ST bareHead wordForm, pc := 0, dst := 0, n := 0 }

/-- Unit 0 is listed a second time, as one that has left. -/
def twiceListed : State := withUnits [(0, wordUnit), (0, { left := some 0, homes := [(0, 0)], pend := [leftStore] })] {}

theorem issues_twiceListed : Issues twiceListed (.SAFEPT bareHead 0) bareHead where
  ready := by decide
  clear := rfl
  head := rfl
  rate := fun h => absurd h (by decide)
  fresh := by decide
  passes := by decide
  sound := by decide

/-- safept retires the unit of a cancelled launch, where no pre-emption stops it (spec 08 R140). -/
theorem exec_safept_of_cancelled {s : State} {h : Head} {idx : BitVec 12} (hi : Issues s (.SAFEPT h idx) h)
    (hp : s.preempting (s.unit s.cur).core (s.unit s.cur).ctx = false)
    (hc : (s.launch (s.unit s.cur).launch).cancelled = true) :
    exec (.SAFEPT h idx) s = .next ((s.setUnit s.cur { s.unit s.cur with held := false }).retire s.cur) := by
  have hp' : (s.setUnit s.cur { s.unit s.cur with held := false }).preempting (s.unit s.cur).core (s.unit s.cur).ctx
      = false := hp
  rw [exec_SAFEPT, execSafept, State.issue_of_issues _ _ _ _ hi]
  simp only [State.cur_setUnit, State.unit_setUnit_same, hp', State.launch_setUnit, hc, Bool.false_eq_true, if_false,
    if_true]
  rfl

/-- The write of the unit that issues takes its second entry away, with the store that the retirement would wait for. -/
theorem exec_twiceListed :
    exec (.SAFEPT bareHead 0) twiceListed = .next ((twiceListed.setUnit 0 wordUnit).exitUnit 0) := by
  have hperformed : (twiceListed.setUnit 0 wordUnit).performed ((twiceListed.setUnit 0 wordUnit).unit 0) = true := by
    decide
  rw [exec_safept_of_cancelled issues_twiceListed (by decide) (by decide)]
  exact congrArg Host.Outcome.next (if_pos hperformed)

/-- Refutes O16, by its part on a safept that waits: in `twiceListed` an access is still to be performed, but the map of
units lists it under the unit's own number, behind the unit, and it is gone where the retirement looks for it. -/
theorem not_controlWords : ¬ Obligations.ControlWords := by
  unfold Obligations.ControlWords
  intro h
  obtain ⟨-, -, -, -, -, -, hwaits, -⟩ := h twiceListed bareHead 0 0 0
  have hx := hwaits issues_twiceListed (by decide) (by decide) (by decide)
  have ht := Host.Outcome.next.inj (exec_twiceListed.symm.trans hx)
  have hlive : (((twiceListed.setUnit 0 wordUnit).exitUnit 0).unit 0).live = true := by
    rw [ht]
    decide
  exact Bool.false_ne_true ((State.unit_exitUnit_same _ 0).1.symm.trans hlive)

/-! ### meet of a unit whose k1 is listed twice -/

/-- Unit 0 with lanes 0 and 1, of which lane 0 is open under token 0; k1 is listed with lane 0 and again with lane 1. -/
def twiceMasked : State :=
  withUnits [(0, { wordUnit with x := 3, o := 3, homes := [(0, 0), (0, 1)], k := [(1, 1), (1, 2)] })]
    { opens := [(0, 0, 0)] }

theorem issues_twiceMasked : Issues twiceMasked (.MEET bareHead 0) bareHead where
  ready := by decide
  clear := rfl
  head := rfl
  rate := fun h => absurd h (by decide)
  fresh := by decide
  passes := by decide
  sound := by decide

/-- Lane 1 passes. The rejoin takes lane 0 out of the first entry, which then goes, and the second one is read. -/
theorem exec_twiceMasked : ∃ t, exec (.MEET bareHead 0) twiceMasked = .next t ∧ (t.unit 0).kreg 1 = 2 := by
  rw [exec_MEET, execMeet, State.issue_of_issues _ _ _ _ issues_twiceMasked]
  exact ⟨_, rfl, by decide +kernel⟩

/-- Refutes O20, by its part on a meet that goes on in place: in `twiceMasked` lane 1, which passes the meet, reads a set
bit of k1 after it, where it read a clear one before. -/
theorem not_forkAndMeet : ¬ Obligations.ForkAndMeet := by
  unfold Obligations.ForkAndMeet
  intro h
  obtain ⟨-, -, -, -, hplace, -⟩ := h twiceMasked bareHead 0 0 0 0 0
  obtain ⟨w, hx, -, -, hk⟩ := hplace issues_twiceMasked (by decide) (by decide)
  obtain ⟨t, ht, hk1⟩ := exec_twiceMasked
  have hw : t.unit 0 = w := by
    rw [Host.Outcome.next.inj (ht.symm.trans hx)]
    exact State.unit_setUnit_same _ _ _
  have hread := hk 1 1 (by decide) (by decide)
  rw [← hw, hk1] at hread
  exact absurd hread (by decide)

end Sys2Proof.Machine
end

section
/-!
SUPPORT. What telling the firmware leaves as it was: the readings of memory that need no access, and what follows from
them for the reserved entries of the region home map that a lookup meets (spec 11 R177).
-/

namespace Sys2Proof.Machine

open Sys2Proof

/-- The firmware is told of several events, in order. -/
def State.tells (s : State) (es : List FwEvent) : State :=
  { s with host := { s.host with events := s.host.events ++ es } }

theorem State.tells_nil (s : State) : s.tells [] = s := by
  simp [State.tells]

theorem State.tells_tells (s : State) (es fs : List FwEvent) : (s.tells es).tells fs = s.tells (es ++ fs) := by
  simp [State.tells]

/-- Steps that each do no more than tell the firmware do no more together. -/
theorem State.foldl_tells {α : Type} {f : State → α → State} (hf : ∀ s x, ∃ es, f s x = s.tells es) (xs : List α)
    (s : State) : ∃ es, xs.foldl f s = s.tells es := by
  induction xs generalizing s with
  | nil => exact ⟨[], s.tells_nil.symm⟩
  | cons x xs ih =>
    obtain ⟨es, hs⟩ := hf s x
    obtain ⟨fs, ht⟩ := ih (s.tells es)
    exact ⟨es ++ fs, by rw [List.foldl_cons, hs, ht, State.tells_tells]⟩

/-! ## What only tells the firmware -/

section tellsOnly

variable (s : State)

theorem State.tellHome_eq_tells (asid va : Nat) : ∃ es, s.tellHome asid va = s.tells es := by
  simp only [State.tellHome, State.homeDie, State.regionOf, ne_eq, not_true_eq_false, if_false]
  split
  · exact ⟨[.homeMap (tagAsid asid va)], rfl⟩
  · exact ⟨[], s.tells_nil.symm⟩

theorem State.tellLocal_eq_tells (pa n : Nat) : ∃ es, s.tellLocal pa n = s.tells es := by
  refine State.foldl_tells (fun t c => ?_) _ s
  split
  · exact t.tellHome_eq_tells _ _
  · exact ⟨[], t.tells_nil.symm⟩

theorem State.tellRecords_eq_tells (ctx off : Nat) : ∃ es, s.tellRecords ctx off = s.tells es :=
  State.foldl_tells (fun t _ => t.tellHome_eq_tells _ _) _ s

end tellsOnly

/-! ## Readings that the firmware's events do not change -/

section tells

variable (s : State) (es : List FwEvent)

@[simp] theorem State.mem_tells : (s.tells es).mem = s.mem := rfl
@[simp] theorem State.work_tells : (s.tells es).work = s.work := rfl
@[simp] theorem State.cores_tells : (s.tells es).cores = s.cores := rfl
@[simp] theorem State.ctxs_tells : (s.tells es).ctxs = s.ctxs := rfl
@[simp] theorem State.ctx_tells (c : Nat) : (s.tells es).ctx c = s.ctx c := rfl
@[simp] theorem State.launch_tells (l : Nat) : (s.tells es).launch l = s.launch l := rfl
@[simp] theorem State.outside_tells : (s.tells es).outside = s.outside := rfl
@[simp] theorem State.readPhys_tells (pa n : Nat) : (s.tells es).readPhys pa n = s.readPhys pa n := rfl
@[simp] theorem State.physOk_tells (pa : Nat) : (s.tells es).physOk pa = s.physOk pa := rfl
@[simp] theorem State.badPhys_tells (pa : Nat) : (s.tells es).badPhys pa = s.badPhys pa := rfl
@[simp] theorem State.malformed_tells (level : Nat) (e : DWord) :
    (s.tells es).malformed level e = s.malformed level e := rfl
@[simp] theorem State.sliceOn_tells (d va : Nat) : (s.tells es).sliceOn d va = s.sliceOn d va := rfl
@[simp] theorem State.dieOfSlice_tells (sl : Nat) : (s.tells es).dieOfSlice sl = s.dieOfSlice sl := rfl
@[simp] theorem State.transUnit_tells (d va : Nat) : (s.tells es).transUnit d va = s.transUnit d va := rfl
@[simp] theorem State.findLine_tells (sl asid line : Nat) :
    (s.tells es).findLine sl asid line = s.findLine sl asid line := rfl

@[simp] theorem State.mapDie_tells (asid va : Nat) : (s.tells es).mapDie asid va = s.mapDie asid va := by
  unfold State.mapDie State.mapWalk State.readPhys State.badPhys
  rw [State.mem_tells]

@[simp] theorem State.homeSlice_tells (asid va : Nat) : (s.tells es).homeSlice asid va = s.homeSlice asid va := by
  simp only [State.homeSlice, State.sliceOn_tells, State.mapDie_tells]

@[simp] theorem State.findFrame_tells (pa : Nat) (ls : List (Nat × Nat × Nat)) (table va : Nat) :
    (s.tells es).findFrame pa ls table va = s.findFrame pa ls table va := by
  induction ls generalizing table va with
  | nil => rfl
  | cons l ls ih =>
    simp only [State.findFrame, State.readPhys_tells, State.malformed_tells, ih]
    rfl

@[simp] theorem State.localLine_tells (pa : Nat) : (s.tells es).localLine pa = s.localLine pa := by
  simp only [State.localLine, State.frameVa, State.findFrame_tells, State.mem_tells, State.homeSlice_tells,
    State.findLine_tells]

@[simp] theorem State.localRead_tells (pa n : Nat) : (s.tells es).localRead pa n = s.localRead pa n := by
  simp only [State.localRead, State.localLine_tells, State.readPhys_tells]

@[simp] theorem State.walkFrom_tells (tu : TransUnit) (asid va : Nat) (ls : List (Nat × Nat × Nat)) (table : Nat)
    (seen : List (Nat × DWord)) :
    (s.tells es).walkFrom tu asid va ls table seen = s.walkFrom tu asid va ls table seen := by
  induction ls generalizing table seen with
  | nil => rfl
  | cons l ls ih =>
    simp only [State.walkFrom, State.readPhys_tells, State.physOk_tells, State.badPhys_tells, State.malformed_tells, ih]

@[simp] theorem State.lookup_tells (d asid va : Nat) : (s.tells es).lookup d asid va = s.lookup d asid va := by
  simp only [State.lookup, State.mem_tells, State.transUnit_tells, State.walkFrom_tells]

@[simp] theorem State.peek_tells (asid va n : Nat) : (s.tells es).peek asid va n = s.peek asid va n := by
  simp only [State.peek, State.homeSlice_tells, State.findLine_tells, State.lookup_tells, State.dieOfSlice_tells,
    State.readPhys_tells]

@[simp] theorem State.launchEntry_tells (l : Nat) : (s.tells es).launchEntry l = s.launchEntry l := by
  simp only [State.launchEntry, State.launch_tells, State.ctx_tells, State.peek_tells]

@[simp] theorem State.busy_tells (ctx : Nat) (o : Obj) : (s.tells es).busy ctx o = s.busy ctx o := by
  simp only [State.busy, State.ctx_tells, State.work_tells, State.cores_tells, State.launch_tells,
    State.launchEntry_tells]
  rfl

end tells

/-- What the dispatch complex reads of local memory does not turn on what the firmware has been told. -/
theorem State.localRead_tellLocal (s : State) (pa n qa m : Nat) :
    (s.tellLocal pa n).localRead qa m = s.localRead qa m := by
  obtain ⟨es, h⟩ := s.tellLocal_eq_tells pa n
  rw [h, State.localRead_tells]

end Sys2Proof.Machine
end

section
/-!
SUPPORT. Contexts and queues: what each event of spec 07 R115, R121, spec 06 R108 and spec 16 R251, R252 does, case by
case, and the proof of O44 from it.
-/

namespace Sys2Proof.Machine

open Sys2Proof

/-! ## CONTEXT_BLOCK_ADDRESS (spec 16 R251) -/

theorem execContextBlockAddress_of_taken {ctx : Nat} {value : DWord} {s : State} (hc : ctx < 4096)
    (hd : (s.ctx ctx).enabled = false) (ha : value.toNat % 4096 = 0) :
    execContextBlockAddress ctx value s = .next (s.setCtx ctx { s.ctx ctx with block := value }) := by
  have hc' : ¬maxContexts ≤ ctx := Nat.not_le.mpr hc
  simp [execContextBlockAddress, hc', hd, ha]

theorem execContextBlockAddress_of_ignored {ctx : Nat} {value : DWord} {s : State}
    (h : 4096 ≤ ctx ∨ (s.ctx ctx).enabled = true ∨ value.toNat % 4096 ≠ 0) :
    execContextBlockAddress ctx value s = .next s := by
  have h' : maxContexts ≤ ctx ∨ (s.ctx ctx).enabled = true ∨ value.toNat % 4096 ≠ 0 := h
  refine congrArg Host.Outcome.next (if_pos ?_)
  simpa [or_assoc] using h'

/-! ## CONTEXT_ENABLE (spec 16 R251, R252; log entry 82) -/

@[simp] theorem State.ctx_createCtx (s : State) (ctx : Nat) (fw : FwContext) :
    (s.createCtx ctx fw).ctx ctx = (if fw.created then (s.ctx ctx).create fw else s.ctx ctx).ruled fw := by
  unfold State.createCtx
  cases fw.created <;> exact State.ctx_setCtx_same _ _ _

@[simp] theorem State.host_createCtx (s : State) (ctx : Nat) (fw : FwContext) : (s.createCtx ctx fw).host = s.host := by
  unfold State.createCtx
  cases fw.created <;> rfl

/-- A context that is enabled with the areas of its block, which a state reads. -/
def Ctx.enabledWith (x : Ctx) (s : State) : Ctx :=
  let area := fun o : Nat => s.areaAt (x.block.toNat + o)
  { x with enabled := true, save := area 0x410, spawn := area 0x420, spill := area 0x430, ring := area 0x440
           wake := area 0x450, ringNext := 0, wakeNext := 0, ringMapped := [], saves := [], collQs := []
           spillSeg := min 65535 ((area 0x430).size / (32 * (s.host.slices0 + s.host.slices1))) }

/-- The areas of a context block do not turn on what the firmware has been told. -/
@[simp] theorem State.areaAt_tells (s : State) (es : List FwEvent) (pa : Nat) :
    (s.tells es).areaAt pa = s.areaAt pa := by
  simp only [State.areaAt, State.localRead_tells]

theorem Ctx.enabledWith_tellLocal (x : Ctx) (s : State) (pa n : Nat) :
    x.enabledWith (s.tellLocal pa n) = x.enabledWith s := by
  obtain ⟨es, h⟩ := s.tellLocal_eq_tells pa n
  simp only [h, Ctx.enabledWith, State.areaAt_tells]
  rfl

theorem execContextEnable_of_enabling {ctx : Nat} {q : BitVec 32} {fw : FwContext} {s s0 : State} {x : Ctx}
    (hc : ctx < 4096) (hd : (s.ctx ctx).enabled = false) (hq : q.getLsbD 0 = true) (hs : s.createCtx ctx fw = s0)
    (hx : s0.ctx ctx = x) :
    execContextEnable ctx ⟨q, fw⟩ s =
      .next ((s0.tellLocal (x.block.toNat + 0x410) 80).setCtx ctx (x.enabledWith s0)) := by
  subst hs hx
  have hc' : ¬maxContexts ≤ ctx := Nat.not_le.mpr hc
  rw [← Ctx.enabledWith_tellLocal _ _ (((s.createCtx ctx fw).ctx ctx).block.toNat + 0x410) 80]
  simp only [execContextEnable, hc', hq, hd, decide_false, Bool.true_eq_false, Bool.or_self, Bool.false_eq_true,
    if_false, if_true, Ctx.enabledWith]

theorem execContextEnable_of_disabling {ctx : Nat} {q : BitVec 32} {fw : FwContext} {s : State} (hc : ctx < 4096)
    (he : (s.ctx ctx).enabled = true) (hq : q.getLsbD 0 = false) :
    execContextEnable ctx ⟨q, fw⟩ s =
      .next (if s.hasWork ctx then s else s.setCtx ctx { s.ctx ctx with enabled := false }) := by
  have hc' : ¬maxContexts ≤ ctx := Nat.not_le.mpr hc
  have hq' : ¬q.getLsbD 0 = true := by simp only [hq, Bool.false_eq_true, not_false_eq_true]
  refine congrArg Host.Outcome.next ((if_neg ?_).trans (if_neg hq'))
  simp only [hc', hq, he, decide_false, Bool.false_eq_true, Bool.or_self, not_false_eq_true]

/-- A context with a job, a launch, a collective command or a group has unfinished work. -/
theorem State.hasWork_of_unfinished {s : State} {ctx : Nat}
    (h : (s.ctx ctx).inbox ≠ [] ∨ (s.ctx ctx).hw ≠ [] ∨ (s.ctx ctx).ringRecs ≠ [] ∨
      (∃ e ∈ (s.ctx ctx).collQs, e.2.cmds ≠ []) ∨ ∃ e ∈ s.work.groups, e.2.phase ≠ .absent ∧ e.2.ctx = ctx) :
    s.hasWork ctx = true := by
  rcases h with h | h | h | ⟨e, he, h⟩ | ⟨e, he, hp, hx⟩
  · simp [State.hasWork, h]
  · simp [State.hasWork, h]
  · simp [State.hasWork, h]
  · have hany : ((s.ctx ctx).collQs.any fun e => e.2.cmds ≠ []) = true :=
      List.any_eq_true.mpr ⟨e, he, decide_eq_true h⟩
    simp only [State.hasWork, hany, Bool.or_true, Bool.true_or]
  · have hany : (s.work.groups.any fun e => e.2.phase ≠ .absent && e.2.ctx = ctx) = true :=
      List.any_eq_true.mpr ⟨e, he, by simp [hp, hx]⟩
    simp only [State.hasWork, hany, Bool.or_true, Bool.true_or]

/-! ## DOORBELL (spec 07 R115) -/

theorem execDoorbell_of_ignored {ctx off : Nat} {q : BitVec 32} {s : State}
    (h : off ≠ 0 ∨ (s.ctx ctx).enabled = false) : execDoorbell ctx off q s = .next s := by
  refine congrArg Host.Outcome.next (if_pos ?_)
  rcases h with h | h <;> simp [h]

/-- The entries of a queue that a doorbell announces, from the queue's descriptor. -/
def Ctx.announced (x : Ctx) (q : Nat) (d : List Byte) : List JobIn :=
  let ring := 2 ^ field d 8 1
  let known := (x.inbox.filter fun j => j.queue = q && j.read = []).length
  let total := (field d 0x14 4 + ring - field d 0x10 4) % ring
  (List.range (total - known)).map fun i =>
    let index := (field d 0x10 4 + known + i) % ring
    { queue := q, cls := field d 9 1, index := index, entry := field d 0 8 + 64 * index, ring := ring }

theorem execDoorbell_of_enabled {ctx : Nat} {q : BitVec 32} {s : State} (hc : ctx < 4096)
    (he : (s.ctx ctx).enabled = true) (hq : q.toNat < 16) :
    let x := s.ctx ctx
    let d := s.localRead (x.block.toNat + 32 * q.toNat) 32
    let told := s.tellLocal (x.block.toNat + 32 * q.toNat) 32
    execDoorbell ctx 0 q s = .next (if !goodQueue d then told.tell (.badQueue ctx q.toNat)
      else told.setCtx ctx { x with inbox := x.inbox ++ x.announced q.toNat d }) := by
  have hc' : ¬maxContexts ≤ ctx := Nat.not_le.mpr hc
  have hq' : ¬16 ≤ q.toNat := Nat.not_le.mpr hq
  refine congrArg Host.Outcome.next (if_neg ?_)
  simp only [hc', hq', he, ne_eq, not_true_eq_false, decide_false, Bool.or_self, Bool.not_true, Bool.false_eq_true,
    not_false_eq_true]

/-! ## The overflow ring and the spawn area (spec 06 R108, spec 07 R121) -/

theorem execSpawnAreaGrow_spec (ctx n : Nat) (s : State) :
    ∃ t : State, execSpawnAreaGrow ctx n s = .next t ∧
      t.ctx ctx = { s.ctx ctx with spawn := { (s.ctx ctx).spawn with size := (s.ctx ctx).spawn.size + n } } ∧
      (∀ c, c ≠ ctx → t.ctx c = s.ctx c) ∧ t.work = s.work ∧ t.mem = s.mem ∧ t.cores = s.cores :=
  ⟨_, rfl, State.ctx_setCtx_same _ _ _, fun c hc => State.ctx_setCtx_other _ _ _ c hc, rfl, rfl, rfl⟩

/-- Settles O44: each event by the equation of its case. -/
theorem contextsAndQueues : Obligations.ContextsAndQueues := by
  unfold Obligations.ContextsAndQueues
  intro s ctx off n value q fw x puts
  refine ⟨execContextBlockAddress_of_taken, execContextBlockAddress_of_ignored, ?enable, fun hc he hw hf => ?disable,
    fun hc he hw hf => ?busy, fun hc he hq => ?doorbell, execDoorbell_of_ignored, rfl, execSpawnAreaGrow_spec ctx n s⟩
  case enable =>
    intro hc hd hw x1 x0 s0 pa area
    have hs0 : s.createCtx ctx fw = s0 := by
      simp only [State.createCtx, s0, x0, x1]
      cases fw.created <;> rfl
    have hx0 : s0.ctx ctx = x0 := by
      rw [← hs0, State.ctx_createCtx]
      simp only [x0, x1]
      cases fw.created <;> rfl
    have hblock : x0.block = x.block := by
      simp only [x0, x1]
      cases fw.created <;> rfl
    have hhost : s0.host = s.host := by rw [← hs0, State.host_createCtx]
    change execContextEnable ctx ⟨q, fw⟩ s = _
    rw [execContextEnable_of_enabling hc hd hw hs0 hx0, Ctx.enabledWith, hblock, hhost]
    rfl
  case disable =>
    have hx := execContextEnable_of_disabling (fw := fw) hc he hw
    rwa [hf] at hx
  case busy =>
    have hx := execContextEnable_of_disabling (fw := fw) hc he hw
    rwa [State.hasWork_of_unfinished hf] at hx
  case doorbell =>
    have hx := execDoorbell_of_enabled hc he hq
    exact ⟨fun hg => hx.trans (by rw [hg]; rfl), fun hg => hx.trans (by rw [hg]; rfl)⟩

end Sys2Proof.Machine
end

section
/-!
SUPPORT. The checks of a load: the first that fails gives the status (spec 04 R81).
-/

namespace Sys2Proof.Machine

open Sys2Proof

/-! ## The first of several checks that fails -/

/-- The number, from `n` up, of the first check of a list that fails; 0 where none does. -/
def firstFailing : Nat → List Bool → Nat
  | _, [] => 0
  | n, c :: cs => if c then n else firstFailing (n + 1) cs

/-- Check `k` of a list that is numbered from `n` up fails. -/
def FailsAt (n : Nat) (cs : List Bool) (k : Nat) : Prop := n ≤ k ∧ cs.getD (k - n) false = true

theorem failsAt_cons {n k : Nat} {c : Bool} {cs : List Bool} :
    FailsAt n (c :: cs) k ↔ k = n ∧ c = true ∨ FailsAt (n + 1) cs k := by
  unfold FailsAt
  rcases Nat.lt_trichotomy k n with hk | rfl | hk
  · have h1 : ¬n ≤ k := by omega
    have h2 : ¬n + 1 ≤ k := by omega
    simp [h1, h2, hk.ne]
  · simp
  · obtain ⟨j, rfl⟩ : ∃ j, k = n + 1 + j := ⟨k - (n + 1), by omega⟩
    have hj : n + 1 + j - n = j + 1 := by omega
    have hle : n ≤ n + 1 + j := by omega
    have hne : n + 1 + j ≠ n := by omega
    simp [hj, hle, hne]

theorem failsAt_succ {k : Nat} {cs : List Bool} : FailsAt 1 cs (k + 1) ↔ cs.getD k false = true := by
  simp [FailsAt]

theorem firstFailing_eq_zero_iff {n : Nat} (hn : 0 < n) (cs : List Bool) :
    firstFailing n cs = 0 ↔ ∀ k, ¬FailsAt n cs k := by
  induction cs generalizing n with
  | nil => simp [firstFailing, FailsAt]
  | cons c cs ih =>
    cases c with
    | false => simpa [firstFailing, failsAt_cons] using ih (Nat.succ_pos n)
    | true =>
      have hne : n ≠ 0 := by omega
      simpa [firstFailing, hne] using ⟨n, failsAt_cons.mpr (.inl ⟨rfl, rfl⟩)⟩

theorem firstFailing_of_first {n k : Nat} {cs : List Bool} (h : FailsAt n cs k) (hbefore : ∀ j, j < k → ¬FailsAt n cs j) :
    firstFailing n cs = k := by
  induction cs generalizing n with
  | nil => simp [FailsAt] at h
  | cons c cs ih =>
    cases c with
    | true =>
      have hk : k ≤ n := Nat.not_lt.mp fun hlt => hbefore n hlt (failsAt_cons.mpr (.inl ⟨rfl, rfl⟩))
      exact Nat.le_antisymm h.1 hk
    | false =>
      have htail : FailsAt (n + 1) cs k := by simpa [failsAt_cons] using h
      exact ih htail fun j hj hf => hbefore j hj (failsAt_cons.mpr (.inr hf))

/-! ## The checks of a load (spec 04 R81) -/

/-- Whether each of the checks of R81 fails, in the order of their statuses from 1 up. -/
def State.loadChecks (s : State) (x : Ctx) (f : List Byte) (place : LoadPlace) (replaceTrap : Bool) : List Bool :=
  let p := partsOf f
  let base := place.base
  let sig := sectBytes f p.sects 0x0E
  let signed : Bool := sig ≠ []
  let note := sectBytes f p.sects 8
  let key := (sig.drop 0x48).take 57
  let tce := fwImage f p 0x0C
  let coll := fwImage f p 0x0D
  let more := fun (new old : List Byte) => if old = [] then new.length else 0
  let clash := fun (new old : List Byte) => new ≠ [] && old ≠ [] && new ≠ old
  [!(goodHeader f && goodSects f p.sects && goodTables f p && goodLinks f p && goodSig f p)
      || (p.patches x f base).contains .format,
    !signed && (!x.unsigned_ || ((sectOf? p.sects 0x0C).isSome || (sectOf? p.sects 0x0D).isSome)),
    signed && !((sig.drop 8).take 64 = measurementOf f p
      && ed448Verify ((sig.drop 0x88).take 114) key ((sig.drop 8).take 64) pcoString),
    signed && !x.signers.contains key,
    deviceRev < field note 0 4,
    field note 4 4 &&& deviceFeatures ≠ field note 4 4,
    (s.mapped x p place).isNone || !s.engineRoom (more tce x.tceFw.image + more coll x.collFw.image),
    (p.syms.filter fun y => y.sect ≠ 0 && y.binding ≠ 0).any fun y => x.bindDef (p.boundOf f base y) = .dup,
    p.syms.any fun y => (p.resolve x f base y).isNone,
    (p.patches x f base).contains .range,
    (p.entries.any fun e => e.kind = 2) && x.trap.isSome && !replaceTrap,
    clash tce x.tceFw.image || clash coll x.collFw.image]

theorem State.loadStatus_eq (s : State) (x : Ctx) (f : List Byte) (place : LoadPlace) (replaceTrap : Bool) :
    s.loadStatus x f place replaceTrap = firstFailing 1 (s.loadChecks x f place replaceTrap) := by
  simp only [State.loadStatus, State.loadChecks, firstFailing, decide_eq_true_eq]

/-- The image of a kind that a load's file carries. -/
theorem fwImage_eq (f : List Byte) (p : Parts) (kind : Nat) :
    fwImage f p kind =
      ((sectBytes f p.sects kind).drop 16).take (leNat (((sectBytes f p.sects kind).drop 4).take 4)) := rfl

theorem isSome_sectOf?_iff {ss : List Sect} {kind : Nat} : (sectOf? ss kind).isSome = true ↔ ∃ y ∈ ss, y.kind = kind := by
  simp [sectOf?]

/-- A load that fails no check finds room for the object's mapping. -/
theorem State.mapped_of_loadStatus {s : State} {x : Ctx} {f : List Byte} {place : LoadPlace} {replaceTrap : Bool}
    (h : s.loadStatus x f place replaceTrap = 0) : ∃ t, s.mapped x (partsOf f) place = some t := by
  rw [State.loadStatus_eq, firstFailing_eq_zero_iff Nat.one_pos] at h
  have h7 := h 7
  cases hm : s.mapped x (partsOf f) place with
  | some t => exact ⟨t, rfl⟩
  | none => simp [FailsAt, State.loadChecks, hm] at h7

/-- The mapping of an object's only page finds it unmapped. -/
theorem State.isMapped_of_mapped {s t : State} {x : Ctx} {p : Parts} {place : LoadPlace} {pg : Nat}
    (h : s.mapped x p place = some t) (hpg : rangePages (p.ranges place.base) = [pg]) :
    s.isMapped x.asid pg = false := by
  simp only [State.mapped, hpg] at h
  split at h
  · cases hf : place.frames with
    | nil => simp [hf, State.mapPages] at h
    | cons frame frames =>
      cases hm : s.isMapped x.asid pg with
      | false => rfl
      | true => simp [hf, State.mapPages, hm] at h
  · cases h

end Sys2Proof.Machine
end

section
/-!
SUPPORT. What loading and unloading leave as they were: the work, the cores and the contexts, and the list of stalls,
where no fill stalls.
-/

namespace Sys2Proof.Machine

open Sys2Proof

/-- What a write at a home slice or at a channel leaves: what the memory system does not write, and the stalls. -/
def State.kept (s : State) : (WorkState × AMap Core × AMap Ctx × List Turn × Nat × Nat) × List Stall :=
  (s.outside, s.mem.stalls)

section kept

variable {s t : State}

theorem State.outside_of_kept (h : t.kept = s.kept) : t.outside = s.outside := congrArg Prod.fst h
theorem State.stalls_of_kept (h : t.kept = s.kept) : t.mem.stalls = s.mem.stalls := congrArg Prod.snd h

theorem State.kept_of_parts (ho : t.outside = s.outside) (hs : t.mem.stalls = s.mem.stalls) : t.kept = s.kept :=
  Prod.ext ho hs

end kept

theorem State.kept_foldl {α : Type} (f : State → α → State) (hf : ∀ s x, (f s x).kept = s.kept) (xs : List α)
    (s : State) : (xs.foldl f s).kept = s.kept := by
  induction xs generalizing s with
  | nil => rfl
  | cons x xs ih => exact (ih (f s x)).trans (hf s x)

/-! ## Writes at a home slice and at a channel -/

section writes

variable (s : State)

@[simp] theorem State.kept_tell (e : FwEvent) : (s.tell e).kept = s.kept := rfl
@[simp] theorem State.kept_tells (es : List FwEvent) : (s.tells es).kept = s.kept := rfl
@[simp] theorem State.kept_stamp : s.stamp.2.kept = s.kept := rfl
@[simp] theorem State.kept_fresh : s.fresh.2.kept = s.kept := rfl
@[simp] theorem State.kept_setSlice (n : Nat) (v : Slice) : (s.setSlice n v).kept = s.kept := rfl
@[simp] theorem State.kept_writePhys (pa : Nat) (bs : List Byte) : (s.writePhys pa bs).kept = s.kept := rfl
@[simp] theorem State.kept_writeFrame (pa : Nat) (l : Line) : (s.writeFrame pa l).kept = s.kept := rfl
@[simp] theorem State.kept_zeroTable (pa : Nat) : (s.zeroTable pa).kept = s.kept := rfl
@[simp] theorem State.kept_dropCode (asid lo n : Nat) : (s.dropCode asid lo n).kept = s.kept := rfl
@[simp] theorem State.kept_soil (asid va n : Nat) : (s.soil asid va n).kept = s.kept := rfl
@[simp] theorem State.kept_sendWake (sl : Nat) (e : MonEntry) (status : Nat) :
    (s.sendWake sl e status).kept = s.kept := rfl
@[simp] theorem State.kept_endAside (sl : Nat) (e : MonEntry) (status : Nat) :
    (s.endAside sl e status).kept = s.kept := rfl

@[simp] theorem State.kept_tellHome (asid va : Nat) : (s.tellHome asid va).kept = s.kept := by
  obtain ⟨es, h⟩ := s.tellHome_eq_tells asid va
  rw [h, State.kept_tells]

@[simp] theorem State.kept_tellRecords (ctx off : Nat) : (s.tellRecords ctx off).kept = s.kept := by
  obtain ⟨es, h⟩ := s.tellRecords_eq_tells ctx off
  rw [h, State.kept_tells]

@[simp] theorem State.kept_tellLocal (pa n : Nat) : (s.tellLocal pa n).kept = s.kept := by
  obtain ⟨es, h⟩ := s.tellLocal_eq_tells pa n
  rw [h, State.kept_tells]

@[simp] theorem State.kept_writeChannel (pa : Nat) (bs : List Byte) : (s.writeChannel pa bs).kept = s.kept := by
  unfold State.writeChannel
  split <;> rfl

@[simp] theorem State.kept_putLine (sl : Nat) (l : Line) : (s.putLine sl l).kept = s.kept := by
  simp only [State.putLine]
  split
  · rfl
  · split <;> rfl

@[simp] theorem State.kept_dropLine (sl asid line : Nat) : (s.dropLine sl asid line).kept = s.kept := by
  simp only [State.dropLine]
  split <;> rfl

theorem State.stalls_blurFrom (asid va : Nat) (bs : List Byte) :
    (s.blurFrom asid va bs).2.mem.stalls = s.mem.stalls := by
  induction bs generalizing s va with
  | nil => rfl
  | cons b bs ih =>
    simp only [State.blurFrom]
    split
    · exact ih _ _
    · exact ih _ _

@[simp] theorem State.kept_blur (asid va : Nat) (bs : List Byte) : (s.blur asid va bs).2.kept = s.kept := by
  refine State.kept_of_parts (s.outside_blur _ _ _) ?_
  unfold State.blur
  split
  · exact s.stalls_blurFrom _ _ _
  · rfl

@[simp] theorem State.kept_localPatch (pa : Nat) (bs : List Byte) : (s.localPatch pa bs).kept = s.kept := by
  simp only [State.localPatch]
  split <;> simp

@[simp] theorem State.kept_clearSpill (sl : Nat) (p : Spill) : (s.clearSpill sl p).kept = s.kept := by
  simp [State.clearSpill]

@[simp] theorem State.kept_endEntries (sl status : Nat) (ends : MonEntry → Bool) :
    (s.endEntries sl status ends).kept = s.kept :=
  (State.kept_foldl _ (fun t _ => t.kept_sendWake sl _ status) _ _).trans (s.kept_setSlice _ _)

@[simp] theorem State.kept_expireSpilled (sl : Nat) : (s.expireSpilled sl).kept = s.kept := by
  refine State.kept_foldl _ (fun t p => ?_) _ s
  rw [State.kept_endAside, State.kept_clearSpill]

@[simp] theorem State.kept_walk (sl : Nat) (ends : MonEntry → Bool) : (s.walk sl ends).kept = s.kept := by
  rw [State.walk, State.kept_expireSpilled]
  refine (State.kept_foldl _ (fun t p => ?_) _ _).trans (s.kept_setSlice _ _)
  rw [State.kept_endAside, State.kept_clearSpill]

@[simp] theorem State.kept_reevaluate (sl : Nat) (l : Line) (lo n : Nat) : (s.reevaluate sl l lo n).kept = s.kept := by
  simp only [State.reevaluate]
  split <;> simp

@[simp] theorem State.kept_writeLine (sl : Nat) (l : Line) (lo : Nat) (bs : List Byte) :
    (s.writeLine sl l lo bs).kept = s.kept := by
  simp [State.writeLine]

@[simp] theorem State.kept_localWrite (pa : Nat) (bs : List Byte) : (s.localWrite pa bs).kept = s.kept := by
  simp only [State.localWrite]
  split <;> simp

/-! ## The bytes of an object -/

@[simp] theorem State.kept_poke (asid va : Nat) (bs : List Byte) : (s.poke asid va bs).kept = s.kept := by
  simp only [State.poke]
  split
  · exact s.kept_writeLine _ _ _ _
  · split
    · exact s.kept_writeChannel _ _
    · rfl

theorem State.kept_pokes (asid : Nat) (cs : List (Nat × Nat)) (s : State) (bs : List Byte) :
    (cs.foldl (fun a c => ((a.1.poke asid c.1 (a.2.take c.2)), a.2.drop c.2)) (s, bs)).1.kept = s.kept := by
  induction cs generalizing s bs with
  | nil => rfl
  | cons c cs ih => exact (ih _ _).trans (s.kept_poke _ _ _)

@[simp] theorem State.kept_pokeAll (asid va : Nat) (bs : List Byte) : (s.pokeAll asid va bs).kept = s.kept :=
  State.kept_pokes asid _ s bs

@[simp] theorem State.kept_placeDescr (ctx : Nat) : (s.placeDescr ctx).kept = s.kept := by
  simp only [State.placeDescr]
  split
  · rfl
  · exact (State.kept_localWrite _ _ _).trans s.kept_fresh

@[simp] theorem State.kept_clearLeaf (asid page : Nat) : (s.clearLeaf asid page).kept = s.kept := by
  simp only [State.clearLeaf]
  split
  · exact s.kept_writePhys _ _
  · rfl

end writes

/-! ## The mapping of an object (spec 04 R71) -/

theorem State.kept_mapFrom {s t : State} {va leaf table : Nat} {ls : List (Nat × Nat × Nat)} {more rest : List Nat}
    (h : s.mapFrom va leaf ls table more = some (t, rest)) : t.kept = s.kept := by
  induction ls generalizing s table more with
  | nil => cases h
  | cons l ls ih =>
    obtain ⟨level, shift, width⟩ := l
    simp only [State.mapFrom] at h
    split at h
    · cases h
    split at h
    · split at h
      · cases h
        exact s.kept_writePhys _ _
      · cases h
    split at h
    · split at h
      · cases h
      · exact ih h
    split at h
    · cases h
    · split at h
      · cases h
      · exact (ih h).trans ((State.kept_writePhys _ _ _).trans (s.kept_zeroTable _))

theorem State.kept_mapPages {s t : State} {asid : Nat} {perm : Nat → Nat} {pages frames tables : List Nat}
    (h : s.mapPages asid perm pages frames tables = some t) : t.kept = s.kept := by
  induction pages generalizing s frames tables with
  | nil =>
    cases h
    rfl
  | cons page pages ih =>
    cases frames with
    | nil => cases h
    | cons frame frames =>
      rw [State.mapPages] at h
      split at h
      · cases h
      · split at h
        · cases h
        next hm => exact (ih h).trans (State.kept_mapFrom hm)

theorem State.kept_mapped {s t : State} {x : Ctx} {p : Parts} {place : LoadPlace} (h : s.mapped x p place = some t) :
    t.kept = s.kept := by
  simp only [State.mapped] at h
  split at h
  · exact State.kept_mapPages h
  · cases h

/-! ## Leaves that change (spec 15 R232) -/

theorem State.kept_setTrans (s : State) (m : AMap TransUnit) :
    ({ s with mem := { s.mem with trans := m } } : State).kept = s.kept := rfl

theorem State.kept_setL1 (s : State) (m : AMap (List L1Line)) :
    ({ s with mem := { s.mem with l1 := m } } : State).kept = s.kept := rfl

@[simp] theorem State.kept_retranslateLine (s : State) (sl : Nat) (l : Line) :
    (s.retranslateLine sl l).kept = s.kept := by
  simp only [State.retranslateLine]
  cases (s.lookup (s.dieOfSlice sl) l.asid (l.va * 128)).1 with
  | absent why =>
    cases why with
    | damaged =>
      dsimp only
      split <;> simp
    | invalid | malformed | unreachable | other => exact s.kept_dropLine _ _ _
  | leaf level e pa =>
    dsimp only
    split
    · split
      · exact (State.kept_putLine _ _ _).trans (s.kept_writeFrame _ _)
      · rfl
    · rw [State.kept_dropLine]
      split <;> rfl

theorem State.kept_retranslateLines (s : State) (xs : List (Nat × Line)) :
    (xs.foldl (fun s x => s.retranslateLine x.1 x.2) s).kept = s.kept :=
  State.kept_foldl _ (fun t (x : Nat × Line) => t.kept_retranslateLine x.1 x.2) xs s

/-- With no stall, none ends. -/
theorem State.kept_foldl_endStalls {s t : State} (h : s.mem.stalls = []) (hk : t.kept = s.kept) (sls : List Nat) :
    (sls.foldl State.endStalls t).kept = s.kept := by
  have ht : t.mem.stalls = [] := (State.stalls_of_kept hk).trans h
  have hfix : sls.foldl State.endStalls t = t :=
    List.foldl_fixed' (fun sl => by simp [State.endStalls, State.endStallsAt, ht]) sls
  rw [hfix, hk]

theorem State.kept_retranslate {s : State} (h : s.mem.stalls = []) (asid lo hi : Nat) :
    (s.retranslate asid lo hi).kept = s.kept := by
  unfold State.retranslate
  extract_lets meets m1 s1 hit lines s2 m3 s3 s4
  have h1 : s1.kept = s.kept := s.kept_setTrans _
  have h2 : s2.kept = s1.kept := s1.kept_retranslateLines lines
  have h3 : s3.kept = s2.kept := s2.kept_setL1 _
  have h4 : s4.kept = s3.kept := s3.kept_dropCode _ _ _
  exact State.kept_foldl_endStalls h (h4.trans (h3.trans (h2.trans h1))) _

theorem State.renew_cons (s : State) (asid pg : Nat) (pages : List Nat) :
    s.renew asid (pg :: pages) =
      ((s.tellHome asid (pg * 65536)).retranslate asid (pg * 65536) (pg * 65536 + 65536)).renew asid pages := rfl

theorem State.kept_renew {s : State} (h : s.mem.stalls = []) (asid : Nat) (pages : List Nat) :
    (s.renew asid pages).kept = s.kept := by
  induction pages generalizing s with
  | nil => rfl
  | cons pg pages ih =>
    have ht := s.kept_tellHome asid (pg * 65536)
    have hr := (State.kept_retranslate ((State.stalls_of_kept ht).trans h) asid (pg * 65536) (pg * 65536 + 65536)).trans ht
    rw [State.renew_cons, ih ((State.stalls_of_kept hr).trans h), hr]

/-- Where no slice holds a line, memory stays as it is. -/
theorem State.phys_retranslate {s : State} (h : s.allLines = []) (asid lo hi : Nat) :
    (s.retranslate asid lo hi).mem.phys = s.mem.phys := by
  have hlines : ∀ tr : AMap TransUnit, ({ s with mem := { s.mem with trans := tr } } : State).allLines = [] := fun _ => h
  simp only [State.retranslate, hlines, List.filter_nil, List.foldl_nil, List.map_nil, List.eraseDups_nil]
  rfl

/-! ## The code of an object (spec 04 R82) -/

theorem State.kept_mapObject {s : State} (h : s.mem.stalls = []) (x : Ctx) (p : Parts) (file : List Byte)
    (place : LoadPlace) : (s.mapObject x p file place).kept = s.kept := by
  have hmapped : ((s.mapped x p place).getD s).kept = s.kept := by
    cases hm : s.mapped x p place with
    | none => rfl
    | some t => exact State.kept_mapped hm
  have hrenew := (State.kept_renew ((State.stalls_of_kept hmapped).trans h) x.asid
    (rangePages (p.ranges place.base))).trans hmapped
  refine (State.kept_foldl _ (fun t k => ?_) _ _).trans ((State.kept_foldl _ (fun t y => ?_) _ _).trans hrenew)
  · cases k <;> simp
  · exact t.kept_pokeAll _ _ _

end Sys2Proof.Machine
end

section
/-!
SUPPORT. The loader: what LOAD_OBJECT, UNLOAD_OBJECT and ATTESTATION_REPORT do, and the proof of O43 from it (spec 04
R71, R81 to R89).
-/

namespace Sys2Proof.Machine

open Sys2Proof

/-! ## Lengths of hashes, keys and signatures (spec 04 R86, R88; log entry 12) -/

theorem length_out (a : Lanes) : a.out.length = shakeRate := by
  simp [Lanes.out, List.length_flatMap, shakeRate]

theorem length_shakeGive (n : Nat) (a : Lanes) : (shakeGive a n).length = n * shakeRate := by
  induction n generalizing a with
  | zero => simp [shakeGive]
  | succ n ih =>
    rw [shakeGive, List.length_append, length_out, ih]
    ring

theorem length_shake256 (m : List Byte) (n : Nat) : (shake256 m n).length = n := by
  have hr : n ≤ (n / shakeRate + 1) * shakeRate := (Nat.lt_div_mul_add (by decide)).le.trans_eq (Nat.succ_mul _ _).symm
  rw [shake256, List.length_take, length_shakeGive, Nat.min_eq_left hr]

@[simp] theorem length_shake512 (m : List Byte) : (shake512 m).length = 64 := length_shake256 m 64

theorem length_encode (u : EdPoint) : u.encode.length = 57 := leBytes_length _ _

@[simp] theorem length_identityKey : identityKey.length = 57 := length_encode _

@[simp] theorem length_identitySign (msg context : List Byte) : (identitySign msg context).length = 114 := by
  rw [identitySign, edSign, List.length_append, length_encode, leBytes_length]

/-! ## LOAD_OBJECT (spec 04 R81, R82) -/

/-- The context after a load of an object, whose hold slots the loader has read, from what it was before. -/
def Ctx.withObject (y x : Ctx) (file : List Byte) (p : Parts) (base id : Nat) (slots : List HoldRec) : Ctx :=
  let o := objOfParts file p x base id
  { y with
    objs := x.objs ++ [{ o with holds := slots }], codeRanges := x.codeRanges ++ [(o.textAt, o.textSize)]
    trap := ((p.entries.find? fun e => e.kind = 2).map fun e => o.textAt + e.text).or x.trap
    descr := x.descr ++ [Sys2Proof.Machine.descrOf p base id]
    tceFw := x.tceFw.install file p 0x0C id, collFw := x.collFw.install file p 0x0D id
    log := shake512 (x.log ++ o.measurement), logCount := x.logCount + 1 }

theorem Firmware.install_eq {old : Firmware} {file : List Byte} {p : Parts} {kind id : Nat} :
    old.install file p kind id =
      if sectOf? p.sects kind = none ∨ old.obj ≠ 0 then old
      else { obj := id, entry := leNat ((sectBytes file p.sects kind).take 4), image := fwImage file p kind } := by
  simp [Firmware.install, field]

section load

variable {ctx : Nat} {file : List Byte} {place : LoadPlace} {replaceTrap : Bool} {s : State}

theorem execLoadObject_of_refused (hb : place.base % 65536 = 0) (hc : ctx < 4096)
    (hst : s.loadStatus (s.ctx ctx) file place replaceTrap ≠ 0) :
    execLoadObject ctx file place replaceTrap s =
      .next (s.tell (.loaded ctx (s.loadStatus (s.ctx ctx) file place replaceTrap))) := by
  have hc' : ¬maxContexts ≤ ctx := Nat.not_le.mpr hc
  simp [execLoadObject, hb, hc', hst]

/-- The state in which an object that passes every check is mapped and its bytes stand in memory. -/
def State.withCode (s : State) (ctx : Nat) (x : Ctx) (file : List Byte) (p : Parts) (place : LoadPlace) (o : Obj) :
    State :=
  let reused := x.codeRanges.any fun r => meet2 r.1 r.2 o.textAt o.textSize
  ((if reused then s.dropCode x.asid o.textAt o.textSize else s).mapObject x p file place).placeDescr ctx

theorem State.kept_withCode (h : s.mem.stalls = []) (x : Ctx) (p : Parts) (o : Obj) :
    (s.withCode ctx x file p place o).kept = s.kept := by
  rw [State.withCode, State.kept_placeDescr]
  split
  · exact State.kept_mapObject (s := s.dropCode x.asid o.textAt o.textSize) h _ _ _ _
  · exact State.kept_mapObject h _ _ _ _

theorem execLoadObject_of_passed (hb : place.base % 65536 = 0) (hc : ctx < 4096)
    (hst : s.loadStatus (s.ctx ctx) file place replaceTrap = 0) :
    let x := s.ctx ctx
    let p := partsOf file
    let t := s.stamp.2.withCode ctx x file p place (objOfParts file p x place.base s.seq)
    ∃ slots : List HoldRec, execLoadObject ctx file place replaceTrap s =
      .next ((t.setCtx ctx ((t.ctx ctx).withObject x file p place.base s.seq slots)).tell (.loaded ctx 0)) := by
  have hc' : ¬maxContexts ≤ ctx := Nat.not_le.mpr hc
  simp only [execLoadObject, hb, hc', hst, ne_eq, not_true_eq_false, decide_false, Bool.or_self, Bool.false_eq_true,
    if_false, Ctx.withObject]
  cases (partsOf file).entries.find? fun e => e.kind = 2 <;> exact ⟨_, rfl⟩

end load

/-! ## UNLOAD_OBJECT (spec 04 R83) -/

theorem Firmware.without_of_ne {old : Firmware} {id : Nat} {left : List Obj} {has : Obj → Bool} (h : old.obj ≠ id) :
    old.without id left has = old := if_pos h

theorem Firmware.without_of_none {old : Firmware} {id : Nat} {left : List Obj} {has : Obj → Bool} (h : old.obj = id)
    (hnone : ∀ p ∈ left, has p = false) : old.without id left has = {} := by
  have hfind : left.find? has = none := List.find?_eq_none.mpr fun p hp => by simp [hnone p hp]
  simp [Firmware.without, h, hfind]

/-- Another object that carries the firmware keeps its entry and its image. -/
theorem Firmware.without_of_carried {old : Firmware} {id : Nat} {left : List Obj} {has : Obj → Bool} {p : Obj}
    (hp : p ∈ left) (hhas : has p = true) :
    (old.without id left has).entry = old.entry ∧ (old.without id left has).image = old.image := by
  unfold Firmware.without
  split
  · exact ⟨rfl, rfl⟩
  · cases hf : left.find? has with
    | some o => exact ⟨rfl, rfl⟩
    | none => exact absurd hhas (List.find?_eq_none.mp hf p hp)

/-- The context after an object has gone. -/
def Ctx.withoutObject (y x : Ctx) (o : Obj) (id : Nat) : Ctx :=
  let left := x.objs.filter fun p => p.id ≠ id
  { y with
    objs := left, descr := x.descr.filter fun d => d.obj ≠ id
    trap := x.trap.filter fun v => ¬(o.textAt ≤ v ∧ v < o.textAt + o.textSize)
    tceFw := x.tceFw.without id left fun p => p.tceFw, collFw := x.collFw.without id left fun p => p.collFw }

section unload

variable {ctx id : Nat} {o : Obj} {s : State}

theorem execUnloadObject_of_busy (ho : ((s.ctx ctx).objs.find? fun o => o.id = id) = some o) (hb : s.busy ctx o = true) :
    execUnloadObject ctx id s = .next ((s.tellRecords ctx 0).tell (.unloaded ctx true)) := by
  obtain ⟨es, h⟩ := s.tellRecords_eq_tells ctx 0
  simp [execUnloadObject, ho, h, hb]

/-- The state in which an object's leaves are cleared. -/
def State.unmapped (s : State) (asid : Nat) (o : Obj) : State :=
  ((rangePages o.ranges).foldl (fun s pg => s.clearLeaf asid pg) s).renew asid (rangePages o.ranges)

theorem State.kept_unmapped (h : s.mem.stalls = []) (asid : Nat) (o : Obj) : (s.unmapped asid o).kept = s.kept := by
  have hclear := State.kept_foldl (fun s pg => s.clearLeaf asid pg) (fun t pg => t.kept_clearLeaf asid pg)
    (rangePages o.ranges) s
  rw [State.unmapped, State.kept_renew ((State.stalls_of_kept hclear).trans h), hclear]

/-- The leaf of an object's only page is cleared, where no slice holds a line. -/
theorem State.readPhys_unmapped {asid pg level pa : Nat} {e : DWord} (hpg : rangePages o.ranges = [pg])
    (hlines : s.allLines = [])
    (hleaf : (s.lookup (s.mapDie (tagAsid asid (pg * 65536)) (pg * 65536)).1 (tagAsid asid (pg * 65536))
      (pg * 65536)).1 = .leaf level e pa) :
    (s.unmapped asid o).readPhys pa 8 = leBytes 0 8 := by
  have hclear : s.clearLeaf asid pg = s.writePhys pa (leBytes 0 8) := by
    simp only [State.clearLeaf, hleaf]
  obtain ⟨es, htell⟩ := (s.writePhys pa (leBytes 0 8)).tellHome_eq_tells asid (pg * 65536)
  have hphys : (s.unmapped asid o).mem.phys = (s.writePhys pa (leBytes 0 8)).mem.phys := by
    rw [State.unmapped, hpg, List.foldl_cons, List.foldl_nil, State.renew_cons, hclear, htell]
    exact State.phys_retranslate (s := (s.writePhys pa (leBytes 0 8)).tells es) hlines _ _ _
  rw [State.readPhys, hphys]
  exact State.readPhys_writePhys s pa (leBytes 0 8)

theorem execUnloadObject_of_free (ho : ((s.ctx ctx).objs.find? fun o => o.id = id) = some o)
    (hb : s.busy ctx o = false) :
    let t := (s.tellRecords ctx 0).unmapped (s.ctx ctx).asid o
    execUnloadObject ctx id s =
      .next ((t.setCtx ctx ((t.ctx ctx).withoutObject (s.ctx ctx) o id)).tell (.unloaded ctx false)) := by
  intro t
  have hbusy : (s.tellRecords ctx 0).busy ctx o = false := by
    obtain ⟨es, h⟩ := s.tellRecords_eq_tells ctx 0
    rw [h, State.busy_tells, hb]
  have htrap : (fun v : Nat => !(decide (o.textAt ≤ v) && decide (v < o.textAt + o.textSize))) =
      fun v : Nat => decide ¬(o.textAt ≤ v ∧ v < o.textAt + o.textSize) := by
    funext v
    rw [decide_not, Bool.decide_and]
  simp only [execUnloadObject, ho, hbusy, Bool.false_eq_true, if_false, htrap]
  rfl

end unload

/-! ## What both leave -/

/-- A state that keeps what another has, in which then a context is written and the firmware told. -/
theorem State.alone_of_kept {s t : State} (h : t.kept = s.kept) (ctx : Nat) (y : Ctx) (e : FwEvent) :
    ((t.setCtx ctx y).tell e).work = s.work ∧ ((t.setCtx ctx y).tell e).cores = s.cores ∧
      ((t.setCtx ctx y).tell e).ctx ctx = y ∧ ∀ c, c ≠ ctx → ((t.setCtx ctx y).tell e).ctx c = s.ctx c := by
  have ho := State.outside_of_kept h
  refine ⟨(State.work_of_outside ho :), (State.cores_of_outside ho :), ?_, fun c hc => ?_⟩
  · rw [State.ctx_tell, State.ctx_setCtx_same]
  · rw [State.ctx_tell, State.ctx_setCtx_other _ _ _ _ hc, State.ctx_of_outside ho]

theorem State.getLast?_events_tell (s : State) (e : FwEvent) : (s.tell e).host.events.getLast? = some e := by
  simp [State.tell]

/-! ## ATTESTATION_REPORT (spec 04 R89) -/

theorem execAttestationReport_of_nonce {ctx : Nat} {nonce : List Byte} {s : State} (h : nonce.length = 64) :
    let body := s.reportBody (s.ctx ctx) nonce
    execAttestationReport ctx nonce s =
      .next (s.tell (.report (body ++ identitySign body attString ++ leBytes 0 6))) := by
  simp [execAttestationReport, h]

theorem State.length_report (s : State) (x : Ctx) (nonce : List Byte) (hn : nonce.length = 64)
    (hsec : s.host.secMeasure.length = 64) (hdisp : s.host.dispMeasure.length = 64) (hlog : x.log.length = 64) :
    (s.reportBody x nonce ++ identitySign (s.reportBody x nonce) attString ++ leBytes 0 6).length = 464 := by
  simp only [State.reportBody, List.length_append, leBytes_length, length_identityKey, length_identitySign, hn, hsec,
    hdisp, hlog]

/-- Settles O43: the status of a load by the first of its checks that fails, and each event by what it writes of its
context and what it leaves as it was. -/
theorem codeObjects : Obligations.CodeObjects := by
  unfold Obligations.CodeObjects
  intro s ctx file place replaceTrap nonce x base load st alone
  refine ⟨execLoadObject_of_refused, fun pg hpg hm hst => ?mapped, ?status, fun hb hc hst => ?passed, fun id o ho =>
    ⟨execUnloadObject_of_busy ho, fun hb => ?free⟩, fun hn => ⟨execAttestationReport_of_nonce hn, s.length_report x nonce hn⟩⟩
  case mapped =>
    obtain ⟨t, ht⟩ := State.mapped_of_loadStatus hst
    exact Bool.false_ne_true ((State.isMapped_of_mapped ht hpg).symm.trans hm)
  case status =>
    intro p bytes sig measured key note new olds more fails
    have hfails : ∀ k, fails k ↔ FailsAt 1 (s.loadChecks x file place replaceTrap) k := by
      intro k
      match k with
      | 0 => simp [fails, FailsAt]
      | 1 =>
        simp only [fails, failsAt_succ, State.loadChecks, List.getD_cons_zero, Bool.or_eq_true, Bool.not_eq_true',
          ← Bool.not_eq_true, Bool.and_eq_true, and_assoc, List.contains_iff_mem, p, base]
      | 2 =>
        simp [fails, failsAt_succ, State.loadChecks, isSome_sectOf?_iff, and_or_left, exists_or, p, sig, bytes]
      | 3 => simp [fails, failsAt_succ, State.loadChecks, pcoString, measured, key, p, sig, bytes,
          imp_iff_not_or]
      | 4 => simp [fails, failsAt_succ, State.loadChecks, key, p, sig, bytes]
      | 5 => simp [fails, failsAt_succ, State.loadChecks, deviceRev, field, note, p, bytes]
      | 6 => simp [fails, failsAt_succ, State.loadChecks, deviceFeatures, field, note, p, bytes, @eq_comm Nat 0]
      | 7 => simp [fails, failsAt_succ, State.loadChecks, fwImage_eq, more, olds, new, p, bytes]
      | 8 => simp [fails, failsAt_succ, State.loadChecks, and_assoc, p, base]
      | 9 => simp [fails, failsAt_succ, State.loadChecks, p, base]
      | 10 => simp [fails, failsAt_succ, State.loadChecks, p, base]
      | 11 => simp [fails, failsAt_succ, State.loadChecks, and_assoc, Option.isSome_iff_ne_none, p]
      | 12 =>
        have hnew (kind : Nat) : new kind = fwImage file (partsOf file) kind := rfl
        simp [fails, failsAt_succ, State.loadChecks, hnew, and_assoc, olds]
      | k + 13 => simp [fails, FailsAt, State.loadChecks]
    have hst : st = firstFailing 1 (s.loadChecks x file place replaceTrap) := s.loadStatus_eq x file place replaceTrap
    simp only [hfails, hst]
    exact ⟨firstFailing_eq_zero_iff Nat.one_pos _, fun k => firstFailing_of_first⟩
  case passed =>
    intro p o image at_ x'
    obtain ⟨slots, hexec⟩ := execLoadObject_of_passed hb hc hst
    have hfw (kind : Nat) (old : Firmware) : old.install file p kind s.seq = image kind old := Firmware.install_eq
    refine ⟨_, hexec, State.getLast?_events_tell _ _, ?_⟩
    rw [State.ctx_tell, State.ctx_setCtx_same]
    refine ⟨⟨slots, rfl⟩, rfl, rfl, rfl, hfw _ _, hfw _ _, rfl, length_shake512 _, rfl, fun hs => ?_⟩
    have hk : (s.stamp.2.withCode ctx x file p place o).kept = s.kept :=
      (State.kept_withCode (s := s.stamp.2) hs x p o).trans s.kept_stamp
    obtain ⟨hwork, hcores, hctx, hothers⟩ := State.alone_of_kept hk ctx _ (.loaded ctx 0)
    refine ⟨hwork, hcores, hctx.trans ?_, hothers⟩
    rw [State.ctx_of_outside (State.outside_of_kept hk)]
    simp only [Ctx.withObject, Firmware.install_eq]
    rfl
  case free =>
    intro left gone
    have hgone (old : Firmware) (has : Obj → Bool) : gone old (old.without id left has) has :=
      ⟨Firmware.without_of_ne, Firmware.without_of_none, fun q => Firmware.without_of_carried⟩
    have htold := s.kept_tellRecords ctx 0
    refine ⟨_, execUnloadObject_of_free ho hb, State.getLast?_events_tell _ _, ?_⟩
    rw [State.ctx_tell, State.ctx_setCtx_same]
    refine ⟨rfl, rfl, rfl, hgone _ _, hgone _ _, fun hs => ?_, fun pg level e pa hpg hlines hleaf => ?_⟩
    · have hk := (State.kept_unmapped ((State.stalls_of_kept htold).trans hs) x.asid o).trans htold
      obtain ⟨hwork, hcores, hctx, hothers⟩ := State.alone_of_kept hk ctx _ (.unloaded ctx false)
      refine ⟨hwork, hcores, hctx.trans ?_, hothers⟩
      rw [State.ctx_of_outside (State.outside_of_kept hk)]
      rfl
    · obtain ⟨es, htells⟩ := s.tellRecords_eq_tells ctx 0
      rw [htells]
      refine State.readPhys_unmapped (s := s.tells es) hpg hlines (level := level) (e := e) ?_
      rw [State.mapDie_tells, State.lookup_tells]
      exact hleaf

end Sys2Proof.Machine
end

section
/-!
SUPPORT. The counter of identifiers and stamps never falls: what the operations of the memory system and
the writes of counters make of it.
-/

namespace Sys2Proof.Machine

open Sys2Proof

theorem State.seq_foldl {α : Type} (f : State → α → State) (hf : ∀ s x, (f s x).seq = s.seq) (xs : List α)
    (s : State) : (xs.foldl f s).seq = s.seq := by
  induction xs generalizing s with
  | nil => rfl
  | cons x xs ih => exact (ih (f s x)).trans (hf s x)

theorem State.seq_le_foldl {α : Type} (f : State → α → State) (hf : ∀ s x, s.seq ≤ (f s x).seq) (xs : List α)
    (s : State) : s.seq ≤ (xs.foldl f s).seq := by
  induction xs generalizing s with
  | nil => exact le_rfl
  | cons x xs ih => exact (hf s x).trans (ih (f s x))

/-- A state that an operation answers in a pair. -/
theorem State.seq_of_eq {α : Type} {p : α × State} {a : α} {s t : State} (h : p = (a, t)) (hp : p.2.seq = s.seq) :
    t.seq = s.seq := by
  rw [← hp, h]

theorem State.seq_le_of_eq {α : Type} {p : α × State} {a : α} {s t : State} (h : p = (a, t)) (hp : s.seq ≤ p.2.seq) :
    s.seq ≤ t.seq := by
  rwa [h] at hp

/-! ## Operations that take no stamp -/

section unstamped

variable (s : State)

@[simp] theorem State.seq_writePhys (pa : Nat) (bs : List Byte) : (s.writePhys pa bs).seq = s.seq := rfl
@[simp] theorem State.seq_writeFrame (pa : Nat) (l : Line) : (s.writeFrame pa l).seq = s.seq := rfl
@[simp] theorem State.seq_retag (asid page level : Nat) (e : DWord) : (s.retag asid page level e).seq = s.seq := rfl
@[simp] theorem State.seq_soil (asid va n : Nat) : (s.soil asid va n).seq = s.seq := rfl

@[simp] theorem State.seq_writeChannel (pa : Nat) (bs : List Byte) : (s.writeChannel pa bs).seq = s.seq := by
  unfold State.writeChannel
  split <;> rfl

@[simp] theorem State.seq_homeDie (core : Option Nat) (asid va : Nat) : (s.homeDie core asid va).2.seq = s.seq := by
  simp only [State.homeDie]
  split
  · rfl
  · cases core <;> dsimp only <;> split <;> rfl

@[simp] theorem State.seq_tellHome (asid va : Nat) : (s.tellHome asid va).seq = s.seq := s.seq_homeDie _ _ _

@[simp] theorem State.seq_cacheLeaf (u : Nat) (t : TransUnit) (key : Nat) (e : DWord) (pa : Nat) :
    (s.cacheLeaf u t key e pa).seq = s.seq := by
  unfold State.cacheLeaf
  split <;> rfl

@[simp] theorem State.seq_translate (d asid va : Nat) : (s.translate d asid va).2.seq = s.seq := by
  unfold State.translate
  rcases s.lookup d asid va with ⟨_ | _, seen⟩
  · exact s.seq_cacheLeaf _ _ _ _ _
  · rfl

@[simp] theorem State.seq_putLine (sl : Nat) (l : Line) : (s.putLine sl l).seq = s.seq := by
  simp only [State.putLine]
  split
  · rfl
  · split <;> rfl

@[simp] theorem State.seq_dropLine (sl asid line : Nat) : (s.dropLine sl asid line).seq = s.seq := by
  simp only [State.dropLine]
  split <;> rfl

@[simp] theorem State.seq_checkPool (d : Nat) : (s.checkPool d).seq = s.seq := by
  unfold State.checkPool
  split <;> rfl

@[simp] theorem State.seq_tellStays (sl line : Nat) : (s.tellStays sl line).seq = s.seq := by
  simp only [State.tellStays]
  split
  · rfl
  · exact State.seq_foldl _ (fun t (l : Line) => t.seq_tell (.writeBack l.asid (l.va * 128))) _ s

@[simp] theorem State.seq_addStall (place : StallAt) (asid va : Nat) (who : Waiter) (write : Bool) (inst : DWord) :
    (s.addStall place asid va who write inst).seq = s.seq := by
  simp only [State.addStall]
  split <;> rfl

@[simp] theorem State.seq_blurFrom (asid va : Nat) (bs : List Byte) : (s.blurFrom asid va bs).2.seq = s.seq := by
  induction bs generalizing s va with
  | nil => rfl
  | cons b bs ih =>
    simp only [State.blurFrom]
    split
    · exact ih _ _
    · exact ih _ _

@[simp] theorem State.seq_blur (asid va : Nat) (bs : List Byte) : (s.blur asid va bs).2.seq = s.seq := by
  unfold State.blur
  split
  · exact s.seq_blurFrom _ _ _
  · rfl

@[simp] theorem State.seq_lineBytesAt (q : Req) (l : Line) (n : Nat) : (s.lineBytesAt q l n).2.seq = s.seq :=
  s.seq_blur _ _ _

@[simp] theorem State.seq_tellLocal (pa n : Nat) : (s.tellLocal pa n).seq = s.seq := by
  refine State.seq_foldl _ (fun t c => ?_) _ s
  split
  · exact t.seq_tellHome _ _
  · rfl

@[simp] theorem State.seq_localPatch (pa : Nat) (bs : List Byte) : (s.localPatch pa bs).seq = s.seq := by
  simp only [State.localPatch]
  split <;> simp

@[simp] theorem State.seq_clearSpill (sl : Nat) (p : Spill) : (s.clearSpill sl p).seq = s.seq := by
  simp [State.clearSpill]

end unstamped

/-! ## A line leaves its slice -/

theorem State.seq_assignFrame {s t : State} {sl : Nat} {l : Line} {level : Nat} {e : DWord} {pa f : Nat}
    (h : s.assignFrame sl l level e pa = some (f, t)) : t.seq = s.seq := by
  simp only [State.assignFrame] at h
  split at h
  · cases h
  · cases h
    simp

theorem State.seq_evict {s t : State} {sl : Nat} {l : Line} {how : Leave} (h : s.evict sl l how = some t) :
    t.seq = s.seq := by
  unfold State.evict at h
  split at h
  · cases h; simp
  · cases h; simp
  · cases h
  · split at h
    next hf =>
      cases h
      simp [State.seq_assignFrame hf]
    next =>
      simp only at h
      split at h
      · cases h; simp
      · cases h

theorem State.seq_makeRoom {s t : State} {sl line : Nat} (h : s.makeRoom sl line = some t) : t.seq = s.seq := by
  simp only [State.makeRoom] at h
  split at h
  · cases h; rfl
  · split at h
    · exact State.seq_evict h
    · cases h

/-! ## Operations that take stamps -/

section stamped

variable (s : State)

theorem State.seq_le_sendWake (sl : Nat) (e : MonEntry) (status : Nat) : s.seq ≤ (s.sendWake sl e status).seq :=
  s.seq.le_succ

theorem State.seq_le_endAside (sl : Nat) (e : MonEntry) (status : Nat) : s.seq ≤ (s.endAside sl e status).seq :=
  State.seq_le_sendWake (s.setSlice sl _) sl { e with fired := some status } status

theorem State.seq_le_raiseFault (who : Waiter) (asid va : Nat) (c : DFault) (why : Absence) (write : Bool) :
    s.seq ≤ (s.raiseFault who asid va c why write).2.seq := s.seq.le_succ

theorem State.seq_le_allocate (sl : Nat) (l : Line) : s.seq ≤ (s.allocate sl l).2.seq := by
  simp only [State.allocate]
  split
  next => simp
  next t hr =>
    have ht : t.seq = s.seq := (State.seq_makeRoom hr).trans (s.seq_tellStays sl l.va)
    exact ht ▸ t.seq.le_succ

theorem State.seq_le_fill (sl : Nat) (q : Req) : s.seq ≤ (s.fill sl q).2.seq := by
  simp only [State.fill]
  rcases ht : s.translate (s.dieOfSlice sl) (tagAsid q.asid q.va) (q.va / 128 * 128) with ⟨_ | _, t⟩
  all_goals have h := State.seq_of_eq ht (s.seq_translate _ _ _)
  · rw [← h]
    dsimp only
    split_ifs <;> simp [State.seq_le_allocate]
  · exact h.ge

theorem State.seq_le_access (q : Req) : s.seq ≤ (s.access q).2.seq := by
  simp only [State.access]
  split
  · exact le_rfl
  split
  · exact le_rfl
  rcases hd : s.homeDie q.core (tagAsid q.asid q.va) q.va with ⟨d, t⟩
  have h := State.seq_of_eq hd (s.seq_homeDie _ _ _)
  dsimp only
  split
  · split
    · exact h.ge
    · split
      · exact h.ge
      · rw [State.seq_putLine, State.seq_stamp]
        omega
  · exact h.ge.trans (t.seq_le_fill _ q)

theorem State.seq_le_endEntries (sl status : Nat) (ends : MonEntry → Bool) :
    s.seq ≤ (s.endEntries sl status ends).seq :=
  State.seq_le_foldl _ (fun t _ => t.seq_le_sendWake _ _ _) _ (s.setSlice sl _)

/-- The spilled records that end: each is cleared, and its wake sent. -/
theorem State.seq_le_clearSpills (sl status : Nat) (ps : List Spill) :
    s.seq ≤ (ps.foldl (fun s p => (s.clearSpill sl p).endAside sl p.entry status) s).seq :=
  State.seq_le_foldl _ (fun t p => (t.seq_clearSpill sl p).ge.trans (State.seq_le_endAside _ _ _ _)) _ s

theorem State.seq_le_walk (sl : Nat) (ends : MonEntry → Bool) : s.seq ≤ (s.walk sl ends).seq :=
  (State.seq_le_clearSpills (s.setSlice sl _) sl 0 _).trans (State.seq_le_clearSpills _ sl 1 _)

theorem State.seq_le_reevaluate (sl : Nat) (l : Line) (lo n : Nat) : s.seq ≤ (s.reevaluate sl l lo n).seq := by
  have hblur := (s.seq_blur l.asid (l.va * 128) l.data).ge
  simp only [State.reevaluate]
  split
  · exact hblur.trans ((State.seq_le_endEntries _ _ _ _).trans (State.seq_le_walk _ _ _))
  · exact hblur.trans (State.seq_le_endEntries _ _ _ _)

theorem State.seq_le_writeLine (sl : Nat) (l : Line) (lo : Nat) (bs : List Byte) :
    s.seq ≤ (s.writeLine sl l lo bs).seq := by
  refine le_trans ?_ (State.seq_le_reevaluate _ _ _ _ _)
  simp

theorem State.seq_le_askPeer (q : Req) (node : BitVec 22) (acc : PeerAcc) (obs : BitVec 5) :
    s.seq ≤ (s.askPeer q node acc obs).2.seq := by
  unfold State.askPeer
  split
  · split <;> exact le_rfl
  · split
    · exact le_rfl
    · exact s.seq.le_succ

theorem State.seq_le_peerAccess (q : Req) (node : BitVec 22) (acc : PeerAcc) (obs : BitVec 5) :
    s.seq ≤ (s.peerAccess q node acc obs).2.seq := by
  unfold State.peerAccess
  rcases ha : s.askPeer q node acc obs with ⟨_ | _ | _, t⟩ <;>
    exact State.seq_le_of_eq ha (s.seq_le_askPeer _ _ _ _)

theorem State.seq_le_writeHome (q : Req) (bs : List Byte) (obs : BitVec 5) :
    s.seq ≤ (s.writeHome q bs obs).2.seq := by
  unfold State.writeHome
  rcases ha : s.access { q with w := true } with ⟨_ | _ | _ | _, t⟩
  all_goals have h := State.seq_le_of_eq ha (s.seq_le_access _)
  · exact h.trans (t.seq_le_writeLine _ _ _ _)
  · exact h.trans (t.seq_le_peerAccess _ _ _ _)
  · exact h
  · exact h

theorem State.seq_le_writePieces (q : Req) (obs : BitVec 5) (cs : List (Nat × Nat)) (bs : List Byte) :
    s.seq ≤ (s.writePieces q obs cs bs).2.seq := by
  induction cs generalizing s bs with
  | nil => exact le_rfl
  | cons c cs ih =>
    simp only [State.writePieces]
    rcases ha : s.writeHome { q with va := c.1 } (bs.take c.2) obs with ⟨_ | _ | _, t⟩
    all_goals have h := State.seq_le_of_eq ha (s.seq_le_writeHome _ _ _)
    · exact h.trans (ih t _)
    · exact h
    · exact h

/-- What an atomic at its frame leaves of the home slice's copy first (spec 12 R191): written back, and dropped. -/
def State.withoutCopy (s : State) (sl asid va pa : Nat) : State :=
  match s.findLine sl asid (va / 128) with
  | some l => (if l.dirty then s.writeFrame (pa / 128 * 128) l else s).dropLine sl asid (va / 128)
  | none => s

theorem State.seq_withoutCopy (sl asid va pa : Nat) : (s.withoutCopy sl asid va pa).seq = s.seq := by
  unfold State.withoutCopy
  split
  · rw [State.seq_dropLine]
    split <;> rfl
  · rfl

theorem State.atomFar_of_poisoned {sl asid va pa n : Nat} {new : Nat → Nat}
    (h : (s.withoutCopy sl asid va pa).mem.poisoned.get false (pa / 128) = true) :
    s.atomFar sl asid va pa n new = (.fault .ecc .other, s.withoutCopy sl asid va pa) := if_pos h

/-- An atomic at its frame: the operation acts on the frame, and the line's monitor entries are judged. -/
theorem State.atomFar_of_sound {sl asid va pa n : Nat} {new : Nat → Nat}
    (h : ¬(s.withoutCopy sl asid va pa).mem.poisoned.get false (pa / 128) = true) :
    ∃ got l v, s.atomFar sl asid va pa n new =
      (got, ((((s.withoutCopy sl asid va pa).blur asid va ((s.withoutCopy sl asid va pa).readPhys pa n)).2.soil
        asid va n).writePhys pa v).reevaluate sl l (va % 128) n) := ⟨_, _, _, if_neg h⟩

theorem State.seq_le_atomFar (sl asid va pa n : Nat) (new : Nat → Nat) :
    s.seq ≤ (s.atomFar sl asid va pa n new).2.seq := by
  have hleft := s.seq_withoutCopy sl asid va pa
  by_cases h : (s.withoutCopy sl asid va pa).mem.poisoned.get false (pa / 128) = true
  · rw [s.atomFar_of_poisoned h]
    exact hleft.ge
  · obtain ⟨got, l, v, hx⟩ := s.atomFar_of_sound (n := n) (new := new) h
    rw [hx]
    refine le_trans ?_ (State.seq_le_reevaluate _ _ _ _ _)
    rw [State.seq_writePhys, State.seq_soil, State.seq_blur]
    exact hleft.ge

theorem State.seq_le_atomHere (q : Req) (n : Nat) (new : Nat → Nat) : s.seq ≤ (s.atomHere q n new).2.2.seq := by
  simp only [State.atomHere]
  rcases hd : s.homeDie q.core (tagAsid q.asid q.va) q.va with ⟨d, t⟩
  have h := (State.seq_of_eq hd (s.seq_homeDie _ _ _)).ge
  dsimp only
  split
  next => exact h.trans (t.seq_le_atomFar _ _ _ _ _ _)
  next =>
    rcases ha : t.access { q with r := true, w := true } with ⟨_ | _ | _ | _, v⟩
    all_goals have hv := h.trans (State.seq_le_of_eq ha (t.seq_le_access _))
    · refine hv.trans (le_trans ?_ (State.seq_le_writeLine _ _ _ _ _))
      simp
    · exact hv
    · exact hv
    · exact hv

/-! ## Writes of counters (spec 06 R110, spec 07 R117) -/

theorem State.seq_le_writeCounter (q : Req) (c : CtrWrite) : s.seq ≤ (s.writeCounter q c).2.seq := by
  unfold State.writeCounter
  split
  · exact s.seq_le_writePieces _ _ _ _
  · rcases ha : s.atomHere q 8 fun old => (old + leNat c.bytes) % 2 ^ 64 with ⟨node, got, t⟩
    have h : s.seq ≤ t.seq := by
      have := s.seq_le_atomHere q 8 fun old => (old + leNat c.bytes) % 2 ^ 64
      rwa [ha] at this
    cases node with
    | none => exact h
    | some node => exact h.trans (t.seq_le_peerAccess _ _ _ _)

theorem State.seq_le_flushList (cs : List CtrWrite) : s.seq ≤ (s.flushList cs).seq := by
  induction cs generalizing s with
  | nil => exact le_rfl
  | cons c cs ih =>
    simp only [State.flushList]
    split
    · refine le_trans ?_ (ih _)
      exact le_rfl
    · rcases hw : s.writeCounter
        { ctx := c.ctx, asid := (s.ctx c.ctx).asid, va := c.addr, who := .counter c.num } c with ⟨_ | _ | _, t⟩
      all_goals have h := State.seq_le_of_eq hw (s.seq_le_writeCounter _ _)
      · exact h.trans (ih t)
      · refine h.trans (le_trans ?_ (ih _))
        exact t.seq.le_succ
      · refine h.trans (le_trans ?_ (ih _))
        change t.seq ≤ (t.addStall _ _ _ _ true).seq
        exact (t.seq_addStall _ _ _ _ _ _).ge

theorem State.seq_le_pushWrite (job ctx addr : Nat) (bytes : List Byte) (isErr : Bool) (recAddr : Nat) :
    s.seq ≤ (s.pushWrite job ctx addr bytes isErr recAddr).seq := by
  unfold State.pushWrite
  split
  · exact le_rfl
  · exact s.seq.le_succ.trans (State.seq_le_flushList { s with seq := s.seq + 1, work := _ } _)

end stamped

end Sys2Proof.Machine
end

section
/-!
SUPPORT. What the placing of groups leaves as it was (spec 05 R93 to R96, spec 07 R124 to R128): every launch but for its
pending groups and its cores, and the numbers of the groups that were gone.
-/

namespace Sys2Proof

theorem AMap.mem_keys {β : Type} {m : AMap β} {k : Nat} : k ∈ m.keys ↔ ∃ v, (k, v) ∈ m := by
  simp [AMap.keys]

theorem AMap.mem_keys_set_of_ne {β : Type} [DecidableEq β] {m : AMap β} {d v : β} {k j : Nat} (h : j ≠ k) :
    j ∈ (m.set d k v).keys ↔ j ∈ m.keys := by
  simp only [AMap.mem_keys, AMap.mem_set_of_ne h]

/-- What a key reads as is not the default only where the key is listed. -/
theorem AMap.mem_keys_of_get_ne {β : Type} {m : AMap β} {d : β} {k : Nat} (h : m.get d k ≠ d) : k ∈ m.keys :=
  AMap.mem_keys.mpr ⟨_, AMap.mem_of_get_ne h⟩

end Sys2Proof

namespace Sys2Proof.Machine

open Sys2Proof

/-- A launch but for what the placing of its groups changes: its pending groups, the core after the last, and the cores
whose banks have its map. -/
def Launch.settled (la : Launch) : Launch := { la with next := 0, again := [], nextCore := 0, banked := [] }

/-- The second state comes from the first by placing groups and by what returns with them. -/
structure Places (s t : State) : Prop where
  seq_le : s.seq ≤ t.seq
  launch : ∀ l, (t.launch l).settled = (s.launch l).settled
  absent : ∀ g, g < s.seq → g ∉ s.work.groups.keys → g ∉ t.work.groups.keys

namespace Places

variable {r s t : State}

theorem refl (s : State) : Places s s := ⟨le_rfl, fun _ => rfl, fun _ _ h => h⟩

theorem trans (h : Places r s) (h' : Places s t) : Places r t where
  seq_le := h.seq_le.trans h'.seq_le
  launch l := (h'.launch l).trans (h.launch l)
  absent g hg hk := h'.absent g (hg.trans_le h.seq_le) (h.absent g hg hk)

/-- A step that leaves the launches and the groups. -/
theorem of_work (hs : s.seq ≤ t.seq) (hl : t.work.launches = s.work.launches) (hg : t.work.groups = s.work.groups) :
    Places s t where
  seq_le := hs
  launch l := by rw [State.launch, hl, State.launch]
  absent g _ hk := by rwa [hg]

theorem after {u : State} (h : Places s t) (hs : t.seq ≤ u.seq) (hl : u.work.launches = t.work.launches)
    (hg : u.work.groups = t.work.groups) : Places s u := h.trans (.of_work hs hl hg)

theorem setLaunch {l : Nat} {v : Launch} (h : v.settled = (s.launch l).settled) : Places s (s.setLaunch l v) where
  seq_le := le_rfl
  launch m := by
    rw [State.launch_setLaunch]
    split
    next hm => rw [hm, h]
    next => rfl
  absent _ _ hk := hk

/-- A group that was there, or whose number is new, is written. -/
theorem setGroup (h : Places s t) {g : Nat} (hg : g ∈ s.work.groups.keys ∨ s.seq ≤ g) (v : Group) :
    Places s (t.setGroup g v) where
  seq_le := h.seq_le
  launch := h.launch
  absent k hk hl := by
    have hne : k ≠ g := by
      rintro rfl
      exact hg.elim hl fun hle => absurd hk (not_lt.mpr hle)
    exact mt (AMap.mem_keys_set_of_ne hne).mp (h.absent k hk hl)

theorem foldl {α : Type} {f : State → α → State} (hf : ∀ s x, Places s (f s x)) (xs : List α) (s : State) :
    Places s (xs.foldl f s) := by
  induction xs generalizing s with
  | nil => exact refl s
  | cons x xs ih => exact (hf s x).trans (ih _)

theorem foldl_pair {α β : Type} {f : β × State → α → β × State} (hf : ∀ a x, Places a.2 (f a x).2) (xs : List α)
    (a : β × State) : Places a.2 (xs.foldl f a).2 := by
  induction xs generalizing a with
  | nil => exact refl a.2
  | cons x xs ih => exact (hf a x).trans (ih _)

/-- An operation that answers in a pair. -/
theorem of_eq {α : Type} {p : α × State} {a : α} (h : p = (a, t)) (hp : Places s p.2) : Places s t := by
  rwa [h] at hp

theorem retired (h : Places s t) (l : Nat) : (t.launch l).retired = (s.launch l).retired :=
  (congrArg Launch.retired (h.launch l) :)
theorem spawnRetired (h : Places s t) (l : Nat) : (t.launch l).spawnRetired = (s.launch l).spawnRetired :=
  (congrArg Launch.spawnRetired (h.launch l) :)

/-- A group whose number was given out and is not listed reads as none. -/
theorem group_eq (h : Places s t) {g : Nat} (hg : g < s.seq) (hk : g ∉ s.work.groups.keys) : t.group g = {} :=
  AMap.get_of_not_mem _ _ _ (h.absent g hg hk)

end Places

/-! ## Banks (spec 05 R93, spec 11 R172) -/

section banks

variable (s : State)

/-- Groups that the state lists are moved within their core. -/
theorem Places.rebase {s t : State} (h : Places s t) (es : List (Nat × Group)) (f : Group → Group)
    (hes : ∀ e ∈ es, e ∈ s.work.groups) :
    Places s (es.foldl (fun s e => s.setGroup e.1 (f e.2)) t) := by
  induction es generalizing t with
  | nil => exact h
  | cons e es ih =>
    obtain ⟨he, hes⟩ := List.forall_mem_cons.mp hes
    exact ih (h.setGroup (.inl (AMap.mem_keys.mpr ⟨e.2, he⟩)) _) hes

theorem State.mem_of_mem_residents {c : Nat} {e : Nat × Group} (h : e ∈ s.residents c) : e ∈ s.work.groups :=
  List.mem_of_mem_filter h

/-- A group whose scratchpad range, where it lies at or above an offset, has moved by a bank. -/
def Group.shifted (g : Group) (pos : Nat) (up : Bool) : Group :=
  { g with base := if g.base < pos then g.base else if up then g.base + 32768 else g.base - 32768 }

/-- The bytes of a core, likewise. -/
def Core.shifted (k : Core) (pos : Nat) (up : Bool) : Core :=
  { k with scratch := k.scratch.foldl (fun m e =>
      m.set 0 (if e.1 < pos then e.1 else if up then e.1 + 32768 else e.1 - 32768) e.2) [] }

theorem State.shiftScratch_eq (c pos : Nat) (up : Bool) :
    s.shiftScratch c pos up =
      (s.residents c).foldl (fun t e => t.setGroup e.1 (e.2.shifted pos up)) (s.setCore c ((s.core c).shifted pos up)) :=
  rfl

theorem State.places_shiftScratch (c pos : Nat) (up : Bool) : Places s (s.shiftScratch c pos up) := by
  rw [State.shiftScratch_eq]
  refine Places.rebase ?_ _ (fun g => g.shifted pos up) fun _ he => s.mem_of_mem_residents he
  exact .of_work le_rfl rfl rfl

/-- What leaving its mode does to a bank that holds nothing: its L1 lines go, or its scratchpad bytes and those above
it move down. -/
def State.leaveBank (c b : Nat) : State :=
  match ((s.core c).modes.get 0 b).toNat with
  | 0 =>
    { s with mem := { s.mem with l1 := AMap.mapVals s.mem.l1 [] fun key set =>
      if key / 256 = c then set.filter (fun l => l.bank ≠ b) else set } }
  | 1 => (s.zeroScratch c (s.scratchBelow c b * 32768) 32768).shiftScratch c (s.scratchBelow c b * 32768 + 32768) false
  | _ => s

/-- Whether a bank can take a mode now. -/
def State.canSetBank (c b : Nat) (mode : BitVec 2) : Bool :=
  (s.core c).modes.get 0 b ≠ mode && mode ≠ 3 && s.bankFree c b && (mode ≠ 1 || s.bankFits c b)

theorem State.setBank_of_able {c b : Nat} {mode : BitVec 2} (h : s.canSetBank c b mode = true) :
    s.setBank c b mode =
      let t := (s.leaveBank c b).setCore c { (s.leaveBank c b).core c with
        modes := ((s.leaveBank c b).core c).modes.set 0 b mode }
      if mode = 1 then t.shiftScratch c (s.scratchBelow c b * 32768) true else t :=
  if_neg (by simpa [State.canSetBank, imp_iff_not_or] using h)

theorem State.setBank_of_unable {c b : Nat} {mode : BitVec 2} (h : s.canSetBank c b mode = false) :
    s.setBank c b mode = s :=
  if_pos (by
    simp only [State.canSetBank, Bool.and_eq_false_iff] at h
    simpa using h)

theorem State.places_leaveBank (c b : Nat) : Places s (s.leaveBank c b) := by
  unfold State.leaveBank
  split
  · exact .of_work le_rfl rfl rfl
  · exact Places.trans (s := s.zeroScratch c _ _) (.of_work le_rfl rfl rfl) (State.places_shiftScratch _ _ _ _)
  · exact .refl s

theorem State.places_setBank (c b : Nat) (mode : BitVec 2) : Places s (s.setBank c b mode) := by
  cases h : s.canSetBank c b mode with
  | false =>
    rw [s.setBank_of_unable h]
    exact .refl s
  | true =>
    rw [s.setBank_of_able h]
    have h := (s.places_leaveBank c b).after (u := (s.leaveBank c b).setCore c { (s.leaveBank c b).core c with
      modes := ((s.leaveBank c b).core c).modes.set 0 b mode }) le_rfl rfl rfl
    dsimp only
    split
    · exact h.trans (State.places_shiftScratch _ _ _ _)
    · exact h

theorem State.places_setBanks (c map : Nat) : Places s (s.setBanks c map).2 := by
  have h : (s.setBanks c map).2 =
      (List.range 32).foldl (fun s b => s.setBank c b (BitVec.ofNat 2 (bankMode map b))) s := by
    simp only [State.setBanks]
  rw [h]
  exact Places.foldl (fun t b => t.places_setBank c b _) _ s

theorem State.places_openCore (l c : Nat) : Places s (s.openCore l c).2 := by
  simp only [State.openCore]
  split
  · exact .refl s
  · exact s.places_setBanks _ _

theorem State.places_tookCore (l c : Nat) : Places s (s.tookCore l c) := by
  simp only [State.tookCore]
  split
  · exact .refl s
  · exact .setLaunch rfl

end banks

/-! ## One group (spec 05 R94, spec 08 R145) -/

section place

/-- The waves of a group whose number is new start. -/
theorem Places.startWaves {s t : State} (h : Places s t) {gi : Nat} (hg : s.seq ≤ gi) (as : List Alloc) (num : Nat) :
    Places s (t.startWaves gi as num) := by
  induction as generalizing t num with
  | nil => exact h
  | cons a as ih =>
    have hmark := (h.after (u := t.stamp.2) t.seq.le_succ rfl rfl).setGroup (.inr hg)
    exact ih ((hmark _).after (u := (t.stamp.2.setGroup gi _).setUnit t.seq _) le_rfl rfl rfl) _

theorem State.places_placeGroup {s t : State} {l num entry c : Nat} {d : Needs} {spawned : Bool}
    (h : s.placeGroup l num entry d c spawned = some t) : Places s t := by
  unfold State.placeGroup at h
  split at h
  · cases h
  next as base _ =>
    cases h
    have hnew := (Places.of_work (t := s.stamp.2) s.seq.le_succ rfl rfl).setGroup (.inr le_rfl)
    exact ((hnew _).after (u := (s.stamp.2.setGroup s.seq _).zeroScratch c base d.scratch) le_rfl rfl rfl).startWaves
      le_rfl _ _

theorem State.places_placeSpawned (s : State) (c : Nat) (r : PoolRec) (n : Nat) :
    Places s (s.placeSpawned c r n).2 := by
  induction n generalizing s r with
  | zero => exact .refl s
  | succ n ih =>
    unfold State.placeSpawned
    split
    · exact .refl s
    · split
      next => exact .refl s
      next h => exact (State.places_placeGroup h).trans (ih _ _)

/-- What one record of a pool is offered. -/
theorem State.places_offerPool (s : State) (c : Nat) : Places s (s.offerPool c) := by
  simp only [State.offerPool]
  refine Places.after (Places.foldl_pair (fun a r => ?_) _ ([], s)) le_rfl rfl rfl
  split
  · rcases ho : a.2.openCore r.launch c with ⟨_ | _, t⟩
    all_goals have h := Places.of_eq ho (a.2.places_openCore _ _)
    · exact h
    · have hp := h.trans (t.places_placeSpawned c r coreGroups)
      dsimp only
      split
      · exact hp.trans (State.places_tookCore _ _ _)
      · exact hp
  · exact .refl a.2

theorem State.places_returnPool (s : State) (l c : Nat) : Places s (s.returnPool l c) := by
  simp only [State.returnPool]
  split
  · exact .refl s
  · refine Places.trans ?_ (State.places_offerPool _ c)
    exact .of_work le_rfl rfl rfl

end place

end Sys2Proof.Machine
end

section
/-!
SUPPORT. What offering a core to its pool, to saved groups and to launches leaves as it was (spec 07 R124, R125, R128).
-/

namespace Sys2Proof.Machine

open Sys2Proof

/-! ## Launches with pending groups (spec 05 R95, R96) -/

section refill

variable (s : State)

theorem State.places_startDrawWave (l : Nat) (r : Rate) (es : List Nat) (c : Nat) :
    Places s (s.startDrawWave l r es c).2 := by
  simp only [State.startDrawWave]
  have ho := s.places_openCore l c
  split
  · exact ho
  · split
    next => exact ho
    next t ht =>
      have hp := (ho.trans (State.places_placeGroup ht)).trans (t.places_tookCore l c)
      split
      · exact hp
      · refine (hp.trans (Places.foldl (fun v u => ?_) _ _)).after le_rfl rfl rfl
        exact .of_work le_rfl rfl rfl

theorem Launch.settled_took (la : Launch) (n : Nat) : (la.took n).settled = la.settled := by
  unfold Launch.took
  split <;> rfl

theorem State.places_placePending (l c : Nat) : Places s (s.placePending l c).2 := by
  simp only [State.placePending]
  split
  · split
    · exact s.places_startDrawWave _ _ _ _
    · exact .refl s
  split
  · exact .refl s
  next n _ =>
  split
  · exact .refl s
  rcases ho : s.openCore l c with ⟨_ | _, t⟩
  all_goals have h := Places.of_eq ho (s.places_openCore _ _)
  · exact h
  dsimp only
  split
  · exact h
  next v hv =>
    have ht := ((h.trans (State.places_placeGroup hv)).trans
      (.setLaunch (Launch.settled_took (v.launch l) n))).trans (State.places_tookCore _ l c)
    split
    · exact ht.trans (State.places_returnPool _ _ _)
    · exact ht

theorem State.places_refill (l c n : Nat) : Places s (s.refill l c n) := by
  induction n generalizing s with
  | zero => exact .refl s
  | succ n ih =>
    unfold State.refill
    rcases hp : s.placePending l c with ⟨_ | _, t⟩
    all_goals have h := Places.of_eq hp (s.places_placePending l c)
    · exact h
    · exact h.trans (ih t)

end refill

/-! ## Saved groups (spec 07 R128, spec 14 R223) -/

section restore

variable (s : State)

theorem State.places_finishWait (u status : Nat) : Places s (s.finishWait u status) := by
  simp only [State.finishWait]
  split
  · exact .of_work le_rfl rfl rfl
  · split
    · exact .of_work (Nat.le_succ _) rfl rfl
    · exact .of_work le_rfl rfl rfl
  all_goals exact .of_work le_rfl rfl rfl

theorem State.places_resumeUnit (u : Nat) : Places s (s.resumeUnit u) := by
  have hs : ∀ w, Places s (s.stamp.2.setUnit u w) := fun w => .of_work s.seq.le_succ rfl rfl
  simp only [State.resumeUnit]
  split
  · split
    · exact hs _
    · exact ((hs _).after (u := (s.stamp.2.setUnit u _).setCtx _ _) le_rfl rfl rfl).trans
        (State.places_finishWait _ _ _)
  · exact hs _

theorem State.places_freeSave (gi : Nat) : Places s (s.freeSave gi) := .of_work le_rfl rfl rfl
theorem State.places_writeScratch (g : Group) (o : Nat) (bs : List Byte) : Places s (s.writeScratch g o bs) :=
  .of_work le_rfl rfl rfl
theorem State.places_resumeMatrix (gi c : Nat) : Places s (s.resumeMatrix gi c) := .of_work le_rfl rfl rfl
theorem State.places_resumeCopies (gi c : Nat) : Places s (s.resumeCopies gi c) := .of_work le_rfl rfl rfl

/-- A group that reads as saved is listed. -/
theorem State.listed_of_readyBack {gi : Nat} (h : s.readyBack gi = true) : gi ∈ s.work.groups.keys := by
  refine AMap.mem_keys_of_get_ne (d := {}) fun hd => ?_
  have hg : s.group gi = {} := hd
  simp [State.readyBack, hg] at h

theorem State.places_restore (gi c : Nat) : Places s (s.restore gi c).2 := by
  simp only [State.restore]
  split
  · exact .refl s
  next hready =>
    have hk : gi ∈ s.work.groups.keys := s.listed_of_readyBack (by simp at hready; simp [hready])
    rcases ho : s.openCore (s.group gi).launch c with ⟨_ | _, t⟩
    all_goals have h := Places.of_eq ho (s.places_openCore _ _)
    · exact h
    dsimp only
    split
    · exact h
    next =>
      refine Places.trans ?_ (State.places_returnPool _ _ _)
      refine Places.trans ?_ (State.places_resumeCopies _ gi c)
      refine Places.trans ?_ (State.places_resumeMatrix _ gi c)
      refine Places.trans ?_ (Places.foldl (fun v u => v.places_resumeUnit u) _ _)
      refine Places.trans ?_ (State.places_writeScratch _ _ _ _)
      refine Places.trans ?_ (State.places_freeSave _ gi)
      refine Places.trans ?_ (State.places_tookCore _ _ c)
      exact h.setGroup (.inl hk) _

end restore

/-! ## Cores (spec 07 R124, R125) -/

section offer

variable (s : State)

theorem State.places_restores (gs : List Nat) (c : Nat) :
    Places s (gs.foldl (fun s g => (s.restore g c).2) s) :=
  Places.foldl (fun t g => t.places_restore g c) gs s

theorem State.places_refills (ls : List Nat) (c : Nat) :
    Places s (ls.foldl (fun s l => s.refill l c coreGroups) s) :=
  Places.foldl (fun t l => t.places_refill l c coreGroups) ls s

theorem State.places_orphanPools (c : Nat) : Places s (s.orphanPools c) := by
  refine Places.foldl (fun t l => ?_) _ s
  dsimp only
  split
  · exact .refl t
  · exact t.places_returnPool l c

theorem State.places_offerCore (c : Nat) (refills : List Nat) : Places s (s.offerCore c refills) := by
  simp only [State.offerCore]
  exact ((((s.places_offerPool c).trans (State.places_refills _ _ c)).trans (State.places_restores _ _ c)).trans
    (State.places_refills _ _ c)).trans (State.places_orphanPools _ c)

theorem State.places_savePool (c : Nat) (ctxs : List Nat) : Places s (s.savePool c ctxs) := by
  simp only [State.savePool]
  refine Places.trans ?_ (Places.foldl (fun t r => ?_) _ _)
  · exact .of_work le_rfl rfl rfl
  · exact .of_work le_rfl rfl rfl

theorem State.places_honour : Places s s.honour := by
  simp only [State.honour]
  refine (Places.trans ?_ (Places.foldl (fun t p => ?_) _ _)).trans
    (Places.foldl (fun t c => t.places_offerCore c []) _ _)
  · exact .of_work le_rfl rfl rfl
  · exact Places.foldl (fun v c => v.places_savePool c p.2) p.1 t

end offer

end Sys2Proof.Machine
end

section
/-!
SUPPORT. The end of a launch and of the levels above it (spec 05 R97, spec 06 R110), and the proof of O46: a group that
is over, banks that change, the barrier and the release of waitp.
-/

namespace Sys2Proof

/-- Writing the default takes a key out. -/
theorem AMap.not_mem_keys_set_default {β : Type} [DecidableEq β] (m : AMap β) (d : β) (k : Nat) :
    k ∉ (m.set d k d).keys := by
  simp [AMap.mem_keys, AMap.set, AMap.mem_erase]

/-- What a key of a rewritten map reads as: the default, or the function's value of an entry. -/
theorem AMap.get_mapVals {β : Type} [DecidableEq β] (m : AMap β) (d : β) (f : Nat → β → β) (k : Nat) :
    (m.mapVals d f).get d k = d ∨ ∃ v, (m.mapVals d f).get d k = f k v := by
  induction m with
  | nil => exact .inl rfl
  | cons e t ih =>
    obtain ⟨j, v⟩ := e
    unfold AMap.mapVals
    split
    · exact ih
    · unfold AMap.get
      split
      next hj => exact .inr ⟨v, hj ▸ rfl⟩
      next => exact ih

end Sys2Proof

namespace Sys2Proof.Machine

open Sys2Proof

/-! ## The ends of launches and levels (spec 06 R110) -/

/-- The second state comes from the first by writes of counters and by ends of levels, which leave groups and
launches. -/
structure Closes (s t : State) : Prop where
  seq_le : s.seq ≤ t.seq
  groups : t.work.groups = s.work.groups
  launches : t.work.launches = s.work.launches

namespace Closes

variable {r s t : State}

theorem refl (s : State) : Closes s s := ⟨le_rfl, rfl, rfl⟩

theorem trans (h : Closes r s) (h' : Closes s t) : Closes r t :=
  ⟨h.seq_le.trans h'.seq_le, h'.groups.trans h.groups, h'.launches.trans h.launches⟩

/-- Levels that are written, which are none of what it speaks of. -/
theorem levels (h : Closes s t) (gs ps js : AMap Level) :
    Closes s { t with work := { t.work with graphs := gs, phases := ps, jobLevels := js } } :=
  ⟨h.seq_le, h.groups, h.launches⟩

theorem launch_eq (h : Closes s t) (l : Nat) : t.launch l = s.launch l := by
  rw [State.launch, h.launches, State.launch]

end Closes

section closes

variable (s : State)

theorem State.beyondWrites_pushWrite (job ctx addr : Nat) (bytes : List Byte) (isErr : Bool) (recAddr : Nat) :
    (s.pushWrite job ctx addr bytes isErr recAddr).beyondWrites = s.beyondWrites := by
  unfold State.pushWrite
  split
  · rfl
  · exact State.beyondWrites_flushList _ _

/-- The work that a write of a counter leaves: all but the writes that wait. -/
theorem State.work_of_beyondWrites {s t : State} (h : t.beyondWrites = s.beyondWrites) :
    { t.work with writes := [] } = { s.work with writes := [] } := congrArg Prod.fst h

theorem State.closes_pushWrite (job ctx addr : Nat) (bytes : List Byte) (isErr : Bool) (recAddr : Nat) :
    Closes s (s.pushWrite job ctx addr bytes isErr recAddr) where
  seq_le := s.seq_le_pushWrite _ _ _ _ _ _
  groups := (congrArg WorkState.groups (State.work_of_beyondWrites (s.beyondWrites_pushWrite _ _ _ _ _ _)) :)
  launches := (congrArg WorkState.launches (State.work_of_beyondWrites (s.beyondWrites_pushWrite _ _ _ _ _ _)) :)

theorem State.closes_closeJob (j : Nat) : Closes s (s.closeJob j) := by
  simp only [State.closeJob]
  split
  · exact .refl s
  · refine Closes.trans ?_ (State.closes_pushWrite _ _ _ _ _ _ _)
    exact (Closes.refl s).levels _ _ _

theorem State.closes_closePhase (p : Nat) : Closes s (s.closePhase p) := by
  simp only [State.closePhase]
  split
  · exact .refl s
  · refine Closes.trans (Closes.levels ?_ _ _ _) (State.closes_closeJob _ _)
    refine Closes.trans ?_ (State.closes_pushWrite _ _ _ _ _ _ _)
    exact (Closes.refl s).levels _ _ _

theorem State.closes_closeGraph (g : Nat) : Closes s (s.closeGraph g) := by
  simp only [State.closeGraph]
  split
  · exact .refl s
  · refine Closes.trans (Closes.levels ?_ _ _ _) (State.closes_closePhase _ _)
    refine Closes.trans ?_ (State.closes_pushWrite _ _ _ _ _ _ _)
    exact (Closes.refl s).levels _ _ _

/-- A launch that finishes: its phase is written, and then only its counter and its levels. -/
theorem State.closes_finishLaunch (l : Nat) (phase : LaunchPhase) (value : Nat) :
    Closes (s.setLaunch l { s.launch l with phase := phase }) (s.finishLaunch l phase value) := by
  simp only [State.finishLaunch]
  refine Closes.trans (Closes.levels ?_ _ _ _) (State.closes_closeGraph _ _)
  exact State.closes_pushWrite _ _ _ _ _ _ _

/-- What the check of a launch that is no draw leaves: the groups, and each launch but for its phase. -/
theorem State.checkLaunch_spec {l : Nat} (h : (s.draw l).live = false) :
    s.seq ≤ (s.checkLaunch l).seq ∧ (s.checkLaunch l).work.groups = s.work.groups ∧
      ∀ m, { (s.checkLaunch l).launch m with phase := .absent } = { s.launch m with phase := .absent } := by
  simp only [State.checkLaunch, h, Bool.false_eq_true, if_false]
  split
  · exact ⟨le_rfl, rfl, fun _ => rfl⟩
  split
  · exact ⟨le_rfl, rfl, fun _ => rfl⟩
  · have hc := s.closes_finishLaunch l .completed (s.launch l).finalCount
    refine ⟨hc.seq_le, hc.groups, fun m => ?_⟩
    rw [hc.launch_eq, State.launch_setLaunch]
    split
    next hm => rw [hm]
    next => rfl

end closes

/-! ## GROUP_RETIRE (spec 05 R96) -/

section retire

variable (s : State) {gi : Nat}

/-- A launch with one more group of its record, or one more spawned group, retired. -/
def Launch.counting (la : Launch) (num : Nat) : Launch :=
  if num < la.form.count then { la with retired := la.retired + 1 } else { la with spawnRetired := la.spawnRetired + 1 }

theorem State.retireGroup_spec (h : (s.draw (s.group gi).launch).live = false) :
    s.seq ≤ (s.retireGroup gi).seq ∧ gi ∉ (s.retireGroup gi).work.groups.keys ∧
      { (s.retireGroup gi).launch (s.group gi).launch with phase := .absent } =
        { (s.launch (s.group gi).launch).counting (s.group gi).num with phase := .absent } := by
  have hd : (((s.setGroup gi {}).setLaunch (s.group gi).launch
      ((s.launch (s.group gi).launch).counting (s.group gi).num)).draw (s.group gi).launch).live = false := h
  obtain ⟨hseq, hgroups, hlaunch⟩ := State.checkLaunch_spec _ hd
  have hr : s.retireGroup gi = ((s.setGroup gi {}).setLaunch (s.group gi).launch
      ((s.launch (s.group gi).launch).counting (s.group gi).num)).checkLaunch (s.group gi).launch := by
    simp only [State.retireGroup]
    exact if_neg (by simpa using h)
  rw [hr]
  refine ⟨hseq, ?_, ?_⟩
  · rw [hgroups]
    exact AMap.not_mem_keys_set_default s.work.groups {} gi
  · rw [hlaunch, State.launch_setLaunch_same]

/-- One group that is over retires, and then its core and those of pre-emptions are offered. -/
theorem execGroupRetire_of_over (h : s.groupOver gi = true) :
    ∃ t, execGroupRetire [gi] s = .next t ∧ Places (s.retireGroup gi) t := by
  have hgs : [gi].eraseDups.filter s.groupOver = [gi] := by
    rw [show [gi].eraseDups = [gi] from rfl, List.filter_cons_of_pos h, List.filter_nil]
  refine ⟨_, rfl, ?_⟩
  simp only [hgs, List.foldl_cons, List.foldl_nil]
  exact (Places.foldl (fun t c => t.places_offerCore c _) _ _).trans (State.places_honour _)

end retire

/-! ## BANK_MODE_CHANGE (spec 11 R172) -/

section banks

variable (s : State)

theorem State.canSetBank_iff {c b : Nat} {mode : BitVec 2} :
    s.canSetBank c b mode = true ↔ (s.core c).modes.get 0 b ≠ mode ∧ mode ≠ 3 ∧ s.bankFree c b = true ∧
      (mode = 1 → s.bankFits c b = true) := by
  simp [State.canSetBank, imp_iff_not_or, and_assoc]

/-- The writes of groups leave the cores and the memory system. -/
theorem State.foldl_setGroup (es : List (Nat × Group)) (f : Group → Group) :
    (es.foldl (fun t e => t.setGroup e.1 (f e.2)) s).cores = s.cores ∧
      (es.foldl (fun t e => t.setGroup e.1 (f e.2)) s).mem = s.mem := by
  induction es generalizing s with
  | nil => exact ⟨rfl, rfl⟩
  | cons e es ih => exact ih (s.setGroup e.1 (f e.2))

/-- What the change of a core's bank leaves: the other cores, memory and the L2 lines. -/
structure BankChange (c : Nat) (s t : State) : Prop where
  other : ∀ k, k ≠ c → t.core k = s.core k
  phys : t.mem.phys = s.mem.phys
  l2 : t.mem.l2 = s.mem.l2

namespace BankChange

variable {s} {t u : State} {c : Nat}

theorem refl (c : Nat) (s : State) : BankChange c s s := ⟨fun _ _ => rfl, rfl, rfl⟩

theorem trans (h : BankChange c s t) (h' : BankChange c t u) : BankChange c s u :=
  ⟨fun k hk => (h'.other k hk).trans (h.other k hk), h'.phys.trans h.phys, h'.l2.trans h.l2⟩

theorem setCore (v : Core) : BankChange c s (s.setCore c v) :=
  ⟨fun k hk => s.core_setCore_other c v k hk, rfl, rfl⟩

end BankChange

/-- Ranges and bytes that move leave the modes of the core's banks, and all L1 lines. -/
theorem State.shiftScratch_spec (c pos : Nat) (up : Bool) :
    BankChange c s (s.shiftScratch c pos up) ∧ ((s.shiftScratch c pos up).core c).modes = (s.core c).modes ∧
      (s.shiftScratch c pos up).mem.l1 = s.mem.l1 := by
  obtain ⟨hc, hm⟩ := (s.setCore c ((s.core c).shifted pos up)).foldl_setGroup (s.residents c) fun g => g.shifted pos up
  rw [State.shiftScratch_eq]
  refine ⟨⟨fun k hk => ?_, by rw [hm]; rfl, by rw [hm]; rfl⟩, ?_, by rw [hm]; rfl⟩
  · rw [State.core, hc]
    exact s.core_setCore_other c _ k hk
  · rw [State.core, hc]
    change ((s.setCore c ((s.core c).shifted pos up)).core c).modes = _
    rw [State.core_setCore_same]
    rfl

/-- A bank leaves its mode: a CACHE bank has no L1 line any more. -/
theorem State.leaveBank_spec (c b : Nat) :
    BankChange c s (s.leaveBank c b) ∧ ((s.leaveBank c b).core c).modes = (s.core c).modes ∧
      ((s.core c).modes.get 0 b = 0 → ∀ i, i < 256 → ∀ m ∈ (s.leaveBank c b).mem.l1.get [] (c * 256 + i), m.bank ≠ b) := by
  unfold State.leaveBank
  split
  · refine ⟨⟨fun _ _ => rfl, rfl, rfl⟩, rfl, fun _ i hi m hm => ?_⟩
    have hkey : (c * 256 + i) / 256 = c := by omega
    rcases AMap.get_mapVals s.mem.l1 [] (fun key set =>
      if key / 256 = c then set.filter (fun l => l.bank ≠ b) else set) (c * 256 + i) with h | ⟨set, h⟩
    · rw [h] at hm
      cases hm
    · rw [h, if_pos hkey] at hm
      simpa using (List.mem_filter.mp hm).2
  next h1 =>
    obtain ⟨hb, hm, -⟩ := (s.zeroScratch c (s.scratchBelow c b * 32768) 32768).shiftScratch_spec c
      (s.scratchBelow c b * 32768 + 32768) false
    refine ⟨BankChange.trans (.setCore _) hb, hm.trans ?_, fun h0 => ?_⟩
    · unfold State.zeroScratch
      rw [State.core_setCore_same]
    · rw [h0] at h1
      cases h1
  next h0 _ => exact ⟨.refl c s, rfl, fun h => absurd (congrArg BitVec.toNat h) h0⟩

/-- A bank that can change its mode changes it, and the modes of the others stay. -/
theorem State.setBank_spec {c b : Nat} {mode : BitVec 2} (h : s.canSetBank c b mode = true) :
    BankChange c s (s.setBank c b mode) ∧ ((s.setBank c b mode).core c).modes = (s.core c).modes.set 0 b mode ∧
      (s.setBank c b mode).mem.l1 = (s.leaveBank c b).mem.l1 := by
  obtain ⟨hb, hm, -⟩ := s.leaveBank_spec c b
  have hset := hb.trans (.setCore { (s.leaveBank c b).core c with
    modes := ((s.leaveBank c b).core c).modes.set 0 b mode })
  rw [s.setBank_of_able h]
  dsimp only
  split
  · obtain ⟨hb', hm', hl⟩ := State.shiftScratch_spec ((s.leaveBank c b).setCore c { (s.leaveBank c b).core c with
      modes := ((s.leaveBank c b).core c).modes.set 0 b mode }) c (s.scratchBelow c b * 32768) true
    exact ⟨hset.trans hb', by rw [hm', State.core_setCore_same, hm], hl⟩
  · exact ⟨hset, by rw [State.core_setCore_same, hm], rfl⟩

theorem execBankModeChange_of_core {core bank : Nat} (mode : BitVec 2) (hb : bank < 32)
    (hc : core < s.host.cores0 + s.host.cores1) :
    execBankModeChange core bank mode s = .next (s.setBank core bank mode) := by
  simp [execBankModeChange, hb, hc]

end banks

/-! ## GBAR_COMPLETE and WAITP_RELEASE (spec 06 R109, spec 07 R120) -/

section waits

variable (s : State)

theorem State.unit_unpark_same (u : Nat) :
    (s.unpark u).unit u = { s.unit u with park := .none, turnAt := (s.core (s.unit u).core).cycle } :=
  s.unit_setUnit_same _ _

theorem State.unit_unpark_other {u v : Nat} (h : v ≠ u) : (s.unpark u).unit v = s.unit v :=
  s.unit_setUnit_other _ _ _ h

/-- Each of several units goes on, and only those do. -/
theorem State.unparks_spec (us : List Nat) :
    (∀ u ∈ us, (us.foldl State.unpark s).unit u =
      { s.unit u with park := .none, turnAt := (s.core (s.unit u).core).cycle }) ∧
    (∀ u, u ∉ us → (us.foldl State.unpark s).unit u = s.unit u) ∧
    (us.foldl State.unpark s).mem = s.mem ∧ (us.foldl State.unpark s).cores = s.cores := by
  induction us generalizing s with
  | nil => exact ⟨nofun, fun _ _ => rfl, rfl, rfl⟩
  | cons a us ih =>
    obtain ⟨hin, hout, hm, hc⟩ := ih (s.unpark a)
    refine ⟨fun u hu => ?_, fun u hu => ?_, hm, hc⟩
    · by_cases hau : u = a
      · subst hau
        by_cases hus : u ∈ us
        · rw [List.foldl_cons, hin u hus, s.unit_unpark_same]
          rfl
        · rw [List.foldl_cons, hout u hus, s.unit_unpark_same]
      · rw [List.foldl_cons, hin u ((List.mem_cons.mp hu).resolve_left hau), s.unit_unpark_other hau]
        rfl
    · obtain ⟨hne, hus⟩ : u ≠ a ∧ u ∉ us := by simpa using hu
      rw [List.foldl_cons, hout u hus, s.unit_unpark_other hne]

theorem State.finishWait_of_none {u status : Nat} (h : (s.unit u).park = .none) : s.finishWait u status = s := by
  simp only [State.finishWait, h]

theorem State.unit_finishWait_other {u v : Nat} (status : Nat) (h : v ≠ u) :
    (s.finishWait u status).unit v = s.unit v := by
  simp only [State.finishWait]
  split
  · exact (State.unit_unpark_other _ h).trans (State.unit_setUnit_other _ _ _ _ h)
  · have hw : ∀ w, ((s.setUnit u w).unpark u).unit v = s.unit v := fun w =>
      (State.unit_unpark_other _ h).trans (s.unit_setUnit_other _ _ _ h)
    split
    · exact (State.unit_setUnit_other _ _ _ _ h).trans (hw _)
    · exact hw _
  · exact s.unit_unpark_other h
  · exact s.unit_unpark_other h
  · exact s.unit_unpark_other h
  all_goals rfl

theorem State.cores_finishWait (u status : Nat) : (s.finishWait u status).cores = s.cores := by
  simp only [State.finishWait]
  split
  · rfl
  · split <;> rfl
  all_goals rfl

theorem State.unit_acquire_same (u : Nat) : (s.acquire u).unit u = { s.unit u with acq := s.seq } :=
  State.unit_setUnit_same _ _ _

/-- A waitp that returns 0 has written its status and acquires (spec 07 R120). -/
theorem State.unit_finishWait_waitp {u dst : Nat} {lanes : Mask} (h : (s.unit u).park = .waitp dst lanes) :
    (s.finishWait u 0).unit u = { (s.unit u).setDest lanes false dst 0 with
      park := .none, acq := s.seq, turnAt := (s.core ((s.unit u).setDest lanes false dst 0).core).cycle } := by
  simp only [State.finishWait, h, if_true]
  rw [State.unit_acquire_same, State.unit_unpark_same, State.unit_setUnit_same]
  rfl

/-- The value that an instruction writes does not turn on why its unit has waited. -/
theorem Wrote.released {w w' : Wave} {lanes : Mask} {d n : Nat} {wide : Bool} (h : Wrote w w' lanes d wide n)
    (acq turnAt : Nat) :
    Wrote { w with park := .none, acq := acq, turnAt := turnAt } { w' with park := .none, acq := acq, turnAt := turnAt }
      lanes d wide n := by
  obtain ⟨hw, hval, hreg⟩ := h
  refine ⟨?_, hval, hreg⟩
  rw [hw]

/-- The ends of several waits leave a unit that waits for nothing. -/
theorem State.unit_finishWaits_of_none (us : List Nat) {u : Nat} (h : (s.unit u).park = .none) :
    (us.foldl (fun s u => s.finishWait u 0) s).unit u = s.unit u := by
  induction us generalizing s with
  | nil => rfl
  | cons a us ih =>
    have ha : (s.finishWait a 0).unit u = s.unit u := by
      by_cases hua : u = a
      · rw [← hua, s.finishWait_of_none h]
      · exact s.unit_finishWait_other 0 hua
    exact (ih _ (ha ▸ h)).trans ha

/-- Each of several waits that end with status 0 and is one of waitp. -/
theorem State.finishWaits_spec (us : List Nat) {u dst : Nat} {lanes : Mask} (hu : u ∈ us)
    (h : (s.unit u).park = .waitp dst lanes) :
    s.seq ≤ ((us.foldl (fun s u => s.finishWait u 0) s).unit u).acq ∧
    Wrote { s.unit u with park := .none, acq := ((us.foldl (fun s u => s.finishWait u 0) s).unit u).acq
                          turnAt := (s.core (s.unit u).core).cycle }
      ((us.foldl (fun s u => s.finishWait u 0) s).unit u) lanes dst false 0 := by
  induction us generalizing s with
  | nil => cases hu
  | cons a us ih =>
    rw [List.foldl_cons]
    by_cases hua : u = a
    · subst hua
      have hw := Wrote.of_setDest (s.unit u) lanes false dst 0
      have hcore : ((s.unit u).setDest lanes false dst 0).core = (s.unit u).core := (congrArg Wave.core hw.1 :)
      have hend := s.unit_finishWait_waitp h
      rw [State.unit_finishWaits_of_none _ us (by rw [hend]), hend, hcore]
      exact ⟨le_rfl, hw.released _ _⟩
    · have hunit := s.unit_finishWait_other 0 hua
      have hcores : ∀ c, (s.finishWait a 0).core c = s.core c := fun c => by
        rw [State.core, s.cores_finishWait, State.core]
      obtain ⟨hacq, hwrote⟩ := ih (s.finishWait a 0) ((List.mem_cons.mp hu).resolve_left hua) (by rw [hunit, h])
      rw [hunit, hcores] at hwrote
      exact ⟨(s.places_finishWait a 0).seq_le.trans hacq, hwrote⟩

/-- The units that WAITP_RELEASE lets go on. -/
def State.inWaitp (s : State) (l : Nat) : List Nat :=
  AMap.keys (AMap.findAll s.work.units fun u w =>
    w.launch = l && s.isResident u && (match w.park with | .waitp _ _ => true | _ => false))

theorem execWaitpRelease_of_over {l : Nat} (h : s.waitOver l = true) :
    execWaitpRelease l s = .next ((s.inWaitp l).foldl (fun s u => s.finishWait u 0) s) := by
  simp only [execWaitpRelease, h, Bool.not_true, Bool.false_eq_true, if_false]
  rfl

theorem State.mem_inWaitp {l u dst : Nat} {lanes : Mask} (hl : (s.unit u).launch = l) (hr : s.isResident u = true)
    (hp : (s.unit u).park = .waitp dst lanes) : u ∈ s.inWaitp l := by
  have hne : s.work.units.get {} u ≠ {} := fun hd => by
    rw [State.unit, hd] at hp
    cases hp
  refine List.mem_map.mpr ⟨(u, s.unit u), List.mem_filter.mpr ⟨AMap.mem_of_get_ne hne, ?_⟩, rfl⟩
  simp [hl, hr, hp]

theorem execGbarComplete_of_all {gi : Nat} (hp : (s.group gi).phase = .resident) (hu : s.unitsOf gi ≠ [])
    (hall : ∀ u ∈ s.unitsOf gi, (s.unit u).park = .gbar) (hf : (s.group gi).frags = []) (hw : (s.group gi).waits = []) :
    execGbarComplete gi s = .next ((s.unitsOf gi).foldl State.unpark s) := by
  have hpark : ((s.unitsOf gi).all fun u => (s.unit u).park = .gbar) = true := by simpa using hall
  simp [execGbarComplete, hp, hu, hpark, hf, hw]

end waits

/-- Settles O46: the group that retires leaves its launch alone to count it, and what is then placed leaves both; a bank
changes with the ranges and lines of its core; and the units that wait go on one by one. -/
theorem groupEvents : Obligations.GroupEvents := by
  unfold Obligations.GroupEvents
  intro s gi core bank l mode g c
  refine ⟨fun hseq hover hlive => ?retire, fun hb hc => ⟨fun hable => ?changes, fun hable => ?stays⟩,
    fun hp hu hall hf hw => ?barrier, fun hover => ?release⟩
  case retire =>
    obtain ⟨t, hx, ht⟩ := execGroupRetire_of_over s hover
    obtain ⟨hle, hgone, hcount⟩ := s.retireGroup_spec hlive
    have hr : (t.launch g.launch).retired = ((s.launch g.launch).counting g.num).retired :=
      (ht.retired _).trans (congrArg Launch.retired hcount :)
    have hs : (t.launch g.launch).spawnRetired = ((s.launch g.launch).counting g.num).spawnRetired :=
      (ht.spawnRetired _).trans (congrArg Launch.spawnRetired hcount :)
    refine ⟨t, hx, ht.group_eq (hseq.trans_le hle) hgone, fun hn => ?_, fun hn => ?_⟩
    · rw [hr, Launch.counting, if_pos hn]
    · rw [hs, Launch.counting, if_neg (not_lt.mpr hn)]
  case changes =>
    obtain ⟨hchange, hmodes, hl1⟩ := s.setBank_spec (s.canSetBank_iff.mpr hable)
    refine ⟨_, execBankModeChange_of_core s mode hb hc, ?_, fun b hne => ?_, hchange.other, hchange.phys, hchange.l2,
      fun h0 => ?_⟩
    · rw [hmodes, AMap.get_set_same]
    · rw [hmodes, AMap.get_set_other _ _ _ _ _ hne]
    · rw [hl1]
      exact (s.leaveBank_spec core bank).2.2 h0
  case stays =>
    have hno : s.canSetBank core bank mode = false := by
      rw [← Bool.not_eq_true]
      exact mt s.canSetBank_iff.mp hable
    exact (execBankModeChange_of_core s mode hb hc).trans (by rw [s.setBank_of_unable hno])
  case barrier =>
    exact ⟨_, execGbarComplete_of_all s hp hu hall hf hw, s.unparks_spec _⟩
  case release =>
    exact ⟨_, execWaitpRelease_of_over s hover, fun u dst lanes hl hr hpark =>
      s.finishWaits_spec _ (s.mem_inWaitp hl hr hpark) hpark⟩

end Sys2Proof.Machine
end

section
/-!
SUPPORT. A state whose map of cores lists one core twice, and the refutation of O45 by it.
-/

namespace Sys2Proof.Machine

open Sys2Proof

/-! ## A start behind a record that no core shows

O45 speaks of every state, also of one whose map of cores lists a key twice and so is not in its canonical form
(`AMap.wf`). A read takes the first entry of a core, and whether a launch has triggered looks at the pool of every entry
(spec 07 R120): a pool may stand in the list and in no core. The offer of the core to its pool, which comes first at a
start (spec 07 R124), writes the core, and the second entry is gone. -/

/-- The record of a spawn pool with group 5 of launch 2, which has triggered and was discarded. -/
def hiddenRec : PoolRec :=
  { launch := 2, entry := 0, regs := 0, scratch := 0, tiles := 0, waves := 0, next := 5, left := 1 }

/-- Launch 1 is eligible and grants core 0, whose second entry alone has the record. A wave of group 7, which is saved,
waits in waitp of launch 3 for launch 2. -/
def hiddenPool : State :=
  { cores := [(0, {}), (0, { pool := [hiddenRec] })]
    work := {
      units := [(8, { live := true, launch := 3, group := 7, park := .waitp 0 0 })]
      groups := [(7, { phase := .saved, launch := 3 })]
      launches := [
        (1, { phase := .eligible, checked := true, form := { count := 1, cores := 1 }, banked := [0] }),
        (2, { phase := .started, triggers := [5] }),
        (3, { parent := some 2, form := { flags := 1, cores := 1 }, banked := [0] })] }
    seq := 9 }

/-- Launch 1 as it has started. -/
def hiddenPoolStarted : State :=
  hiddenPool.setLaunch 1 { hiddenPool.launch 1 with phase := .started, spawnNext := 1 }

/-- Before the offer launch 2 waits for its group 5 and no saved group is ready; after it launch 2 has triggered, and
group 7 is ready. -/
theorem returning_hiddenPool :
    hiddenPoolStarted.returning = [] ∧ (hiddenPoolStarted.offerPool 0).returning = [7] := by decide +kernel

/-- Group 7 returns to core 0 before the first group of launch 1, and the next stamp is that of its wave. -/
theorem exec_hiddenPool : ∃ t, exec (.LAUNCH_START 1) hiddenPool = .next t ∧ (t.group 9).phase = .absent :=
  ⟨_, rfl, by decide +kernel⟩

theorem pool_hiddenPool (c : Nat) : (hiddenPool.core c).pool = [] := by
  cases c <;> rfl

/-- Refutes O45, by its part on the first group of a launch that starts: in `hiddenPool` no pool, ready saved group or
launch comes before it, but the offer of the core makes a saved group ready, which returns there first, so that the
number that the statement names is no group's. -/
theorem not_jobsAndLaunches : ¬ Obligations.JobsAndLaunches := by
  unfold Obligations.JobsAndLaunches
  intro h
  obtain ⟨-, -, hstart⟩ := h hiddenPool 0 0 1
  obtain ⟨-, -, hcompute⟩ := hstart (by decide) (by decide) (by decide)
  obtain ⟨t, hx, -, -, hplaced⟩ := hcompute (.inl rfl) (by decide)
  obtain ⟨hresident, -⟩ := hplaced [] 0 rfl rfl rfl pool_hiddenPool returning_hiddenPool.1 (by decide) (by decide)
    (by decide) (by decide) (by decide) (by decide)
  obtain ⟨v, hv, habsent⟩ := exec_hiddenPool
  have hvt : v = t := Host.Outcome.next.inj (hv.symm.trans hx)
  have hphase : (v.group 9).phase = .resident := hvt ▸ hresident
  rw [habsent] at hphase
  cases hphase

end Sys2Proof.Machine
end

section
/-!
SUPPORT. The arrival of a long-latency result (spec 06 R102).
-/

namespace Sys2Proof.Machine

open Sys2Proof

/-- Words that are written from a register up stand there, in their lane alone. -/
theorem Wave.reg_setWords (ws : List Word) (w : Wave) (r l : Nat) {q m : Nat} (hl : l < 32) (hm : m < 32) :
    (w.setWords r l ws).reg q m = if m = l ∧ r ≤ q ∧ q < r + ws.length then ws.getD (q - r) 0 else w.reg q m := by
  induction ws generalizing w r with
  | nil =>
    rw [if_neg (by simp only [List.length_nil]; omega)]
    rfl
  | cons v vs ih =>
    rw [Wave.setWords, ih]
    by_cases hfirst : q = r ∧ m = l
    · obtain ⟨rfl, rfl⟩ := hfirst
      rw [if_neg (by omega), if_pos (by simp), Wave.reg_setReg_same, Nat.sub_self, List.getD_cons_zero]
    · rw [Wave.reg_setReg_other _ _ _ _ _ _ hl hm hfirst]
      by_cases hlater : m = l ∧ r + 1 ≤ q ∧ q < r + 1 + vs.length
      · rw [if_pos hlater, if_pos (by simp only [List.length_cons]; omega),
          show q - r = q - (r + 1) + 1 by omega, List.getD_cons_succ]
      · rw [if_neg hlater, if_neg (by simp only [List.length_cons]; omega)]

theorem Wave.setWords_eq (ws : List Word) (w : Wave) (r l : Nat) :
    w.setWords r l ws = { w with regs := (w.setWords r l ws).regs } := by
  induction ws generalizing w r with
  | nil => rfl
  | cons v vs ih =>
    rw [Wave.setWords, ih]
    rfl

/-- Where no fault that the firmware has declined waits, none is delivered (spec 12 R198). -/
theorem State.deliver_of_none_declined {s : State} {u : Nat} (h : ∀ q ∈ (s.unit u).pend, q.status ≠ .declined) :
    s.deliver u = s := by
  have hres : ∀ p ∈ (s.unit u).results, p.status ≠ .declined := fun p hp =>
    h p (List.mem_of_mem_filter (List.mem_of_mem_filter hp))
  have hnone : ∀ b : Bool, (if (b && (s.unit u).results.all fun p => p.status = .declined && p.values = [] && p.todo = [])
      then (s.unit u).results.find? fun p => (s.unit u).results.all fun q => p.order ≤ q.order else none) = none := by
    intro b
    cases hr : (s.unit u).results with
    | nil => simp
    | cons p ps =>
      have hp : p.status ≠ .declined := hres p (hr ▸ List.mem_cons_self)
      simp [hp]
  simp only [State.deliver, hnone]

/-! ## LOAD_VALUE_ARRIVAL -/

/-- What is left of an outstanding instruction once a lane's words have arrived. -/
def Pend.without (p : Pend) (lane : Nat) : Pend := { p with values := p.values.filter fun x => x.1 ≠ lane }

/-- The outstanding instructions of a unit once a lane's words of one have arrived. -/
def Wave.pendAfter (w : Wave) (p : Pend) (seq lane : Nat) : List Pend :=
  if (p.without lane).values = [] && p.faulted = [] && p.todo = [] then w.pend.filter fun q => q.seq ≠ seq
  else w.pend.map fun q : Pend => if q.seq = seq then p.without lane else q

section arrival

variable {s : State} {u seq lane : Nat} {p : Pend}

theorem Wave.mem_pendAfter_of_ne (w : Wave) (hp : p.seq = seq) {q : Pend} (hq : q.seq ≠ seq) :
    q ∈ w.pendAfter p seq lane ↔ q ∈ w.pend := by
  unfold Wave.pendAfter
  split
  next => simp [hq]
  next =>
    simp only [List.mem_map]
    constructor
    · rintro ⟨x, hx, hxq⟩
      split at hxq
      next => exact absurd (hxq ▸ hp) hq
      next => exact hxq ▸ hx
    · exact fun hmem => ⟨q, hmem, if_neg hq⟩

theorem Wave.status_of_mem_pendAfter {w : Wave} (hp : p ∈ w.pend) (h : ∀ q ∈ w.pend, q.status ≠ .declined) :
    ∀ q ∈ w.pendAfter p seq lane, q.status ≠ .declined := by
  intro q hq
  unfold Wave.pendAfter at hq
  split at hq
  next => exact h q (List.mem_of_mem_filter hq)
  next =>
    obtain ⟨x, hx, rfl⟩ := List.mem_map.mp hq
    split
    · exact h p hp
    · exact h x hx

/-- The words of a lane that are on their way reach the unit's registers. -/
theorem execLoadValueArrival_of_found {ws : List Word}
    (hp : (s.unit u).pend.find? (fun p => p.seq = seq) = some p)
    (hv : (p.values.find? fun v => v.1 = lane) = some (lane, ws)) (hn : ws.length = p.n)
    (hd : ∀ q ∈ (s.unit u).pend, q.status ≠ .declined) :
    execLoadValueArrival u seq lane s = .next (s.setUnit u
      { (s.unit u).setWords p.dst lane ws with pend := (s.unit u).pendAfter p seq lane }) := by
  have hwords : (if p.n = 0 then s.unit u else (s.unit u).setWords p.dst lane ws) =
      (s.unit u).setWords p.dst lane ws := by
    split
    next h0 => rw [List.length_eq_zero_iff.mp (hn.trans h0), Wave.setWords]
    next => rfl
  have hpend : ((s.unit u).setWords p.dst lane ws).pend = (s.unit u).pend := by rw [Wave.setWords_eq]
  simp only [execLoadValueArrival, hp, hv, hwords, hpend]
  refine congrArg Host.Outcome.next (State.deliver_of_none_declined ?_)
  rw [State.unit_setUnit_same]
  exact Wave.status_of_mem_pendAfter (List.mem_of_find?_eq_some hp) hd

end arrival

/-- Settles O10: the words are those of `Wave.setWords`, and `Wave.pendAfter` is what stays outstanding. -/
theorem resultsArrive : Obligations.ResultsArrive := by
  unfold Obligations.ResultsArrive
  intro s u seq lane hlane w i
  refine ⟨fun p ws hp hv hn hd => ?_, fun hnone => ?_⟩
  · have hseq : p.seq = seq := by simpa using List.find?_some hp
    refine ⟨_, execLoadValueArrival_of_found hp hv hn hd, ?_, fun j hj => ?_, fun q m hm hout => ?_,
      fun q hq => Wave.mem_pendAfter_of_ne _ hseq hq, fun hone hf ht q hq => ?_⟩
    · rw [Wave.setWords_eq]
    · refine (Wave.reg_setWords ws w p.dst lane hlane hlane).trans ?_
      rw [if_pos (by omega), Nat.add_sub_cancel_left]
    · exact (Wave.reg_setWords ws w p.dst lane hlane hm).trans (if_neg (by omega))
    · have hall : (p.without lane).values = [] := by
        obtain ⟨v, hvs⟩ := List.length_eq_one_iff.mp hone
        have hlast : (lane, ws) = v := by simpa [hvs] using List.mem_of_find?_eq_some hv
        simp [Pend.without, hvs, ← hlast]
      have hq' : q ∈ w.pendAfter p seq lane := hq
      simp only [Wave.pendAfter, hall, hf, ht, decide_true, Bool.and_self, if_true] at hq'
      simpa using (List.mem_filter.mp hq').2
  · have hnone' : (s.unit u).pend.find? (fun p => p.seq = seq) = none := hnone
    simp only [i, exec_LOAD_VALUE_ARRIVAL, execLoadValueArrival, hnone']

end Sys2Proof.Machine
end

section
/-!
SUPPORT. The end of a unit of a compute launch, by exit or by a safept of a cancelled launch (spec 06 R106, R107, R111,
spec 08 R139, R140).
-/

namespace Sys2Proof

/-- An entry of a map that has been written is the one written, or was there under another key. -/
theorem AMap.eq_or_mem_of_mem_set {β : Type} [DecidableEq β] {m : AMap β} {d v : β} {k : Nat} {e : Nat × β}
    (h : e ∈ m.set d k v) : e = (k, v) ∨ e ∈ m := by
  unfold AMap.set at h
  split at h
  next => exact .inr (AMap.mem_erase.mp h).1
  next => exact (AMap.mem_insert.mp h).imp_right fun he => (AMap.mem_erase.mp he).1

end Sys2Proof

namespace Sys2Proof.Machine

open Sys2Proof

/-! ## Accesses that are performed (spec 13 R202) -/

section performed

variable {s : State}

theorem State.leftBy_eq_nil_iff {w : Wave} : s.leftBy w = [] ↔ ∀ e ∈ s.work.units, e.2.left.isSome = true →
    e.2.group = w.group → (e.2.homes.any fun h => w.homes.any fun k => k.1 = h.1) = true → e.2.pend = [] := by
  simp only [State.leftBy, AMap.findAll, List.flatMap_eq_nil_iff, List.mem_filter, Bool.and_eq_true, decide_eq_true_eq,
    and_imp]

theorem State.performed_iff {w : Wave} : s.performed w = true ↔ w.unsettled = [] ∧ s.leftBy w = [] := by
  simp [State.performed]

/-- What a unit and those that have left with its lanes have performed stays so when the unit is no longer held. -/
theorem State.performed_unheld {u : Nat} (h : s.performed (s.unit u) = true) :
    (s.setUnit u { s.unit u with held := false }).performed { s.unit u with held := false } = true := by
  obtain ⟨hown, hleft⟩ := State.performed_iff.mp h
  refine State.performed_iff.mpr ⟨hown, State.leftBy_eq_nil_iff.mpr fun e he hsome hg hh => ?_⟩
  rcases AMap.eq_or_mem_of_mem_set he with rfl | he
  · have hne : s.work.units.get {} u ≠ {} := fun hd => by
      change (s.work.units.get {} u).left.isSome = true at hsome
      rw [hd] at hsome
      cases hsome
    exact State.leftBy_eq_nil_iff.mp hleft (u, s.unit u) (AMap.mem_of_get_ne hne) hsome hg hh
  · exact State.leftBy_eq_nil_iff.mp hleft e he hsome hg hh

theorem Wave.remains_of_unsettled {w : Wave} (h : w.unsettled = []) : w.remains = [] := by
  have hnone : w.pend.filter (fun p => p.op.writes && !p.leader && p.status ≠ .delivered) = [] := by
    refine List.filter_eq_nil_iff.mpr fun p hp hw => ?_
    simp only [Bool.and_eq_true] at hw
    exact List.filter_eq_nil_iff.mp h p hp hw.2
  rw [Wave.remains, hnone, List.filterMap_nil]

end performed

/-! ## The end of a unit -/

/-- What its group is once a unit has exited (spec 06 R106, R107). -/
def Group.exitedBy (g : Group) (u : Nat) (w : Wave) : Group :=
  { (g.keepHome { w with inHandler := false, pend := [] }).release u with
    opens := g.opens.filter fun t => !(w.homesOf w.o).contains t.2
    exited := true }

section exitedBy

variable (g : Group) (u : Nat) (w : Wave)

theorem Group.keepHome_eq : g.keepHome w = { g with homes := (g.keepHome w).homes } := by
  unfold Group.keepHome
  split <;> rfl

theorem Group.exitedBy_eq : g.exitedBy u w = { g with
    allocs := g.allocs.map fun a => if a.unit = some u then { a with unit := none } else a
    opens := g.opens.filter fun t => !(w.homesOf w.o).contains t.2
    homes := (g.exitedBy u w).homes, exited := true } := by
  rw [Group.exitedBy, Group.keepHome_eq]
  rfl

theorem Group.frags_exitedBy : (g.exitedBy u w).frags = g.frags := by rw [Group.exitedBy_eq]

theorem Group.waits_exitedBy : (g.exitedBy u w).waits = g.waits := by rw [Group.exitedBy_eq]

theorem Group.unit_of_mem_exitedBy {a : Alloc} (ha : a ∈ (g.exitedBy u w).allocs) : a.unit ≠ some u := by
  rw [Group.exitedBy_eq] at ha
  obtain ⟨b, -, rfl⟩ := List.mem_map.mp ha
  split
  next => simp
  next h => exact h

/-- An allocation that is freed stays where it was. -/
theorem Group.place_exitedBy (j : Nat) : ((g.exitedBy u w).allocs[j]?).map (fun a => (a.part, a.slot, a.base)) =
    (g.allocs[j]?).map fun a => (a.part, a.slot, a.base) := by
  rw [Group.exitedBy_eq, List.getElem?_map, Option.map_map]
  refine Option.map_congr fun a _ => ?_
  simp only [Function.comp_apply]
  split <;> rfl

theorem Group.mem_opens_exitedBy {x : Nat × Nat × Nat} :
    x ∈ (g.exitedBy u w).opens ↔ x ∈ g.opens ∧ x.2 ∉ w.homesOf w.o := by
  simp [Group.exitedBy]

end exitedBy

/-- What else a launch's noted trigger leaves. -/
theorem State.noteTrigger_frame (s : State) (l : Nat) :
    (s.noteTrigger l).mem = s.mem ∧ (s.noteTrigger l).cores = s.cores ∧ (s.noteTrigger l).ctxs = s.ctxs := by
  unfold State.noteTrigger
  split <;> exact ⟨rfl, rfl, rfl⟩

section exit

variable {s : State} {u : Nat}

theorem State.exitElems_of_computes {g : Nat} (h : (s.draw (s.group g).launch).live = false) : s.exitElems g = s := by
  simp [State.exitElems, h]

/-- A unit with nothing left to perform is cleared as though it had never been. -/
theorem State.clearUnit_of_settled (h : (s.unit u).unsettled = []) : ∃ p, s.clearUnit u = (s.forget p).setUnit u {} := by
  simp only [State.clearUnit, Wave.remains_of_unsettled h, if_true]
  exact ⟨_, rfl⟩

/-- The state in which a unit has exited and the requests of some agents are forgotten. -/
def State.exiting (s : State) (u : Nat) (p : Waiter → Bool) : State :=
  ((s.setGroup (s.unit u).group ((s.group (s.unit u).group).exitedBy u (s.unit u))).forget p).setUnit u {}

theorem State.unit_exiting_same (p : Waiter → Bool) : (s.exiting u p).unit u = {} := State.unit_setUnit_same _ _ _

theorem State.unit_exiting_other (p : Waiter → Bool) {v : Nat} (h : v ≠ u) : (s.exiting u p).unit v = s.unit v :=
  State.unit_setUnit_other _ _ _ _ h

theorem State.group_exiting_same (p : Waiter → Bool) :
    (s.exiting u p).group (s.unit u).group = (s.group (s.unit u).group).exitedBy u (s.unit u) :=
  State.group_setGroup_same _ _ _

theorem State.group_exiting_other (p : Waiter → Bool) {j : Nat} (h : j ≠ (s.unit u).group) :
    (s.exiting u p).group j = s.group j := State.group_setGroup_other _ _ _ _ h

/-- The end of a unit of a compute launch with nothing left to perform: it is gone, and its group's allocation and open
lanes with it. -/
theorem State.exitUnit_of_computes (hd : (s.draw (s.unit u).launch).live = false)
    (hg : (s.group (s.unit u).group).launch = (s.unit u).launch) (hs : (s.unit u).unsettled = []) :
    ∃ p, s.exitUnit u = (s.exiting u p).noteTrigger (s.unit u).launch := by
  obtain ⟨p, hp⟩ := State.clearUnit_of_settled (u := u)
    (s := s.setGroup (s.unit u).group ((s.group (s.unit u).group).exitedBy u (s.unit u))) hs
  have hlive : ((s.exiting u p).draw ((s.exiting u p).group (s.unit u).group).launch).live = false := by
    rw [State.group_exiting_same, Group.exitedBy_eq]
    exact hg ▸ hd
  have hopens : ((s.group (s.unit u).group).keepHome { s.unit u with inHandler := false, pend := [] }).opens =
      (s.group (s.unit u).group).opens := by rw [Group.keepHome_eq]
  refine ⟨p, ?_⟩
  rw [← State.exitElems_of_computes hlive, State.exiting, ← hp]
  simp only [State.exitUnit, State.draw_setGroup, hd, Bool.false_eq_true, if_false, hopens]
  rfl

/-- The retirement of a unit whose accesses are performed, as the instruction of a unit that is no longer held. -/
theorem State.retire_unheld (h : s.performed (s.unit u) = true) :
    (s.setUnit u { s.unit u with held := false }).retire u =
      (s.setUnit u { s.unit u with held := false }).exitUnit u := by
  have hp := State.performed_unheld h
  rw [State.retire, State.unit_setUnit_same, hp, if_pos rfl]

end exit

/-- exit waits for the accesses of its unit, and ends it where it acts (spec 08 R139). -/
theorem State.performed_of_exit {s : State} {h : Head} (hi : Issues s (.EXIT h) h) :
    s.performed (s.unit s.cur) = true := by
  have hp := hi.passes
  simp only [State.mustWait, Instr.asGated, Instr.mayEnd, Bool.or_true, Bool.true_and, if_true, Bool.or_eq_false_iff,
    Bool.not_eq_false'] at hp
  exact hp.1.1.1.1

theorem exec_exit {s : State} {h : Head} (ha : Acts s (.EXIT h) h) :
    exec (.EXIT h) s = .next ((s.setUnit s.cur { s.unit s.cur with held := false }).exitUnit s.cur) := by
  rw [exec_EXIT, execExit, State.waveOp_of_acts _ _ _ _ ha, State.cur_setUnit]

/-- Settles O17: both instructions end their unit with nothing left to perform, as `State.exitUnit_of_computes` says. -/
theorem exitFreesTheUnit : Obligations.ExitFreesTheUnit := by
  unfold Obligations.ExitFreesTheUnit
  intro s i h w g hi hc hg
  have hperf : s.performed w = true := by
    rcases hi with ⟨rfl, ha⟩ | ⟨idx, -, -, -, -, hp⟩
    · exact State.performed_of_exit ha.1
    · exact hp
  have hx : exec i s = .next ((s.setUnit s.cur (w.movedTo w.pc)).exitUnit s.cur) := by
    rcases hi with ⟨rfl, ha⟩ | ⟨idx, rfl, hi, hpre, hcan, -⟩
    · exact exec_exit ha
    · exact (exec_safept_of_cancelled hi hpre hcan).trans (congrArg _ (State.retire_unheld hperf))
  let s' := s.setUnit s.cur (w.movedTo w.pc)
  have hw : s'.unit s.cur = (w.movedTo w.pc) := State.unit_setUnit_same _ _ _
  obtain ⟨p, ht⟩ := State.exitUnit_of_computes (s := s') (u := s.cur) (by rw [hw]; exact hc) (by rw [hw]; exact hg)
    (by rw [hw]; exact (State.performed_iff.mp hperf).1)
  have hr := (s'.exiting s.cur p).roster_noteTrigger (s'.unit s.cur).launch
  obtain ⟨hmem, hcores, hctxs⟩ := (s'.exiting s.cur p).noteTrigger_frame (s'.unit s.cur).launch
  have hgroup : (((s'.exiting s.cur p).noteTrigger (s'.unit s.cur).launch).group w.group) =
      g.exitedBy s.cur (w.movedTo w.pc) := by
    have hsame := (State.group_of_roster hr (s'.unit s.cur).group).trans (State.group_exiting_same p)
    rw [hw] at hsame ⊢
    exact hsame
  refine ⟨_, hx.trans (congrArg Host.Outcome.next ht), ?_, fun u hu => ?_, fun a ha => ?_, fun j => ?_, fun x => ?_, ?_,
    ?_, fun j hj => ?_, congrArg (·.phys) hmem, congrArg (·.l2) hmem, hcores, hctxs⟩
  · exact (State.unit_of_roster hr _).trans (State.unit_exiting_same p)
  · refine (State.unit_of_roster hr u).trans ((State.unit_exiting_other p hu).trans ?_)
    exact State.unit_setUnit_other _ _ _ _ hu
  · exact Group.unit_of_mem_exitedBy g s.cur _ (hgroup ▸ ha)
  · rw [hgroup]
    exact Group.place_exitedBy _ _ _ j
  · rw [hgroup]
    exact Group.mem_opens_exitedBy _ _ _
  · rw [hgroup]
    exact Group.frags_exitedBy _ _ _
  · rw [hgroup]
    exact Group.waits_exitedBy _ _ _
  · exact (State.group_of_roster hr j).trans (State.group_exiting_other p (by rw [hw]; exact hj))

end Sys2Proof.Machine
end

section
/-!
SUPPORT. The refutations of O29 and O34: a gbar in a state whose map lists its unit twice, and a twait whose term has an
extension word.
-/

namespace Sys2Proof.Machine

open Sys2Proof

/-- An instruction's fields that are all zero, with or without an extension word. -/
def bareFields (ext : Option (BitVec 64)) : AluF :=
  { d := 0, a := 0, b := 0, c := 0, ty := .n32, imm := false, mod := 0, ext := ext }

/-! ## gbar of a unit that is listed twice (spec 06 R109, R111) -/

theorem issues_gbar_twiceListed : Issues twiceListed (.GBAR bareHead (bareFields none)) bareHead where
  ready := by decide
  clear := rfl
  head := rfl
  rate := fun h => absurd h (by decide)
  fresh := by decide
  passes := by decide
  sound := by decide

/-- gbar retires the unit of a cancelled launch (spec 06 R111). -/
theorem exec_gbar_of_cancelled {s : State} {h : Head} {f : AluF} (hi : Issues s (.GBAR h f) h)
    (hc : (s.launch (s.unit s.cur).launch).cancelled = true) :
    exec (.GBAR h f) s = .next ((s.setUnit s.cur { s.unit s.cur with held := false }).retire s.cur) := by
  rw [exec_GBAR, execGbar, State.issue_of_issues _ _ _ _ hi]
  simp only [State.cur_setUnit, State.unit_setUnit_same, State.launch_setUnit, hc, if_true]
  rfl

/-- The write of the unit that issues takes its second entry away, with the store that the retirement would wait for. -/
theorem exec_gbar_twiceListed :
    exec (.GBAR bareHead (bareFields none)) twiceListed = .next ((twiceListed.setUnit 0 wordUnit).exitUnit 0) := by
  have hperformed : (twiceListed.setUnit 0 wordUnit).performed ((twiceListed.setUnit 0 wordUnit).unit 0) = true := by
    decide
  rw [exec_gbar_of_cancelled issues_gbar_twiceListed (by decide)]
  exact congrArg Host.Outcome.next (if_pos hperformed)

/-- Refutes O29, by its part on a gbar that waits: in `twiceListed` an access is still to be performed, but the map of
units lists it under the unit's own number, behind the unit, and it is gone where the retirement looks for it. -/
theorem not_triggersAndBarriers : ¬ Obligations.TriggersAndBarriers := by
  unfold Obligations.TriggersAndBarriers
  intro h
  obtain ⟨-, -, -, -, -, -, hwaits⟩ := h twiceListed bareHead (bareFields none)
  have hx := hwaits issues_gbar_twiceListed (by decide) (by decide) (by decide)
  have ht := Host.Outcome.next.inj (exec_gbar_twiceListed.symm.trans hx)
  have hlive : (((twiceListed.setUnit 0 wordUnit).exitUnit 0).unit 0).live = true := by
    rw [ht]
    decide
  exact Bool.false_ne_true ((State.unit_exitUnit_same _ 0).1.symm.trans hlive)

/-! ## twait with an extension word (spec 23 R338)

`WellFormed` asks of a twait that it has no extension word, and no word decodes to one that has it; but `Issues` does not
ask for `WellFormed`, O34 speaks of every term, and the model advances past both words of this one. -/

/-- Unit 0 of a group with one tile slot, which is READY. -/
def readySlot : State :=
  { work := { units := [(0, { live := true, x := 1, homes := [(0, 0)] })]
              groups := [(0, { phase := .resident, ntiles := 1, tiles := [(0, { state := .ready })] })] } }

/-- The fields of a twait on the slot, of two words. -/
def longFields : AluF := bareFields (some 0)

theorem acts_longTwait : Acts readySlot (.TWAIT bareHead longFields) bareHead :=
  ⟨{ ready := by decide
     clear := rfl
     head := rfl
     rate := fun h => absurd h (by decide)
     fresh := by decide
     passes := by decide
     sound := by decide }, by decide⟩

/-- The unit goes on past both words. -/
theorem exec_longTwait : ∃ t, exec (.TWAIT bareHead longFields) readySlot = .next t ∧ (t.unit 0).pc = 16 := by
  rw [exec_TWAIT, execTwait, State.waveOp_of_acts _ _ _ _ acts_longTwait]
  exact ⟨_, rfl, by decide⟩

/-- Refutes O34, by its part on a twait that goes on: no word decodes to the term `.TWAIT bareHead longFields`, but it
issues, and its unit then stands 16 bytes further, where the statement has 8. -/
theorem not_tileSlots : ¬ Obligations.TileSlots := by
  unfold Obligations.TileSlots
  intro h
  obtain ⟨-, hheld, -⟩ := h readySlot bareHead longFields
  obtain ⟨-, -, -, hready, -⟩ := hheld (by decide)
  obtain ⟨t, ht, hpc⟩ := exec_longTwait
  have hx := Host.Outcome.next.inj (ht.symm.trans (hready acts_longTwait (by decide) (by decide) (by decide)))
  have hpc8 : (t.unit 0).pc = 8 := by
    rw [hx]
    exact congrArg Wave.pc (State.unit_setUnit_same _ 0 _)
  exact absurd (hpc8.symm.trans hpc) (by decide)

end Sys2Proof.Machine
end

section
/-!
SUPPORT. The refutation of O21, by a load in a state whose L1 holds two copies of one line.
-/

namespace Sys2Proof.Machine

open Sys2Proof

/-! ## A load beside two copies of one line

`State.Reads` asks of the copy that `State.l1Find` finds in the state before the load that it holds the home slice's line.
In the L1 of `shadowedCopy` a second copy of line 256, with other bytes, stands behind the one that is found. Lane 0 of
this load brings in line 0, which takes the way of the first copy, and lane 1 then takes the second. -/

/-- A unit whose lanes 0 and 1 have the addresses of lines 0 and 256. -/
def loadingUnit : Wave :=
  { live := true, group := 1, nregs := 256, x := 3, o := 3, homes := [(0, 0), (0, 1)], regs := [(1, 32768)] }

/-- The L1 of `shadowedCopy`, with this unit. -/
def shadowedLoad : State := shadowedCopy.setUnit 1 loadingUnit

theorem issues_shadowedLoad : Issues shadowedLoad (.LD bareHead wordForm) bareHead where
  ready := by decide
  clear := rfl
  head := rfl
  rate := fun h => absurd h (by decide)
  fresh := by decide
  passes := by decide
  sound := by decide

theorem lanes_loadingUnit : lanesOf ((shadowedLoad.unit 1).acting bareHead) = [0, 1] := by decide

/-- Each lane reads zeros at the home slice, and so does the copy that its core finds. -/
theorem reads_shadowedLoad (l : Nat) (hl : l ∈ [0, 1]) :
    shadowedLoad.Reads 1 ((shadowedLoad.unit 1).addrOf wordForm.addr 4 l) 4 (List.replicate 4 0) := by
  rcases List.mem_pair.mp hl with rfl | rfl
  · refine ⟨⟨by decide, by decide, rfl, nofun, lineOfZeros 0, by decide, rfl, rfl, rfl, rfl⟩, fun m hm => ?_⟩
    have hnone : shadowedLoad.l1Find 0 0 0 = none := by decide
    cases hnone.symm.trans hm
  · refine ⟨⟨by decide, by decide, rfl, nofun, lineOfZeros 256, by decide, rfl, rfl, rfl, rfl⟩, fun m hm => ?_⟩
    have hfound : shadowedLoad.l1Find 0 0 256 = some (copy256 0 0) := by decide
    obtain rfl : copy256 0 0 = m := Option.some.inj (hfound.symm.trans hm)
    decide

/-- What is outstanding of the load as its lanes are performed. -/
def startedLoad : Pend :=
  { seq := 0, op := .LD bareHead wordForm, pc := 0, dst := 4, n := 1, reqs := [laneFor 0 0, laneFor 1 256] }

/-- The state in which the load performs its lanes. -/
def loadingState : State := shadowedLoad.setUnit 1 { loadingUnit with pendSeq := 1 }

/-- The request of lane 0, of line 0. -/
def loadingReq : Req :=
  { ({ loadingState.laneReq 1 0 0 0 with since := some 1 } : Req).hinted 0 with obs := obsOf .weak 0 }

/-- What its access of the home slice of line 0 finds, and leaves. -/
def loadingAccess : Acc × State := loadingState.access { loadingReq with r := true }

/-- The state after lane 0: line 0 has the way of the first copy of line 256. -/
def loadingLane1 : State :=
  ({ loadingAccess.2 with seq := 3, freeCount := 1 } : State).l1Set 0 0
    [copy256 1 0xFF, { asid := 0, va := 0, data := List.replicate 128 0, attr := { r := true }, bank := 0, fill := 2 }]

/-- Lane 0 finds no copy, and its line takes the one way of its core's L1. -/
theorem performLane_loading_zero :
    loadingState.performLane 1 0 1 startedLoad.op (laneFor 0 0) = (.words [0], loadingLane1) := by
  have hcore : (loadingState.unit 1).core = 0 := by decide +kernel
  have hnear : loadingState.l1Find 0 (tagAsid loadingReq.asid loadingReq.va) (loadingReq.va / 128) = none := by
    decide +kernel
  have hacc : loadingState.access { loadingReq with r := true } =
      (.line 0 { lineOfZeros 0 with used := 1 }, loadingAccess.2) := by decide +kernel
  have hret : loadingAccess.2.l1Return 0 { lineOfZeros 0 with used := 1 }
      (loadingReq.fillsL1 { lineOfZeros 0 with used := 1 }) = loadingLane1 :=
    (State.l1Return_of_one_way _ _ _ 0 (by decide +kernel) (by decide +kernel) (by decide +kernel)).trans
      (by decide +kernel)
  have hbytes : loadingLane1.lineBytesAt loadingReq { lineOfZeros 0 with used := 1 } 4 =
      (List.replicate 4 0, loadingLane1) := by decide +kernel
  exact State.loadAt_of_home (hcore ▸ hnear) hacc (hcore ▸ hret) hbytes

/-- Lane 1 then finds the second copy of line 256. -/
theorem performLane_loading_one :
    loadingLane1.performLane 1 0 1 startedLoad.op (laneFor 1 256) = (.words [0xFFFFFFFF], loadingLane1) := by
  decide +kernel

/-- The state after the load. -/
def loadedState : State :=
  (loadingLane1.settle 1 startedLoad startedLoad.reqs { values := [(0, [0]), (1, [0xFFFFFFFF])] }).advance startedLoad.op

theorem startAccess_loading :
    (shadowedLoad.setUnit 1 { loadingUnit with held := false }).startAccess startedLoad.op 4 1 startedLoad.reqs =
      loadedState := by
  have hpass : loadingState.performLanes 1 0 1 startedLoad.op startedLoad.reqs {} =
      ({ values := [(0, [0]), (1, [0xFFFFFFFF])] }, loadingLane1) := by
    change loadingState.performLanes 1 0 1 startedLoad.op [laneFor 0 0, laneFor 1 256] {} = _
    simp only [State.performLanes, performLane_loading_zero, performLane_loading_one]
    rfl
  change ((loadingState.performLanes 1 0 1 startedLoad.op startedLoad.reqs {}).2.settle 1 startedLoad startedLoad.reqs
    (loadingState.performLanes 1 0 1 startedLoad.op startedLoad.reqs {}).1).advance startedLoad.op = loadedState
  rw [hpass]
  rfl

theorem exec_shadowedLoad : exec (.LD bareHead wordForm) shadowedLoad = .next loadedState := by
  rw [exec_LD, execLd, State.issue_of_issues _ _ _ _ issues_shadowedLoad]
  exact congrArg Host.Outcome.next startAccess_loading

/-- Lane 1 gets the bytes of the second copy, which are not those of its home slice. -/
theorem pend_loadedState : (loadedState.unit 1).pend.map (·.values) = [[(0, [0]), (1, [0xFFFFFFFF])]] := by
  decide +kernel

/-- Refutes O21, by its part on the values of a load: in `shadowedLoad` the L1 of the core lists two copies of one line,
of which only the first holds the bytes of the home slice, and the line of an earlier lane takes its way. -/
theorem not_loadsReadTheLines : ¬ Obligations.LoadsReadTheLines := by
  unfold Obligations.LoadsReadTheLines
  intro h
  have hreads : ∀ l ∈ lanesOf ((shadowedLoad.unit 1).acting bareHead),
      shadowedLoad.Reads 1 ((shadowedLoad.unit 1).addrOf wordForm.addr 4 l) 4 (List.replicate 4 0) :=
    fun l hl => reads_shadowedLoad l (lanes_loadingUnit ▸ hl)
  obtain ⟨t, w', ht, hw, -, hpend, -⟩ := h shadowedLoad bareHead wordForm (fun _ => List.replicate 4 0)
    (.LD bareHead wordForm) List.mem_cons_self issues_shadowedLoad (fun l hl => (hreads l hl).1) fun _ => hreads
  obtain ⟨p, hp, -, -, -, -, hvalues, -⟩ := hpend (by decide)
  obtain rfl : loadedState = t := Host.Outcome.next.inj (exec_shadowedLoad.symm.trans ht)
  have hmem : p.values ∈ (loadedState.unit 1).pend.map (·.values) := List.mem_map_of_mem (hw ▸ hp)
  rw [pend_loadedState, hvalues] at hmem
  exact absurd hmem (by decide)

end Sys2Proof.Machine
end

section
/-!
SUPPORT. A hit at a home slice: what it keeps of the memory system, and the one range of bytes that a write changes
(spec 11 R175 to R177, spec 12 R187).
-/

namespace Sys2Proof.Machine

open Sys2Proof

/-! ## Lines of a slice -/

/-- What an access checks of a line, and its size. -/
def Line.mark (l : Line) : Attr × Bool × Nat := (l.attr, l.poison, l.data.length)

theorem Line.isAt_iff {l : Line} {asid line : Nat} : l.isAt asid line = true ↔ l.asid = asid ∧ l.va = line := by
  simp [Line.isAt]

/-- A set and its slice are known from the set's number. -/
theorem setKey_slice (sl line : Nat) : setKey sl line / 24576 = sl := by
  unfold setKey
  omega

/-- A set of lines where a line takes the place of its older forms. -/
def Line.into (l : Line) (set : List Line) : List Line := set.map fun m => if m.isAt l.asid l.va then l else m

/-- What a search then finds there. -/
theorem Line.find?_into (set : List Line) (l : Line) (asid line : Nat) :
    (l.into set).find? (·.isAt asid line) =
      if asid = l.asid ∧ line = l.va then (set.find? (·.isAt asid line)).map fun _ => l
      else set.find? (·.isAt asid line) := by
  have hself : l.isAt l.asid l.va = true := Line.isAt_iff.mpr ⟨rfl, rfl⟩
  induction set with
  | nil => simp [Line.into]
  | cons m set ih =>
    rw [show l.into (m :: set) = (if m.isAt l.asid l.va then l else m) :: l.into set from rfl, List.find?_cons,
      List.find?_cons, ih]
    by_cases hsame : asid = l.asid ∧ line = l.va
    · obtain ⟨rfl, rfl⟩ := hsame
      by_cases hm : m.isAt l.asid l.va = true
      · simp [hm, hself]
      · simp [hm]
    · by_cases hm : m.isAt l.asid l.va = true
      · have hl : l.isAt asid line = false := by
          refine Bool.eq_false_iff.mpr fun h => hsame ?_
          obtain ⟨ha, hv⟩ := Line.isAt_iff.mp h
          exact ⟨ha.symm, hv.symm⟩
        have hmo : m.isAt asid line = false := by
          refine Bool.eq_false_iff.mpr fun h => hsame ?_
          obtain ⟨ha, hv⟩ := Line.isAt_iff.mp h
          obtain ⟨ha', hv'⟩ := Line.isAt_iff.mp hm
          exact ⟨ha.symm.trans ha', hv.symm.trans hv'⟩
        simp [hm, hl, hmo, hsame]
      · simp [hm, hsame]

section lines

variable (s : State)

theorem State.findLine_at {sl asid line : Nat} {l : Line} (h : s.findLine sl asid line = some l) :
    l.asid = asid ∧ l.va = line := by
  unfold State.findLine at h
  split at h
  next m hm =>
    cases h
    exact Line.isAt_iff.mp (List.find?_some (p := fun m : Line => m.isAt asid line) hm)
  next => exact Line.isAt_iff.mp (List.find?_some (p := fun m : Line => m.isAt asid line) h)

/-- A line that is put back is the one found there where there was one, and every other line stays. -/
theorem State.findLine_putLine (sl : Nat) (l : Line) (sl' asid line : Nat) :
    (s.putLine sl l).findLine sl' asid line =
      if sl' = sl ∧ asid = l.asid ∧ line = l.va then (s.findLine sl' asid line).map fun _ => l
      else s.findLine sl' asid line := by
  by_cases hset : (s.mem.l2.get [] (setKey sl l.va)).any (·.isAt l.asid l.va) = true
  · have hput : s.putLine sl l = { s with mem := { s.mem with
        l2 := s.mem.l2.set [] (setKey sl l.va) (l.into (s.mem.l2.get [] (setKey sl l.va))) } } := by
      simp only [State.putLine, hset, if_true, Line.into]
    have hslice : (s.putLine sl l).slice sl' = s.slice sl' := by rw [hput]; rfl
    have hl2 : (s.putLine sl l).mem.l2 =
        s.mem.l2.set [] (setKey sl l.va) (l.into (s.mem.l2.get [] (setKey sl l.va))) := by rw [hput]
    by_cases hkey : setKey sl' line = setKey sl l.va
    · have hsl : sl' = sl := by rw [← setKey_slice sl' line, hkey, setKey_slice]
      unfold State.findLine
      rw [hslice, hl2, hkey, AMap.get_set_same, Line.find?_into]
      subst hsl
      by_cases hsame : asid = l.asid ∧ line = l.va
      · obtain ⟨rfl, rfl⟩ := hsame
        obtain ⟨m, hm⟩ := Option.isSome_iff_exists.mp ((List.find?_isSome (p := fun m : Line => m.isAt l.asid l.va)).mpr
          (List.any_eq_true.mp hset))
        simp [hm]
      · simp [hsame]
    · have hne : ¬(sl' = sl ∧ asid = l.asid ∧ line = l.va) := fun ⟨h1, _, h2⟩ => hkey (by rw [h1, h2])
      unfold State.findLine
      rw [hslice, hl2, AMap.get_set_other _ _ _ _ _ hkey, if_neg hne]
  · have hnone : (s.mem.l2.get [] (setKey sl l.va)).find? (·.isAt l.asid l.va) = none :=
      List.find?_eq_none.mpr fun m hm h => hset (List.any_eq_true.mpr ⟨m, hm, h⟩)
    by_cases hstash : (s.slice sl).stash.any (·.isAt l.asid l.va) = true
    · have hput : s.putLine sl l = s.setSlice sl { s.slice sl with stash := l.into (s.slice sl).stash } := by
        simp only [State.putLine, hset, hstash, if_true, Line.into, Bool.false_eq_true, if_false]
      have hl2 : (s.putLine sl l).mem.l2 = s.mem.l2 := by rw [hput]; rfl
      by_cases hsl : sl' = sl
      · subst hsl
        have hslice : ((s.putLine sl' l).slice sl').stash = l.into (s.slice sl').stash := by
          rw [hput, State.slice_setSlice_same]
        unfold State.findLine
        rw [hslice, hl2, Line.find?_into]
        by_cases hsame : asid = l.asid ∧ line = l.va
        · obtain ⟨rfl, rfl⟩ := hsame
          simp [hnone]
        · simp [hsame]
      · have hslice : (s.putLine sl l).slice sl' = s.slice sl' := by
          rw [hput, State.slice_setSlice_other _ _ _ _ hsl]
        unfold State.findLine
        rw [hslice, hl2, if_neg fun h => hsl h.1]
    · have hput : s.putLine sl l = s := by
        simp only [State.putLine, hset, hstash, Bool.false_eq_true, if_false]
      rw [hput]
      split
      next hsame =>
        obtain ⟨rfl, rfl, rfl⟩ := hsame
        have : s.findLine sl' l.asid l.va = none := by
          unfold State.findLine
          rw [hnone]
          exact List.find?_eq_none.mpr fun m hm h => hstash (List.any_eq_true.mpr ⟨m, hm, h⟩)
        rw [this]
        rfl
      next => rfl

theorem State.spilled_putLine (sl : Nat) (l : Line) (n : Nat) :
    ((s.putLine sl l).slice n).spilled = (s.slice n).spilled := by
  simp only [State.putLine]
  split
  · rfl
  · split
    · by_cases h : n = sl
      · subst h
        rw [State.slice_setSlice_same]
      · rw [State.slice_setSlice_other _ _ _ _ h]
    · rfl

end lines

/-! ## Homes and translations -/

/-- The parts of the state on which the home map and the translation of an address turn, and physical memory: a hit
changes none of them. -/
def State.terrain (s : State) :
    List (Nat × BitVec 8) × AMap Bool × AMap Nat × AMap Nat × AMap TransUnit × BitVec 22 × Nat × Nat × Nat × Nat :=
  (s.mem.phys, s.mem.poisoned, s.mem.roots, s.mem.homeRoots, s.mem.trans, s.mem.node, s.host.chans0, s.host.chans1,
    s.host.slices0, s.host.slices1)

/-- The home slice of an address by the address unit of a core. -/
def State.homeAt (s : State) (c asid va : Nat) : Nat := s.sliceOn (s.homeDie (some c) asid va).1 va

section terrain

variable {s t : State}

theorem State.mapWalk_of_terrain (h : t.terrain = s.terrain) (asid va : Nat) : t.mapWalk asid va = s.mapWalk asid va := by
  simp only [State.terrain, Prod.mk.injEq] at h
  obtain ⟨hphys, hbad, -, hroots, -⟩ := h
  unfold State.mapWalk State.readPhys State.badPhys
  rw [hphys, hbad, hroots]

theorem State.sliceOn_of_terrain (h : t.terrain = s.terrain) (d va : Nat) : t.sliceOn d va = s.sliceOn d va := by
  simp only [State.terrain, Prod.mk.injEq] at h
  obtain ⟨-, -, -, -, -, -, -, -, h0, h1⟩ := h
  unfold State.sliceOn
  rw [h0, h1]

theorem State.dieOfSlice_of_terrain (h : t.terrain = s.terrain) (sl : Nat) : t.dieOfSlice sl = s.dieOfSlice sl := by
  simp only [State.terrain, Prod.mk.injEq] at h
  obtain ⟨-, -, -, -, -, -, -, -, h0, -⟩ := h
  unfold State.dieOfSlice
  rw [h0]

theorem State.physOk_of_terrain (h : t.terrain = s.terrain) (pa : Nat) : t.physOk pa = s.physOk pa := by
  simp only [State.terrain, Prod.mk.injEq] at h
  obtain ⟨-, -, -, -, -, -, h0, h1, -⟩ := h
  unfold State.physOk State.localEnd
  rw [h0, h1]

theorem State.walkFrom_of_terrain (h : t.terrain = s.terrain) (tu : TransUnit) (asid va : Nat)
    (ls : List (Nat × Nat × Nat)) (table : Nat) (seen : List (Nat × DWord)) :
    t.walkFrom tu asid va ls table seen = s.walkFrom tu asid va ls table seen := by
  have hok := State.physOk_of_terrain h
  simp only [State.terrain, Prod.mk.injEq] at h
  obtain ⟨hphys, hbad, -, -, -, hnode, -⟩ := h
  have hread (pa n : Nat) : t.readPhys pa n = s.readPhys pa n := by rw [State.readPhys, hphys, State.readPhys]
  have hpoison (pa : Nat) : t.badPhys pa = s.badPhys pa := by rw [State.badPhys, hbad, State.badPhys]
  have hmal (level : Nat) (e : DWord) : t.malformed level e = s.malformed level e := by
    rw [State.malformed, hnode, State.malformed]
  induction ls generalizing table seen with
  | nil => rfl
  | cons l ls ih => simp only [State.walkFrom, hread, hok, hpoison, hmal, ih]

theorem State.lookup_of_terrain (h : t.terrain = s.terrain) (d asid va : Nat) :
    t.lookup d asid va = s.lookup d asid va := by
  have hwalk := State.walkFrom_of_terrain h
  simp only [State.terrain, Prod.mk.injEq] at h
  obtain ⟨-, -, hroots, -, htrans, -, h0, h1, -⟩ := h
  have hunit : t.transUnit d va = s.transUnit d va := by rw [State.transUnit, h0, h1, State.transUnit]
  simp only [State.lookup, hroots, htrans, hunit, hwalk]

/-- Where an atomic is performed turns on the translation of its address and on the grants of its line. -/
theorem State.farPlace_of_terrain (h : t.terrain = s.terrain) {sl asid va : Nat}
    (hl : (t.findLine sl asid (va / 128)).map Line.attr = (s.findLine sl asid (va / 128)).map Line.attr) :
    t.farPlace sl asid va = s.farPlace sl asid va := by
  unfold State.farPlace
  rw [State.lookup_of_terrain h, State.dieOfSlice_of_terrain h]
  cases (s.lookup (s.dieOfSlice sl) asid va).1 with
  | absent why => rfl
  | leaf level e pa =>
    dsimp only
    rw [State.physOk_of_terrain h]
    rcases ht : t.findLine sl asid (va / 128) with _ | m <;> rcases hs : s.findLine sl asid (va / 128) with _ | l <;>
      simp only [ht, hs, Option.map_some, Option.map_none, Option.some.injEq, reduceCtorEq] at hl ⊢
    simp only [hl]

end terrain

section home

variable (s : State)

theorem State.homeDie_fst (c asid va : Nat) : (s.homeDie (some c) asid va).1 =
    if s.regionOf (some c) asid va ≠ 0 then s.regionOf (some c) asid va - 1 else (s.mapWalk asid va).die := by
  simp only [State.homeDie]
  split <;> rfl

/-- A region of a core is known from its key. -/
theorem regionKey_inj {c asid asid' va va' : Nat} (h : va < 2 ^ 56) (h' : va' < 2 ^ 56)
    (hk : regionKey c asid va = regionKey c asid' va') : asid = asid' ∧ va / 2 ^ 21 = va' / 2 ^ 21 := by
  unfold regionKey at hk
  omega

/-- The region home map says the same of all of a region. -/
theorem State.mapWalk_of_region {asid va va' : Nat} (h : va / 2 ^ 21 = va' / 2 ^ 21) :
    s.mapWalk asid va = s.mapWalk asid va' := by
  have h44 : va / 2 ^ 44 = va' / 2 ^ 44 := by omega
  have h33 : va / 2 ^ 33 = va' / 2 ^ 33 := by omega
  unfold State.mapWalk
  rw [h, h44, h33]

/-- What a lookup of a home leaves: the core's region cache may hold the region from then on. -/
theorem State.homeDie_snd (c asid va : Nat) : ∃ es, (s.homeDie (some c) asid va).2 = s ∨
    s.regionOf (some c) asid va = 0 ∧
      (s.homeDie (some c) asid va).2 = { s.tells es with mem := { s.mem with
        homeCache := s.mem.homeCache.set 0 (regionKey c asid va) ((s.mapWalk asid va).die + 1) } } := by
  by_cases hc : s.regionOf (some c) asid va = 0
  · obtain ⟨es, hes⟩ : ∃ es, (if (s.mapDie asid va).2 then s.tell (.homeMap asid) else s) = s.tells es := by
      split
      · exact ⟨[.homeMap asid], rfl⟩
      · exact ⟨[], by simp [State.tells]⟩
    refine ⟨es, .inr ⟨hc, ?_⟩⟩
    simp only [State.homeDie, hc, ne_eq, not_true, if_false, hes]
    rfl
  · exact ⟨[], .inl (by simp only [State.homeDie, ne_eq, hc, not_false_iff, if_true])⟩

end home

/-! ## What a hit keeps -/

/-- What hits, by a core, keep around the lines of the slices: the terrain, the homes that the core has named or can
name, the spilled waits, and which bytes are apart from the draws' record areas. -/
structure KeepsHomes (c : Nat) (s t : State) : Prop where
  terrain : t.terrain = s.terrain
  home : ∀ asid va, va < 2 ^ 56 → s.homeDamaged (some c) asid va = false →
    t.homeDamaged (some c) asid va = false ∧ (t.homeDie (some c) asid va).1 = (s.homeDie (some c) asid va).1
  spilled : ∀ sl, (t.slice sl).spilled = (s.slice sl).spilled
  apart : ∀ tag va n, s.Apart tag va n → t.Apart tag va n

/-- The second state keeps the lines of the slices, too. -/
structure Still (c : Nat) (s t : State) : Prop extends KeepsHomes c s t where
  lines : ∀ sl asid line, t.findLine sl asid line = s.findLine sl asid line

/-- The second state differs, of the lines that slices hold, in one. -/
def State.Puts (s t : State) (sl : Nat) (l : Line) : Prop :=
  ∀ sl' asid line, t.findLine sl' asid line =
    if sl' = sl ∧ asid = l.asid ∧ line = l.va then some l else s.findLine sl' asid line

section keeps

variable {c : Nat} {s t v : State}

theorem KeepsHomes.trans (h : KeepsHomes c s t) (h' : KeepsHomes c t v) : KeepsHomes c s v where
  terrain := h'.terrain.trans h.terrain
  home asid va hva hd := by
    obtain ⟨hd, he⟩ := h.home asid va hva hd
    obtain ⟨hd', he'⟩ := h'.home asid va hva hd
    exact ⟨hd', he'.trans he⟩
  spilled sl := (h'.spilled sl).trans (h.spilled sl)
  apart tag va n ha := h'.apart tag va n (h.apart tag va n ha)

theorem KeepsHomes.homeAt (h : KeepsHomes c s t) {asid va : Nat} (hva : va < 2 ^ 56)
    (hd : s.homeDamaged (some c) asid va = false) : t.homeAt c asid va = s.homeAt c asid va := by
  unfold State.homeAt
  rw [State.sliceOn_of_terrain h.terrain, (h.home asid va hva hd).2]

/-- A state with the same region caches and the same terrain has the same homes. -/
theorem KeepsHomes.of_same (hterrain : t.terrain = s.terrain) (hcache : t.mem.homeCache = s.mem.homeCache)
    (hspilled : ∀ sl, (t.slice sl).spilled = (s.slice sl).spilled)
    (hapart : ∀ tag va n, s.Apart tag va n → t.Apart tag va n) : KeepsHomes c s t where
  terrain := hterrain
  home asid va _ hd := by
    have hregion : t.regionOf (some c) asid va = s.regionOf (some c) asid va := by
      simp only [State.regionOf, hcache]
    have hwalk := State.mapWalk_of_terrain hterrain asid va
    refine ⟨?_, by rw [State.homeDie_fst, State.homeDie_fst, hregion, hwalk]⟩
    rw [← hd, State.homeDamaged, State.homeDamaged, hregion, hwalk]
  spilled := hspilled
  apart := hapart

theorem Still.trans (h : Still c s t) (h' : Still c t v) : Still c s v where
  toKeepsHomes := h.toKeepsHomes.trans h'.toKeepsHomes
  lines sl asid line := (h'.lines sl asid line).trans (h.lines sl asid line)

theorem Still.refl (c : Nat) (s : State) : Still c s s where
  toKeepsHomes := .of_same rfl rfl (fun _ => rfl) fun _ _ _ h => h
  lines _ _ _ := rfl

theorem Still.foldl {α : Type} (f : State → α → State) (hf : ∀ s x, Still c s (f s x)) (xs : List α) (s : State) :
    Still c s (xs.foldl f s) := by
  induction xs generalizing s with
  | nil => exact .refl c s
  | cons x xs ih => exact (hf s x).trans (ih _)

theorem State.Puts.trans {sl : Nat} {l m : Line} (h : s.Puts t sl l) (h' : t.Puts v sl m) (ha : m.asid = l.asid)
    (hv : m.va = l.va) : s.Puts v sl m := by
  intro sl' asid line
  rw [h' sl' asid line, h sl' asid line, ha, hv]
  split <;> rfl

theorem State.Puts.still {sl : Nat} {l : Line} (h : s.Puts t sl l) (h' : Still c t v) : s.Puts v sl l :=
  fun sl' asid line => (h'.lines sl' asid line).trans (h sl' asid line)

theorem Still.puts {sl : Nat} {l : Line} (h : Still c s t) (h' : t.Puts v sl l) : s.Puts v sl l :=
  fun sl' asid line => (h' sl' asid line).trans (by rw [h.lines])

end keeps

section steps

variable {c : Nat} (s : State)

theorem Still.of_stamp : Still c s s.stamp.2 where
  toKeepsHomes := .of_same rfl rfl (fun _ => rfl) fun _ _ _ h => h
  lines _ _ _ := rfl

theorem Still.of_l1Drop (d asid line : Nat) : Still c s (s.l1Drop d asid line) where
  toKeepsHomes := .of_same rfl rfl (fun _ => rfl) fun _ _ _ h => h
  lines _ _ _ := rfl

theorem Still.of_sendWake (sl : Nat) (e : MonEntry) (status : Nat) : Still c s (s.sendWake sl e status) where
  toKeepsHomes := .of_same rfl rfl (fun _ => rfl) fun _ _ _ h => h
  lines _ _ _ := rfl

theorem Still.of_soil (asid va n : Nat) : Still c s (s.soil asid va n) where
  toKeepsHomes := by
    refine .of_same rfl rfl (fun _ => rfl) fun tag a k h b hb => ?_
    obtain ⟨b, hmem, rfl⟩ := List.mem_map.mp hb
    have hplace : (b.soil asid va n).asid = b.asid ∧ (b.soil asid va n).base = b.base ∧
        (b.soil asid va n).size = b.size := by
      unfold StoreArea.soil
      split
      · exact ⟨rfl, rfl, rfl⟩
      · split <;> exact ⟨rfl, rfl, rfl⟩
    obtain ⟨h1, h2, h3⟩ := hplace
    rw [h1, h2, h3]
    exact h b hmem
  lines _ _ _ := rfl

theorem Still.of_blurFrom (asid va : Nat) (bs : List Byte) : Still c s (s.blurFrom asid va bs).2 := by
  induction bs generalizing s va with
  | nil => exact .refl c s
  | cons b bs ih =>
    have hfresh : Still c s s.fresh.2 :=
      { toKeepsHomes := .of_same rfl rfl (fun _ => rfl) fun _ _ _ h => h, lines := fun _ _ _ => rfl }
    simp only [State.blurFrom]
    split
    · exact hfresh.trans (ih _ _)
    · exact ih _ _

theorem Still.of_blur (asid va : Nat) (bs : List Byte) : Still c s (s.blur asid va bs).2 := by
  unfold State.blur
  split
  · exact Still.of_blurFrom s _ _ _
  · exact .refl c s

/-- A slice whose monitor entries alone have changed. -/
theorem Still.of_table (sl : Nat) (table : List MonEntry) :
    Still c s (s.setSlice sl { s.slice sl with table := table }) := by
  have hslice (n : Nat) : ((s.setSlice sl { s.slice sl with table := table }).slice n).spilled = (s.slice n).spilled ∧
      ((s.setSlice sl { s.slice sl with table := table }).slice n).stash = (s.slice n).stash := by
    by_cases h : n = sl
    · subst h
      rw [State.slice_setSlice_same]
      exact ⟨rfl, rfl⟩
    · rw [State.slice_setSlice_other _ _ _ _ h]
      exact ⟨rfl, rfl⟩
  exact
    { toKeepsHomes := .of_same rfl rfl (fun n => (hslice n).1) fun _ _ _ h => h
      lines := fun n asid line => by
        unfold State.findLine
        rw [(hslice n).2]
        rfl }

theorem Still.of_endEntries (sl status : Nat) (ends : MonEntry → Bool) : Still c s (s.endEntries sl status ends) :=
  (Still.of_table s sl _).trans (.foldl _ (fun t _ => .of_sendWake t sl _ status) _ _)

/-- A write is judged against the monitor entries of a slice without spilled waits. -/
theorem Still.of_reevaluate {sl : Nat} (hs : (s.slice sl).spilled = []) (l : Line) (lo n : Nat) :
    Still c s (s.reevaluate sl l lo n) := by
  have hblur : Still c s (s.blur l.asid (l.va * 128) l.data).2 := .of_blur s _ _ _
  simp only [State.reevaluate]
  have hends := hblur.trans (.of_endEntries (s.blur l.asid (l.va * 128) l.data).2 sl 0 fun e =>
    (e.asid = l.asid && e.va / 128 = l.va && e.fired.isNone && e.va < l.va * 128 + lo + n
      && l.va * 128 + lo < e.va + e.bytes && e.holdsIn (s.blur l.asid (l.va * 128) l.data).1) &&
      !e.expired ((s.blur l.asid (l.va * 128) l.data).2.slice sl).cycle)
  rw [hends.spilled sl, hs]
  exact hends

end steps

section puts

variable {c : Nat} {s : State} {sl : Nat} {l m : Line}

theorem State.putLine_eq (s : State) (sl : Nat) (l : Line) : ∃ l2 slices, s.putLine sl l =
    { s with mem := { s.mem with l2 := l2, slices := slices } } := by
  simp only [State.putLine]
  split
  · exact ⟨_, _, rfl⟩
  · split <;> exact ⟨_, _, rfl⟩

theorem KeepsHomes.of_putLine (s : State) (sl : Nat) (l : Line) : KeepsHomes c s (s.putLine sl l) := by
  obtain ⟨l2, slices, h⟩ := s.putLine_eq sl l
  refine .of_same (by rw [h]; rfl) (by rw [h]) (s.spilled_putLine sl l) fun tag va n ha => ?_
  rw [h]
  exact ha

theorem State.puts_putLine (h : s.findLine sl l.asid l.va = some m) : s.Puts (s.putLine sl l) sl l := by
  intro sl' asid line
  rw [State.findLine_putLine]
  split
  next hsame =>
    obtain ⟨rfl, rfl, rfl⟩ := hsame
    rw [h]
    rfl
  next => rfl

/-- A lookup of a home keeps every home that its core can name. -/
theorem KeepsHomes.of_homeDie (s : State) {asid va : Nat} (hva : va < 2 ^ 56) :
    KeepsHomes c s (s.homeDie (some c) asid va).2 := by
  obtain ⟨es, h | ⟨hnone, h⟩⟩ := s.homeDie_snd c asid va
  · rw [h]
    exact (Still.refl c s).toKeepsHomes
  · rw [h]
    have hterrain : State.terrain { s.tells es with mem := { s.mem with
        homeCache := s.mem.homeCache.set 0 (regionKey c asid va) ((s.mapWalk asid va).die + 1) } } = s.terrain := rfl
    refine ⟨hterrain, fun asid' va' hva' hd => ?_, fun _ => rfl, fun _ _ _ ha => ha⟩
    have hwalk := State.mapWalk_of_terrain hterrain asid' va'
    rw [State.homeDie_fst, State.homeDie_fst, hwalk]
    unfold State.homeDamaged
    rw [hwalk]
    by_cases hk : regionKey c asid' va' = regionKey c asid va
    · have hthere : State.regionOf { s.tells es with mem := { s.mem with
          homeCache := s.mem.homeCache.set 0 (regionKey c asid va) ((s.mapWalk asid va).die + 1) } } (some c) asid' va' =
            (s.mapWalk asid va).die + 1 := by
        simp only [State.regionOf, hk, AMap.get_set_same]
      have hempty : s.regionOf (some c) asid' va' = 0 := by
        rw [← hnone]
        simp only [State.regionOf, hk]
      obtain ⟨rfl, hregion⟩ := regionKey_inj hva' hva hk
      rw [hthere, hempty, s.mapWalk_of_region hregion]
      simp
    · have hsame : State.regionOf { s.tells es with mem := { s.mem with
          homeCache := s.mem.homeCache.set 0 (regionKey c asid va) ((s.mapWalk asid va).die + 1) } } (some c) asid' va' =
            s.regionOf (some c) asid' va' := by
        simp only [State.regionOf, AMap.get_set_other _ _ _ _ _ hk]
      rw [hsame]
      exact ⟨hd, rfl⟩

theorem State.findLine_homeDie (s : State) (c asid va sl' asid' line : Nat) :
    (s.homeDie (some c) asid va).2.findLine sl' asid' line = s.findLine sl' asid' line := by
  obtain ⟨es, h | ⟨-, h⟩⟩ := s.homeDie_snd c asid va
  · rw [h]
  · rw [h]
    rfl

/-- A write of bytes to a line that a slice without spilled waits holds. -/
theorem State.writeLine_keeps (hl : s.findLine sl l.asid l.va = some m) (hs : ∀ sl, (s.slice sl).spilled = [])
    (lo : Nat) (bs : List Byte) : KeepsHomes c s (s.writeLine sl l lo bs) ∧
      s.Puts (s.writeLine sl l lo bs) sl
        { l with data := patch l.data lo bs, dirty := true, poison := l.poison && bs.length < 128 } := by
  have hsoil : Still c s (s.soil l.asid (l.va * 128 + lo) bs.length) := .of_soil s _ _ _
  have hfound := (hsoil.lines sl l.asid l.va).trans hl
  have hput := State.puts_putLine (l := { l with
    data := patch l.data lo bs, dirty := true, poison := l.poison && bs.length < 128 }) hfound
  have hkeeps := hsoil.toKeepsHomes.trans (.of_putLine (s.soil l.asid (l.va * 128 + lo) bs.length) sl
    { l with data := patch l.data lo bs, dirty := true, poison := l.poison && bs.length < 128 })
  have hre := Still.of_reevaluate (c := c) _ ((hkeeps.spilled sl).trans (hs sl))
    { l with data := patch l.data lo bs, dirty := true, poison := l.poison && bs.length < 128 } lo bs.length
  exact ⟨hkeeps.trans hre.toKeepsHomes, (hsoil.puts hput).still hre⟩

end puts

/-! ## The bytes of a line as a number -/

/-- The number that memory reads as at `n` bytes of a line. -/
def State.numberIn (s : State) (sl asid va n : Nat) : Nat :=
  leNat ((List.range n).map fun j => (s.byteIn sl asid (va + j)).getD 0)

theorem take_drop_eq_map_range (data : List Byte) (lo n : Nat) (h : lo + n ≤ data.length) :
    (data.drop lo).take n = (List.range n).map fun j => data.getD (lo + j) 0 := by
  refine List.ext_getElem (by simp; omega) fun i hi _ => ?_
  rw [List.length_take, List.length_drop] at hi
  rw [List.getElem_take, List.getElem_drop, List.getElem_map, List.getElem_range, List.getD_eq_getElem _ _ (by omega)]

theorem map_range_getD (bs : List Byte) : (List.range bs.length).map (fun j => bs.getD j 0) = bs := by
  have h := take_drop_eq_map_range bs 0 bs.length (by omega)
  simpa using h.symm

section bytes

variable {s t : State} {sl asid va n : Nat} {l m : Line}

/-- A line that holds an aligned range holds each of its bytes. -/
theorem State.byteIn_of_line (hl : s.findLine sl asid (va / 128) = some l) {j : Nat} (hj : va % 128 + j < 128) :
    s.byteIn sl asid (va + j) = some (l.data.getD (va % 128 + j) 0) := by
  have hdiv : (va + j) / 128 = va / 128 := by omega
  have hmod : (va + j) % 128 = va % 128 + j := by omega
  rw [State.byteIn, hdiv, hmod, hl, Option.map_some]

theorem State.numberIn_of_line (hl : s.findLine sl asid (va / 128) = some l) (hlen : l.data.length = 128)
    (hfit : va % 128 + n ≤ 128) : s.numberIn sl asid va n = leNat ((l.data.drop (va % 128)).take n) := by
  rw [State.numberIn, take_drop_eq_map_range _ _ _ (by omega)]
  refine congrArg leNat (List.map_congr_left fun j hj => ?_)
  rw [State.byteIn_of_line hl (by have := List.mem_range.mp hj; omega), Option.getD_some]

/-- The second state differs, of the bytes that slices hold, in a range that holds a list of bytes. -/
def State.Patched (s t : State) (sl asid va : Nat) (bs : List Byte) : Prop :=
  ∀ sl' asid' va', t.byteIn sl' asid' va' =
    if sl' = sl ∧ asid' = asid ∧ va ≤ va' ∧ va' < va + bs.length then some (bs.getD (va' - va) 0)
    else s.byteIn sl' asid' va'

/-- A line that is put back with some of its bytes replaced. -/
theorem State.Puts.patched {bs : List Byte} (h : s.Puts t sl m) (hl : s.findLine sl asid (va / 128) = some l)
    (hlen : l.data.length = 128) (hfit : va % 128 + bs.length ≤ 128) (ha : m.asid = asid) (hv : m.va = va / 128)
    (hd : m.data = patch l.data (va % 128) bs) : s.Patched t sl asid va bs := by
  intro sl' asid' va'
  unfold State.byteIn
  rw [h sl' asid' (va' / 128), ha, hv]
  by_cases hat : sl' = sl ∧ asid' = asid ∧ va' / 128 = va / 128
  · rw [if_pos hat, Option.map_some, hd]
    obtain ⟨rfl, rfl, hline⟩ := hat
    by_cases hin : va ≤ va' ∧ va' < va + bs.length
    · have hsame := patch_same l.data (va % 128) bs (by omega)
      have hmod : va' % 128 = va % 128 + (va' - va) := by omega
      rw [if_pos ⟨rfl, rfl, hin⟩, ← hsame, hsame, hmod]
      have hget : ((patch l.data (va % 128) bs).drop (va % 128)).take bs.length = bs := hsame
      rw [take_drop_eq_map_range _ _ _ (by rw [patch_length _ _ _ (by omega)]; omega)] at hget
      have hj : va' - va < bs.length := by omega
      have hbyte := congrArg (fun xs => xs.getD (va' - va) 0) hget
      simp only [List.getD_eq_getElem?_getD, List.getElem?_map, List.getElem?_range hj, Option.map_some,
        Option.getD_some] at hbyte
      simp only [List.getD_eq_getElem?_getD, hbyte]
    · rw [if_neg fun hc => hin hc.2.2, hline, hl, Option.map_some,
        patch_other _ _ _ _ _ (by omega) (by omega)]
  · rw [if_neg hat, if_neg fun hc => hat ⟨hc.1, hc.2.1, by omega⟩]

theorem State.Patched.numberIn_same {bs : List Byte} (h : s.Patched t sl asid va bs) :
    t.numberIn sl asid va bs.length = leNat bs := by
  rw [State.numberIn]
  conv_rhs => rw [← map_range_getD bs]
  refine congrArg leNat (List.map_congr_left fun j hj => ?_)
  have hj := List.mem_range.mp hj
  rw [h, if_pos ⟨rfl, rfl, by omega, by omega⟩, Option.getD_some, Nat.add_sub_cancel_left]

theorem State.Patched.numberIn_apart {bs : List Byte} (h : s.Patched t sl asid va bs) {sl' asid' va' n : Nat}
    (ha : va' + n ≤ va ∨ va + bs.length ≤ va') : t.numberIn sl' asid' va' n = s.numberIn sl' asid' va' n := by
  refine congrArg leNat (List.map_congr_left fun j hj => ?_)
  have hj := List.mem_range.mp hj
  rw [h, if_neg fun hc => by omega]

end bytes

/-! ## An atomic that hits -/

/-- An atomic by a core at an address, under its tag, acts on the line that its home slice holds. -/
structure State.Takes (s : State) (c asid va n : Nat) : Prop where
  lt : va < 2 ^ 56
  fit : va % 128 + n ≤ 128
  homed : s.homeDamaged (some c) asid va = false
  apart : s.Apart asid va n
  near : s.farPlace (s.homeAt c asid va) asid va = none
  line : ∃ l, s.findLine (s.homeAt c asid va) asid (va / 128) = some l ∧ l.data.length = 128 ∧ l.attr.w = true ∧
    l.attr.r = true ∧ l.poison = false

section takes

variable {c asid va n : Nat} {s t : State}

/-- What keeps the homes, and what each line grants, keeps what atomics can act on. -/
theorem State.Takes.keeps (h : s.Takes c asid va n) (hk : KeepsHomes c s t)
    (hm : ∀ sl asid line, (t.findLine sl asid line).map Line.mark = (s.findLine sl asid line).map Line.mark) :
    t.Takes c asid va n := by
  have hat := hk.homeAt h.lt h.homed
  have hattr (sl asid line : Nat) : (t.findLine sl asid line).map Line.attr = (s.findLine sl asid line).map Line.attr := by
    have hfst := congrArg (Option.map Prod.fst) (hm sl asid line)
    rwa [Option.map_map, Option.map_map] at hfst
  refine ⟨h.lt, h.fit, (hk.home _ _ h.lt h.homed).1, hk.apart _ _ _ h.apart, ?_, ?_⟩
  · rw [hat, State.farPlace_of_terrain hk.terrain (hattr _ _ _)]
    exact h.near
  · obtain ⟨l, hl, hlen, hw, hr, hp⟩ := h.line
    have hmark := hm (s.homeAt c asid va) asid (va / 128)
    rw [hl, Option.map_some] at hmark
    obtain ⟨m, hfound, hmark⟩ := Option.map_eq_some_iff.mp hmark
    simp only [Line.mark, Prod.mk.injEq] at hmark
    obtain ⟨ha, hp', hlen'⟩ := hmark
    refine ⟨m, hat ▸ hfound, hlen'.trans hlen, ?_, ?_, hp'.trans hp⟩
    · rw [ha, hw]
    · rw [ha, hr]

theorem State.Takes.still (h : s.Takes c asid va n) (hk : Still c s t) : t.Takes c asid va n :=
  h.keeps hk.toKeepsHomes fun sl a line => by rw [hk.lines]

/-- An access that hits: the line, its latest use noted. -/
theorem State.access_of_takes {q : Req} (hq : q.core = some c) (hx : q.x = false)
    (h : s.Takes c (tagAsid q.asid q.va) q.va n) :
    ∃ l m t, s.access q = (.line (s.homeAt c (tagAsid q.asid q.va) q.va) m, t) ∧ KeepsHomes c s t ∧
      s.findLine (s.homeAt c (tagAsid q.asid q.va) q.va) (tagAsid q.asid q.va) (q.va / 128) = some l ∧
      s.Puts t (s.homeAt c (tagAsid q.asid q.va) q.va) m ∧ m.asid = tagAsid q.asid q.va ∧ m.va = q.va / 128 ∧
      m.data = l.data ∧ m.mark = l.mark := by
  obtain ⟨l, hl, hlen, hw, hr, hp⟩ := h.line
  obtain ⟨ha, hv⟩ := s.findLine_at hl
  have hlines := s.findLine_homeDie c (tagAsid q.asid q.va) q.va
  let s₁ := (s.homeDie (some c) (tagAsid q.asid q.va) q.va).2
  have hdie : KeepsHomes c s s₁ := .of_homeDie s h.lt
  have hslice : (s.homeDie (some c) (tagAsid q.asid q.va) q.va).2.sliceOn
      (s.homeDie (some c) (tagAsid q.asid q.va) q.va).1 q.va = s.homeAt c (tagAsid q.asid q.va) q.va := by
    rw [State.sliceOn_of_terrain hdie.terrain, State.homeAt]
  have hgrants : l.attr.grants q = true := by simp [Attr.grants, hw, hr, hx]
  let m : Line := { l with used := s₁.seq, retain := l.retain || q.retain, stream := l.stream && q.filled l }
  have hstamp : Still c s₁ s₁.stamp.2 := .of_stamp s₁
  have hfound : s₁.stamp.2.findLine (s.homeAt c (tagAsid q.asid q.va) q.va) m.asid m.va = some l := by
    rw [hstamp.lines, hlines, show m.asid = _ from ha, show m.va = _ from hv, hl]
  refine ⟨l, m, s₁.stamp.2.putLine (s.homeAt c (tagAsid q.asid q.va) q.va) m, ?_,
    (hdie.trans hstamp.toKeepsHomes).trans (.of_putLine _ _ _), hl, ?_, ha, hv, rfl, rfl⟩
  · have hlt := h.lt
    unfold State.access
    dsimp only
    rw [if_neg (by omega), hq, if_neg (by simp [h.homed])]
    rw [hslice, hlines, hl]
    dsimp only
    rw [if_neg (by simp [hgrants]), if_neg (by simp [hp])]
    rfl
  · intro sl' asid' line
    rw [State.puts_putLine hfound, hstamp.lines, hlines]

/-- Bytes apart from the draws' record areas read as they are. -/
theorem State.blur_of_apart {asid va : Nat} {bs : List Byte} (h : s.Apart asid va bs.length) :
    s.blur asid va bs = (bs, s) := by
  unfold State.blur
  rw [if_neg]
  intro hany
  obtain ⟨a, ha, ht⟩ := List.any_eq_true.mp hany
  rw [h a ha, Bool.and_false] at ht
  cases ht

/-- An atomic that is not performed at a frame acts on the line that its access reaches. -/
theorem State.atomHere_of_near {q : Req} {new : Nat → Nat} {sl : Nat} {l : Line}
    (hfar : (s.homeDie q.core (tagAsid q.asid q.va) q.va).2.farPlace
      ((s.homeDie q.core (tagAsid q.asid q.va) q.va).2.sliceOn (s.homeDie q.core (tagAsid q.asid q.va) q.va).1 q.va)
      (tagAsid q.asid q.va) q.va = none)
    (hacc : (s.homeDie q.core (tagAsid q.asid q.va) q.va).2.access { q with r := true, w := true } = (.line sl l, t)) :
    s.atomHere q n new = (none,
      .bytes (leBytes (leNat (t.lineBytesAt { q with r := true, w := true } l n).1) n),
      (t.lineBytesAt { q with r := true, w := true } l n).2.writeLine sl l (q.va % 128)
        (leBytes (new (leNat (t.lineBytesAt { q with r := true, w := true } l n).1)) n)) := by
  unfold State.atomHere
  simp only [hfar, ite_self, hacc]

/-- An atomic that hits answers the number in memory, and puts the new one there. -/
theorem State.atomHere_of_takes {q : Req} {new : Nat → Nat} (hq : q.core = some c) (hx : q.x = false)
    (h : s.Takes c (tagAsid q.asid q.va) q.va n) (hs : ∀ sl, (s.slice sl).spilled = []) :
    let sl := s.homeAt c (tagAsid q.asid q.va) q.va
    let old := s.numberIn sl (tagAsid q.asid q.va) q.va n
    ∃ t, s.atomHere q n new = (none, .bytes (leBytes old n), t) ∧ KeepsHomes c s t ∧
      (∀ sl asid line, (t.findLine sl asid line).map Line.mark = (s.findLine sl asid line).map Line.mark) ∧
      s.Patched t sl (tagAsid q.asid q.va) q.va (leBytes (new old) n) := by
  intro sl old
  let q' : Req := { q with r := true, w := true }
  let s₁ := (s.homeDie (some c) (tagAsid q.asid q.va) q.va).2
  have hlines := s.findLine_homeDie c (tagAsid q.asid q.va) q.va
  have hdie : KeepsHomes c s s₁ := .of_homeDie s h.lt
  have hslice : (s.homeDie (some c) (tagAsid q.asid q.va) q.va).2.sliceOn
      (s.homeDie (some c) (tagAsid q.asid q.va) q.va).1 q.va = sl := by
    rw [State.sliceOn_of_terrain hdie.terrain]
    rfl
  have h₁ : s₁.Takes c (tagAsid q'.asid q'.va) q'.va n := h.keeps hdie fun sl' asid line => by rw [hlines]
  have hat : s₁.homeAt c (tagAsid q'.asid q'.va) q'.va = sl := hdie.homeAt h.lt h.homed
  obtain ⟨l, m, t, hacc, hkeep, hl, hput, hasid, hva, hdata, hmark⟩ := State.access_of_takes (q := q') hq hx h₁
  rw [hat] at hacc hl hput
  obtain ⟨l', hl', hlen, hw, hr, hp⟩ := h.line
  obtain rfl : l = l' := Option.some.inj (hl.symm.trans ((hlines _ _ _).trans hl'))
  have hmem : t.findLine sl m.asid m.va = some m := by rw [hput, if_pos ⟨rfl, rfl, rfl⟩]
  have hst : KeepsHomes c s t := hdie.trans hkeep
  have hbytes : t.lineBytesAt q' m n = ((l.data.drop (q.va % 128)).take n, t) := by
    unfold State.lineBytesAt
    have hlength : ((l.data.drop (q.va % 128)).take n).length = n := by
      have hfit := h.fit
      rw [List.length_take, List.length_drop, hlen]
      omega
    rw [hasid, hdata, State.blur_of_apart]
    rw [hlength]
    exact hst.apart _ _ _ h.apart
  have hold : leNat ((l.data.drop (q.va % 128)).take n) = old := (State.numberIn_of_line hl' hlen h.fit).symm
  obtain ⟨hkeep', hput'⟩ := State.writeLine_keeps (c := c) hmem (fun sl => (hst.spilled sl).trans (hs sl)) (q.va % 128)
    (leBytes (new old) n)
  have hputs : s.Puts (t.writeLine sl m (q.va % 128) (leBytes (new old) n)) sl { m with
      data := patch m.data (q.va % 128) (leBytes (new old) n), dirty := true
      poison := m.poison && (leBytes (new old) n).length < 128 } := by
    intro sl' asid line
    rw [hput.trans hput' rfl rfl, hlines]
  refine ⟨t.writeLine sl m (q.va % 128) (leBytes (new old) n), ?_, hst.trans hkeep', fun sl' asid line => ?_, ?_⟩
  · rw [State.atomHere_of_near (sl := sl) (l := m) (t := t), hbytes, hold]
    · rw [hq, hslice]
      exact hat ▸ h₁.near
    · rw [show (s.homeDie q.core (tagAsid q.asid q.va) q.va).2 = s₁ by rw [hq]]
      exact hacc
  · rw [hputs]
    split
    next hsame =>
      obtain ⟨rfl, rfl, rfl⟩ := hsame
      have hfit := h.fit
      have hdirty : m.poison = false := (congrArg (·.2.1) hmark).trans hp
      rw [show m.asid = tagAsid q.asid q.va from hasid, show m.va = q.va / 128 from hva, hl', Option.map_some,
        Option.map_some]
      simp only [Line.mark, Option.some.injEq, Prod.mk.injEq, hp, hdirty, Bool.false_and, true_and]
      exact ⟨congrArg (·.1) hmark, by rw [patch_length _ _ _ (by rw [leBytes_length, hdata]; omega), hdata]⟩
    next => rfl
  · exact hputs.patched hl' hlen (by rw [leBytes_length]; exact h.fit) hasid hva (by rw [hdata])

end takes

end Sys2Proof.Machine
end

section
/-!
SUPPORT. The atomics of a unit whose lanes all hit: the pass over the lanes, what it leaves outstanding, and the proof of
O23 from it (spec 12 R187, R188, spec 06 R113).
-/

namespace Sys2Proof

/-! ## Numbers and their bytes -/

theorem leNat_lt (bs : List Byte) : leNat bs < 2 ^ (8 * bs.length) := by
  induction bs with
  | nil => exact Nat.one_pos
  | cons b bs ih =>
    have hb := b.isLt
    rw [leNat, List.length_cons, show 8 * (bs.length + 1) = 8 + 8 * bs.length by omega, Nat.pow_add]
    omega

theorem leBytes_leNat (bs : List Byte) : leBytes (leNat bs) bs.length = bs := by
  induction bs with
  | nil => rfl
  | cons b bs ih =>
    have hb := b.isLt
    have hmod : (b.toNat + 256 * leNat bs) % 256 = b.toNat := by omega
    have hdiv : (b.toNat + 256 * leNat bs) / 256 = leNat bs := by omega
    simp only [leNat, List.length_cons, leBytes, hdiv, ih]
    refine congrArg (· :: bs) (BitVec.eq_of_toNat_eq ?_)
    rw [BitVec.toNat_ofNat]
    exact hmod

/-- Bytes are those of a number that fits in them exactly where they read as it. -/
theorem eq_leBytes_iff {bs : List Byte} {n v : Nat} (hl : bs.length = n) (hv : v < 2 ^ (8 * n)) :
    bs = leBytes v n ↔ leNat bs = v := by
  constructor
  · rintro rfl
    rw [Machine.leNat_leBytes, Nat.mod_eq_of_lt hv]
  · rintro rfl
    rw [← hl, leBytes_leNat]

/-! ## The floats that an atomic leaves -/

section float

variable {f : Fmt}

/-- A format whose infinities and NaNs stand above its largest finite magnitude. -/
def Fmt.Ieee (f : Fmt) : Prop := f.maxFin < 2 ^ f.signBit ∧ 0 < f.exp ∧ 0 < f.frac

theorem ieee_fmt32 : fmt32.Ieee := by unfold Fmt.Ieee; decide

theorem ieee_fmt64 : fmt64.Ieee := by unfold Fmt.Ieee; decide

theorem Fmt.signed_lt {s : Bool} {mag : Nat} (h : mag < 2 ^ f.signBit) : f.signed s mag < 2 ^ (f.signBit + 1) := by
  rw [Nat.pow_succ]
  cases s
  · simp only [Fmt.signed, Bool.false_eq_true, if_false]
    omega
  · simp only [Fmt.signed, if_true]
    omega

theorem Fmt.infBits_add (f : Fmt) : f.infBits + 2 ^ f.frac = 2 ^ f.signBit := by
  have h : 2 ^ f.exp = (2 ^ f.exp - 1) + 1 := (Nat.sub_add_cancel Nat.one_le_two_pow).symm
  rw [Fmt.infBits, Fmt.signBit, Nat.pow_add, ← Nat.succ_mul, Nat.succ_eq_add_one, ← h]

theorem Fmt.qnan_lt (h : f.Ieee) (s : Bool) (frac : Nat) : f.qnan s frac < 2 ^ (f.signBit + 1) := by
  refine Fmt.signed_lt ?_
  have hfrac : 2 ^ f.frac = 2 ^ (f.frac - 1) + 2 ^ (f.frac - 1) := by
    rw [← Nat.two_mul, ← Nat.pow_succ', Nat.succ_eq_add_one, Nat.sub_add_cancel h.2.2]
  have hmod : frac % 2 ^ (f.frac - 1) < 2 ^ (f.frac - 1) := Nat.mod_lt _ Nat.one_le_two_pow
  have hinf := f.infBits_add
  omega

theorem Fmt.infBits_lt (f : Fmt) : f.infBits < 2 ^ f.signBit := by
  have hinf := f.infBits_add
  have hpos : 0 < 2 ^ f.frac := Nat.one_le_two_pow
  omega

theorem Fmt.round_lt (h : f.Ieee) (rnd : Rnd) (s : Bool) (m : Nat) (e : Int) :
    (f.round .ieee rnd s m e).val < 2 ^ (f.signBit + 1) := by
  have hmax := h.1
  have hinf := f.infBits_lt
  have hover (p : Bool) : (if p = true then f.maxFin else f.infBits) < 2 ^ f.signBit := by
    split
    · exact hmax
    · exact hinf
  simp only [Fmt.round]
  split
  · exact Fmt.signed_lt (by omega)
  · split
    · dsimp only
      exact Fmt.signed_lt (hover _)
    · exact Fmt.signed_lt (by omega)

theorem Fmt.nanOf_lt (h : f.Ieee) {ops : List Fl} {r : Res} (hr : f.nanOf ops = some r) :
    r.val < 2 ^ (f.signBit + 1) := by
  unfold Fmt.nanOf at hr
  generalize flagIf (ops.any Fl.signalling) flagNV = nv at hr
  dsimp only at hr
  induction ops with
  | nil => cases hr
  | cons x ops ih =>
    cases x with
    | nan s fr q =>
      cases hr
      exact Fmt.qnan_lt h s fr
    | inf s => exact ih hr
    | fin s m e => exact ih hr

theorem Fmt.addVal_lt (h : f.Ieee) (rnd : Rnd) (a b : Fl) : (f.addVal rnd a b).val < 2 ^ (f.signBit + 1) := by
  have hnan (cause : Nat) : (f.invalid cause).val < 2 ^ (f.signBit + 1) := Fmt.qnan_lt h false cause
  have hinf (s : Bool) : f.signed s f.infBits < 2 ^ (f.signBit + 1) := Fmt.signed_lt f.infBits_lt
  unfold Fmt.addVal
  split
  · split
    · exact hinf _
    · exact hnan 3
  · exact hinf _
  · exact hinf _
  · simp only [Fmt.sumFin, Fmt.roundInt]
    split
    · exact Fmt.signed_lt Nat.one_le_two_pow
    · exact Fmt.round_lt h _ _ _ _
  · exact hnan 5

theorem Fmt.add_lt (h : f.Ieee) (rnd : Rnd) (a b : Nat) : (f.add rnd a b).val < 2 ^ (f.signBit + 1) := by
  simp only [Fmt.add]
  rcases hr : f.nanOf [f.unpack a, f.unpack b] with _ | r
  · exact Fmt.addVal_lt h _ _ _
  · exact Fmt.nanOf_lt h hr

theorem Fmt.minMax_lt (h : f.Ieee) (isMax : Bool) {a b : Nat} (ha : a < 2 ^ (f.signBit + 1))
    (hb : b < 2 ^ (f.signBit + 1)) : (f.minMax isMax a b).val < 2 ^ (f.signBit + 1) := by
  simp only [Fmt.minMax]
  split
  · rcases hr : f.nanOf [f.unpack a, f.unpack b] with _ | r
    · exact ha
    · exact Fmt.nanOf_lt h hr
  · exact hb
  · exact ha
  · dsimp only
    split
    · exact hb
    · exact ha

end float

end Sys2Proof

namespace Sys2Proof.Machine

open Sys2Proof

/-! ## The new value of an atomic -/

/-- The bits of an atomic's value, as its sizes have them. -/
theorem bits_of_size {f : MemF} (hf : f.size = .b32 ∨ f.size = .b64) :
    (if (decide (f.size = .b64)) = true then 64 else 32 : Nat) = 8 * f.size.bytes := by
  rcases hf with h | h <;> rw [h] <;> rfl

/-- The words that a lane gets of 4 or of 8 bytes hold those bytes. -/
theorem bytes_of_wordsOf {f : MemF} (hf : f.size = .b32 ∨ f.size = .b64) {bs : List Byte} (hl : bs.length = f.size.bytes) :
    (wordsOf bs).flatMap (fun w => leBytes w.toNat 4) = bs := by
  have hword (ds : List Byte) (hd : ds.length = 4) : leBytes (leNat ds % 4294967296) 4 = ds := by
    have hlt := leNat_lt ds
    rw [hd] at hlt
    rw [Nat.mod_eq_of_lt (show leNat ds < 4294967296 from hlt), ← hd, leBytes_leNat]
  rcases hf with h | h
  · have h4 : bs.length = 4 := by rw [hl, h]; rfl
    simp only [wordsOf, h4, List.flatMap_map]
    simp [List.range_succ, List.take_of_length_le (Nat.le_of_eq h4), hword bs h4]
  · have h8 : bs.length = 8 := by rw [hl, h]; rfl
    have hlow : (bs.take 4).length = 4 := by simp [h8]
    have hhigh : (bs.drop 4).length = 4 := by simp [h8]
    simp only [wordsOf, h8, List.flatMap_map]
    simp [List.range_succ, hword _ hlow, List.take_of_length_le (Nat.le_of_eq hhigh), hword _ hhigh]

/-! ## One lane -/

/-- The atomic of a unit at an address acts on the line that its home slice holds. -/
def State.AtomHits (s : State) (u va n : Nat) : Prop :=
  s.Takes (s.unit u).core (tagAsid (s.reqOf u va).asid va) va n

/-- What hits by a core keep. -/
structure HitsBy (c : Nat) (s t : State) : Prop extends KeepsHomes c s t where
  marks : ∀ sl asid line, (t.findLine sl asid line).map Line.mark = (s.findLine sl asid line).map Line.mark
  outside : t.outside = s.outside
  seq : s.seq ≤ t.seq

/-- The new value that an atomic leaves of an old one, from its logged a and b. -/
def atomUpd (op : AtomOp) (f : MemF) (x : AtomF) (r : LaneReq) (o : Nat) : Nat :=
  atomNew op x.kind (f.size = .b64) o (leNat (r.data.take f.size.bytes)) (leNat (r.data.drop f.size.bytes))

section lane

variable {c u : Nat} {s t v : State}

theorem HitsBy.refl (c : Nat) (s : State) : HitsBy c s s where
  toKeepsHomes := (Still.refl c s).toKeepsHomes
  marks _ _ _ := rfl
  outside := rfl
  seq := Nat.le_refl _

theorem HitsBy.trans (h : HitsBy c s t) (h' : HitsBy c t v) : HitsBy c s v where
  toKeepsHomes := h.toKeepsHomes.trans h'.toKeepsHomes
  marks sl asid line := (h'.marks sl asid line).trans (h.marks sl asid line)
  outside := h'.outside.trans h.outside
  seq := Nat.le_trans h.seq h'.seq

theorem State.reqOf_of_outside (h : t.outside = s.outside) (u va : Nat) : t.reqOf u va = s.reqOf u va := by
  simp only [State.reqOf, State.unit_of_outside h, State.ctx_of_outside h]

theorem HitsBy.hits (h : HitsBy (s.unit u).core s t) {va n : Nat} (ht : s.AtomHits u va n) : t.AtomHits u va n := by
  unfold State.AtomHits
  rw [State.unit_of_outside h.outside, State.reqOf_of_outside h.outside]
  exact State.Takes.keeps ht h.toKeepsHomes h.marks

theorem HitsBy.sliceFor (h : HitsBy (s.unit u).core s t) {va n : Nat} (ht : s.AtomHits u va n) :
    t.sliceFor u va = s.sliceFor u va := by
  have hat := h.toKeepsHomes.homeAt ht.lt ht.homed
  have hreq := State.reqOf_of_outside h.outside u va
  unfold State.sliceFor
  rw [hreq]
  exact hat

/-- A lane of an atomic that hits. -/
theorem State.performLane_of_hit {seq since : Nat} {op : AtomOp} {h : Head} {f : MemF} {x : AtomF} {r : LaneReq}
    (ht : s.AtomHits u r.addr f.size.bytes) (hs : ∀ sl, (s.slice sl).spilled = []) :
    let sl := s.sliceFor u r.addr
    let tag := tagAsid (s.reqOf u r.addr).asid r.addr
    let old := s.numberIn sl tag r.addr f.size.bytes
    ∃ t, s.performLane u seq since (op.mk h f x) r = (.words (wordsOf (leBytes old f.size.bytes)), t) ∧
      HitsBy (s.unit u).core s t ∧ s.Patched t sl tag r.addr (leBytes (atomUpd op f x r old) f.size.bytes) := by
  intro sl tag old
  let q := Req.hinted { s.laneReq u seq r.lane r.addr with since := some since } h.hints
  have hlane : s.performLane u seq since (op.mk h f x) r = s.atomAt u q op f x r.data := by cases op <;> rfl
  obtain ⟨t, hhere, hkeep, hmarks, hpatch⟩ := State.atomHere_of_takes (q := q) (n := f.size.bytes)
    (new := fun old => atomUpd op f x r old) (rfl : q.core = some (s.unit u).core) rfl ht hs
  have hdrop : Still (s.unit u).core t (t.l1Drop (t.unit u).core (tagAsid q.asid q.va) (q.va / 128)) := .of_l1Drop t _ _ _
  have hseq := s.seq_le_atomHere q f.size.bytes fun old => atomUpd op f x r old
  have hout := s.outside_atomHere q f.size.bytes fun old => atomUpd op f x r old
  rw [hhere] at hseq hout
  refine ⟨t.l1Drop (t.unit u).core (tagAsid q.asid q.va) (q.va / 128), ?_,
    ⟨hkeep.trans hdrop.toKeepsHomes, fun sl asid line => by rw [hdrop.lines, hmarks], hout, hseq⟩,
    fun sl' asid' va' => ?_⟩
  · rw [hlane]
    unfold State.atomAt
    dsimp only
    unfold atomUpd at hhere
    rw [hhere]
    rfl
  · refine Eq.trans ?_ (hpatch sl' asid' va')
    rw [State.byteIn, hdrop.lines, State.byteIn]

end lane

/-! ## The pass over the lanes -/

/-- What lanes, in order, make of the number at the address of one: those that share its address act on it. -/
def runOver (at_ : Nat → Nat) (upd : Nat → Nat → Nat) (start : Nat → Nat) (upto : List Nat) (l : Nat) : Nat :=
  (upto.filter fun m => at_ m = at_ l).foldl (fun o m => upd m o) (start l)

theorem runOver_nil (at_ : Nat → Nat) (upd : Nat → Nat → Nat) (start : Nat → Nat) (l : Nat) :
    runOver at_ upd start [] l = start l := rfl

theorem runOver_concat (at_ : Nat → Nat) (upd : Nat → Nat → Nat) (start : Nat → Nat) (upto : List Nat) (m l : Nat) :
    runOver at_ upd start (upto ++ [m]) l =
      if at_ m = at_ l then upd m (runOver at_ upd start upto l) else runOver at_ upd start upto l := by
  unfold runOver
  rw [List.filter_append, List.foldl_append]
  by_cases h : at_ m = at_ l <;> simp [h]

theorem runOver_congr {at_ : Nat → Nat} {upd : Nat → Nat → Nat} {start : Nat → Nat} {upto : List Nat} {m l : Nat}
    (h : at_ m = at_ l) (hs : start m = start l) : runOver at_ upd start upto m = runOver at_ upd start upto l := by
  unfold runOver
  rw [h, hs]

/-- The lanes below one in an increasing list are those before it. -/
theorem filter_lt_of_pairwise {pre ls : List Nat} {l : Nat} (h : (pre ++ l :: ls).Pairwise (· < ·)) :
    (pre ++ l :: ls).filter (· < l) = pre := by
  obtain ⟨-, htail, hcross⟩ := List.pairwise_append.mp h
  have hpre : pre.filter (· < l) = pre :=
    List.filter_eq_self.mpr fun m hm => decide_eq_true (hcross m hm l List.mem_cons_self)
  have hls : (l :: ls).filter (· < l) = [] := by
    refine List.filter_eq_nil_iff.mpr fun m hm hlt => ?_
    have hlt := of_decide_eq_true hlt
    rcases List.mem_cons.mp hm with rfl | hm
    · omega
    · have := (List.pairwise_cons.mp htail).1 m hm
      omega
  rw [List.filter_append, hpre, hls, List.append_nil]

section pass

variable {s : State} {u seq since n : Nat} {op : AtomOp} {h : Head} {f : MemF} {x : AtomF} {req : Nat → LaneReq}
  {upd : Nat → Nat → Nat} {all : List Nat}

/-- The number at the address of a lane. -/
def State.laneNumber (s t : State) (u n : Nat) (req : Nat → LaneReq) (l : Nat) : Nat :=
  t.numberIn (s.sliceFor u (req l).addr) (tagAsid (s.reqOf u (req l).addr).asid (req l).addr) (req l).addr n

/-- An atomic's lanes, all of which hit: their numbers and operands, in increasing order, with the new values that their
operation leaves. -/
structure AtomLanes (s : State) (u : Nat) (op : AtomOp) (f : MemF) (x : AtomF) (req : Nat → LaneReq)
    (upd : Nat → Nat → Nat) (all : List Nat) : Prop where
  sorted : all.Pairwise (· < ·)
  lane : ∀ l, (req l).lane = l
  aligned : ∀ l ∈ all, (req l).addr % f.size.bytes = 0
  hits : ∀ l ∈ all, s.AtomHits u (req l).addr f.size.bytes
  spilled : ∀ sl, (s.slice sl).spilled = []
  size : 0 < f.size.bytes
  new : ∀ l ∈ all, ∀ o < 2 ^ (8 * f.size.bytes), atomUpd op f x (req l) o = upd l o ∧ upd l o < 2 ^ (8 * f.size.bytes)

/-- What the pass answers for each lane: the number at its address after the lanes below it. -/
def AtomLanes.answer (s : State) (u n : Nat) (req : Nat → LaneReq) (upd : Nat → Nat → Nat) (all : List Nat) (l : Nat) :
    Nat := runOver (fun m => (req m).addr) upd (s.laneNumber s u n req) (all.filter (· < l)) l

theorem State.numberIn_lt (s : State) (sl asid va n : Nat) : s.numberIn sl asid va n < 2 ^ (8 * n) := by
  have h := leNat_lt ((List.range n).map fun j => (s.byteIn sl asid (va + j)).getD 0)
  rwa [List.length_map, List.length_range] at h

theorem AtomLanes.runOver_lt (ha : AtomLanes s u op f x req upd all) {upto : List Nat} (hu : ∀ m ∈ upto, m ∈ all)
    (l : Nat) : runOver (fun m => (req m).addr) upd (s.laneNumber s u f.size.bytes req) upto l <
      2 ^ (8 * f.size.bytes) := by
  induction upto using List.reverseRecOn with
  | nil => exact s.numberIn_lt _ _ _ _
  | append_singleton upto m ih =>
    have ih := ih fun k hk => hu k (List.mem_append_left _ hk)
    rw [runOver_concat]
    split
    · exact (ha.new m (hu m (by simp)) _ ih).2
    · exact ih

theorem State.performLanes_cons_of_words {t v : State} {i : Instr} {r : LaneReq} {rest : List LaneReq} {p : Pass}
    {ws : List Word} (hne : ws ≠ []) (hr : t.performLane u seq since i r = (.words ws, v)) :
    t.performLanes u seq since i (r :: rest) p =
      v.performLanes u seq since i rest { p with values := p.values ++ [(r.lane, ws)] } := by
  obtain ⟨w, ws, rfl⟩ := List.exists_cons_of_ne_nil hne
  simp only [State.performLanes, hr]

theorem wordsOf_ne_nil {bs : List Byte} (h : 0 < bs.length) : wordsOf bs ≠ [] := by
  rw [wordsOf, ne_eq, List.map_eq_nil_iff, List.range_eq_nil]
  omega

theorem aligned_apart {a b n : Nat} (ha : a % n = 0) (hb : b % n = 0) (hne : a ≠ b) : a + n ≤ b ∨ b + n ≤ a := by
  obtain ⟨i, rfl⟩ := Nat.dvd_of_mod_eq_zero ha
  obtain ⟨j, rfl⟩ := Nat.dvd_of_mod_eq_zero hb
  rcases Nat.lt_or_gt_of_ne (fun h => hne (congrArg (n * ·) h) : i ≠ j) with h | h
  · exact .inl (Nat.mul_le_mul_left n h)
  · exact .inr (Nat.mul_le_mul_left n h)

/-- What one lane more leaves at the address of each. -/
theorem AtomLanes.numbers_step (ha : AtomLanes s u op f x req upd all) {pre : List Nat} {l : Nat} {t v : State}
    (hpre : ∀ m ∈ pre, m ∈ all) (hl : l ∈ all)
    (hnum : ∀ m ∈ all, s.laneNumber t u f.size.bytes req m =
      runOver (fun m => (req m).addr) upd (s.laneNumber s u f.size.bytes req) pre m)
    (hpatch : t.Patched v (s.sliceFor u (req l).addr) (tagAsid (s.reqOf u (req l).addr).asid (req l).addr) (req l).addr
      (leBytes (upd l (s.laneNumber t u f.size.bytes req l)) f.size.bytes)) :
    ∀ m ∈ all, s.laneNumber v u f.size.bytes req m =
      runOver (fun m => (req m).addr) upd (s.laneNumber s u f.size.bytes req) (pre ++ [l]) m := by
  intro m hm
  rw [runOver_concat]
  split
  next hsame =>
    have hlt := (ha.new l hl _ (ha.runOver_lt hpre l)).2
    have hv := hpatch.numberIn_same
    rw [leBytes_length, leNat_leBytes, hnum l hl, Nat.mod_eq_of_lt hlt, hsame] at hv
    rw [State.laneNumber, hv]
    exact congrArg (upd l) (runOver_congr hsame (by simp only [State.laneNumber, hsame]))
  next hne =>
    rw [← hnum m hm]
    refine hpatch.numberIn_apart ?_
    rw [leBytes_length]
    exact (aligned_apart (ha.aligned l hl) (ha.aligned m hm) hne).symm

/-- A pass over lanes that all hit answers each, and leaves at each address what its lanes make of it. -/
theorem AtomLanes.performLanes (ha : AtomLanes s u op f x req upd all) {ls pre : List Nat} {t : State} {p : Pass}
    (hall : all = pre ++ ls) (ht : HitsBy (s.unit u).core s t)
    (hnum : ∀ l ∈ all, s.laneNumber t u f.size.bytes req l =
      runOver (fun m => (req m).addr) upd (s.laneNumber s u f.size.bytes req) pre l) :
    ∃ v, t.performLanes u seq since (op.mk h f x) (ls.map req) p =
        ({ p with values := p.values ++ ls.map fun l =>
            (l, wordsOf (leBytes (AtomLanes.answer s u f.size.bytes req upd all l) f.size.bytes)) }, v) ∧
      HitsBy (s.unit u).core s v ∧
      (∀ l ∈ all, s.laneNumber v u f.size.bytes req l =
        runOver (fun m => (req m).addr) upd (s.laneNumber s u f.size.bytes req) all l) ∧
      ∀ sl asid va, (∀ l ∈ ls, ¬(sl = s.sliceFor u (req l).addr ∧
        asid = tagAsid (s.reqOf u (req l).addr).asid (req l).addr ∧ (req l).addr ≤ va ∧
          va < (req l).addr + f.size.bytes)) → v.byteIn sl asid va = t.byteIn sl asid va := by
  induction ls generalizing pre t p with
  | nil => exact ⟨t, by simp [State.performLanes], ht, by rwa [hall, List.append_nil] at *, fun _ _ _ _ => rfl⟩
  | cons l ls ih =>
    have hl : l ∈ all := by simp [hall]
    have hpre : ∀ m ∈ pre, m ∈ all := fun m hm => by simp [hall, hm]
    have hhit := ht.hits (ha.hits l hl)
    obtain ⟨v, hlane, hby, hpatch⟩ := State.performLane_of_hit (seq := seq) (since := since) (op := op) (h := h)
      (f := f) (x := x) (r := req l) hhit fun sl => (ht.spilled sl).trans (ha.spilled sl)
    rw [ht.sliceFor (ha.hits l hl), State.reqOf_of_outside ht.outside] at hlane hpatch
    rw [State.unit_of_outside ht.outside] at hby
    change t.performLane u seq since (op.mk h f x) (req l) =
      (.words (wordsOf (leBytes (s.laneNumber t u f.size.bytes req l) f.size.bytes)), v) at hlane
    have hnew : atomUpd op f x (req l) (s.laneNumber t u f.size.bytes req l) =
        upd l (s.laneNumber t u f.size.bytes req l) := (ha.new l hl _ (State.numberIn_lt _ _ _ _ _)).1
    have hpatch : t.Patched v (s.sliceFor u (req l).addr) (tagAsid (s.reqOf u (req l).addr).asid (req l).addr)
        (req l).addr (leBytes (upd l (s.laneNumber t u f.size.bytes req l)) f.size.bytes) := hnew ▸ hpatch
    have hanswer : s.laneNumber t u f.size.bytes req l = AtomLanes.answer s u f.size.bytes req upd all l := by
      rw [hnum l hl, AtomLanes.answer, hall, filter_lt_of_pairwise (hall ▸ ha.sorted)]
    obtain ⟨v', hrun, hby', hnums, hframe⟩ := ih (pre := pre ++ [l]) (t := v)
      (p := { p with values := p.values ++ [(l, wordsOf (leBytes (s.laneNumber t u f.size.bytes req l) f.size.bytes))] })
      (by simp [hall]) (ht.trans hby) (ha.numbers_step hpre hl hnum hpatch)
    refine ⟨v', ?_, hby', hnums, fun sl asid va hout => ?_⟩
    · rw [List.map_cons, State.performLanes_cons_of_words (wordsOf_ne_nil (by rw [leBytes_length]; exact ha.size)) hlane,
        ha.lane l, hrun, hanswer]
      simp
    · rw [hframe sl asid va fun m hm => hout m (List.mem_cons_of_mem _ hm), hpatch, leBytes_length,
        if_neg (hout l List.mem_cons_self)]

end pass

/-! ## What the pass leaves outstanding -/

/-- The outstanding instructions of a unit once a pass of one of them has been settled without a fault or a stall. -/
def settledPend (pend : List Pend) (p : Pend) : List Pend :=
  if p.values = [] then pend.filter fun q => q.seq ≠ p.seq
  else if pend.any fun q => q.seq = p.seq then pend.map fun q => if q.seq = p.seq then p else q
  else pend ++ [p]

section settledPend

variable {pend : List Pend} {p : Pend}

theorem mem_settledPend_of_ne {q : Pend} (h : q.seq ≠ p.seq) : q ∈ settledPend pend p ↔ q ∈ pend := by
  unfold settledPend
  split
  · simp [h]
  · split
    · constructor
      · intro hq
        obtain ⟨r, hr, hrq⟩ := List.mem_map.mp hq
        split at hrq
        · exact absurd (congrArg Pend.seq hrq).symm h
        · exact hrq ▸ hr
      · exact fun hq => List.mem_map.mpr ⟨q, hq, if_neg h⟩
    · simp only [List.mem_append, List.mem_singleton, or_iff_left_iff_imp]
      exact fun hq => absurd (congrArg Pend.seq hq) h

theorem mem_settledPend_self (h : p.values ≠ []) : p ∈ settledPend pend p := by
  unfold settledPend
  rw [if_neg h]
  split
  next hany =>
    obtain ⟨q, hq, hseq⟩ := List.any_eq_true.mp hany
    exact List.mem_map.mpr ⟨q, hq, if_pos (of_decide_eq_true hseq)⟩
  next => simp

theorem ne_of_mem_settledPend (h : p.values = []) {q : Pend} (hq : q ∈ settledPend pend p) : q.seq ≠ p.seq := by
  rw [settledPend, if_pos h] at hq
  exact of_decide_eq_true (List.mem_filter.mp hq).2

end settledPend

section settle

variable {t : State} {u : Nat} {op : AtomOp} {h : Head} {f : MemF} {x : AtomF}

theorem AtomOp.atom?_mk (op : AtomOp) (h : Head) (f : MemF) (x : AtomF) : (op.mk h f x).atom? = some (op, h, f, x) := by
  cases op <;> rfl

theorem AtomOp.interlocked_mk (op : AtomOp) (h : Head) (f : MemF) (x : AtomF) : (op.mk h f x).interlocked = false := by
  cases op <;> rfl

theorem AtomOp.cleanPass_mk (s : State) (op : AtomOp) (h : Head) (f : MemF) (x : AtomF) (reqs : List LaneReq) (r : Pass) :
    s.cleanPass u (op.mk h f x) reqs r = s := by
  cases op <;> rfl

/-- A unit's latest acquire and its age, once it may have acquired and may have been demoted. -/
theorem State.acquire_demote (t : State) (u : Nat) (a d : Prop) [Decidable a] [Decidable d] :
    let s₁ := if a then t.acquire u else t
    let s₂ := if d then s₁.demote u else s₁
    ∃ k w', t.seq ≤ k ∧ s₂.unit u = w' ∧ (∀ w, s₂.setUnit u w = ({ t with seq := k } : State).setUnit u w) ∧
      w' = { t.unit u with acq := w'.acq, age := w'.age } ∧ (d → t.seq ≤ w'.age) ∧
      (¬d → w'.age = (t.unit u).age) := by
  intro s₁ s₂
  obtain ⟨k, hk, h₁, hset, hage⟩ : ∃ k, t.seq ≤ k ∧ s₁.seq = k ∧
      (∀ w, s₁.setUnit u w = ({ t with seq := k } : State).setUnit u w) ∧
      s₁.unit u = { t.unit u with acq := (s₁.unit u).acq } := by
    by_cases ha : a
    · have hs : s₁ = ({ t with seq := t.seq + 1 } : State).setUnit u { t.unit u with acq := t.seq } := by
        simp only [s₁, if_pos ha]
        rfl
      exact ⟨t.seq + 1, Nat.le_succ _, by rw [hs]; rfl, fun w => by rw [hs, State.setUnit_setUnit],
        by rw [hs, State.unit_setUnit_same]⟩
    · have hs : s₁ = t := if_neg ha
      exact ⟨t.seq, Nat.le_refl _, by rw [hs], fun w => by rw [hs], by rw [hs]⟩
  by_cases hd : d
  · have hs : s₂ = ({ s₁ with seq := k + 1 } : State).setUnit u { s₁.unit u with age := k } := by
      simp only [s₂, if_pos hd, ← h₁]
      rfl
    have hnext (w : Wave) : ({ s₁ with seq := k + 1 } : State).setUnit u w =
        ({ t with seq := k + 1 } : State).setUnit u w := by
      have := congrArg (fun v : State => { v with seq := k + 1 }) (hset w)
      exact this
    refine ⟨k + 1, s₂.unit u, by omega, rfl, fun w => ?_, ?_, fun _ => ?_, fun hn => absurd hd hn⟩
    · rw [hs, State.setUnit_setUnit, hnext]
    · rw [hs, State.unit_setUnit_same, hage]
    · rw [hs, State.unit_setUnit_same]
      exact hk
  · have hs : s₂ = s₁ := if_neg hd
    refine ⟨k, s₂.unit u, hk, rfl, fun w => by rw [hs, hset], ?_, fun hn => absurd hn hd, fun _ => ?_⟩
    · rw [hs, hage]
    · rw [hs, hage]

/-- Settling a pass of an atomic that met no fault and no stall: the acquire, the demotion and what is outstanding. -/
theorem State.settle_eq {reqs : List LaneReq} {values : List (Nat × List Word)} (seq pc dst n : Nat) :
    let p : Pend := { seq := seq, op := op.mk h f x, pc := pc, dst := dst, n := n, reqs := reqs }
    let s₁ := if ((op.mk h f x).acquires || seq < (t.unit u).fenceAt) && reqs ≠ [] then t.acquire u else t
    let s₂ := if op = .cas && casFailed reqs f.size.bytes values then s₁.demote u else s₁
    t.settle u p reqs { values := values } = s₂.setUnit u { s₂.unit u with
      pend := settledPend (s₂.unit u).pend { p with values := if n = 0 then [] else values } } := by
  intro p s₁ s₂
  let v := s₂.setUnit u (s₂.unit u)
  let q : Pend := { p with values := if n = 0 then [] else values }
  have hsettle : t.settle u p reqs { values := values } =
      if q.values = [] && q.faulted = [] && q.todo = [] then
        v.setUnit u { v.unit u with pend := (v.unit u).pend.filter fun r => r.seq ≠ q.seq }
      else if (v.unit u).pend.any fun r => r.seq = q.seq then
        v.setUnit u { v.unit u with pend := (v.unit u).pend.map fun r : Pend => if r.seq = q.seq then q else r }
      else v.setUnit u { v.unit u with pend := (v.unit u).pend ++ [q] } := by
    cases op <;> rfl
  have hunit : v.unit u = s₂.unit u := State.unit_setUnit_same _ _ _
  have hset (w : Wave) : v.setUnit u w = s₂.setUnit u w := State.setUnit_setUnit _ _ _ _
  rw [hsettle, hunit, hset, hset, hset]
  unfold settledPend
  by_cases hv : q.values = []
  · have hempty : (q.values = [] && q.faulted = [] && q.todo = []) = true :=
      Bool.and_eq_true_iff.mpr ⟨Bool.and_eq_true_iff.mpr ⟨decide_eq_true hv, rfl⟩, rfl⟩
    rw [if_pos hv, if_pos hempty]
  · rw [if_neg hv, if_neg (by simp [hv])]
    split <;> rfl

/-- What settling a pass of an atomic leaves that met no fault and no stall. -/
theorem State.settle_of_atom {reqs : List LaneReq} {values : List (Nat × List Word)} (seq pc dst n : Nat) :
    let p : Pend := { seq := seq, op := op.mk h f x, pc := pc, dst := dst, n := n, reqs := reqs }
    let fails := (op = .cas && casFailed reqs f.size.bytes values) = true
    ∃ k w', t.seq ≤ k ∧ t.settle u p reqs { values := values } = ({ t with seq := k } : State).setUnit u w' ∧
      w' = { t.unit u with
        acq := w'.acq, age := w'.age
        pend := settledPend (t.unit u).pend { p with values := if n = 0 then [] else values } } ∧
      (fails → t.seq ≤ w'.age) ∧ (¬fails → w'.age = (t.unit u).age) := by
  intro p fails
  obtain ⟨k, w', hk, hunit, hset, hw', hfail, hpass⟩ := t.acquire_demote u
    (((op.mk h f x).acquires || seq < (t.unit u).fenceAt) && reqs ≠ []) fails
  refine ⟨k, { w' with pend := settledPend w'.pend { p with values := if n = 0 then [] else values } }, hk, ?_, ?_,
    hfail, hpass⟩
  · rw [State.settle_eq, ← hunit]
    exact hset _
  · rw [hw']

end settle

/-! ## The instruction -/

/-- A cas fails where a lane's a is not the number that the lane found. -/
theorem casFailed_iff {f : MemF} (hf : f.size = .b32 ∨ f.size = .b64) {ls : List Nat} {req : Nat → LaneReq}
    {answer : Nat → Nat} (hlane : ∀ l, (req l).lane = l)
    (hlen : ∀ l ∈ ls, ((req l).data.take f.size.bytes).length = f.size.bytes)
    (hlt : ∀ l ∈ ls, answer l < 2 ^ (8 * f.size.bytes)) :
    casFailed (ls.map req) f.size.bytes (ls.map fun l => (l, wordsOf (leBytes (answer l) f.size.bytes))) = true ↔
      ∃ l ∈ ls, answer l ≠ leNat ((req l).data.take f.size.bytes) := by
  have hfind (l : Nat) (hl : l ∈ ls) : (ls.map req).find? (fun r => r.lane = l) = some (req l) := by
    obtain ⟨r, hr⟩ := Option.isSome_iff_exists.mp ((List.find?_isSome (p := fun r : LaneReq => r.lane = l)).mpr
      ⟨req l, List.mem_map_of_mem hl, decide_eq_true (hlane l)⟩)
    obtain ⟨m, -, rfl⟩ := List.mem_map.mp (List.mem_of_find?_eq_some hr)
    have hm : m = l := (hlane m).symm.trans (of_decide_eq_true (List.find?_some (p := fun r : LaneReq => r.lane = l) hr))
    rw [hr, hm]
  have hbytes (l : Nat) : ((wordsOf (leBytes (answer l) f.size.bytes)).flatMap fun w => leBytes w.toNat 4).take
      f.size.bytes = leBytes (answer l) f.size.bytes := by
    rw [bytes_of_wordsOf hf (leBytes_length _ _), List.take_of_length_le (Nat.le_of_eq (leBytes_length _ _))]
  unfold casFailed
  rw [List.any_eq_true]
  constructor
  · rintro ⟨v, hv, hne⟩
    obtain ⟨l, hl, rfl⟩ := List.mem_map.mp hv
    dsimp only at hne
    rw [hfind l hl, hbytes] at hne
    exact ⟨l, hl, fun he => of_decide_eq_true hne ((eq_leBytes_iff (hlen l hl) (hlt l hl)).mpr he.symm)⟩
  · rintro ⟨l, hl, hne⟩
    refine ⟨_, List.mem_map_of_mem hl, ?_⟩
    dsimp only
    rw [hfind l hl, hbytes]
    exact decide_eq_true fun he => hne ((eq_leBytes_iff (hlen l hl) (hlt l hl)).mp he).symm

section setUnit

variable {s : State} {u : Nat} {w : Wave}

theorem State.reqOf_setUnit (hc : w.core = (s.unit u).core) (hx : w.ctx = (s.unit u).ctx) (va : Nat) :
    (s.setUnit u w).reqOf u va = s.reqOf u va := by
  simp only [State.reqOf, State.unit_setUnit_same, State.ctx_setUnit, hc, hx]

theorem State.sliceFor_eq (s : State) (u va : Nat) :
    s.sliceFor u va = s.homeAt (s.unit u).core (tagAsid (s.reqOf u va).asid va) va := rfl

theorem State.homeAt_setUnit (c asid va : Nat) : (s.setUnit u w).homeAt c asid va = s.homeAt c asid va := by
  have hterrain : (s.setUnit u w).terrain = s.terrain := rfl
  have hregion : (s.setUnit u w).regionOf (some c) asid va = s.regionOf (some c) asid va := rfl
  rw [State.homeAt, State.sliceOn_of_terrain hterrain, State.homeDie_fst, hregion, State.mapWalk_of_terrain hterrain,
    ← State.homeDie_fst, ← State.homeAt]

theorem State.sliceFor_setUnit (hc : w.core = (s.unit u).core) (hx : w.ctx = (s.unit u).ctx) (va : Nat) :
    (s.setUnit u w).sliceFor u va = s.sliceFor u va := by
  rw [State.sliceFor_eq, State.sliceFor_eq, State.unit_setUnit_same, State.reqOf_setUnit hc hx, State.homeAt_setUnit, hc]

theorem State.Takes.setUnit {c asid va n : Nat} (h : s.Takes c asid va n) : (s.setUnit u w).Takes c asid va n :=
  h.still { toKeepsHomes := .of_same rfl rfl (fun _ => rfl) fun _ _ _ ha => ha, lines := fun _ _ _ => rfl }

theorem AtomLanes.setUnit {op : AtomOp} {f : MemF} {x : AtomF} {req : Nat → LaneReq} {upd : Nat → Nat → Nat}
    {all : List Nat} (ha : AtomLanes s u op f x req upd all) (hc : w.core = (s.unit u).core)
    (hx : w.ctx = (s.unit u).ctx) : AtomLanes (s.setUnit u w) u op f x req upd all :=
  { ha with
    hits := fun l hl => by
      unfold State.AtomHits
      rw [State.unit_setUnit_same, State.reqOf_setUnit hc hx, hc]
      exact (ha.hits l hl).setUnit }

theorem State.laneNumber_setUnit {t : State} {n : Nat} {req : Nat → LaneReq} (hc : w.core = (s.unit u).core)
    (hx : w.ctx = (s.unit u).ctx) (l : Nat) : (s.setUnit u w).laneNumber t u n req l = s.laneNumber t u n req l := by
  unfold State.laneNumber
  rw [State.sliceFor_setUnit hc hx, State.reqOf_setUnit hc hx]

end setUnit

/-- An access from its checks on: the pass over its lanes, and its settling. -/
theorem State.startAccess_of_pass {s v : State} {i : Instr} {dst n : Nat} {reqs : List LaneReq} {r : Pass}
    (hrun : (s.setUnit s.cur { s.unit s.cur with
        pendSeq := (s.unit s.cur).pendSeq + 1
        fenceAt := if i.acquires then (s.unit s.cur).pendSeq + 1 else min (s.unit s.cur).fenceAt (s.unit s.cur).pendSeq
        }).performLanes s.cur (s.unit s.cur).pendSeq s.seq i reqs {} = (r, v)) :
    s.startAccess i dst n reqs = (v.settle s.cur
      { seq := (s.unit s.cur).pendSeq, op := i, pc := (s.unit s.cur).pc.toNat, dst := dst, n := n, reqs := reqs }
      reqs r).advance i := by
  have hseq (w : Wave) : (s.setUnit s.cur w).seq = s.seq := rfl
  simp only [State.startAccess, hseq, hrun]

/-- An atomic whose lanes all hit, from its checks on: the pass over the lanes, and what it leaves outstanding. -/
theorem State.startAccess_of_hits {s : State} {op : AtomOp} {h : Head} {f : MemF} {x : AtomF} {req : Nat → LaneReq}
    {upd : Nat → Nat → Nat} {ls : List Nat} (ha : AtomLanes s s.cur op f x req upd ls) (dst n : Nat) :
    let w := s.unit s.cur
    let i := op.mk h f x
    let answers := ls.map fun l =>
      (l, wordsOf (leBytes (AtomLanes.answer s s.cur f.size.bytes req upd ls l) f.size.bytes))
    let p : Pend :=
      { seq := w.pendSeq, op := i, pc := w.pc.toNat, dst := dst, n := n, reqs := ls.map req
        values := if n = 0 then [] else answers }
    let fails := (op = .cas && casFailed (ls.map req) f.size.bytes answers) = true
    ∃ v k w', s.startAccess i dst n (ls.map req) = ({ v with seq := k } : State).setUnit s.cur w' ∧
      w' = { w with
        pc := w.pc + BitVec.ofNat 64 i.size, pend := settledPend w.pend p, pendSeq := w.pendSeq + 1
        acq := w'.acq, fenceAt := w'.fenceAt, age := w'.age } ∧
      (fails → s.seq ≤ w'.age) ∧ (¬fails → w'.age = w.age) ∧
      (∃ w'', v.outside = (s.setUnit s.cur w'').outside) ∧ v.mem.phys = s.mem.phys ∧
      (∀ l ∈ ls, s.laneNumber v s.cur f.size.bytes req l =
        runOver (fun m => (req m).addr) upd (s.laneNumber s s.cur f.size.bytes req) ls l) ∧
      ∀ sl asid va, (∀ l ∈ ls, ¬(sl = s.sliceFor s.cur (req l).addr ∧
        asid = tagAsid (s.reqOf s.cur (req l).addr).asid (req l).addr ∧ (req l).addr ≤ va ∧
          va < (req l).addr + f.size.bytes)) → v.byteIn sl asid va = s.byteIn sl asid va := by
  intro w i answers p fails
  let fence := if i.acquires then w.pendSeq + 1 else min w.fenceAt w.pendSeq
  let w₁ : Wave := { w with pendSeq := w.pendSeq + 1, fenceAt := fence }
  let s₁ := s.setUnit s.cur w₁
  have hcore : w₁.core = (s.unit s.cur).core := rfl
  have hctx : w₁.ctx = (s.unit s.cur).ctx := rfl
  have hnum (t : State) (l : Nat) : s₁.laneNumber t s.cur f.size.bytes req l = s.laneNumber t s.cur f.size.bytes req l :=
    State.laneNumber_setUnit (s := s) (w := w₁) hcore hctx l
  have ha₁ : AtomLanes s₁ s.cur op f x req upd ls := ha.setUnit hcore hctx
  obtain ⟨v, hrun, hby, hnums, hframe⟩ := ha₁.performLanes (seq := w.pendSeq) (since := s₁.seq) (h := h) (pre := [])
    (p := {}) rfl (.refl _ s₁) fun l hl => (runOver_nil _ _ _ _).symm
  have hanswers : (ls.map fun l => (l, wordsOf (leBytes (AtomLanes.answer s₁ s.cur f.size.bytes req upd ls l)
      f.size.bytes))) = answers := by
    refine List.map_congr_left fun l hl => ?_
    have : AtomLanes.answer s₁ s.cur f.size.bytes req upd ls l = AtomLanes.answer s s.cur f.size.bytes req upd ls l := by
      unfold AtomLanes.answer runOver
      rw [hnum]
      rfl
    rw [this]
  rw [List.nil_append, hanswers] at hrun
  obtain ⟨k, w', hk, hsettle, hw', hfail, hpass⟩ := State.settle_of_atom (t := v) (u := s.cur) (op := op) (h := h)
    (f := f) (x := x) (reqs := ls.map req) (values := answers) w.pendSeq w.pc.toNat dst n
  have hunit : v.unit s.cur = { w with pendSeq := w.pendSeq + 1, fenceAt := fence } := by
    rw [State.unit_of_outside hby.outside, State.unit_setUnit_same]
  have hcur : v.cur = s.cur := State.cur_of_outside (s := s₁) hby.outside
  have hstart := State.startAccess_of_pass (dst := dst) (n := n) hrun
  rw [hunit] at hw' hpass
  refine ⟨v, k, { w' with pc := w'.pc + BitVec.ofNat 64 i.size }, ?_, ?_, fun hf => ?_, hpass, ⟨_, hby.outside⟩,
    congrArg Prod.fst hby.terrain, fun l hl => ?_, fun sl asid va hout => ?_⟩
  · rw [hstart, hsettle, State.advance, State.cur_setUnit, show State.cur { v with seq := k } = s.cur from hcur,
      State.unit_setUnit_same, State.setUnit_setUnit]
  · rw [hw']
  · exact Nat.le_trans hby.seq (hfail hf)
  · rw [← hnum v l, hnums l hl]
    refine congrArg (fun start => runOver _ upd start ls l) (funext fun m => ?_)
    exact hnum s₁ m
  · refine (hframe sl asid va fun l hl hc => hout l hl ?_).trans rfl
    rwa [State.sliceFor_setUnit hcore hctx, State.reqOf_setUnit hcore hctx] at hc

theorem exec_atom (s : State) (op : AtomOp) (h : Head) (f : MemF) (x : AtomF) :
    exec (op.mk h f x) s = .next (s.atomOp (op.mk h f x) h op f x) := by
  cases op <;> rfl

/-- What differs from a state by a unit, and by what hits change, is the same work. -/
theorem SameWork.of_outside {s v : State} {w w' : Wave} (k : Nat) (hv : v.outside = (s.setUnit s.cur w).outside) :
    SameWork s (({ v with seq := k } : State).setUnit s.cur w') := by
  refine ⟨fun u hu => ?_, ?_, (State.cores_of_outside hv : v.cores = _), (State.ctxs_of_outside hv : v.ctxs = _),
    (State.cur_of_outside hv : v.cur = _), congrArg (·.2.2.2.2.2) hv⟩
  · rw [State.unit_setUnit_other _ _ _ _ hu]
    exact (State.unit_of_outside hv u).trans (State.unit_setUnit_other _ _ _ _ hu)
  · change ({ v.work with units := v.work.units.set {} s.cur w' } : WorkState) = _
    rw [State.work_of_outside hv]
    rfl

/-- An atomic whose lanes all hit. -/
theorem exec_atom_of_hits {s : State} {op : AtomOp} {h : Head} {f : MemF} {x : AtomF} {req : Nat → LaneReq}
    {upd : Nat → Nat → Nat} {ls : List Nat} (hi : Issues s (op.mk h f x) h) (ha : AtomLanes s s.cur op f x req upd ls)
    (hreqs : (s.unit s.cur).atomReqs h op f x = ls.map req) :
    let w := s.unit s.cur
    let i := op.mk h f x
    let answers := ls.map fun l =>
      (l, wordsOf (leBytes (AtomLanes.answer s s.cur f.size.bytes req upd ls l) f.size.bytes))
    let p : Pend :=
      { seq := w.pendSeq, op := i, pc := w.pc.toNat, dst := if x.ret then f.data.toNat else 0
        n := if x.ret then f.size.regs else 0, reqs := ls.map req
        values := if (if x.ret then f.size.regs else 0) = 0 then [] else answers }
    let fails := (op = .cas && casFailed (ls.map req) f.size.bytes answers) = true
    ∃ t w', exec i s = .next t ∧ t.unit s.cur = w' ∧ Issued w w' i ∧ SameWork s t ∧ t.mem.phys = s.mem.phys ∧
      w'.pend = settledPend w.pend p ∧ (fails → s.seq ≤ w'.age) ∧ (¬fails → w'.age = w.age) ∧
      (∀ l ∈ ls, s.laneNumber t s.cur f.size.bytes req l =
        runOver (fun m => (req m).addr) upd (s.laneNumber s s.cur f.size.bytes req) ls l) ∧
      ∀ sl asid va, (∀ l ∈ ls, ¬(sl = s.sliceFor s.cur (req l).addr ∧
        asid = tagAsid (s.reqOf s.cur (req l).addr).asid (req l).addr ∧ (req l).addr ≤ va ∧
          va < (req l).addr + f.size.bytes)) → t.byteIn sl asid va = s.byteIn sl asid va := by
  intro w i answers p fails
  let w₀ : Wave := { w with held := false }
  let s₀ := s.setUnit s.cur w₀
  have hcore : w₀.core = (s.unit s.cur).core := rfl
  have hctx : w₀.ctx = (s.unit s.cur).ctx := rfl
  have hunit : s₀.unit s.cur = w₀ := State.unit_setUnit_same _ _ _
  have hnum (t : State) (l : Nat) : s₀.laneNumber t s.cur f.size.bytes req l = s.laneNumber t s.cur f.size.bytes req l :=
    State.laneNumber_setUnit (s := s) (w := w₀) hcore hctx l
  have hstart : s₀.laneNumber s₀ s.cur f.size.bytes req = s.laneNumber s s.cur f.size.bytes req :=
    funext fun l => hnum s₀ l
  have hanswer (l : Nat) : AtomLanes.answer s₀ s.cur f.size.bytes req upd ls l =
      AtomLanes.answer s s.cur f.size.bytes req upd ls l := by
    unfold AtomLanes.answer
    rw [hstart]
  have ha₀ : AtomLanes s₀ s₀.cur op f x req upd ls := ha.setUnit hcore hctx
  have hgood : (ls.map req).any (fun r => badAddr r.addr f.size.bytes) = false := by
    refine List.any_eq_false.mpr fun r hr => ?_
    obtain ⟨l, hl, rfl⟩ := List.mem_map.mp hr
    rw [badAddr_eq_false.mpr ⟨(ha.hits l hl).lt, ha.aligned l hl⟩]
    exact Bool.false_ne_true
  have hop : s.atomOp i h op f x = s₀.startAccess i (if x.ret then f.data.toNat else 0)
      (if x.ret then f.size.regs else 0) (ls.map req) := by
    rw [State.atomOp, State.issue_of_issues _ _ _ _ hi]
    dsimp only
    have hreqs₀ : Wave.atomReqs w₀ h op f x = ls.map req := hreqs
    rw [State.cur_setUnit, State.unit_setUnit_same, hreqs₀, hgood, if_neg Bool.false_ne_true]
  obtain ⟨v, k, w', hacc, hw', hfail, hpass, ⟨w'', hout⟩, hphys, hnums, hframe⟩ :=
    State.startAccess_of_hits (h := h) ha₀ (if x.ret then f.data.toNat else 0) (if x.ret then f.size.regs else 0)
  have hcur : s₀.cur = s.cur := rfl
  simp only [hcur, hanswer] at hacc hw' hfail hpass hnums hframe
  rw [hunit] at hw' hpass
  refine ⟨_, w', (exec_atom s op h f x).trans (congrArg Host.Outcome.next (hop.trans hacc)),
    State.unit_setUnit_same _ _ _, ?_, .of_outside k (w := w'') ?_, hphys, ?_, hfail, hpass, fun l hl => ?_,
    fun sl asid va hn => ?_⟩
  · refine ⟨?_, fun q hq => ?_⟩
    · rw [hw']
      rfl
    · rw [hw']
      exact mem_settledPend_of_ne hq
  · exact hout.trans (congrArg State.outside (State.setUnit_setUnit _ _ _ _))
  · rw [hw']
  · have hl := hnums l hl
    rwa [hnum, hstart] at hl
  · refine (hframe sl asid va fun l hl hc => hn l hl ?_).trans rfl
    rwa [State.sliceFor_setUnit hcore hctx, State.reqOf_setUnit hcore hctx] at hc

/-! ## The operations (spec 12 R187, R188) -/

section operations

variable {f : MemF} (hf : f.size = .b32 ∨ f.size = .b64)

include hf

theorem bytes_eq_of_size : f.size.bytes = 4 ∨ f.size.bytes = 8 := hf.imp (congrArg Size.bytes) (congrArg Size.bytes)

theorem regs_ne_zero_of_size : f.size.regs ≠ 0 := by
  rcases hf with h | h <;> rw [h] <;> decide

/-- The format of a float atomic has the bits of its size. -/
theorem ieee_of_size : (if decide (f.size = .b64) then fmt64 else fmt32).Ieee ∧
    (if decide (f.size = .b64) then fmt64 else fmt32).signBit + 1 = 8 * f.size.bytes := by
  rcases hf with h | h
  · rw [h]
    exact ⟨ieee_fmt32, rfl⟩
  · rw [h]
    exact ⟨ieee_fmt64, rfl⟩

/-- An atomic's new value fits in its size. -/
theorem atomNew_lt (op : AtomOp) (kind : Kind) {o a b : Nat} (ho : o < 2 ^ (8 * f.size.bytes))
    (ha : a < 2 ^ (8 * f.size.bytes)) (hb : b < 2 ^ (8 * f.size.bytes)) :
    atomNew op kind (f.size = .b64) o a b < 2 ^ (8 * f.size.bytes) := by
  obtain ⟨hieee, hbits⟩ := ieee_of_size hf
  have hmod (v : Nat) : v % 2 ^ (8 * f.size.bytes) < 2 ^ (8 * f.size.bytes) := Nat.mod_lt _ Nat.one_le_two_pow
  have hpick (p : Prop) [Decidable p] {v w : Nat} (hv : v < 2 ^ (8 * f.size.bytes)) (hw : w < 2 ^ (8 * f.size.bytes)) :
      (if p then v else w) < 2 ^ (8 * f.size.bytes) := by
    split
    · exact hv
    · exact hw
  unfold atomNew
  rw [bits_of_size hf]
  cases op with
  | add => exact hpick _ (hbits ▸ Fmt.add_lt hieee _ _ _) (hmod _)
  | sub => exact hmod _
  | min => exact hpick _ (hbits ▸ Fmt.minMax_lt hieee _ (hbits ▸ ho) (hbits ▸ ha)) (hpick _ ha ho)
  | max => exact hpick _ (hbits ▸ Fmt.minMax_lt hieee _ (hbits ▸ ho) (hbits ▸ ha)) (hpick _ ho ha)
  | and => exact Nat.and_lt_two_pow _ ha
  | or => exact Nat.or_lt_two_pow ho ha
  | xor => exact Nat.xor_lt_two_pow ho ha
  | exch => exact ha
  | cas => exact hpick _ hb ho
  | inc =>
    refine if h : a ≤ o then ?_ else ?_
    · dsimp only
      rw [if_pos h]
      exact Nat.one_le_two_pow
    · dsimp only
      rw [if_neg h]
      omega
  | dec => exact hpick _ ha (by omega)

/-- The comparison of an integer min or max. -/
def lessThan (kind : Kind) (bits a o : Nat) : Bool :=
  let si := fun v : Nat => if v / 2 ^ (bits - 1) % 2 = 1 then (v : Int) - 2 ^ bits else (v : Int)
  if kind = .signed then si a < si o else a < o

theorem atomNew_min (kind : Kind) (o a b : Nat) : atomNew .min kind (f.size = .b64) o a b =
    if kind = .float then ((if decide (f.size = .b64) then fmt64 else fmt32).minMax false o a).val
    else if lessThan kind (8 * f.size.bytes) a o then a else o := by
  unfold atomNew
  rw [bits_of_size hf]
  rfl

theorem atomNew_max (kind : Kind) (o a b : Nat) : atomNew .max kind (f.size = .b64) o a b =
    if kind = .float then ((if decide (f.size = .b64) then fmt64 else fmt32).minMax true o a).val
    else if lessThan kind (8 * f.size.bytes) a o then o else a := by
  unfold atomNew
  rw [bits_of_size hf]
  rfl

/-- A signed number is that of two's complement. -/
theorem signed_eq {v : Nat} (hv : v < 2 ^ (8 * f.size.bytes)) :
    (if v / 2 ^ (8 * f.size.bytes - 1) % 2 = 1 then (v : Int) - 2 ^ (8 * f.size.bytes) else (v : Int)) =
      if 2 ^ (8 * f.size.bytes - 1) ≤ v then (v : Int) - 2 ^ (8 * f.size.bytes) else v := by
  refine if_congr ?_ rfl rfl
  rcases bytes_eq_of_size hf with h | h
  · rw [h] at hv ⊢
    omega
  · rw [h] at hv ⊢
    omega

theorem lessThan_iff (kind : Kind) {a o : Nat} (ha : a < 2 ^ (8 * f.size.bytes)) (ho : o < 2 ^ (8 * f.size.bytes)) :
    lessThan kind (8 * f.size.bytes) a o = true ↔
      if kind = .signed then
        (if 2 ^ (8 * f.size.bytes - 1) ≤ a then (a : Int) - 2 ^ (8 * f.size.bytes) else a) <
          if 2 ^ (8 * f.size.bytes - 1) ≤ o then (o : Int) - 2 ^ (8 * f.size.bytes) else o
      else a < o := by
  rw [← signed_eq hf ha, ← signed_eq hf ho]
  unfold lessThan
  split <;> exact decide_eq_true_iff

end operations

/-! ## The requests of the lanes -/

/-- The a of a lane of an atomic as its request carries it, and the b. -/
def Wave.atomA (w : Wave) (op : AtomOp) (f : MemF) (x : AtomF) (l : Nat) : List Byte :=
  if x.imm && op ≠ .cas then leBytes (atomImm x (f.size = .b64)) f.size.bytes
  else w.bytesOf x.a.toNat l f.size.bytes
def Wave.atomB (w : Wave) (op : AtomOp) (f : MemF) (x : AtomF) (l : Nat) : List Byte :=
  if op = .cas then
    if x.imm then leBytes (atomImm x (f.size = .b64)) f.size.bytes else w.bytesOf x.b.toNat l f.size.bytes
  else List.replicate f.size.bytes 0

/-- The request of a lane of an atomic. -/
def Wave.atomReq (w : Wave) (op : AtomOp) (f : MemF) (x : AtomF) (l : Nat) : LaneReq :=
  { lane := l, addr := w.addrOf f.addr f.size.bytes l, data := w.atomA op f x l ++ w.atomB op f x l }

section requests

variable {w : Wave} {op : AtomOp} {f : MemF} {x : AtomF}

theorem Wave.atomReqs_eq (w : Wave) (h : Head) (op : AtomOp) (f : MemF) (x : AtomF) :
    w.atomReqs h op f x = (lanesOf (w.acting h)).map (w.atomReq op f x) := rfl

theorem Wave.length_bytesOf (w : Wave) (r l n : Nat) : (w.bytesOf r l n).length = n := by
  have hflat (rs : List Nat) : (rs.flatMap fun q => leBytes (w.reg q l).toNat 4).length = 4 * rs.length := by
    induction rs with
    | nil => rfl
    | cons r rs ih =>
      rw [List.flatMap_cons, List.length_append, leBytes_length, ih, List.length_cons]
      omega
  rw [Wave.bytesOf, List.length_take, hflat, regsFrom, List.length_map, List.length_range]
  omega

theorem Wave.length_atomA (l : Nat) : (w.atomA op f x l).length = f.size.bytes := by
  unfold Wave.atomA
  split
  · exact leBytes_length _ _
  · exact w.length_bytesOf _ _ _

theorem Wave.length_atomB (l : Nat) : (w.atomB op f x l).length = f.size.bytes := by
  unfold Wave.atomB
  split
  · split
    · exact leBytes_length _ _
    · exact w.length_bytesOf _ _ _
  · exact List.length_replicate

theorem Wave.take_atomReq (l : Nat) : (w.atomReq op f x l).data.take f.size.bytes = w.atomA op f x l :=
  List.take_left' (w.length_atomA l)

theorem Wave.drop_atomReq (l : Nat) : (w.atomReq op f x l).data.drop f.size.bytes = w.atomB op f x l :=
  List.drop_left' (w.length_atomA l)

theorem leNat_replicate_zero (n : Nat) : leNat (List.replicate n 0) = 0 := by
  induction n with
  | zero => rfl
  | succ n ih =>
    rw [List.replicate_succ, leNat, ih]
    rfl

theorem Wave.leNat_atomA (l : Nat) : leNat (w.atomA op f x l) =
    if x.imm && !decide (op = .cas) then atomImm x (f.size = .b64) % 2 ^ (8 * f.size.bytes)
    else leNat (w.bytesOf x.a.toNat l f.size.bytes) := by
  unfold Wave.atomA
  rw [decide_not]
  split
  · exact leNat_leBytes _ _
  · rfl

theorem Wave.leNat_atomB (l : Nat) : leNat (w.atomB op f x l) =
    if decide (op = .cas) then
      if x.imm then atomImm x (f.size = .b64) % 2 ^ (8 * f.size.bytes) else leNat (w.bytesOf x.b.toNat l f.size.bytes)
    else 0 := by
  unfold Wave.atomB
  simp only [decide_eq_true_eq]
  split
  · split
    · exact leNat_leBytes _ _
    · rfl
  · exact leNat_replicate_zero _

theorem lanesOf_pairwise (m : Mask) : (lanesOf m).Pairwise (· < ·) := List.pairwise_lt_range.filter _

/-- The lanes of an atomic all hit where each address may be read and written at a line of its home slice. -/
theorem AtomLanes.of_writes {s : State} {h : Head} (hf : f.size = .b32 ∨ f.size = .b64) {new : Nat → Nat → Nat → Nat}
    (hnew : ∀ o a b, o < 2 ^ (8 * f.size.bytes) → a < 2 ^ (8 * f.size.bytes) → b < 2 ^ (8 * f.size.bytes) →
      atomNew op x.kind (f.size = .b64) o a b = new o a b)
    (hw : ∀ l ∈ lanesOf ((s.unit s.cur).acting h),
      s.Writes s.cur ((s.unit s.cur).addrOf f.addr f.size.bytes l) f.size.bytes true ∧
        s.farPlace (s.sliceFor s.cur ((s.unit s.cur).addrOf f.addr f.size.bytes l))
          (tagAsid (s.reqOf s.cur ((s.unit s.cur).addrOf f.addr f.size.bytes l)).asid
            ((s.unit s.cur).addrOf f.addr f.size.bytes l))
          ((s.unit s.cur).addrOf f.addr f.size.bytes l) = none)
    (hs : ∀ sl, (s.slice sl).spilled = []) :
    AtomLanes s s.cur op f x ((s.unit s.cur).atomReq op f x)
      (fun m o => new o (leNat ((s.unit s.cur).atomA op f x m)) (leNat ((s.unit s.cur).atomB op f x m)))
      (lanesOf ((s.unit s.cur).acting h)) where
  sorted := lanesOf_pairwise _
  lane _ := rfl
  aligned l hl := (hw l hl).1.2.1
  hits l hl := by
    obtain ⟨⟨hlt, hal, hhome, hapart, line, hline, hlen, hwr, hrd⟩, hfar⟩ := hw l hl
    refine ⟨hlt, ?_, hhome, hapart rfl, hfar, line, hline, hlen, hwr, (hrd rfl).1, (hrd rfl).2⟩
    change (s.unit s.cur).addrOf f.addr f.size.bytes l % 128 + f.size.bytes ≤ 128
    rcases bytes_eq_of_size hf with h | h
    · rw [h] at hal ⊢
      omega
    · rw [h] at hal ⊢
      omega
  spilled := hs
  size := by
    rcases bytes_eq_of_size hf with h | h
    · omega
    · omega
  new l hl o ho := by
    have ha := leNat_lt ((s.unit s.cur).atomA op f x l)
    have hb := leNat_lt ((s.unit s.cur).atomB op f x l)
    rw [Wave.length_atomA] at ha
    rw [Wave.length_atomB] at hb
    rw [atomUpd, Wave.take_atomReq, Wave.drop_atomReq, ← hnew _ _ _ ho ha hb]
    exact ⟨rfl, atomNew_lt hf op x.kind ho ha hb⟩

end requests

/-- Settles O23: the lanes of each atomic all hit, so the pass over them is `exec_atom_of_hits`; what is left is each
operation's new value. -/
theorem atomicsReadModifyWrite : Obligations.AtomicsReadModifyWrite := by
  unfold Obligations.AtomicsReadModifyWrite
  intro s h f x w n wide ls at_ tag imm signed less fmt float law
  have hlaw (op : AtomOp) {mk : Head → MemF → AtomF → Instr} {cas : Bool} {new : Nat → Nat → Nat → Nat}
      (hmk : op.mk = mk) (hcas : decide (op = .cas) = cas)
      (hnew : (f.size = .b32 ∨ f.size = .b64) → ∀ o a b, o < 2 ^ (8 * n) → a < 2 ^ (8 * n) → b < 2 ^ (8 * n) →
        atomNew op x.kind (f.size = .b64) o a b = new o a b) : law mk cas new := by
    subst hmk hcas
    unfold law
    intro i a b value run hi hf hw hs
    have ha := AtomLanes.of_writes hf (hnew hf) hw hs
    have hA (l : Nat) : leNat (w.atomA op f x l) = a l := Wave.leNat_atomA l
    have hB (l : Nat) : leNat (w.atomB op f x l) = b l := Wave.leNat_atomB l
    have hrun (upto : List Nat) (l : Nat) : runOver (fun m => (w.atomReq op f x m).addr)
        (fun m o => new o (leNat (w.atomA op f x m)) (leNat (w.atomB op f x m)))
        (s.laneNumber s s.cur n (w.atomReq op f x)) upto l = run upto l := by
      simp only [hA, hB]
      rfl
    have hanswer (l : Nat) : AtomLanes.answer s s.cur f.size.bytes ((s.unit s.cur).atomReq op f x)
        (fun m o => new o (leNat ((s.unit s.cur).atomA op f x m)) (leNat ((s.unit s.cur).atomB op f x m)))
        (lanesOf ((s.unit s.cur).acting h)) l = run (ls.filter (· < l)) l := hrun _ l
    have hlt (upto : List Nat) (hu : ∀ m ∈ upto, m ∈ ls) (l : Nat) : run upto l < 2 ^ (8 * n) :=
      hrun upto l ▸ ha.runOver_lt hu l
    have hfails : (op = .cas && casFailed (ls.map (w.atomReq op f x)) n
        (ls.map fun l => (l, wordsOf (leBytes (run (ls.filter (· < l)) l) n)))) = true ↔
        decide (op = .cas) = true ∧ ∃ l ∈ ls, run (ls.filter (· < l)) l ≠ a l := by
      rw [Bool.and_eq_true, casFailed_iff hf (fun _ => rfl)
        (fun l _ => by rw [Wave.take_atomReq]; exact w.length_atomA l)
        fun l _ => hlt _ (fun m hm => List.mem_of_mem_filter hm) l]
      simp only [Wave.take_atomReq, hA]
    obtain ⟨t, w', hx, hw', hissued, hsame, hphys, hpend, hfail, hpass, hnums, hframe⟩ :=
      exec_atom_of_hits hi ha (w.atomReqs_eq h op f x)
    simp only [hanswer] at hpend hfail hpass
    refine ⟨t, w', hx, hw', hissued, hsame, hphys, fun hret hls => ?_, fun hret p hp => ?_,
      ⟨fun hf' => hfail (hfails.mpr hf'), fun hf' => hpass fun hc => hf' (hfails.mp hc)⟩, fun l hl => ?_,
      hframe⟩
    · have hsome : (if x.ret = true then f.size.regs else 0) ≠ 0 := by
        rw [if_pos hret]
        exact regs_ne_zero_of_size hf
      rw [hpend]
      exact ⟨_, mem_settledPend_self (by simpa only [if_neg hsome, ne_eq, List.map_eq_nil_iff] using hls), rfl, rfl,
        if_pos hret, if_pos hret, if_neg hsome⟩
    · have hnone : (if x.ret = true then f.size.regs else 0) = 0 := if_neg (hret ▸ Bool.false_ne_true)
      rw [hpend] at hp
      exact ne_of_mem_settledPend (if_pos hnone) hp
    · refine (hnums l hl).trans ((hrun ls l).trans (Nat.mod_eq_of_lt ?_).symm)
      exact hlt ls (fun _ hm => hm) l
  clear_value law
  have hpick (hf : f.size = .b32 ∨ f.size = .b64) {o a : Nat} (ho : o < 2 ^ (8 * n)) (ha : a < 2 ^ (8 * n)) (v v' : Nat) :
      (if lessThan x.kind (8 * n) a o then v else v') = if less a o then v else v' :=
    if_congr (lessThan_iff hf x.kind ha ho) rfl rfl
  refine ⟨hlaw .add rfl rfl fun hf o a b _ _ _ => ?_, hlaw .sub rfl rfl fun hf o a b _ _ _ => ?_,
    hlaw .min rfl rfl fun hf o a b ho ha _ => ?_, hlaw .max rfl rfl fun hf o a b ho ha _ => ?_,
    hlaw .and rfl rfl fun _ _ _ _ _ _ _ => rfl, hlaw .or rfl rfl fun _ _ _ _ _ _ _ => rfl,
    hlaw .xor rfl rfl fun _ _ _ _ _ _ _ => rfl, hlaw .exch rfl rfl fun _ _ _ _ _ _ _ => rfl,
    hlaw .cas rfl rfl fun _ _ _ _ _ _ _ => rfl, hlaw .inc rfl rfl fun _ _ _ _ _ _ _ => rfl,
    hlaw .dec rfl rfl fun _ o a _ _ _ _ => ?_⟩
  · unfold atomNew
    rw [bits_of_size hf]
  · unfold atomNew
    rw [bits_of_size hf]
  · rw [atomNew_min hf, hpick hf ho ha]
  · rw [atomNew_max hf, hpick hf ho ha]
  · exact if_congr (by simp) rfl rfl

end Sys2Proof.Machine
end

section
/-!
SUPPORT. The transform pipe: how its instructions and its decoders complete, the quotients of integers and the chunks of
the decoders (spec 23 R347, R349 to R351).
-/

namespace Sys2Proof.Machine

open Sys2Proof

/-! ## Results outstanding (spec 06 R102) -/

theorem maskOf_congr {p q : Nat → Bool} (h : ∀ l, l < 32 → p l = q l) : maskOf p = maskOf q := by
  unfold maskOf
  exact List.foldl_ext _ _ _ fun m l hl => by rw [h l (List.mem_range.mp hl)]

/-- A unit with results on their way, and flags. -/
def Wave.starting (w : Wave) (i : Instr) (d n : Nat) (values : List (Nat × List Word)) (flags : Word) : Wave :=
  { w.startResult i d n values with fflags := flags }

/-- A long-latency instruction that issues: its values on their way, and flags ORed in. -/
theorem State.lanesOp_startResult {s : State} {i : Instr} {h : Head} (hi : Issues s i h) (d n : Nat)
    (values : Wave → List (Nat × List Word)) (flags : Wave → Word)
    (hv : values { s.unit s.cur with held := false } = values (s.unit s.cur))
    (hf : flags { s.unit s.cur with held := false } = flags (s.unit s.cur)) :
    s.lanesOp i (fun w => w.starting i d n (values w) (flags w)) = s.setUnit s.cur
      { (s.unit s.cur).started i d n (values (s.unit s.cur)) with fflags := flags (s.unit s.cur) } := by
  rw [State.lanesOp_of_issues s i h _ hi, hv, hf]
  unfold Wave.starting Wave.startResult Wave.started
  split <;> rfl

theorem Wave.fflags_startResult (w : Wave) (i : Instr) (d n : Nat) (values : List (Nat × List Word)) :
    (w.startResult i d n values).fflags = w.fflags := by
  unfold Wave.startResult
  split <;> rfl

/-- A function of a lane that does not turn on whether its unit is held. -/
def Heldless {α : Type} (g : Wave → AluF → Nat → α) : Prop :=
  ∀ w f l b, g { w with held := b } f l = g w f l

theorem pipeOp_law {mk : Head → AluF → Instr} {g : Wave → AluF → Nat → Res} (hg : Heldless g)
    (hx : ∀ s h f, exec (mk h f) s = .next (pipeOp (mk h f) h f (fun w l => g w f l) s)) :
    LongLaw mk 1 (fun w _ f l => [BitVec.ofNat 32 (g w f l).val]) fun w _ f l => (g w f l).flags := by
  intro s h f hi
  rw [hx s h f]
  refine congrArg Host.Outcome.next ?_
  have hres (w : Wave) : w.laneRes h (fun w l => g w f l) = (lanesOf (w.acting h)).map fun l => (l, g w f l) := rfl
  have hvalues (w : Wave) : (w.laneRes h fun w l => g w f l).map (fun r => (r.1, [BitVec.ofNat 32 r.2.val])) =
      (lanesOf (w.acting h)).map fun l => (l, [BitVec.ofNat 32 (g w f l).val]) := by
    rw [hres, List.map_map]
    rfl
  have hflags (w : Wave) (m : Word) : (w.laneRes h fun w l => g w f l).foldl (fun m r => m ||| r.2.flags) m =
      (lanesOf (w.acting h)).foldl (fun m l => m ||| (g w f l).flags) m := by
    rw [hres, List.foldl_map]
  have hop : pipeOp (mk h f) h f (fun w l => g w f l) s = s.lanesOp (mk h f) fun w =>
      w.starting (mk h f) f.d.toNat 1 ((lanesOf (w.acting h)).map fun l => (l, [BitVec.ofNat 32 (g w f l).val]))
        ((lanesOf (w.acting h)).foldl (fun m l => m ||| (g w f l).flags) w.fflags) := by
    unfold pipeOp
    simp only [hvalues, hflags, Wave.fflags_startResult]
    rfl
  rw [hop]
  exact State.lanesOp_startResult hi _ _
    (fun w => (lanesOf (w.acting h)).map fun l => (l, [BitVec.ofNat 32 (g w f l).val]))
    (fun w => (lanesOf (w.acting h)).foldl (fun m l => m ||| (g w f l).flags) w.fflags)
    (List.map_congr_left fun l _ => by rw [hg]) (List.foldl_ext _ _ _ fun m l _ => by rw [hg])

/-- The words of a chunk, and its flags: a chunk that fails gives zeros. -/
def chunkWords (o : Option (List Res)) : List Word :=
  match o with
  | some rs => rs.map fun r => BitVec.ofNat 32 r.val
  | none => List.replicate 8 (0 : Word)
def chunkFlags (o : Option (List Res)) : Word :=
  match o with
  | some rs => rs.foldl (fun m r => m ||| r.flags) 0
  | none => 0

theorem foldl_or_flags (rs : List Res) (m : Word) :
    rs.foldl (fun m r => m ||| r.flags) m = m ||| rs.foldl (fun m r => m ||| r.flags) 0 := by
  induction rs generalizing m with
  | nil => simp
  | cons r rs ih =>
    rw [List.foldl_cons, List.foldl_cons, ih, ih (0 ||| r.flags),
      show (0 : Word) ||| r.flags = r.flags from BitVec.zero_or, BitVec.or_assoc]

/-- The active lanes whose chunks fail. -/
def lostLanes (g : Wave → AluF → Nat → Option (List Res)) (w : Wave) (h : Head) (f : AluF) (q : Nat) : Bool :=
  inMask (w.acting h) q && (g w f q).isNone

theorem lostLanes_held {g : Wave → AluF → Nat → Option (List Res)} (hg : Heldless g) (w : Wave) (h : Head) (f : AluF)
    (b : Bool) : lostLanes g { w with held := b } h f = lostLanes g w h f :=
  funext fun q => congrArg (fun o => inMask (w.acting h) q && Option.isNone o) (hg w f q b)

theorem decoderOp_law {mk : Head → AluF → Instr} {g : Wave → AluF → Nat → Option (List Res)} (hg : Heldless g)
    (hx : ∀ s h f, exec (mk h f) s = .next (decoderOp (mk h f) h f (fun w l => g w f l) s)) :
    LongLaw mk 9 (fun w h f l => chunkWords (g w f l) ++ [maskOf (lostLanes g w h f)])
      fun w _ f l => chunkFlags (g w f l) := by
  intro s h f hi
  rw [hx s h f]
  refine congrArg Host.Outcome.next ?_
  have hbad (w : Wave) : (maskOf fun l => ((lanesOf (w.acting h)).map fun l => (l, g w f l)).any fun o =>
      o.1 = l && o.2.isNone) = maskOf (lostLanes g w h f) := by
    refine maskOf_congr fun l hl => Bool.eq_iff_iff.mpr ?_
    simp only [List.any_map, List.any_eq_true, mem_lanesOf, Function.comp_apply, Bool.and_eq_true, decide_eq_true_eq,
      lostLanes]
    exact ⟨fun ⟨m, hm, hml, hn⟩ => hml ▸ ⟨hm.2, hn⟩, fun ⟨hm, hn⟩ => ⟨l, ⟨hl, hm⟩, rfl, hn⟩⟩
  have hone (o : Option (List Res)) (m : Word) :
      (match o with | some rs => rs.foldl (fun m r => m ||| r.flags) m | none => m) = m ||| chunkFlags o := by
    cases o with
    | none => exact BitVec.or_zero.symm
    | some rs => exact foldl_or_flags rs m
  have hop : decoderOp (mk h f) h f (fun w l => g w f l) s = s.lanesOp (mk h f) fun w =>
      w.starting (mk h f) f.d.toNat 9
        ((lanesOf (w.acting h)).map fun l => (l, chunkWords (g w f l) ++ [maskOf (lostLanes g w h f)]))
        ((lanesOf (w.acting h)).foldl (fun m l => m ||| chunkFlags (g w f l)) w.fflags) := by
    unfold decoderOp
    refine congrArg (s.lanesOp (mk h f)) (funext fun w => ?_)
    simp only [hbad, Wave.fflags_startResult, List.map_map, List.foldl_map]
    refine congrArg (w.starting (mk h f) f.d.toNat 9 _) (List.foldl_ext _ _ _ fun m l _ => ?_)
    exact hone (g w f l) m
  rw [hop]
  exact State.lanesOp_startResult hi _ _
    (fun w => (lanesOf (w.acting h)).map fun l => (l, chunkWords (g w f l) ++ [maskOf (lostLanes g w h f)]))
    (fun w => (lanesOf (w.acting h)).foldl (fun m l => m ||| chunkFlags (g w f l)) w.fflags)
    (List.map_congr_left fun l _ => by rw [hg, lostLanes_held hg])
    (List.foldl_ext _ _ _ fun m l _ => by rw [hg])

/-! ## Quotients of integers (spec 23 R349) -/

section idiv

/-- The integers of a type of 32 bits, of which each pattern stands for one. -/
theorem Ty.toInt_wrap {t : Ty} (ht : t = .n32 ∨ t = .i32) {v : Int} (hlo : t.minInt ≤ v) (hhi : v ≤ t.maxInt) :
    t.toInt (wrap 32 v) = v := by
  rcases ht with rfl | rfl
  · simp only [Ty.minInt, Ty.maxInt, Ty.signed, Ty.width, Ty.wide] at hlo hhi
    simp [Ty.toInt, Ty.signed, wrap] at hlo hhi ⊢
    omega
  · simp only [Ty.minInt, Ty.maxInt, Ty.signed, Ty.width, Ty.wide] at hlo hhi
    simp [Ty.toInt, Ty.signed, Ty.width, Ty.wide, wrap] at hlo hhi ⊢
    split <;> omega

theorem Ty.toInt_range {t : Ty} (ht : t = .n32 ∨ t = .i32) {a : Nat} (ha : a < 2 ^ 32) :
    t.minInt ≤ t.toInt a ∧ t.toInt a ≤ t.maxInt := by
  rcases ht with rfl | rfl
  · simp [Ty.minInt, Ty.maxInt, Ty.toInt, Ty.signed, Ty.width, Ty.wide]
    omega
  · simp [Ty.minInt, Ty.maxInt, Ty.toInt, Ty.signed, Ty.width, Ty.wide]
    split <;> omega

theorem wrap_lt (v : Int) : wrap 32 v < 2 ^ 32 := by
  unfold wrap
  omega

/-- A quotient of two integers of a type is one of the type, but for that of the least by -1. -/
theorem tdiv_range {t : Ty} (ht : t = .n32 ∨ t = .i32) {x y : Int} (hx : t.minInt ≤ x ∧ x ≤ t.maxInt)
    (hy : t.minInt ≤ y ∧ y ≤ t.maxInt) (hne : ¬(x = -2 ^ 31 ∧ y = -1)) :
    t.minInt ≤ x.tdiv y ∧ x.tdiv y ≤ t.maxInt := by
  have habs : (x.tdiv y).natAbs = x.natAbs / y.natAbs := Int.natAbs_tdiv x y
  have hle : x.natAbs / y.natAbs ≤ x.natAbs := Nat.div_le_self _ _
  rcases ht with rfl | rfl
  · have hmin : Ty.minInt .n32 = 0 := rfl
    have hnonneg := Int.tdiv_nonneg (hmin ▸ hx.1) (hmin ▸ hy.1)
    omega
  · have hmin : Ty.minInt .i32 = -2 ^ 31 := rfl
    have hmax : Ty.maxInt .i32 = 2 ^ 31 - 1 := rfl
    rw [hmin, hmax] at hx ⊢
    by_cases hbig : 2 ≤ y.natAbs
    · have hhalf : x.natAbs / y.natAbs ≤ x.natAbs / 2 := Nat.div_le_div_left hbig (by omega)
      omega
    · obtain rfl | rfl | rfl : y = 0 ∨ y = 1 ∨ y = -1 := by omega
      · rw [Int.tdiv_zero]
        omega
      · rw [Int.tdiv_one]
        exact hx
      · rw [Int.tdiv_neg, Int.tdiv_one]
        omega

/-- The rest of a truncated quotient is smaller than the divisor and has the sign of the dividend. -/
theorem rest_tdiv (x : Int) {y : Int} (hy : y ≠ 0) :
    |x - x.tdiv y * y| < |y| ∧ 0 ≤ (x - x.tdiv y * y) * x := by
  have hrest : x - x.tdiv y * y = x.tmod y := by rw [Int.tmod_def, Int.mul_comm]
  rw [hrest]
  constructor
  · rw [Int.abs_eq_natAbs, Int.abs_eq_natAbs, Int.natAbs_tmod]
    exact_mod_cast Nat.mod_lt _ (Int.natAbs_pos.mpr hy)
  · rcases Int.le_total 0 x with hx | hx
    · exact mul_nonneg (Int.tmod_nonneg y hx) hx
    · refine mul_nonneg_of_nonpos_of_nonpos ?_ hx
      have h := Int.tmod_nonneg y (Int.neg_nonneg_of_nonpos hx)
      rw [Int.neg_tmod] at h
      omega

/-- The quotient of two integers of a type, with the corner cases of R349. -/
theorem idiv_cases {t : Ty} (ht : t = .n32 ∨ t = .i32) {a b : Nat} (ha : a < 2 ^ 32) (hb : b < 2 ^ 32) :
    let x := t.toInt a
    let y := t.toInt b
    let r := idiv t a b
    (y = 0 → t = .n32 → r = { val := 0xFFFF_FFFF, flags := flagDZ }) ∧
    (y = 0 → t = .i32 → r = { val := if x < 0 then 0x8000_0000 else 0x7FFF_FFFF, flags := flagDZ }) ∧
    (y ≠ 0 → r.flags = 0 ∧ r.val < 2 ^ 32 ∧ ((x = -2 ^ 31 ∧ y = -1) → r.val = 0x8000_0000) ∧
      (¬(x = -2 ^ 31 ∧ y = -1) → |x - t.toInt r.val * y| < |y| ∧ 0 ≤ (x - t.toInt r.val * y) * x)) := by
  intro x y r
  refine ⟨fun hy h32 => ?_, fun hy h32 => ?_, fun hy => ?_⟩
  · subst h32
    exact if_pos hy
  · subst h32
    exact if_pos hy
  · have hr : r = { val := wrap 32 (x.tdiv y) } := if_neg hy
    rw [hr]
    refine ⟨rfl, wrap_lt _, fun ⟨hx, hy⟩ => ?_, fun hne => ?_⟩
    · rw [hx, hy]
      decide
    · obtain ⟨hlo, hhi⟩ := tdiv_range ht (Ty.toInt_range ht ha) (Ty.toInt_range ht hb) hne
      rw [Ty.toInt_wrap ht hlo hhi]
      exact rest_tdiv x hy

end idiv

/-! ## Chunks of run lengths (spec 23 R351) -/

section runs

theorem take_map_eq_range {α β : Type} (xs : List α) (d : α) (g : α → β) {p : Nat} (hp : p ≤ xs.length) :
    (xs.take p).map g = (List.range p).map fun k => g (xs.getD k d) := by
  refine List.ext_getElem (by simp [hp]) fun i hi _ => ?_
  rw [List.length_map, List.length_take] at hi
  rw [List.getElem_map, List.getElem_take, List.getElem_map, List.getElem_range, List.getD_eq_getElem _ _ (by omega)]

/-- Pairs of a byte and a length, expanded. -/
def expand (used : List (Nat × Nat)) : List Nat := used.flatMap fun q => List.replicate q.2 q.1

theorem length_expand (used : List (Nat × Nat)) : (expand used).length = (used.map Prod.snd).sum := by
  induction used with
  | nil => rfl
  | cons q used ih =>
    rw [expand, List.flatMap_cons, List.length_append, List.length_replicate, List.map_cons, List.sum_cons, ← ih]
    rfl

/-- The bytes at which a pair stands are its own. -/
theorem getD_expand (used : List (Nat × Nat)) {k j : Nat} (hk : k < used.length)
    (hlo : ((used.take k).map Prod.snd).sum ≤ j) (hhi : j < ((used.take (k + 1)).map Prod.snd).sum) :
    (expand used).getD j 0 = (used.getD k (0, 0)).1 := by
  induction used generalizing k j with
  | nil => cases hk
  | cons q used ih =>
    have hsplit : expand (q :: used) = List.replicate q.2 q.1 ++ expand used := rfl
    cases k with
    | zero =>
      simp only [List.take_succ_cons, List.take_zero, List.map_cons, List.map_nil, List.sum_cons, List.sum_nil] at hhi
      rw [hsplit, List.getD_append _ _ _ _ (by rw [List.length_replicate]; omega), List.getD_replicate _ (by omega)]
      rfl
    | succ k =>
      simp only [List.take_succ_cons, List.map_cons, List.sum_cons] at hlo hhi
      rw [hsplit, List.getD_append_right _ _ _ _ (by rw [List.length_replicate]; omega), List.length_replicate,
        ih (k := k) (by simpa using hk) (by omega) (by omega), List.getD_cons_succ]

theorem expand_lt {used : List (Nat × Nat)} (h : ∀ q ∈ used, q.1 < 256) (j : Nat) : (expand used).getD j 0 < 256 := by
  rw [List.getD_eq_getElem?_getD]
  rcases hj : (expand used)[j]? with _ | b
  · exact Nat.zero_lt_succ _
  · obtain ⟨q, hq, hb⟩ := List.mem_flatMap.mp (List.mem_of_getElem? hj)
    exact (List.eq_of_mem_replicate hb) ▸ h q hq

/-- A word of four bytes. -/
def wordOf (bs : List Nat) (i : Nat) : Nat :=
  (List.range 4).foldl (fun n j => n + bs.getD (4 * i + j) 0 * 2 ^ (8 * j)) 0

theorem wordOf_eq (bs : List Nat) (i : Nat) : wordOf bs i = bs.getD (4 * i) 0 + bs.getD (4 * i + 1) 0 * 256 +
    bs.getD (4 * i + 2) 0 * 65536 + bs.getD (4 * i + 3) 0 * 16777216 := by
  have hrange : List.range 4 = [0, 1, 2, 3] := rfl
  have h0 : 2 ^ (8 * 0) = 1 := rfl
  have h1 : 2 ^ (8 * 1) = 256 := rfl
  have h2 : 2 ^ (8 * 2) = 65536 := rfl
  have h3 : 2 ^ (8 * 3) = 16777216 := rfl
  rw [wordOf, hrange, List.foldl_cons, List.foldl_cons, List.foldl_cons, List.foldl_cons, List.foldl_nil, h0, h1, h2, h3,
    Nat.zero_add, Nat.mul_one, Nat.add_zero]

/-- The words of 32 bytes hold each in its place. -/
theorem packWords_bytes {bs : List Nat} (h : ∀ j, bs.getD j 0 < 256) :
    (packWords bs).length = 8 ∧ (∀ r ∈ packWords bs, r.flags = 0 ∧ r.val < 2 ^ 32) ∧
      ∀ j, j < 32 → ((packWords bs).getD (j / 4) { val := 0 }).val / 2 ^ (8 * (j % 4)) % 256 = bs.getD j 0 := by
  have hpack : packWords bs = (List.range 8).map fun i => { val := wordOf bs i } := rfl
  refine ⟨by simp [hpack], fun r hr => ?_, fun j hj => ?_⟩
  · rw [hpack] at hr
    obtain ⟨i, -, rfl⟩ := List.mem_map.mp hr
    have h0 := h (4 * i)
    have h1 := h (4 * i + 1)
    have h2 := h (4 * i + 2)
    have h3 := h (4 * i + 3)
    refine ⟨rfl, ?_⟩
    dsimp only
    rw [wordOf_eq]
    omega
  · have hword : ((packWords bs).getD (j / 4) { val := 0 }).val = wordOf bs (j / 4) := by
      rw [hpack, List.getD_eq_getElem _ _ (by simp; omega), List.getElem_map, List.getElem_range]
    have h0 := h (4 * (j / 4))
    have h1 := h (4 * (j / 4) + 1)
    have h2 := h (4 * (j / 4) + 2)
    have h3 := h (4 * (j / 4) + 3)
    rw [hword, wordOf_eq]
    conv_rhs => rw [← Nat.div_add_mod j 4]
    obtain hm | hm | hm | hm : j % 4 = 0 ∨ j % 4 = 1 ∨ j % 4 = 2 ∨ j % 4 = 3 := by omega
    · rw [hm, show 4 * (j / 4) + 0 = 4 * (j / 4) from rfl]
      omega
    all_goals
      rw [hm]
      omega

/-- A chunk of run lengths: where it fails, and the bytes that it gives. -/
theorem decRle_cases {pairs : List (Nat × Nat)} {p : Nat} (hlen : pairs.length = 8) (hbyte : ∀ q ∈ pairs, q.1 < 256) :
    let len := fun k => (pairs.getD k (0, 0)).2
    let before := fun k => ((List.range k).map len).sum
    (decRle pairs p = none ↔ 8 < p ∨ (∃ k, k < p ∧ len k = 0) ∨ 32 < before p) ∧
    ∀ rs, decRle pairs p = some rs → rs.length = 8 ∧ (∀ r ∈ rs, r.flags = 0 ∧ r.val < 2 ^ 32) ∧
      ∀ j, j < 32 →
        (∀ k, k < p → before k ≤ j → j < before (k + 1) →
          (rs.getD (j / 4) { val := 0 }).val / 2 ^ (8 * (j % 4)) % 256 = (pairs.getD k (0, 0)).1) ∧
        (before p ≤ j → (rs.getD (j / 4) { val := 0 }).val / 2 ^ (8 * (j % 4)) % 256 = 0) := by
  intro len before
  have hsum {k : Nat} (hk : k ≤ 8) : ((pairs.take k).map Prod.snd).sum = before k :=
    congrArg List.sum (take_map_eq_range pairs (0, 0) Prod.snd (hlen ▸ hk))
  have hzero (hp : p ≤ 8) : ((pairs.take p).any fun q => q.2 = 0) = true ↔ ∃ k, k < p ∧ len k = 0 := by
    have hmap := take_map_eq_range pairs (0, 0) Prod.snd (hlen ▸ hp)
    have hany : ((pairs.take p).any fun q => q.2 = 0) = true ↔ 0 ∈ (pairs.take p).map Prod.snd := by
      simp only [List.any_eq_true, decide_eq_true_eq, List.mem_map]
    rw [hany, hmap, List.mem_map]
    simp only [List.mem_range]
    rfl
  have hfails : (p > 8 || ((pairs.take p).any fun q => q.2 = 0) || (expand (pairs.take p)).length > 32) = true ↔
      8 < p ∨ (∃ k, k < p ∧ len k = 0) ∨ 32 < before p := by
    by_cases hp : 8 < p
    · simp [hp]
    · rw [Bool.or_eq_true, Bool.or_eq_true, hzero (by omega), length_expand, hsum (by omega), decide_eq_true_eq,
        decide_eq_true_eq]
      exact or_assoc
  have hdec : decRle pairs p = if p > 8 || ((pairs.take p).any fun q => q.2 = 0) || (expand (pairs.take p)).length > 32
      then none else some (packWords (expand (pairs.take p))) := rfl
  rw [hdec]
  refine ⟨?_, fun rs hrs => ?_⟩
  · rw [← hfails]
    split
    next hc => exact ⟨fun _ => hc, fun _ => rfl⟩
    next hc => exact ⟨nofun, fun h => absurd h hc⟩
  · split at hrs
    next => cases hrs
    next hc =>
      obtain ⟨hp, hsmall⟩ : p ≤ 8 ∧ before p ≤ 32 := by
        have hnot := fun h => hc (hfails.mpr h)
        exact ⟨Nat.le_of_not_lt fun h => hnot (.inl h), Nat.le_of_not_lt fun h => hnot (.inr (.inr h))⟩
      cases hrs
      have hused : (pairs.take p).length = p := by rw [List.length_take, hlen]; omega
      obtain ⟨hwords, hflags, hbytes⟩ := packWords_bytes (bs := expand (pairs.take p))
        (expand_lt fun q hq => hbyte q (List.mem_of_mem_take hq))
      refine ⟨hwords, hflags, fun j hj => ⟨fun k hk hlo hhi => ?_, fun hlo => ?_⟩⟩
      · have htake (m : Nat) (hm : m ≤ p) : (((pairs.take p).take m).map Prod.snd).sum = before m := by
          rw [List.take_take, Nat.min_eq_left hm, hsum (Nat.le_trans hm hp)]
        rw [hbytes j hj, getD_expand _ (hused.symm ▸ hk) (by rwa [htake k (by omega)]) (by rwa [htake (k + 1) hk]),
          List.getD_eq_getElem _ _ (by omega), List.getElem_take, List.getD_eq_getElem _ _ (by omega)]
      · rw [hbytes j hj, List.getD_eq_default _ _ (by rwa [length_expand, hsum hp])]

end runs

/-! ## Chunks of bit fields (spec 23 R351) -/

/-- A field of a stream, sign-extended where asked. -/
def extended (sgn : Bool) (v w : Nat) : Nat :=
  if sgn && v / 2 ^ (w - 1) % 2 = 1 then wrap 32 ((v : Int) - 2 ^ w) else v

theorem extended_eq {v w : Nat} (hv : v < 2 ^ w) (hlo : w ≠ 0) (hhi : w ≤ 8) (sgn : Bool) :
    extended sgn v w = if sgn ∧ 2 ^ (w - 1) ≤ v then 2 ^ 32 - 2 ^ w + v else v := by
  unfold extended
  obtain ⟨k, rfl⟩ : ∃ k, w = k + 1 := ⟨w - 1, by omega⟩
  have hpow : 2 ^ (k + 1) = 2 * 2 ^ k := Nat.pow_succ'
  have hsmall : 2 ^ (k + 1) ≤ 2 ^ 8 := Nat.pow_le_pow_right (by decide) hhi
  have hcast : ((2 : Int) ^ (k + 1)) = ((2 ^ (k + 1) : Nat) : Int) := by push_cast; rfl
  have hhigh : v / 2 ^ k % 2 = 1 ↔ 2 ^ k ≤ v := by
    have hdiv : v / 2 ^ k < 2 := Nat.div_lt_of_lt_mul (by omega)
    have hge : 1 ≤ v / 2 ^ k ↔ 2 ^ k ≤ v := by rw [Nat.le_div_iff_mul_le (Nat.two_pow_pos k), Nat.one_mul]
    generalize v / 2 ^ k = d at hdiv hge ⊢
    omega
  rw [Nat.add_sub_cancel, hcast]
  refine if_ctx_congr ?_ (fun _ => ?_) fun _ => rfl
  · rw [Bool.and_eq_true, decide_eq_true_eq, hhigh]
  · unfold wrap
    omega

/-- A chunk of bit fields: where it fails, and the fields that it gives. -/
theorem decBits_cases (stream b : Nat) :
    let w := b % 2 ^ 8
    let o := b / 2 ^ 16 % 2 ^ 6
    (decBits stream b = none ↔ w = 0 ∨ 8 < w ∨ 64 < o + 8 * w ∨ b / 2 ^ 9 % 2 ^ 7 ≠ 0 ∨ b / 2 ^ 22 ≠ 0) ∧
    ∀ rs, decBits stream b = some rs → rs.length = 8 ∧ ∀ i, i < 8 →
      rs[i]? = some { val := if b.testBit 8 ∧ 2 ^ (w - 1) ≤ stream / 2 ^ (o + i * w) % 2 ^ w then
        2 ^ 32 - 2 ^ w + stream / 2 ^ (o + i * w) % 2 ^ w else stream / 2 ^ (o + i * w) % 2 ^ w } := by
  intro w o
  have hfails : (w = 0 || w > 8 || o + 8 * w > 64 || b / 2 ^ 9 % 2 ^ 7 ≠ 0 || b / 2 ^ 22 ≠ 0) = true ↔
      w = 0 ∨ 8 < w ∨ 64 < o + 8 * w ∨ b / 2 ^ 9 % 2 ^ 7 ≠ 0 ∨ b / 2 ^ 22 ≠ 0 := by
    simp only [Bool.or_eq_true, decide_eq_true_eq, or_assoc]
  have hdec : decBits stream b =
      if w = 0 || w > 8 || o + 8 * w > 64 || b / 2 ^ 9 % 2 ^ 7 ≠ 0 || b / 2 ^ 22 ≠ 0 then none
      else some ((List.range 8).map fun i =>
        { val := extended (b / 2 ^ 8 % 2 = 1) (stream / 2 ^ (o + i * w) % 2 ^ w) w }) := rfl
  have hbit : decide (b / 2 ^ 8 % 2 = 1) = b.testBit 8 := Nat.testBit_eq_decide_div_mod_eq.symm
  rw [hdec]
  refine ⟨?_, fun rs hrs => ?_⟩
  · rw [← hfails]
    split
    next hc => exact ⟨fun _ => hc, fun _ => rfl⟩
    next hc => exact ⟨nofun, fun h => absurd h hc⟩
  · split at hrs
    next => cases hrs
    next hc =>
      have hw : w ≠ 0 ∧ w ≤ 8 := by
        have hnot := fun h => hc (hfails.mpr h)
        exact ⟨fun h => hnot (.inl h), Nat.le_of_not_lt fun h => hnot (.inr (.inl h))⟩
      cases hrs
      refine ⟨by rw [List.length_map, List.length_range], fun i hi => ?_⟩
      rw [List.getElem?_map, List.getElem?_range hi, Option.map_some,
        extended_eq (Nat.mod_lt _ (Nat.two_pow_pos w)) hw.1 hw.2, hbit]

/-! ## Chunks of scaled E2M1 codes (spec 23 R351) -/

section fp4

/-- The patterns above the largest finite one are those of NaNs and infinities. -/
theorem special_unpack (f : Fmt) (n : Nat) :
    ((f.unpack n).isNaN || (f.unpack n).isInf) = true ↔ f.maxFin < n % 2 ^ f.signBit := by
  unfold Fmt.unpack
  dsimp only
  split
  next h =>
    refine ⟨fun _ => h, fun _ => ?_⟩
    split
    · split <;> rfl
    · rfl
  next h =>
    refine ⟨fun hs => ?_, fun hs => absurd hs h⟩
    split at hs <;> cases hs

theorem isInf_unpack {f : Fmt} (hf : f.hasInf = false) (n : Nat) : (f.unpack n).isInf = false := by
  unfold Fmt.unpack
  dsimp only
  rw [hf]
  split
  · rfl
  · split <;> rfl

theorem decFp4_eq_none_iff (a b : Nat) :
    decFp4 a b = none ↔ b % 2 ^ 8 = 0xFF ∨ b / 2 ^ 23 % 2 ^ 8 = 0xFF ∨ b / 2 ^ 8 % 2 ^ 8 ≠ 0 := by
  have hblock : (unpackScale b).isNaN = true ↔ b % 2 ^ 8 = 0xFF := by
    have h := special_unpack fmtE3M5 (b % 256)
    rw [isInf_unpack rfl, Bool.or_false] at h
    refine h.trans ?_
    change 0xFE < b % 256 % 2 ^ 8 ↔ _
    omega
  have hband : ((fmtB16.unpack (b / 2 ^ 16)).isNaN || (fmtB16.unpack (b / 2 ^ 16)).isInf) = true ↔
      b / 2 ^ 23 % 2 ^ 8 = 0xFF := by
    refine (special_unpack fmtB16 (b / 2 ^ 16)).trans ?_
    change 0x7F7F < b / 2 ^ 16 % 2 ^ 15 ↔ _
    omega
  have hdec : decFp4 a b = if (unpackScale b).isNaN || (fmtB16.unpack (b / 2 ^ 16)).isNaN ||
      (fmtB16.unpack (b / 2 ^ 16)).isInf || b / 2 ^ 8 % 256 ≠ 0 then none
      else some ((List.range 8).map fun i =>
        decFp4One (fmtE2M1.unpack (a / 2 ^ (4 * i) % 16)) (unpackScale b) (fmtB16.unpack (b / 2 ^ 16))) := rfl
  rw [hdec, Bool.or_assoc (unpackScale b).isNaN]
  split
  next hc =>
    rw [Bool.or_eq_true, Bool.or_eq_true, hblock, hband, decide_eq_true_eq, or_assoc] at hc
    exact ⟨fun _ => hc, fun _ => rfl⟩
  next hc =>
    rw [Bool.or_eq_true, Bool.or_eq_true, hblock, hband, decide_eq_true_eq, or_assoc] at hc
    exact ⟨nofun, fun h => absurd h hc⟩

/-- The products of a chunk that does not fail. -/
theorem decFp4_some {a b : Nat} {rs : List Res} (h : decFp4 a b = some rs) :
    rs.length = 8 ∧ ∀ i, i < 8 → rs[i]? = some (decFp4One (fmtE2M1.unpack (a / 2 ^ (4 * i) % 16))
      (unpackScale b) (fmtB16.unpack (b / 2 ^ 16))) := by
  simp only [decFp4] at h
  split at h
  · cases h
  · cases h
    refine ⟨by rw [List.length_map, List.length_range], fun i hi => ?_⟩
    rw [List.getElem?_map, List.getElem?_range hi, Option.map_some]

end fp4

/-! ## Special operands (spec 23 R348) -/

section special

/-- A number with a bit set. -/
theorem or_two_pow (a k : Nat) : a ||| 2 ^ k = 2 ^ (k + 1) * (a / 2 ^ (k + 1)) + 2 ^ k + a % 2 ^ k := by
  have hlow : a % 2 ^ k < 2 ^ k := Nat.mod_lt _ (Nat.two_pow_pos k)
  have hbit : a / 2 ^ k % 2 ||| 1 = 1 := by
    rcases Nat.mod_two_eq_zero_or_one (a / 2 ^ k) with h | h <;> rw [h] <;> rfl
  have hodd : a / 2 ^ k ||| 1 = 2 * (a / 2 ^ k / 2) + 1 := by
    conv_lhs => rw [← Nat.div_add_mod (a / 2 ^ k) 2]
    rw [← pow_one 2, Nat.two_pow_add_eq_or_of_lt (by omega), Nat.or_assoc, pow_one, hbit]
    exact (Nat.two_pow_add_eq_or_of_lt (i := 1) (by decide) _).symm
  calc a ||| 2 ^ k = (2 ^ k * (a / 2 ^ k) ||| a % 2 ^ k) ||| 2 ^ k * 1 := by
        rw [← Nat.two_pow_add_eq_or_of_lt hlow, Nat.div_add_mod, Nat.mul_one]
    _ = 2 ^ k * (a / 2 ^ k ||| 1) ||| a % 2 ^ k := by
        rw [Nat.or_right_comm, Nat.mul_comm, Nat.mul_comm (2 ^ k) 1, Nat.mul_comm (2 ^ k) (_ ||| _), ← Nat.shiftLeft_eq,
          ← Nat.shiftLeft_eq, ← Nat.shiftLeft_eq, Nat.shiftLeft_or_distrib]
    _ = _ := by
        rw [← Nat.two_pow_add_eq_or_of_lt hlow, hodd, Nat.div_div_eq_div_mul, ← Nat.pow_succ]
        ring

/-- A pattern of FP32, by the fields of which it is made. -/
theorem unpack32_eq (a : Nat) : fmt32.unpack a =
    if 0x7F7F_FFFF < a % 2 ^ 31 then
      if a % 2 ^ 31 % 2 ^ 23 = 0 then .inf (a / 2 ^ 31 % 2 = 1)
      else .nan (a / 2 ^ 31 % 2 = 1) (a % 2 ^ 31 % 2 ^ 23) (a % 2 ^ 31 % 2 ^ 23 / 2 ^ 22 % 2 = 1)
    else if a % 2 ^ 31 / 2 ^ 23 = 0 then .fin (a / 2 ^ 31 % 2 = 1) (a % 2 ^ 31 % 2 ^ 23) (-149)
    else .fin (a / 2 ^ 31 % 2 = 1) (2 ^ 23 + a % 2 ^ 31 % 2 ^ 23) ((a % 2 ^ 31 / 2 ^ 23 : Nat) - 127 - 23) := rfl

/-- The NaN that a NaN operand gives is its own pattern, quiet. -/
theorem qnan_of_unpack {a : Nat} (ha : a < 2 ^ 32) (hn : (fmt32.unpack a).isNaN = true) :
    ∃ s fr q, fmt32.unpack a = .nan s fr q ∧ fmt32.qnan s fr = a ||| 2 ^ 22 := by
  rw [unpack32_eq] at hn ⊢
  split at hn
  next hbig =>
    split at hn
    next => cases hn
    next hfrac =>
      rw [if_pos hbig, if_neg hfrac]
      refine ⟨_, _, _, rfl, ?_⟩
      rw [or_two_pow]
      change (if decide (a / 2 ^ 31 % 2 = 1) = true then 2 ^ 31 + (255 * 2 ^ 23 + 2 ^ 22 + a % 2 ^ 31 % 2 ^ 23 % 2 ^ 22)
        else 255 * 2 ^ 23 + 2 ^ 22 + a % 2 ^ 31 % 2 ^ 23 % 2 ^ 22) = _
      split
      next hs =>
        have := of_decide_eq_true hs
        omega
      next hs =>
        have := of_decide_eq_false (Bool.eq_false_iff.mpr hs)
        omega
  next => split at hn <;> cases hn

/-- The functions that a negative operand makes invalid. -/
theorem invalid_of_negative {a : Nat} (hlo : 0x8000_0000 < a) (hhi : a ≤ 0xFF80_0000) :
    ∀ g ∈ [trsq, tsqrt, tlog2], g a = { val := 0x7FC0_0005, flags := flagNV } := by
  have hunpack : fmt32.unpack a = .inf true ∨ ∃ m e, fmt32.unpack a = .fin true m e ∧ m ≠ 0 := by
    have hsign : decide (a / 2 ^ 31 % 2 = 1) = true := decide_eq_true (by omega)
    rw [unpack32_eq, hsign]
    split
    · exact .inl (if_pos (by omega))
    · split
      · exact .inr ⟨_, _, rfl, by omega⟩
      · exact .inr ⟨_, _, rfl, by omega⟩
  have hcase (g : Nat → Res) (hinf : fmt32.unpack a = .inf true → g a = { val := 0x7FC0_0005, flags := flagNV })
      (hfin : ∀ m e, fmt32.unpack a = .fin true m e → m ≠ 0 → g a = { val := 0x7FC0_0005, flags := flagNV }) :
      g a = { val := 0x7FC0_0005, flags := flagNV } := by
    rcases hunpack with h | ⟨m, e, h, hm⟩
    · exact hinf h
    · exact hfin m e h hm
  have hnone (x : Fl) (hx : x.isNaN = false) : fmt32.nanOf [x] = none := by
    cases x with
    | nan => cases hx
    | inf => rfl
    | fin => rfl
  intro g hg
  refine hcase g (fun h => ?_) fun m e h hm => ?_
  · simp only [List.mem_cons, List.not_mem_nil, or_false] at hg
    rcases hg with rfl | rfl | rfl
    · simp only [trsq, h, hnone (.inf true) rfl, Option.getD_none]
      rfl
    · simp only [tsqrt, h, hnone (.inf true) rfl, Option.getD_none]
      rfl
    · simp only [tlog2, h, hnone (.inf true) rfl, Option.getD_none]
      rfl
  · simp only [List.mem_cons, List.not_mem_nil, or_false] at hg
    rcases hg with rfl | rfl | rfl
    · simp only [trsq, h, hnone (.fin true m e) rfl, Option.getD_none, if_neg hm, if_true]
      rfl
    · simp only [tsqrt, h, hnone (.fin true m e) rfl, Option.getD_none, if_neg hm, if_true]
      rfl
    · simp only [tlog2, h, hnone (.fin true m e) rfl, Option.getD_none, if_neg hm, if_true]
      rfl

/-- Every function of the pipe that takes a NaN gives it, quiet. -/
theorem quiet_of_nan {a : Nat} (ha : a < 2 ^ 32) (hn : (fmt32.unpack a).isNaN = true) :
    ∀ g ∈ [trcp, trsq, tsqrt, texp2, tlog2, tsin, tcos, fun a => tdiv a 0, fun a => tdiv 0 a],
      g a = { val := a ||| 2 ^ 22, flags := flagIf (fmt32.unpack a).signalling flagNV } := by
  obtain ⟨s, fr, q, h, hval⟩ := qnan_of_unpack ha hn
  have hone : fmt32.nanOf [.nan s fr q] = some { val := a ||| 2 ^ 22, flags := flagIf (!q) flagNV } := by
    rw [← hval]
    cases q <;> rfl
  have hleft (b : Nat) (hb : (fmt32.unpack b).signalling = false) : tdiv a b =
      { val := a ||| 2 ^ 22, flags := flagIf (!q) flagNV } := by
    have hops : fmt32.nanOf [.nan s fr q, fmt32.unpack b] = some { val := a ||| 2 ^ 22, flags := flagIf (!q) flagNV } := by
      rw [← hval]
      change some ({ val := fmt32.qnan s fr
                     flags := flagIf (!q || ((fmt32.unpack b).signalling || false)) flagNV } : Res) = _
      rw [hb, Bool.or_false, Bool.or_false]
    simp only [tdiv, h, hops, Option.getD_some]
  have hright (b : Nat) {t : Bool} {m : Nat} {e : Int} (hb : fmt32.unpack b = .fin t m e) : tdiv b a =
      { val := a ||| 2 ^ 22, flags := flagIf (!q) flagNV } := by
    have hops : fmt32.nanOf [fmt32.unpack b, .nan s fr q] = some { val := a ||| 2 ^ 22, flags := flagIf (!q) flagNV } := by
      rw [← hval, hb]
      simp [Fmt.nanOf, Fmt.nanOf.go, Fl.signalling]
    simp only [tdiv, h, hops, Option.getD_some]
  rw [h, show (Fl.nan s fr q).signalling = !q from rfl]
  simp only [List.forall_mem_cons, List.not_mem_nil, false_implies, implies_true, and_true]
  have hunit : fmt32.unpack one32 = .fin false 8388608 (-23) := by decide +kernel
  have hzero : fmt32.unpack 0 = .fin false 0 (-149) := by decide +kernel
  refine ⟨hright one32 hunit, ?_, ?_, ?_, ?_, ?_, ?_, hleft 0 (by rw [hzero]; rfl), hright 0 hzero⟩
  · simp only [trsq, h, hone, Option.getD_some]
  · simp only [tsqrt, h, hone, Option.getD_some]
  · simp only [texp2, h, hone, Option.getD_some]
  · simp only [tlog2, h, hone, Option.getD_some]
  · simp only [tsin, h, hone, Option.getD_some]
  · simp only [tcos, h, hone, Option.getD_some]

end special

/-- The results that R348 names for single operands. -/
theorem special_operands :
    (let inf := 0x7F80_0000
     let neg := 0x8000_0000
     let bad : Res := { val := 0x7FC0_0005, flags := flagNV }
     let dz := fun n : Nat => ({ val := n, flags := flagDZ } : Res)
     let is := fun n : Nat => ({ val := n } : Res)
     (trcp 0 = dz inf ∧ trcp neg = dz (inf + neg) ∧ trcp inf = is 0 ∧ trcp (inf + neg) = is neg ∧
       trcp 0x4040_0000 = { val := 0x3EAA_AAAB, flags := flagNX } ∧
       trsq 0 = dz inf ∧ trsq neg = dz (inf + neg) ∧ trsq inf = is 0 ∧ tsqrt 0 = is 0 ∧ tsqrt neg = is neg ∧
       tsqrt inf = is inf ∧ texp2 (inf + neg) = is 0 ∧ texp2 inf = is inf ∧ texp2 0x4040_0000 = is 0x4100_0000 ∧
       tlog2 0 = dz (inf + neg) ∧ tlog2 neg = dz (inf + neg) ∧ tlog2 0x3F80_0000 = is 0 ∧ tlog2 inf = is inf ∧
       tlog2 0x3E80_0000 = is 0xC000_0000 ∧ tsin 0 = is 0 ∧ tsin neg = is neg ∧ tcos 0 = is 0x3F80_0000) ∧
     (∀ g ∈ [tsin, tcos], ∀ a ∈ [inf, inf + neg], g a = bad) ∧
     ∀ s t, tdiv (fmt32.signed s 0) (fmt32.signed t 0) = bad ∧
       tdiv (fmt32.signed s inf) (fmt32.signed t inf) = bad) := by
  decide +kernel

end Sys2Proof.Machine
end

section
/-!
SUPPORT. Rounding to FP32, to nearest with ties to even, of a number that a dyadic one stands for: its result among the
values of the format, its flags, and where it overflows (spec 10 R156).
-/

namespace Sys2Proof

/-! ## The nearest multiple of a unit -/

/-- A number is rounded to a multiple of a unit, to nearest with ties to even. -/
structure Nearest (x : ℝ) (n : Nat) (u : ℝ) : Prop where
  lo : n * u - u / 2 ≤ x
  hi : x ≤ n * u + u / 2
  even : x = n * u + u / 2 ∨ x = n * u - u / 2 → n % 2 = 0

/-- A number that a dyadic one stands for: it is that number, or it lies next to it, at an odd last place, with at least
26 places above. -/
def Sticky (x : ℝ) (m : Nat) (e : Int) : Prop :=
  x = m * 2 ^ e ∨ m % 2 = 1 ∧ 2 ^ 26 ≤ m ∧ ((m : ℝ) - 1) * 2 ^ e < x ∧ x < (m + 1) * 2 ^ e

section nearest

variable {x u : ℝ} {n : Nat}

theorem Nearest.of_eq (hu : 0 < u) (h : x = n * u) : Nearest x n u where
  lo := by linarith
  hi := by linarith
  even := by
    rintro (h' | h') <;> linarith

theorem Nearest.scale {v : ℝ} (hv : 0 < v) (h : Nearest x n u) : Nearest (x * v) n (u * v) where
  lo := by
    have := mul_le_mul_of_nonneg_right h.lo hv.le
    linarith
  hi := by
    have := mul_le_mul_of_nonneg_right h.hi hv.le
    linarith
  even := by
    have hcancel {a : ℝ} (ha : x * v = a * v) : x = a := mul_right_cancel₀ hv.ne' ha
    rintro (h' | h')
    · exact h.even (.inl (hcancel (by linarith)))
    · exact h.even (.inr (hcancel (by linarith)))

/-- The nearest multiple, of those up to a number of units that is even, is that one from half a unit below it on. -/
theorem Nearest.eq_iff (hu : 0 < u) (h : Nearest x n u) {top : Nat} (hn : n ≤ top) (ht : top % 2 = 0) :
    n = top ↔ ((top : ℝ) - 1 / 2) * u ≤ x := by
  constructor
  · rintro rfl
    have := h.lo
    linarith
  · intro hx
    by_contra hne
    have hlt : n + 1 ≤ top := by omega
    have hcast : (n : ℝ) + 1 ≤ top := by exact_mod_cast hlt
    have hmul := mul_le_mul_of_nonneg_right hcast hu.le
    have hhi := h.hi
    have heq : x = n * u + u / 2 := by linarith
    have hodd := h.even (.inl heq)
    have htop : ((top : ℝ) - (n + 1)) * u ≤ 0 := by linarith
    have hle : (top : ℝ) ≤ n + 1 := by
      by_contra hgt
      have : 0 < ((top : ℝ) - (n + 1)) * u := mul_pos (by linarith) hu
      linarith
    have : top ≤ n + 1 := by exact_mod_cast hle
    omega

end nearest

/-- Rounding a quotient of a number by a power of two, in integers. -/
theorem roundShift_rn (s : Bool) (m k : Nat) :
    2 * m ≤ (2 * roundShift .rn s m k + 1) * 2 ^ k ∧ 2 * (roundShift .rn s m k * 2 ^ k) ≤ 2 * m + 2 ^ k ∧
      (2 * m = (2 * roundShift .rn s m k + 1) * 2 ^ k ∨ 2 * (roundShift .rn s m k * 2 ^ k) = 2 * m + 2 ^ k →
        roundShift .rn s m k % 2 = 0) ∧
      (m % 2 ^ k = 0 ↔ roundShift .rn s m k * 2 ^ k = m) := by
  have hpos : 0 < 2 ^ k := Nat.two_pow_pos k
  have hr : m % 2 ^ k < 2 ^ k := Nat.mod_lt _ hpos
  have hm := Nat.div_add_mod m (2 ^ k)
  have hup : roundShift .rn s m k = if 2 * (m % 2 ^ k) > 2 ^ k ∨ 2 * (m % 2 ^ k) = 2 ^ k ∧ m / 2 ^ k % 2 = 1
      then m / 2 ^ k + 1 else m / 2 ^ k := by
    unfold roundShift
    exact if_congr (by simp only [Bool.or_eq_true, Bool.and_eq_true, decide_eq_true_eq]) rfl rfl
  rw [hup]
  generalize m / 2 ^ k = q at *
  generalize m % 2 ^ k = r at *
  generalize 2 ^ k = p at *
  split
  next h =>
    have hexp : (q + 1) * p = p * q + p := by ring
    have hexp' : (2 * (q + 1) + 1) * p = 2 * (p * q) + 3 * p := by ring
    rw [hexp, hexp']
    refine ⟨by omega, by omega, ?_, by omega⟩
    rintro (h' | h') <;> omega
  next h =>
    have hexp : q * p = p * q := Nat.mul_comm _ _
    have hexp' : (2 * q + 1) * p = 2 * (p * q) + p := by ring
    rw [hexp, hexp']
    refine ⟨by omega, by omega, ?_, by omega⟩
    rintro (h' | h') <;> omega

/-- Rounding by a power of two, of a number that an integer stands for. -/
theorem nearest_roundShift {y : ℝ} {m : Nat} (s : Bool) (k : Nat)
    (h : y = m ∨ m % 2 = 1 ∧ (m : ℝ) - 1 < y ∧ y < m + 1 ∧ 2 ≤ k) :
    Nearest y (roundShift .rn s m k) (2 ^ k) ∧
      (m % 2 ^ k ≠ 0 ↔ (roundShift .rn s m k : ℝ) * 2 ^ k ≠ y) := by
  obtain ⟨hhi, hlo, heven, hexact⟩ := roundShift_rn s m k
  generalize roundShift .rn s m k = n at *
  rcases h with rfl | ⟨hodd, hmlo, hmhi, hk⟩
  · have hcast : ((2 ^ k : Nat) : ℝ) = 2 ^ k := by push_cast; rfl
    have hhi' : (2 : ℝ) * m ≤ (2 * n + 1) * 2 ^ k := by exact_mod_cast hhi
    have hlo' : (2 : ℝ) * (n * 2 ^ k) ≤ 2 * m + 2 ^ k := by exact_mod_cast hlo
    refine ⟨⟨by linarith, by linarith, fun ht => heven ?_⟩, ?_⟩
    · rcases ht with ht | ht
      · left
        have : (2 : ℝ) * m = (2 * n + 1) * 2 ^ k := by linarith
        exact_mod_cast this
      · right
        have : (2 : ℝ) * (n * 2 ^ k) = 2 * m + 2 ^ k := by linarith
        exact_mod_cast this
    · rw [not_iff_not, hexact, ← hcast]
      exact_mod_cast Iff.rfl
  · obtain ⟨i, rfl⟩ : ∃ i, k = i + 2 := ⟨k - 2, by omega⟩
    have hpow : 2 ^ (i + 2) = 4 * 2 ^ i := by rw [pow_add]; ring
    have hpow' : (2 : ℝ) ^ (i + 2) = 4 * 2 ^ i := by rw [pow_add]; ring
    rw [hpow] at hhi hlo hexact ⊢
    rw [hpow']
    -- the midpoints and the multiples of the unit are even numbers
    have hmid : (2 * n + 1) * (4 * 2 ^ i) = 2 * (2 * ((2 * n + 1) * 2 ^ i)) := by ring
    have hmul : n * (4 * 2 ^ i) = 2 * (2 * (n * 2 ^ i)) := by ring
    have hhi' : m + 1 ≤ 2 * ((2 * n + 1) * 2 ^ i) := by omega
    have hlo' : 2 * (2 * (n * 2 ^ i)) + 1 ≤ m + 2 * 2 ^ i := by omega
    have hhr : (m : ℝ) + 1 ≤ 2 * ((2 * n + 1) * 2 ^ i) := by exact_mod_cast hhi'
    have hlr : (2 : ℝ) * (2 * (n * 2 ^ i)) + 1 ≤ m + 2 * 2 ^ i := by exact_mod_cast hlo'
    refine ⟨⟨by linarith, by linarith, ?_⟩, ?_⟩
    · rintro (h' | h') <;> linarith
    · refine ⟨fun _ hy => ?_, fun _ hz => ?_⟩
      · have hcase : n * (4 * 2 ^ i) + 1 ≤ m ∨ m + 1 ≤ n * (4 * 2 ^ i) := by omega
        rcases hcase with hc | hc
        · have : (n : ℝ) * (4 * 2 ^ i) + 1 ≤ m := by exact_mod_cast hc
          linarith
        · have : (m : ℝ) + 1 ≤ n * (4 * 2 ^ i) := by exact_mod_cast hc
          linarith
      · have := hexact.mp hz
        omega

theorem zpow_two_pos (e : Int) : (0 : ℝ) < 2 ^ e := zpow_pos two_pos e

theorem zpow_two_add (e : Int) (k : Nat) : (2 : ℝ) ^ (e + k) = 2 ^ k * 2 ^ e := by
  rw [zpow_add₀ two_ne_zero, zpow_natCast, mul_comm]

/-- A number as a multiple of a power of two, to nearest. -/
theorem nearest_quantize {x : ℝ} {m : Nat} {e q : Int} (s : Bool)
    (h : x = m * 2 ^ e ∨ m % 2 = 1 ∧ ((m : ℝ) - 1) * 2 ^ e < x ∧ x < (m + 1) * 2 ^ e ∧ e + 2 ≤ q) :
    Nearest x (quantize .rn s m e q).1 (2 ^ q) ∧
      ((quantize .rn s m e q).2 = true ↔ ((quantize .rn s m e q).1 : ℝ) * 2 ^ q ≠ x) := by
  by_cases hq : q ≤ e
  · have hx : x = m * 2 ^ e := h.resolve_right fun hs => by omega
    obtain ⟨k, rfl⟩ : ∃ k : Nat, e = q + k := ⟨(e - q).toNat, by omega⟩
    have hquant : quantize .rn s m (q + k) q = (m * 2 ^ k, false) := by
      rw [quantize, if_pos hq, pow2]
      congr 3
      omega
    have hval : ((m * 2 ^ k : Nat) : ℝ) * 2 ^ q = x := by
      rw [hx, zpow_two_add]
      push_cast
      ring
    rw [hquant]
    exact ⟨.of_eq (zpow_two_pos q) hval.symm, nofun, fun hne => absurd hval hne⟩
  · obtain ⟨k, rfl⟩ : ∃ k : Nat, q = e + k := ⟨(q - e).toNat, by omega⟩
    have hquant : quantize .rn s m e (e + k) = (roundShift .rn s m k, decide (m % 2 ^ k ≠ 0)) := by
      have hk : (e + k - e).toNat = k := by omega
      rw [quantize, if_neg hq, pow2, hk]
    have hpos := zpow_two_pos e
    have hy : x = x / 2 ^ e * 2 ^ e := (div_mul_cancel₀ x hpos.ne').symm
    have hsplit : (2 : ℝ) ^ (e + k) = 2 ^ k * 2 ^ e := zpow_two_add e k
    obtain ⟨hnear, hexact⟩ := nearest_roundShift (y := x / 2 ^ e) (m := m) s k (by
      rcases h with h | ⟨hodd, hlo, hhi, hle⟩
      · exact .inl (by rw [h, mul_div_cancel_right₀ _ hpos.ne'])
      · exact .inr ⟨hodd, by rwa [lt_div_iff₀ hpos], by rwa [div_lt_iff₀ hpos], by omega⟩)
    rw [hquant, hsplit]
    refine ⟨hy ▸ hnear.scale hpos, ?_⟩
    dsimp only
    rw [decide_eq_true_eq, hexact, not_iff_not, ← mul_assoc]
    constructor
    · intro heq
      rw [heq, ← hy]
    · intro heq
      rw [eq_div_iff hpos.ne', heq]

/-! ## The nearest value of the format -/

/-- A value of a format of 24 bits of precision, its last place at least 2 to the -149, is a multiple of a unit of the
format, or lies below the numbers that have that unit. -/
theorem multiple_or_lt {k : Nat} (hk : k < 2 ^ 24) {j q : Int} (hj : -149 ≤ j) :
    (∃ t : Nat, (k : ℝ) * 2 ^ j = t * 2 ^ q) ∨ q ≠ -149 ∧ (k : ℝ) * 2 ^ j < 2 ^ 23 * 2 ^ q := by
  by_cases h : q ≤ j
  · obtain ⟨i, rfl⟩ : ∃ i : Nat, j = q + i := ⟨(j - q).toNat, by omega⟩
    refine .inl ⟨k * 2 ^ i, ?_⟩
    rw [zpow_two_add]
    push_cast
    ring
  · refine .inr ⟨by omega, ?_⟩
    have hkr : (k : ℝ) < 2 ^ 24 := by exact_mod_cast hk
    have hpos := zpow_two_pos j
    have hle : (2 : ℝ) ^ (j + 1) ≤ 2 ^ q := zpow_le_zpow_right₀ one_le_two (by omega)
    have hsucc : (2 : ℝ) ^ (j + 1) = 2 * 2 ^ j := by rw [zpow_add₀ two_ne_zero, zpow_one, mul_comm]
    calc (k : ℝ) * 2 ^ j < 2 ^ 24 * 2 ^ j := mul_lt_mul_of_pos_right hkr hpos
      _ = 2 ^ 23 * 2 ^ (j + 1) := by rw [hsucc]; ring
      _ ≤ 2 ^ 23 * 2 ^ q := mul_le_mul_of_nonneg_left hle (by positivity)

/-- The nearest multiple of its unit is the nearest of all values of the format. -/
theorem Nearest.best {x : ℝ} {n : Nat} {q : Int} (h : Nearest x n (2 ^ q))
    (hbig : q ≠ -149 → 2 ^ 23 * 2 ^ q ≤ x) {k : Nat} (hk : k < 2 ^ 24) {j : Int} (hj : -149 ≤ j) :
    |x - n * 2 ^ q| ≤ |x - k * 2 ^ j| ∧ (|x - n * 2 ^ q| = |x - k * 2 ^ j| → (k : ℝ) * 2 ^ j = n * 2 ^ q ∨ n % 2 = 0) := by
  have hu := zpow_two_pos q
  obtain ⟨hlo, hhi, heven⟩ := h
  have hcases := multiple_or_lt (q := q) hk hj
  generalize (k : ℝ) * 2 ^ j = z at *
  generalize (2 : ℝ) ^ q = u at *
  have hdist : |x - n * u| ≤ u / 2 := abs_le.mpr ⟨by linarith, by linarith⟩
  have hhalf (hd : |x - n * u| = u / 2) : n % 2 = 0 := by
    rcases abs_choice (x - n * u) with hc | hc
    · exact heven (.inl (by linarith))
    · exact heven (.inr (by linarith))
  -- a value that lies a whole unit away is not nearer
  have hfar (hz : u / 2 ≤ |x - z|) : |x - n * u| ≤ |x - z| ∧ (|x - n * u| = |x - z| → z = n * u ∨ n % 2 = 0) :=
    ⟨hdist.trans hz, fun he => .inr (hhalf (le_antisymm hdist (he ▸ hz)))⟩
  have habove (hz : (n : ℝ) * u + u ≤ z) : u / 2 ≤ |x - z| := by
    rw [abs_sub_comm]
    exact (by linarith : u / 2 ≤ z - x).trans (le_abs_self _)
  have hbelow (hz : z ≤ n * u - u) : u / 2 ≤ |x - z| := (by linarith : u / 2 ≤ x - z).trans (le_abs_self _)
  rcases hcases with ⟨t, rfl⟩ | ⟨hne, hz⟩
  · rcases lt_trichotomy t n with htn | rfl | htn
    · have hcast : (t : ℝ) + 1 ≤ n := by exact_mod_cast htn
      have := mul_le_mul_of_nonneg_right hcast hu.le
      exact hfar (hbelow (by linarith))
    · exact ⟨le_refl _, fun _ => .inl rfl⟩
    · have hcast : (n : ℝ) + 1 ≤ t := by exact_mod_cast htn
      have := mul_le_mul_of_nonneg_right hcast hu.le
      exact hfar (habove (by linarith))
  · have hx := hbig hne
    by_cases hn : 2 ^ 23 + 1 ≤ n
    · have hcast : (2 : ℝ) ^ 23 + 1 ≤ n := by exact_mod_cast hn
      have := mul_le_mul_of_nonneg_right hcast hu.le
      exact hfar (hbelow (by linarith))
    · have hge : 2 ^ 23 ≤ n := by
        by_contra hlt
        have hcast : (n : ℝ) + 1 ≤ 2 ^ 23 := by exact_mod_cast (by omega : n + 1 ≤ 2 ^ 23)
        have := mul_le_mul_of_nonneg_right hcast hu.le
        linarith
      have hcast : (n : ℝ) = 2 ^ 23 := by exact_mod_cast (by omega : n = 2 ^ 23)
      have hnear : |x - n * u| < |x - z| := by
        rw [hcast, abs_of_nonneg (by linarith), abs_of_nonneg (by linarith)]
        linarith
      exact ⟨hnear.le, fun he => absurd he hnear.ne⟩

/-! ## Patterns of FP32 -/

theorem signed32_eq (s : Bool) (mag : Nat) : fmt32.signed s mag = if s then 2 ^ 31 + mag else mag := rfl

/-- A pattern of a sign and a finite magnitude. -/
theorem unpack_signed32 (s : Bool) {mag : Nat} (h : mag ≤ 0x7F7F_FFFF) : fmt32.unpack (fmt32.signed s mag) =
    if mag / 2 ^ 23 = 0 then .fin s (mag % 2 ^ 23) (-149)
    else .fin s (2 ^ 23 + mag % 2 ^ 23) ((mag / 2 ^ 23 : Nat) - 127 - 23) := by
  have hmod : fmt32.signed s mag % 2 ^ 31 = mag := by
    rw [signed32_eq]
    split <;> omega
  have hsign : decide (fmt32.signed s mag / 2 ^ 31 % 2 = 1) = s := by
    rw [signed32_eq]
    cases s
    · exact decide_eq_false (by simp only [Bool.false_eq_true, if_false]; omega)
    · exact decide_eq_true (by simp only [if_true]; omega)
  rw [Machine.unpack32_eq, hmod, hsign, if_neg (by omega)]

/-- A finite value has 24 bits of precision, and a last place of at least 2 to the -149. -/
theorem fin_of_unpack32 {n : Nat} {s : Bool} {k : Nat} {j : Int} (h : fmt32.unpack n = .fin s k j) :
    k < 2 ^ 24 ∧ -149 ≤ j := by
  rw [Machine.unpack32_eq] at h
  split at h
  · split at h <;> cases h
  · split at h
    · cases h
      omega
    · cases h
      omega

/-- The value of a magnitude that is put together of a scale and of a number of its units. -/
theorem unpack_scaled32 (s : Bool) {j n : Nat} (hn : n ≤ 2 ^ 24) (hbig : j ≠ 0 → 2 ^ 23 ≤ n)
    (hmag : j * 2 ^ 23 + n ≤ 0x7F7F_FFFF) : ∃ k e, fmt32.unpack (fmt32.signed s (j * 2 ^ 23 + n)) = .fin s k e ∧
      (k : ℝ) * 2 ^ e = n * 2 ^ ((j : Int) - 149) := by
  rw [unpack_signed32 s hmag]
  obtain hlow | ⟨hmid, hlt⟩ | rfl : n < 2 ^ 23 ∨ (2 ^ 23 ≤ n ∧ n < 2 ^ 24) ∨ n = 2 ^ 24 := by omega
  · obtain rfl : j = 0 := by
      by_contra hj
      have := hbig hj
      omega
    rw [if_pos (by omega)]
    refine ⟨_, _, rfl, ?_⟩
    rw [show (0 * 2 ^ 23 + n) % 2 ^ 23 = n by omega]
    norm_num
  · have hdiv : (j * 2 ^ 23 + n) / 2 ^ 23 = j + 1 := by omega
    have hmod : 2 ^ 23 + (j * 2 ^ 23 + n) % 2 ^ 23 = n := by omega
    rw [hdiv, if_neg (by omega), hmod]
    refine ⟨_, _, rfl, ?_⟩
    congr 2
    push_cast
    ring
  · have hdiv : (j * 2 ^ 23 + 2 ^ 24) / 2 ^ 23 = j + 2 := by omega
    have hmod : 2 ^ 23 + (j * 2 ^ 23 + 2 ^ 24) % 2 ^ 23 = 2 ^ 23 := by omega
    rw [hdiv, if_neg (by omega), hmod]
    refine ⟨_, _, rfl, ?_⟩
    rw [show (((j + 2 : Nat) : Int) - 127 - 23) = ((j : Int) - 149) + (1 : Nat) by push_cast; ring, zpow_two_add]
    push_cast
    ring

/-! ## Rounding to FP32 -/

theorem bitLen_bounds {m : Nat} (hm : m ≠ 0) : 2 ^ (bitLen m - 1) ≤ m ∧ m < 2 ^ bitLen m ∧ 1 ≤ bitLen m := by
  have h : bitLen m = Nat.log2 m + 1 := if_neg hm
  rw [h]
  exact ⟨Nat.log2_self_le hm, Nat.lt_log2_self, Nat.le_add_left _ _⟩

/-- The place of the highest bit of a number that a dyadic one stands for. -/
theorem Sticky.bounds {x : ℝ} {m : Nat} {e : Int} (hm : m ≠ 0) (h : Sticky x m e) :
    (2 : ℝ) ^ (e + bitLen m - 1) ≤ x ∧ x < 2 ^ (e + bitLen m) := by
  obtain ⟨hlo, hhi, hlen⟩ := bitLen_bounds hm
  obtain ⟨l, hl⟩ : ∃ l, bitLen m = l + 1 := ⟨bitLen m - 1, by omega⟩
  rw [hl] at hlo hhi ⊢
  rw [Nat.add_sub_cancel] at hlo
  have hpos := zpow_two_pos e
  have hloexp : (2 : ℝ) ^ (e + (l + 1 : Nat) - 1) = 2 ^ l * 2 ^ e := by
    rw [← zpow_two_add]
    congr 1
    push_cast
    ring
  rw [hloexp, zpow_two_add]
  have hlor : (2 : ℝ) ^ l ≤ m := by exact_mod_cast hlo
  have hhir : (m : ℝ) + 1 ≤ 2 ^ (l + 1) := by exact_mod_cast hhi
  rcases h with rfl | ⟨hodd, hbig, hx, hx'⟩
  · exact ⟨mul_le_mul_of_nonneg_right hlor hpos.le, mul_lt_mul_of_pos_right (by linarith) hpos⟩
  · have hlt : 2 ^ l + 1 ≤ m := by
      have hl0 : l ≠ 0 := by
        rintro rfl
        omega
      obtain ⟨i, rfl⟩ := Nat.exists_eq_succ_of_ne_zero hl0
      rw [Nat.pow_succ] at hlo ⊢
      omega
    have hltr : (2 : ℝ) ^ l + 1 ≤ m := by exact_mod_cast hlt
    exact ⟨(mul_le_mul_of_nonneg_right (by linarith) hpos.le).trans hx.le,
      hx'.trans_le (mul_le_mul_of_nonneg_right hhir hpos.le)⟩

/-- The rounding to FP32 that this file is about, written out. -/
theorem round32_eq (s : Bool) {m : Nat} (hm : m ≠ 0) (e : Int) : fmt32.round .ieee .rn s m e =
    let top : Int := e + bitLen m - 1
    let q : Int := max (top - 23) (-149)
    let mag := (q - -149).toNat * 2 ^ 23 + (quantize .rn s m e q).1
    let tiny : Bool := top < -126 && !(top = -126 - 1 && (quantize .rn s m e (top - 23)).1 = 2 ^ 24)
    if mag > 0x7F7F_FFFF then { val := fmt32.signed s fmt32.infBits, flags := flagOF ||| flagNX }
    else { val := fmt32.signed s mag, flags :=
      flagIf (quantize .rn s m e q).2 flagNX ||| flagIf (tiny && (quantize .rn s m e q).2) flagUF } := by
  have hfrac : fmt32.frac = 23 := rfl
  have hbias : fmt32.bias = 127 := rfl
  have hmax : fmt32.maxFin = 0x7F7F_FFFF := rfl
  have hmin : (1 : Int) - (127 : Nat) = -126 := rfl
  have hcast : ((23 : Nat) : Int) = 23 := rfl
  simp only [Fmt.round, if_neg hm, hfrac, hbias, hmax, hmin, hcast]
  rfl

/-- A result is a positive number, of a sign, rounded once to FP32. -/
structure Rounded32 (s : Bool) (x : ℝ) (r : Res) : Prop where
  beyond : (2 ^ 25 - 1) * 2 ^ 103 ≤ x → r = { val := fmt32.signed s fmt32.infBits, flags := flagOF ||| flagNX }
  within : x < (2 ^ 25 - 1) * 2 ^ 103 → ∃ k j, fmt32.unpack r.val = .fin s k j ∧ r.val < 2 ^ 32 ∧
    (∀ (k' : Nat) (j' : Int), k' < 2 ^ 24 → -149 ≤ j' → |x - k * 2 ^ j| ≤ |x - k' * 2 ^ j'| ∧
      (|x - k * 2 ^ j| = |x - k' * 2 ^ j'| → (k' : ℝ) * 2 ^ j' = k * 2 ^ j ∨ r.val % 2 = 0)) ∧
    ((k : ℝ) * 2 ^ j = x → r.flags = 0) ∧
    ((k : ℝ) * 2 ^ j ≠ x → (x < 2 ^ (-126 : Int) - 2 ^ (-151 : Int) → r.flags = flagNX ||| flagUF) ∧
      (¬x < 2 ^ (-126 : Int) - 2 ^ (-151 : Int) → r.flags = flagNX))

section rounding

variable {x : ℝ} {m : Nat} {e : Int} (s : Bool)

/-- At a unit that is not above that of the number's highest 24 bits, the nearest multiple is of 25 bits at most. -/
theorem Nearest.le_top {n : Nat} {q : Int} (h : Nearest x n (2 ^ q)) (hx : x < 2 ^ (q + 24)) : n ≤ 2 ^ 24 := by
  have hu := zpow_two_pos q
  by_contra hn
  have hcast : (2 : ℝ) ^ 24 + 1 ≤ n := by exact_mod_cast (by omega : 2 ^ 24 + 1 ≤ n)
  have hsplit : (2 : ℝ) ^ (q + 24) = 2 ^ 24 * 2 ^ q := zpow_two_add q 24
  have := mul_le_mul_of_nonneg_right hcast hu.le
  have := h.lo
  rw [hsplit] at hx
  linarith

theorem Nearest.ge_top {n : Nat} {q : Int} (h : Nearest x n (2 ^ q)) (hx : 2 ^ 23 * 2 ^ q ≤ x) : 2 ^ 23 ≤ n := by
  have hu := zpow_two_pos q
  by_contra hn
  have hcast : (n : ℝ) + 1 ≤ 2 ^ 23 := by exact_mod_cast (by omega : n + 1 ≤ 2 ^ 23)
  have := mul_le_mul_of_nonneg_right hcast hu.le
  have := h.hi
  linarith

/-- Where a magnitude passes the largest finite one, the number passes the largest finite value and half its unit. -/
theorem overflow_iff {q : Int} {n : Nat} (hq : -149 ≤ q) (h : Nearest x n (2 ^ q)) (hlt : x < 2 ^ (q + 24))
    (hge : q ≠ -149 → 2 ^ 23 * 2 ^ q ≤ x) :
    0x7F7F_FFFF < (q - -149).toNat * 2 ^ 23 + n ↔ (2 ^ 25 - 1) * 2 ^ 103 ≤ x := by
  have hn := h.le_top hlt
  obtain hsmall | rfl | hlarge : q ≤ 103 ∨ q = 104 ∨ 105 ≤ q := by omega
  · have hle : (2 : ℝ) ^ (q + 24) ≤ 2 ^ (127 : Int) := zpow_le_zpow_right₀ one_le_two (by omega)
    refine ⟨fun hc => by omega, fun hc => ?_⟩
    have : (2 : ℝ) ^ (127 : Int) = 2 ^ 127 := by norm_cast
    linarith
  · have htop := h.eq_iff (zpow_two_pos 104) hn rfl
    have hbound : (((2 ^ 24 : Nat) : ℝ) - 1 / 2) * 2 ^ (104 : Int) = (2 ^ 25 - 1) * 2 ^ 103 := by
      have : (2 : ℝ) ^ (104 : Int) = 2 ^ 104 := by norm_cast
      rw [this]
      norm_num
    rw [hbound] at htop
    rw [← htop]
    omega
  · have hx := hge (by omega)
    have hn' := h.ge_top hx
    have hle : (2 : ℝ) ^ (105 : Int) ≤ 2 ^ q := zpow_le_zpow_right₀ one_le_two hlarge
    refine ⟨fun _ => ?_, fun _ => by omega⟩
    have : (2 : ℝ) ^ (105 : Int) = 2 ^ 105 := by norm_cast
    linarith

/-- A unit of which the number has at most 24 bits stands above the place at which it is sticky. -/
theorem Sticky.nearest {q : Int} (hm : m ≠ 0) (h : Sticky x m e) (hq : e + bitLen m - 24 ≤ q) :
    Nearest x (quantize .rn s m e q).1 (2 ^ q) ∧
      ((quantize .rn s m e q).2 = true ↔ ((quantize .rn s m e q).1 : ℝ) * 2 ^ q ≠ x) := by
  refine nearest_quantize s (h.imp_right fun ⟨hodd, hbig, hlo, hhi⟩ => ⟨hodd, hlo, hhi, ?_⟩)
  have hlen : 26 < bitLen m := (Nat.pow_lt_pow_iff_right (by decide)).mp (hbig.trans_lt (bitLen_bounds hm).2.1)
  omega

/-- Where a number is tiny, rounded with more exponents. -/
theorem tiny_iff (hm : m ≠ 0) (h : Sticky x m e) :
    (decide (e + bitLen m - 1 < -126) && !(decide (e + bitLen m - 1 = -126 - 1) &&
      decide ((quantize .rn s m e (e + bitLen m - 1 - 23)).1 = 2 ^ 24))) = true ↔
        x < 2 ^ (-126 : Int) - 2 ^ (-151 : Int) := by
  obtain ⟨hlo, hhi⟩ := h.bounds hm
  have h126 : (2 : ℝ) ^ (-126 : Int) = 2 ^ 25 * 2 ^ (-151 : Int) := by rw [← zpow_two_add]; norm_num
  have h127 : (2 : ℝ) ^ (-127 : Int) = 2 ^ 24 * 2 ^ (-151 : Int) := by rw [← zpow_two_add]; norm_num
  have h150 : (2 : ℝ) ^ (-150 : Int) = 2 ^ 1 * 2 ^ (-151 : Int) := by rw [← zpow_two_add]; norm_num
  have hpos := zpow_two_pos (-151)
  obtain hbig | hone | hsmall : -126 ≤ e + bitLen m - 1 ∨ e + bitLen m - 1 = -127 ∨ e + bitLen m - 1 ≤ -128 := by omega
  · have hle : (2 : ℝ) ^ (-126 : Int) ≤ 2 ^ (e + bitLen m - 1) := zpow_le_zpow_right₀ one_le_two hbig
    rw [decide_eq_false (by omega), Bool.false_and]
    refine ⟨nofun, fun hx => ?_⟩
    linarith
  · obtain ⟨hnear, -⟩ := h.nearest s (q := -150) hm (by omega)
    have htop : (2 : ℝ) ^ (e + bitLen m) = 2 ^ ((-150 : Int) + 24) := by congr 1; omega
    have hn := hnear.le_top (by rwa [htop] at hhi)
    have heq := hnear.eq_iff (zpow_two_pos _) hn rfl
    have hbound : (((2 ^ 24 : Nat) : ℝ) - 1 / 2) * 2 ^ (-150 : Int) = 2 ^ (-126 : Int) - 2 ^ (-151 : Int) := by
      rw [h126, h150]
      push_cast
      ring
    rw [hbound] at heq
    rw [hone, show (-127 : Int) - 23 = -150 from rfl, Bool.and_eq_true, Bool.not_eq_true', Bool.and_eq_false_imp,
      decide_eq_true_eq, decide_eq_true_eq, decide_eq_false_iff_not, heq, not_le]
    exact ⟨fun hc => hc.2 rfl, fun hc => ⟨by omega, fun _ => hc⟩⟩
  · have hle : (2 : ℝ) ^ (e + bitLen m) ≤ 2 ^ (-127 : Int) := zpow_le_zpow_right₀ one_le_two (by omega)
    rw [decide_eq_true (by omega), decide_eq_false (by omega : ¬e + (bitLen m : Int) - 1 = -126 - 1), Bool.false_and]
    refine ⟨fun _ => ?_, fun _ => rfl⟩
    linarith

end rounding

theorem val_signed32_even (s : Bool) {mag : Nat} (h : mag % 2 = 0) : fmt32.signed s mag % 2 = 0 := by
  rw [signed32_eq]
  split <;> omega

theorem val_signed32_lt (s : Bool) {mag : Nat} (h : mag ≤ 0x7F7F_FFFF) : fmt32.signed s mag < 2 ^ 32 := by
  rw [signed32_eq]
  split <;> omega

/-- The rounding of a number that a dyadic one stands for. -/
theorem rounded32_round {x : ℝ} {m : Nat} {e : Int} (s : Bool) (hm : m ≠ 0) (h : Sticky x m e) :
    Rounded32 s x (fmt32.round .ieee .rn s m e) := by
  obtain ⟨hlo, hhi⟩ := h.bounds hm
  have htiny := tiny_iff s hm h
  have hround := round32_eq s hm e
  dsimp only at hround
  obtain ⟨q, hq⟩ : ∃ q, q = max (e + bitLen m - 1 - 23) (-149) := ⟨_, rfl⟩
  rw [← hq] at hround
  obtain ⟨hnear, hinexact⟩ := h.nearest s (q := q) hm (by omega)
  have hlt : x < 2 ^ (q + 24) := hhi.trans_le (zpow_le_zpow_right₀ one_le_two (by omega))
  have hge : q ≠ -149 → 2 ^ 23 * 2 ^ q ≤ x := fun hne => by
    rw [← zpow_two_add]
    exact (zpow_le_zpow_right₀ one_le_two (by push_cast; omega)).trans hlo
  have hover := overflow_iff (by omega) hnear hlt hge
  have hn := hnear.le_top hlt
  have hn' : (q - -149).toNat ≠ 0 → 2 ^ 23 ≤ (quantize .rn s m e q).1 := fun hj => hnear.ge_top (hge (by omega))
  generalize (quantize .rn s m e q).1 = n at *
  generalize (quantize .rn s m e q).2 = inexact at *
  generalize (decide (e + bitLen m - 1 < -126) && !(decide (e + bitLen m - 1 = -126 - 1) &&
      decide ((quantize .rn s m e (e + bitLen m - 1 - 23)).1 = 2 ^ 24))) = tiny at *
  rw [hround]
  refine ⟨fun hx => if_pos (hover.mpr hx), fun hx => ?_⟩
  have hfit : (q - -149).toNat * 2 ^ 23 + n ≤ 0x7F7F_FFFF :=
    Nat.le_of_not_lt fun hc => absurd (hover.mp hc) (not_le.mpr hx)
  rw [if_neg (Nat.not_lt.mpr hfit)]
  obtain ⟨k, j, hunpack, hval⟩ := unpack_scaled32 s hn hn' hfit
  rw [show (((q - -149).toNat : Int) - 149) = q by omega] at hval
  refine ⟨k, j, hunpack, val_signed32_lt s hfit, fun k' j' hk' hj' => ?_, fun hy => ?_, fun hy => ?_⟩
  · rw [hval]
    obtain ⟨hbest, htie⟩ := hnear.best hge hk' hj'
    exact ⟨hbest, fun he => (htie he).imp_right fun hev => val_signed32_even s (by omega)⟩
  · rw [hval] at hy
    have hexact : inexact = false := Bool.eq_false_iff.mpr fun hc => hinexact.mp hc hy
    dsimp only
    rw [hexact, Bool.and_false]
    rfl
  · rw [hval] at hy
    have hexact : inexact = true := hinexact.mpr hy
    dsimp only
    rw [hexact, Bool.and_true]
    refine ⟨fun ht => ?_, fun ht => ?_⟩
    · rw [htiny.mpr ht]
      rfl
    · rw [Bool.eq_false_iff.mpr fun hc => ht (htiny.mp hc)]
      rfl

end Sys2Proof
end

section
/-!
SUPPORT. The rounded results of the transform pipe: exact quotients, products and roots, and the proof of O9 (spec 23
R348, R351).
-/

namespace Sys2Proof

/-! ## Rounding of rational numbers -/

/-- A number of a magnitude and a sign. -/
def ofSign (s : Bool) (x : ℚ) : ℚ := if s then -x else x

theorem abs_ofSign (s : Bool) {x : ℚ} (hx : 0 ≤ x) : |ofSign s x| = x := by
  cases s
  · exact abs_of_nonneg hx
  · exact (abs_neg x).trans (abs_of_nonneg hx)

theorem dyadic_eq (s : Bool) (m : Nat) (e : Int) : dyadic s m e = ofSign s (m * 2 ^ e) := by
  cases s
  · simp [dyadic, ofSign]
  · simp [dyadic, ofSign]

theorem overflows32_iff (s : Bool) (x : ℚ) : fmt32.Overflows .rn s x ↔ (2 ^ 25 - 1) * 2 ^ 103 ≤ |x| := by
  have hstep : fmt32.topStep = 2 ^ 104 := by
    have : (((fmt32.maxFin / 2 ^ fmt32.frac : Nat) : Int) - fmt32.bias - fmt32.frac) = 104 := by decide +kernel
    rw [Fmt.topStep, this]
    norm_cast
  have hlargest : fmt32.largest + fmt32.topStep / 2 = (2 ^ 25 - 1) * 2 ^ 103 := by
    have : 2 ^ fmt32.frac + fmt32.maxFin % 2 ^ fmt32.frac = 16777215 := by decide +kernel
    rw [Fmt.largest, hstep, this]
    norm_num
  have hodd : fmt32.maxFin % 2 = 1 := by decide +kernel
  unfold Fmt.Overflows
  dsimp only
  rw [hlargest, le_iff_lt_or_eq]
  simp only [hodd, and_true]

theorem tiny32_iff (s : Bool) (x : ℚ) : fmt32.Tiny .rn s x ↔ |x| < 2 ^ (-126 : Int) - 2 ^ (-151 : Int) := by
  have hleast : fmt32.leastNormal = 2 ^ (-126 : Int) := rfl
  have hstep : fmt32.leastNormal / 2 ^ (fmt32.frac + 1) / 2 = 2 ^ (-151 : Int) := by
    have : fmt32.frac + 1 = 24 := rfl
    rw [hleast, this]
    norm_num
  have hpos : (0 : ℚ) < 2 ^ (-151 : Int) := zpow_pos two_pos _
  unfold Fmt.Tiny
  dsimp only
  rw [hstep, hleast]
  exact ⟨fun h => h.2, fun h => ⟨by linarith, h⟩⟩

theorem abs_ofSign_sub (s : Bool) (x y : ℚ) : |ofSign s x - ofSign s y| = |x - y| := by
  cases s
  · rfl
  · rw [ofSign, ofSign, if_pos rfl, if_pos rfl, neg_sub_neg, abs_sub_comm]

theorem ofSign_inj {s : Bool} {x y : ℚ} : ofSign s x = ofSign s y ↔ x = y := by
  cases s
  · exact Iff.rfl
  · exact neg_inj

/-- A value of FP32, as a multiple of a power of two to a sign, or as the negative of one. -/
theorem exists_of_has32 (s : Bool) {z : ℚ} (h : fmt32.Has z) : ∃ (k : Nat) (j : Int), k < 2 ^ 24 ∧ -149 ≤ j ∧
    (z = ofSign s (k * 2 ^ j) ∨ z = ofSign s (-(k * 2 ^ j))) := by
  obtain ⟨n, t, k, j, hunpack, rfl⟩ := h
  obtain ⟨hk, hj⟩ := fin_of_unpack32 hunpack
  refine ⟨k, j, hk, hj, ?_⟩
  rw [dyadic_eq]
  cases s <;> cases t
  · exact .inl rfl
  · exact .inr rfl
  · exact .inr (neg_neg _).symm
  · exact .inl rfl

/-- The nearest of the positive values is the nearest of all. -/
theorem best_of_nearest {s : Bool} {x y : ℚ} {even : Prop} (hx : 0 ≤ x)
    (h : ∀ (k : Nat) (j : Int), k < 2 ^ 24 → -149 ≤ j → |x - y| ≤ |x - k * 2 ^ j| ∧
      (|x - y| = |x - k * 2 ^ j| → k * 2 ^ j = y ∨ even)) :
    fmt32.Best .rn (ofSign s x) (ofSign s y) even := by
  intro z hz
  obtain ⟨k, j, hk, hj, rfl | rfl⟩ := exists_of_has32 s hz
  · rw [abs_ofSign_sub, abs_ofSign_sub, ofSign_inj]
    exact h k j hk hj
  · -- a number of the other sign is no nearer than zero
    rw [abs_ofSign_sub, abs_ofSign_sub, ofSign_inj]
    obtain ⟨hle, htie⟩ := h 0 0 (by norm_num) (by norm_num)
    rw [Nat.cast_zero, zero_mul, sub_zero, abs_of_nonneg hx] at hle htie
    have hpos : (0 : ℚ) ≤ k * 2 ^ j := by positivity
    generalize (k * 2 ^ j : ℚ) = z at *
    rw [sub_neg_eq_add, abs_of_nonneg (add_nonneg hx hpos)]
    refine ⟨by linarith, fun he => ?_⟩
    obtain rfl : z = 0 := by linarith
    rw [neg_zero]
    exact htie (by linarith)

theorem cast_dyadic (k : Nat) (j : Int) : (k : ℝ) * 2 ^ j = ((k * 2 ^ j : ℚ) : ℝ) := by
  push_cast
  rfl

/-- A rational number that is rounded as a positive one and a sign is rounded. -/
theorem roundsTo_of_rounded32 {s : Bool} {x : ℚ} (hx : 0 ≤ x) {r : Res} (h : Rounded32 s (x : ℝ) r) :
    RoundsTo fmt32 .ieee .rn s (ofSign s x) r := by
  have hbound : (2 ^ 25 - 1) * 2 ^ 103 ≤ (x : ℝ) ↔ (2 ^ 25 - 1) * 2 ^ 103 ≤ x := by exact_mod_cast Iff.rfl
  have htiny : (x : ℝ) < 2 ^ (-126 : Int) - 2 ^ (-151 : Int) ↔ x < 2 ^ (-126 : Int) - 2 ^ (-151 : Int) := by
    have : (2 : ℝ) ^ (-126 : Int) - 2 ^ (-151 : Int) = ((2 ^ (-126 : Int) - 2 ^ (-151 : Int) : ℚ) : ℝ) := by
      push_cast
      rfl
    rw [this, Rat.cast_lt]
  refine ⟨fun ho => ⟨nofun, fun _ => ?_⟩, fun ho => ?_⟩
  · rw [overflows32_iff, abs_ofSign s hx, ← hbound] at ho
    rw [h.beyond ho]
    exact ⟨rfl, False.elim, fun _ => rfl⟩
  · rw [overflows32_iff, abs_ofSign s hx, ← hbound, not_le] at ho
    obtain ⟨k, j, hunpack, hlt, hbest, hexact, hinexact⟩ := h.within ho
    simp only [cast_dyadic, ← Rat.cast_sub, ← Rat.cast_abs, Rat.cast_le, Rat.cast_inj, ne_eq, htiny]
      at hbest hexact hinexact
    refine ⟨k, j, hunpack, hlt, ?_, ?_⟩
    · rw [dyadic_eq]
      exact best_of_nearest hx hbest
    · rw [tiny32_iff, abs_ofSign s hx, dyadic_eq, ne_eq, ofSign_inj]
      exact ⟨hexact, hinexact⟩

/-- Zero, of a sign, is rounded to itself. -/
theorem roundsTo_zero (s : Bool) : RoundsTo fmt32 .ieee .rn s 0 { val := fmt32.signed s 0 } := by
  have hzero : ofSign s 0 = 0 := by cases s <;> simp [ofSign]
  have hdyadic : dyadic s 0 (-149) = 0 := by rw [dyadic_eq, Nat.cast_zero, zero_mul, hzero]
  refine ⟨fun ho => ?_, fun _ => ⟨0, -149, unpack_signed32 s (by norm_num), val_signed32_lt s (by norm_num), ?_, ?_⟩⟩
  · rw [overflows32_iff, abs_zero] at ho
    norm_num at ho
  · rw [hdyadic]
    intro z _
    rw [sub_self, abs_zero]
    exact ⟨abs_nonneg _, fun he => .inl (sub_eq_zero.mp (abs_eq_zero.mp he.symm)).symm⟩
  · exact ⟨fun _ => rfl, fun hne => absurd hdyadic hne⟩

/-! ## Exact quotients -/

/-- A number that is given by its first bits, at least 26 of them, and by whether there is more. -/
theorem rounded32_of_floor (s : Bool) {x : ℝ} {q : Nat} {more : Bool} {e : Int} (hlo : q * 2 ^ e ≤ x)
    (hhi : x < (q + 1) * 2 ^ e) (hmore : more = true ↔ q * 2 ^ e ≠ x) (hq : 2 ^ 25 ≤ q) :
    Rounded32 s x (round32 s q more e) := by
  have hdouble : (2 : ℝ) ^ e = 2 * 2 ^ (e - 1) := by
    rw [zpow_sub_one₀ two_ne_zero]
    ring
  rw [hdouble] at hlo hhi hmore
  refine rounded32_round s (by omega) ?_
  cases more with
  | false =>
    have hx : (q : ℝ) * (2 * 2 ^ (e - 1)) = x := by
      by_contra hne
      exact absurd (hmore.mpr hne) nofun
    left
    rw [← hx, Bool.toNat_false]
    push_cast
    ring
  | true =>
    have hlt := lt_of_le_of_ne hlo (hmore.mp rfl)
    right
    refine ⟨Nat.mul_add_mod _ _ _, by rw [Bool.toNat_true]; omega, ?_, ?_⟩
    · rw [Bool.toNat_true]
      push_cast
      linarith
    · rw [Bool.toNat_true]
      push_cast
      linarith

/-- The quotient of two positive numbers. -/
theorem rounded32_divFin (s : Bool) {m n : Nat} (hm : m ≠ 0) (hn : n ≠ 0) (hlt : n < 2 ^ 24) (e g : Int) :
    Rounded32 s (((m * 2 ^ e / (n * 2 ^ g) : ℚ)) : ℝ) (divFin s m e n g) := by
  have hnpos : (0 : ℝ) < n := by exact_mod_cast Nat.pos_of_ne_zero hn
  have hpos := zpow_two_pos (e - g - 120)
  have hscale : (2 : ℝ) ^ (e - g) = 2 ^ 120 * 2 ^ (e - g - 120) := by
    rw [← zpow_two_add]
    congr 1
    push_cast
    ring
  have hx : (((m * 2 ^ e / (n * 2 ^ g) : ℚ)) : ℝ) = ((m * 2 ^ 120 : Nat) : ℝ) / n * 2 ^ (e - g - 120) := by
    have := zpow_sub₀ (two_ne_zero (α := ℝ)) e g
    push_cast
    rw [mul_div_mul_comm, ← this, hscale]
    ring
  have hsplit : (n : ℝ) * ((m * 2 ^ 120 / n : Nat) : ℝ) + ((m * 2 ^ 120 % n : Nat) : ℝ) = (m * 2 ^ 120 : Nat) := by
    exact_mod_cast Nat.div_add_mod (m * 2 ^ 120) n
  have hrest : ((m * 2 ^ 120 % n : Nat) : ℝ) < n := by exact_mod_cast Nat.mod_lt _ (Nat.pos_of_ne_zero hn)
  have hrest0 : (0 : ℝ) ≤ ((m * 2 ^ 120 % n : Nat) : ℝ) := Nat.cast_nonneg _
  have hzero : ((m * 2 ^ 120 % n : Nat) : ℝ) = 0 ↔ m * 2 ^ 120 % n = 0 := Nat.cast_eq_zero
  have hbig : 2 ^ 25 ≤ m * 2 ^ 120 / n := by
    rw [Nat.le_div_iff_mul_le (Nat.pos_of_ne_zero hn)]
    omega
  rw [hx]
  unfold divFin
  dsimp only
  generalize ((m * 2 ^ 120 : Nat) : ℝ) = num at *
  generalize m * 2 ^ 120 / n = q at *
  generalize m * 2 ^ 120 % n = rest at *
  refine rounded32_of_floor s ?_ ?_ ?_ hbig
  · refine mul_le_mul_of_nonneg_right ?_ hpos.le
    rw [le_div_iff₀ hnpos]
    linarith
  · refine mul_lt_mul_of_pos_right ?_ hpos
    rw [div_lt_iff₀ hnpos]
    linarith
  · rw [decide_eq_true_eq, ne_eq, ← hzero, ne_eq, not_iff_not, mul_left_inj' hpos.ne', eq_div_iff hnpos.ne']
    exact ⟨fun h => by linarith, fun h => by linarith⟩

/-! ## Exact roots -/

/-- The integer square root, digit by digit. -/
theorem isqrtGo_spec {n : Nat} (k : Nat) : ∀ {r : Nat}, r * r ≤ n → n < (r + 2 ^ k) * (r + 2 ^ k) →
    isqrtGo n k r * isqrtGo n k r ≤ n ∧
      n < (isqrtGo n k r + 1) * (isqrtGo n k r + 1) := by
  induction k with
  | zero => exact fun hlo hhi => ⟨hlo, hhi⟩
  | succ k ih =>
    intro r hlo hhi
    rw [Nat.pow_succ, Nat.mul_two, ← Nat.add_assoc] at hhi
    rw [isqrtGo]
    split
    next h => exact ih h hhi
    next h => exact ih hlo (Nat.lt_of_not_le h)

theorem isqrt_spec {n k : Nat} (h : n < 2 ^ (2 * k)) :
    isqrt n k * isqrt n k ≤ n ∧ n < (isqrt n k + 1) * (isqrt n k + 1) := by
  refine isqrtGo_spec k (r := 0) (Nat.zero_le _) ?_
  rw [Nat.zero_add, ← Nat.pow_add, ← Nat.two_mul]
  exact h

/-- The root of a number that is given by its own root in integers. -/
theorem rounded32_root {v : ℝ} {r : Nat} {more : Bool} (e : Int) (hlo : (r : ℝ) * r ≤ v)
    (hhi : v < ((r : ℝ) + 1) * (r + 1)) (hmore : more = true ↔ (r : ℝ) * r ≠ v) (hr : 2 ^ 25 ≤ r) :
    Rounded32 false (√v * 2 ^ e) (round32 false r more e) := by
  have hpos := zpow_two_pos e
  have hr0 : (0 : ℝ) ≤ r := Nat.cast_nonneg r
  have hv : 0 ≤ v := (mul_nonneg hr0 hr0).trans hlo
  refine rounded32_of_floor false ?_ ?_ ?_ hr
  · exact mul_le_mul_of_nonneg_right (Real.le_sqrt_of_sq_le (by rwa [sq])) hpos.le
  · refine mul_lt_mul_of_pos_right ?_ hpos
    rw [Real.sqrt_lt' (by linarith), sq]
    exact hhi
  · rw [hmore, ne_eq, ne_eq, not_iff_not, mul_left_inj' hpos.ne', eq_comm (b := √v),
      Real.sqrt_eq_iff_mul_self_eq hv hr0, eq_comm]

/-! ## Quotients of the transform pipe -/

section quotient

variable {a b m n : Nat} {s t : Bool} {e g : Int}

/-- The quotient of two finite operands. -/
theorem tdiv_of_fin (ha : fmt32.unpack a = .fin s m e) (hb : fmt32.unpack b = .fin t n g) : tdiv a b =
    if n = 0 then
      if m = 0 then fmt32.invalid 5 else { val := fmt32.signed (s != t) fmt32.infBits, flags := flagDZ }
    else if m = 0 then { val := fmt32.signed (s != t) 0 } else divFin (s != t) m e n g := by
  have hnan : fmt32.nanOf [.fin s m e, .fin t n g] = none := rfl
  simp only [tdiv, ha, hb, hnan, Option.getD_none, Fl.sign]

theorem dyadic_div (s t : Bool) (m n : Nat) (e g : Int) :
    dyadic s m e / dyadic t n g = ofSign (s != t) (m * 2 ^ e / (n * 2 ^ g)) := by
  rw [dyadic_eq, dyadic_eq]
  cases s <;> cases t
  · rfl
  · exact div_neg _
  · exact neg_div _ _
  · exact neg_div_neg_eq _ _

theorem roundsTo_tdiv (ha : fmt32.unpack a = .fin s m e) (hm : m ≠ 0) (hb : fmt32.unpack b = .fin t n g) (hn : n ≠ 0) :
    RoundsTo fmt32 .ieee .rn (s != t) (dyadic s m e / dyadic t n g) (tdiv a b) := by
  rw [tdiv_of_fin ha hb, if_neg hn, if_neg hm, dyadic_div]
  exact roundsTo_of_rounded32 (by positivity) (rounded32_divFin _ hm hn (fin_of_unpack32 hb).1 e g)

/-- The reciprocal is a quotient of one. -/
theorem roundsTo_trcp (ha : fmt32.unpack a = .fin s m e) (hm : m ≠ 0) :
    RoundsTo fmt32 .ieee .rn s (1 / dyadic s m e) (trcp a) := by
  have hone : fmt32.unpack one32 = .fin false (2 ^ 23) (-23) := by decide +kernel
  have hvalue : dyadic false (2 ^ 23) (-23) = 1 := by norm_num [dyadic]
  have h := roundsTo_tdiv hone (by norm_num) ha hm
  rwa [hvalue, Bool.false_bne] at h

theorem tdiv_zero (ha : fmt32.unpack a = .fin s m e) (hm : m ≠ 0) (t : Bool) :
    tdiv a (fmt32.signed t 0) = { val := fmt32.signed (s != t) fmt32.infBits, flags := flagDZ } := by
  have hzero : fmt32.unpack (fmt32.signed t 0) = .fin t 0 (-149) := unpack_signed32 t (Nat.zero_le _)
  rw [tdiv_of_fin ha hzero, if_pos rfl, if_neg hm]

end quotient

/-! ## Roots of the transform pipe -/

/-- A result is the positive root of `q / p`, rounded once. -/
def PositiveRoot (r : Res) (p q : ℚ) : Prop :=
  ∃ k j, fmt32.unpack r.val = .fin false k j ∧ r.val < 0x7F80_0000 ∧
    r.flags = (if dyadic false k j * dyadic false k j * p = q then 0 else flagNX) ∧
    ∀ z, fmt32.Has z → 0 ≤ z →
      (dyadic false k j < z → q ≤ ((dyadic false k j + z) / 2) ^ 2 * p) ∧
      (z < dyadic false k j → ((dyadic false k j + z) / 2) ^ 2 * p ≤ q)

/-- A positive finite pattern lies below that of infinity. -/
theorem lt_inf_of_unpack32 {n k : Nat} {j : Int} (hlt : n < 2 ^ 32) (h : fmt32.unpack n = .fin false k j) :
    n < 0x7F80_0000 := by
  rw [Machine.unpack32_eq] at h
  split at h
  · split at h <;> cases h
  next hfin =>
    have hsign : decide (n / 2 ^ 31 % 2 = 1) = false := by
      split at h
      · exact (Fl.fin.inj h).1
      · exact (Fl.fin.inj h).1
    have := of_decide_eq_false hsign
    omega

/-- A nearest value is no further than the middle to any other. -/
theorem middle_of_nearest {x y z : ℝ} (h : |x - y| ≤ |x - z|) :
    (y < z → x ≤ (y + z) / 2) ∧ (z < y → (y + z) / 2 ≤ x) := by
  rw [← sq_le_sq] at h
  constructor
  · intro hyz
    by_contra hx
    nlinarith
  · intro hzy
    by_contra hx
    nlinarith

/-- A root that is rounded, as a property of its square. -/
theorem positiveRoot_of_rounded32 {r : Res} {p q : ℚ} {x : ℝ} (hp : 0 < p) (hx : x * x * p = q)
    (hlo : 2 ^ (-126 : Int) ≤ x) (hhi : x < 2 ^ 127) (h : Rounded32 false x r) : PositiveRoot r p q := by
  have htiny := zpow_two_pos (-151)
  have hpos : 0 < x := (zpow_two_pos _).trans_le hlo
  obtain ⟨k, j, hunpack, hlt, hbest, hexact, hinexact⟩ := h.within (hhi.trans (by norm_num))
  have hpr : (0 : ℝ) < p := by exact_mod_cast hp
  have hy : dyadic false k j = k * 2 ^ j := by rw [dyadic_eq]; rfl
  have hy0 : (0 : ℚ) ≤ k * 2 ^ j := by positivity
  rw [cast_dyadic] at hexact hinexact
  simp only [cast_dyadic k j] at hbest
  refine ⟨k, j, hunpack, lt_inf_of_unpack32 hlt hunpack, ?_, fun z hz hz0 => ?_⟩
  · rw [hy]
    generalize (k * 2 ^ j : ℚ) = y at *
    have hy0r : (0 : ℝ) ≤ y := by exact_mod_cast hy0
    have hsq : y * y * p = q ↔ (y : ℝ) = x := by
      have hcast : y * y * p = q ↔ (y : ℝ) * y * p = x * x * p := by
        rw [hx]
        exact_mod_cast Iff.rfl
      rw [hcast, mul_left_inj' hpr.ne', mul_self_inj hy0r hpos.le]
    split
    next he => exact hexact (hsq.mp he)
    next he => exact (hinexact fun hc => he (hsq.mpr hc)).2 (by linarith)
  · rw [hy]
    have hnear : |x - ((k * 2 ^ j : ℚ) : ℝ)| ≤ |x - z| := by
      obtain ⟨k', j', hk', hj', hz'⟩ := exists_of_has32 false hz
      have hpos' : (0 : ℚ) ≤ k' * 2 ^ j' := by positivity
      have : z = k' * 2 ^ j' := hz'.elim id fun hneg => by
        change z = -(k' * 2 ^ j') at hneg
        linarith
      rw [this, ← cast_dyadic k' j']
      exact (hbest k' j' hk' hj').1
    generalize (k * 2 ^ j : ℚ) = y at *
    have hmid0 : 0 ≤ ((y : ℝ) + z) / 2 := by exact_mod_cast (by linarith : 0 ≤ (y + z) / 2)
    obtain ⟨habove, hbelow⟩ := middle_of_nearest hnear
    refine ⟨fun hyz => ?_, fun hzy => ?_⟩
    · have hle := mul_self_le_mul_self hpos.le (habove (by exact_mod_cast hyz))
      have := mul_le_mul_of_nonneg_right hle hpr.le
      rw [hx, ← sq] at this
      exact_mod_cast this
    · have hle := mul_self_le_mul_self hmid0 (hbelow (by exact_mod_cast hzy))
      have := mul_le_mul_of_nonneg_right hle hpr.le
      rw [hx, ← sq] at this
      exact_mod_cast this

/-- The exponents of finite values. -/
theorem exponent_le_of_unpack32 {n : Nat} {s : Bool} {k : Nat} {j : Int} (h : fmt32.unpack n = .fin s k j) :
    j ≤ 104 := by
  rw [Machine.unpack32_eq] at h
  split at h
  · split at h <;> cases h
  · split at h
    · cases h
      omega
    · cases h
      omega

/-- The root of `v × 2^(2h)`, from the root of `v` in integers. -/
theorem positiveRoot_round32 {v : ℝ} {r : Nat} {more : Bool} {h : Int} {p q : ℚ} (hlo : (r : ℝ) * r ≤ v)
    (hhi : v < ((r : ℝ) + 1) * (r + 1)) (hmore : more = true ↔ (r : ℝ) * r ≠ v) (hr : 2 ^ 25 ≤ r) (hr' : r < 2 ^ 82)
    (hh : -151 ≤ h) (hh' : h ≤ 45) (hp : 0 < p) (hv : v * 2 ^ (2 * h) * p = q) :
    PositiveRoot (round32 false r more h) p q := by
  have hpos := zpow_two_pos h
  have hr0 : (0 : ℝ) ≤ r := Nat.cast_nonneg r
  have hv0 : 0 ≤ v := (mul_nonneg hr0 hr0).trans hlo
  have hrlo : (2 : ℝ) ^ 25 ≤ r := by exact_mod_cast hr
  have hrhi : (r : ℝ) + 1 ≤ 2 ^ 82 := by exact_mod_cast hr'
  have hroot : r ≤ √v := Real.le_sqrt_of_sq_le (by rwa [sq])
  have hroot' : √v < r + 1 := by
    rw [Real.sqrt_lt' (by linarith), sq]
    exact hhi
  refine positiveRoot_of_rounded32 hp ?_ ?_ ?_ (rounded32_root h hlo hhi hmore hr)
  · rw [← hv, two_mul, zpow_add₀ two_ne_zero, mul_mul_mul_comm, Real.mul_self_sqrt hv0]
  · calc (2 : ℝ) ^ (-126 : Int) ≤ 2 ^ (h + 25) := zpow_le_zpow_right₀ one_le_two (by omega)
      _ = 2 ^ 25 * 2 ^ h := zpow_two_add h 25
      _ ≤ √v * 2 ^ h := mul_le_mul_of_nonneg_right (hrlo.trans hroot) hpos.le
  · calc √v * 2 ^ h < 2 ^ 82 * 2 ^ h := mul_lt_mul_of_pos_right (hroot'.trans_le hrhi) hpos
      _ = 2 ^ (h + 82) := (zpow_two_add h 82).symm
      _ ≤ 2 ^ (127 : Int) := zpow_le_zpow_right₀ one_le_two (by omega)
      _ = 2 ^ 127 := by norm_cast

/-- The root of a number of 50 bits or more has 25. -/
theorem le_isqrt {n k : Nat} (h : n < 2 ^ (2 * k)) (hn : 2 ^ 52 ≤ n) : 2 ^ 25 ≤ isqrt n k := by
  obtain ⟨-, hhi⟩ := isqrt_spec h
  by_contra hr
  have := Nat.mul_le_mul (by omega : isqrt n k + 1 ≤ 2 ^ 26) (by omega : isqrt n k + 1 ≤ 2 ^ 26)
  omega

theorem isqrt_lt {n k : Nat} (h : n < 2 ^ (2 * k)) (hn : n < 2 ^ 164) : isqrt n k < 2 ^ 82 := by
  obtain ⟨hlo, -⟩ := isqrt_spec h
  by_contra hr
  have := Nat.mul_le_mul (by omega : 2 ^ 82 ≤ isqrt n k) (by omega : 2 ^ 82 ≤ isqrt n k)
  omega

/-- An exponent is the sum of an even number and of one of two scales. -/
theorem exists_half (e : Int) {even odd : Nat} (heven : even % 2 = 0) (hodd : odd % 2 = 1) :
    ∃ (k : Nat) (h : Int), (k = even ∨ k = odd) ∧ (if e % 2 = 0 then (even : Int) else odd) = k ∧ e - k = 2 * h := by
  split
  next he => exact ⟨even, (e - even) / 2, .inl rfl, rfl, by omega⟩
  next he => exact ⟨odd, (e - odd) / 2, .inr rfl, rfl, by omega⟩

section root

variable {a m : Nat} {e : Int}

theorem tsqrt_of_fin (ha : fmt32.unpack a = .fin false m e) (hm : m ≠ 0) {k : Nat} {h : Int}
    (hk : (if e % 2 = 0 then 80 else 81 : Int) = k) (he : e - k = 2 * h) : tsqrt a =
    round32 false (isqrt (m * 2 ^ k) 64) (isqrt (m * 2 ^ k) 64 * isqrt (m * 2 ^ k) 64 ≠ m * 2 ^ k) h := by
  have hnan : fmt32.nanOf [.fin false m e] = none := rfl
  have hh : (e - k) / 2 = h := by omega
  have hpow : pow2 k = 2 ^ k := rfl
  unfold tsqrt
  rw [ha]
  dsimp only
  rw [hnan, Option.getD_none, if_neg hm, hk, hh, hpow, if_neg Bool.false_ne_true]

theorem trsq_of_fin (ha : fmt32.unpack a = .fin false m e) (hm : m ≠ 0) {k : Nat} {h : Int}
    (hk : (if e % 2 = 0 then 160 else 161 : Int) = k) (he : -e - k = 2 * h) : trsq a =
    round32 false (isqrt (2 ^ k / m) 96) (isqrt (2 ^ k / m) 96 * isqrt (2 ^ k / m) 96 * m ≠ 2 ^ k) h := by
  have hnan : fmt32.nanOf [.fin false m e] = none := rfl
  have hh : (-e - k) / 2 = h := by omega
  have hpow : pow2 k = 2 ^ k := rfl
  unfold trsq
  rw [ha]
  dsimp only
  rw [hnan, Option.getD_none, if_neg hm, hk, hh, hpow, if_neg Bool.false_ne_true]

theorem positiveRoot_tsqrt (ha : fmt32.unpack a = .fin false m e) (hm : m ≠ 0) :
    PositiveRoot (tsqrt a) 1 (dyadic false m e) := by
  obtain ⟨hlt, hemin⟩ := fin_of_unpack32 ha
  have hemax := exponent_le_of_unpack32 ha
  obtain ⟨k, h, hcase, hk, he⟩ := exists_half e (even := 80) (odd := 81) rfl rfl
  have hvalue : ((m * 2 ^ k : Nat) : ℝ) * 2 ^ (2 * h) = m * 2 ^ e := by
    rw [show e = 2 * h + k by omega, zpow_two_add]
    push_cast
    ring
  obtain ⟨hnlo, hnhi⟩ : 2 ^ 52 ≤ m * 2 ^ k ∧ m * 2 ^ k < 2 ^ (2 * 64) := by
    rcases hcase with rfl | rfl <;> omega
  obtain ⟨hlo, hhi⟩ := isqrt_spec hnhi
  have hrlo := le_isqrt hnhi hnlo
  have hrhi := isqrt_lt hnhi (hnhi.trans (by norm_num))
  rw [tsqrt_of_fin ha hm hk he, dyadic_eq]
  generalize m * 2 ^ k = n at *
  refine positiveRoot_round32 (v := n) (by exact_mod_cast hlo) (by exact_mod_cast hhi) ?_ hrlo hrhi (by omega)
    (by omega) one_pos ?_
  · rw [decide_eq_true_eq]
    exact_mod_cast Iff.rfl
  · rw [hvalue, cast_dyadic, Rat.cast_one, mul_one]
    rfl

theorem positiveRoot_trsq (ha : fmt32.unpack a = .fin false m e) (hm : m ≠ 0) :
    PositiveRoot (trsq a) (dyadic false m e) 1 := by
  obtain ⟨hlt, hemin⟩ := fin_of_unpack32 ha
  have hemax := exponent_le_of_unpack32 ha
  obtain ⟨k, h, hcase, hk, he⟩ := exists_half (-e) (even := 160) (odd := 161) rfl rfl
  rw [Int.neg_emod_two] at hk
  have hmpos : (0 : ℝ) < m := by exact_mod_cast Nat.pos_of_ne_zero hm
  have hpos : 0 < dyadic false m e := by
    rw [dyadic_eq]
    exact mul_pos (by exact_mod_cast Nat.pos_of_ne_zero hm) (zpow_pos two_pos e)
  have hvalue : (2 : ℝ) ^ k / m * 2 ^ (2 * h) * (m * 2 ^ e) = 1 := by
    have hsum : (2 : ℝ) ^ k * 2 ^ (2 * h) * 2 ^ e = 1 := by
      rw [← zpow_natCast, ← zpow_add₀ two_ne_zero, ← zpow_add₀ two_ne_zero, show (k : Int) + 2 * h + e = 0 by omega,
        zpow_zero]
    rw [← hsum]
    field_simp
  obtain ⟨hnlo, hnhi⟩ : 2 ^ 52 ≤ 2 ^ k / m ∧ 2 ^ k / m < 2 ^ 164 := by
    rw [Nat.le_div_iff_mul_le (by omega)]
    refine ⟨?_, (Nat.div_le_self _ _).trans_lt ?_⟩
    · rcases hcase with rfl | rfl <;> omega
    · rcases hcase with rfl | rfl <;> norm_num
  obtain ⟨hlo, hhi⟩ := isqrt_spec (k := 96) (hnhi.trans (by norm_num))
  have hrlo := le_isqrt (k := 96) (hnhi.trans (by norm_num)) hnlo
  have hrhi := isqrt_lt (k := 96) (hnhi.trans (by norm_num)) hnhi
  rw [trsq_of_fin ha hm hk (by omega)]
  have hfloor : ((2 ^ k / m : Nat) : ℝ) ≤ 2 ^ k / m := by exact_mod_cast Nat.cast_div_le (α := ℝ) (m := 2 ^ k) (n := m)
  have hceil : (2 : ℝ) ^ k / m < ((2 ^ k / m : Nat) : ℝ) + 1 := by
    rw [div_lt_iff₀ hmpos]
    exact_mod_cast Nat.lt_mul_of_div_lt (Nat.lt_succ_self (2 ^ k / m)) (by omega)
  generalize 2 ^ k / m = n at *
  refine positiveRoot_round32 (v := 2 ^ k / m) ((by exact_mod_cast hlo : _ ≤ (n : ℝ)).trans hfloor)
    (hceil.trans_le (by exact_mod_cast hhi)) ?_ hrlo hrhi (by omega) (by omega) hpos ?_
  · rw [decide_eq_true_eq, ne_eq, ne_eq, not_iff_not, eq_div_iff hmpos.ne']
    exact_mod_cast Iff.rfl
  · rw [dyadic_eq, Rat.cast_one, ← hvalue, cast_dyadic]
    rfl

end root

/-! ## Products of the decoder of 4-bit floats (spec 23 R351) -/

theorem dyadic_mul (s t : Bool) (m n : Nat) (e g : Int) :
    dyadic s m e * dyadic t n g = dyadic (s != t) (m * n) (e + g) := by
  have hpow : (2 : ℚ) ^ (e + g) = 2 ^ e * 2 ^ g := zpow_add₀ two_ne_zero e g
  rw [dyadic, dyadic, dyadic, hpow, Nat.cast_mul]
  cases s <;> cases t <;> simp <;> ring

theorem roundsTo_decFp4One (s t u : Bool) (m n k : Nat) (e g j : Int) :
    RoundsTo fmt32 .ieee .rn ((s != t) != u) (dyadic s m e * dyadic t n g * dyadic u k j)
      (Machine.decFp4One (.fin s m e) (.fin t n g) (.fin u k j)) := by
  rw [dyadic_mul, dyadic_mul, dyadic_eq]
  unfold Machine.decFp4One
  dsimp only
  by_cases hzero : m * n * k = 0
  · have hround : fmt32.round .ieee .rn ((s != t) != u) (m * n * k) (e + g + j) =
        { val := fmt32.signed ((s != t) != u) 0 } := if_pos hzero
    have hval : ofSign ((s != t) != u) ((m * n * k : Nat) * 2 ^ (e + g + j)) = 0 := by
      rw [hzero, Nat.cast_zero, zero_mul]
      cases (s != t) != u <;> simp [ofSign]
    rw [hround, hval]
    exact roundsTo_zero _
  · refine roundsTo_of_rounded32 (by positivity) (rounded32_round _ hzero (.inl ?_))
    rw [cast_dyadic]

end Sys2Proof

namespace Sys2Proof.Machine

/-! ## The laws of the transform pipe, by operands -/

section laws

variable {mk : Head → AluF → Instr}

theorem pipe1_law (g : Nat → Res) (hx : ∀ s h f, exec (mk h f) s = .next (pipe1 (mk h f) h f g s)) :
    LongLaw mk 1 (fun w _ f l => [BitVec.ofNat 32 (g (w.val false f.a.toNat l)).val])
      fun w _ f l => (g (w.val false f.a.toNat l)).flags :=
  pipeOp_law (g := fun w f l => g (w.val false f.a.toNat l)) (fun _ _ _ _ => rfl) hx

theorem pipe2_law (g : Ty → Nat → Nat → Res) (hx : ∀ s h f, exec (mk h f) s = .next (pipe2 (mk h f) h f (g f.ty) s)) :
    LongLaw mk 1
      (fun w _ f l => [BitVec.ofNat 32 (g f.ty (w.val false f.a.toNat l) (w.srcOrImm f f.b false l)).val])
      fun w _ f l => (g f.ty (w.val false f.a.toNat l) (w.srcOrImm f f.b false l)).flags :=
  pipeOp_law (g := fun w f l => g f.ty (w.val false f.a.toNat l) (w.srcOrImm f f.b false l)) (fun _ _ _ _ => rfl) hx

end laws

/-- Settles O9: each rounding is to the nearest value of FP32 of a number that its first 26 bits and the presence of
more stand for, and the quotients and the integer roots give just that. -/
theorem transformPipeResults : Obligations.TransformPipeResults := by
  unfold Obligations.TransformPipeResults
  intro one a b dec
  refine ⟨pipe1_law trcp fun _ _ _ => rfl, pipe1_law trsq fun _ _ _ => rfl, pipe1_law tsqrt fun _ _ _ => rfl,
    pipe2_law (fun _ => tdiv) fun _ _ _ => rfl, pipe1_law texp2 fun _ _ _ => rfl, pipe1_law tlog2 fun _ _ _ => rfl,
    pipe1_law tsin fun _ _ _ => rfl, pipe1_law tcos fun _ _ _ => rfl, pipe2_law idiv fun _ _ _ => rfl,
    decoderOp_law (fun _ _ _ _ => rfl) fun _ _ _ => rfl, decoderOp_law (fun _ _ _ _ => rfl) fun _ _ _ => rfl,
    decoderOp_law (fun _ _ _ _ => rfl) fun _ _ _ => rfl, ?_, ?_, ?_, ?_, ?_⟩
  · obtain ⟨⟨h1, h2, h3, h4, h5, h6, h7, h8, h9, h10, h11, h12, h13, h14, h15, h16, h17, h18, h19, h20, h21, h22⟩, htrig,
      hquot⟩ := special_operands
    refine ⟨h1, h2, h3, h4, h5, h6, h7, h8, h9, h10, h11, h12, h13, h14, h15, h16, h17, h18, h19, h20, h21, h22, htrig,
      fun a hlo hhi => invalid_of_negative hlo hhi, fun a ha hn => quiet_of_nan ha hn, hquot, ?_⟩
    intro a b m n s t e g ha hm
    refine ⟨tdiv_zero ha hm t, fun hb hn => roundsTo_tdiv ha hm hb hn, roundsTo_trcp ha hm, ?_⟩
    rintro root rfl
    exact ⟨positiveRoot_tsqrt ha hm, positiveRoot_trsq ha hm⟩
  · intro t ht a b ha hb
    exact idiv_cases (by simpa using ht) ha hb
  · exact fun pairs p hlen hbyte => decRle_cases hlen hbyte
  · exact fun stream b _ => decBits_cases stream b
  · intro a b _
    refine ⟨decFp4_eq_none_iff a b, fun rs hrs => ?_⟩
    obtain ⟨hlen, hget⟩ := decFp4_some hrs
    refine ⟨hlen, fun i hi s t m n k e g j hcode hblock hband => ⟨_, hget i hi, ?_⟩⟩
    have h := roundsTo_decFp4One s false t m n k e g j
    rw [Bool.bne_false] at h
    rwa [hcode, hband, show unpackScale b = .fin false n g from hblock]

end Sys2Proof.Machine
end

section
/-!
SUPPORT. A read that hits at its home slice, the events of code and of matrix programs (spec 08 R142, spec 22 R313, R327,
R331), and the proof of O41.
-/

namespace Sys2Proof

section maps

variable {β : Type} {m : AMap β} {d : β} {k : Nat}

/-- What is kept by a test of its key reads as before, and the rest as the default. -/
theorem AMap.get_keep (m : AMap β) (d : β) (p : Nat → Bool) (k : Nat) :
    (m.keep fun j _ => p j).get d k = if p k = true then m.get d k else d := by
  induction m with
  | nil => simp [AMap.keep]
  | cons e t ih =>
    obtain ⟨j, v⟩ := e
    unfold AMap.keep at ih ⊢
    by_cases hj : j = k
    · subst hj
      by_cases hp : p j = true
      · simp [hp, AMap.get]
      · simpa [hp] using ih
    · by_cases hp : p j = true
      · simpa [hp, AMap.get, hj] using ih
      · simpa [hp, AMap.get, hj] using ih

/-- An entry that a rewriting does not make the default reads as the rewritten one. -/
theorem AMap.get_mapVals_of_ne [DecidableEq β] {f : Nat → β → β} (h : m.get d k ≠ d) (hf : f k (m.get d k) ≠ d) :
    (m.mapVals d f).get d k = f k (m.get d k) := by
  induction m with
  | nil => exact absurd rfl h
  | cons e t ih =>
    obtain ⟨j, v⟩ := e
    by_cases hj : j = k
    · subst hj
      simp only [AMap.get, if_true] at h hf ⊢
      simp [AMap.mapVals, hf, AMap.get]
    · simp only [AMap.get, if_neg hj] at h hf ⊢
      unfold AMap.mapVals
      split
      · exact ih h hf
      · simpa only [AMap.get, if_neg hj] using ih h hf

end maps

end Sys2Proof

namespace Sys2Proof.Machine

open Sys2Proof

/-! ## A read that hits (spec 11 R175, R176) -/

section read

variable {s : State} {q : Req} {c : Nat}

theorem State.areas_homeDie (s : State) (c asid va : Nat) : (s.homeDie (some c) asid va).2.mem.areas = s.mem.areas := by
  obtain ⟨es, h | ⟨-, h⟩⟩ := s.homeDie_snd c asid va
  · rw [h]
  · rw [h]

theorem State.areas_putLine (s : State) (sl : Nat) (l : Line) : (s.putLine sl l).mem.areas = s.mem.areas := by
  obtain ⟨l2, slices, h⟩ := s.putLine_eq sl l
  rw [h]

/-- An access to a line that its home slice holds with the grants: the line, its latest use noted. -/
theorem State.access_of_held {l : Line} (hq : q.core = some c) (hva : q.va < 2 ^ 56)
    (hd : s.homeDamaged (some c) (tagAsid q.asid q.va) q.va = false)
    (hl : s.findLine (s.homeAt c (tagAsid q.asid q.va) q.va) (tagAsid q.asid q.va) (q.va / 128) = some l)
    (hg : l.attr.grants q = true) (hp : (l.poison && q.r) = false) :
    ∃ m t, s.access q = (.line (s.homeAt c (tagAsid q.asid q.va) q.va) m, t) ∧ KeepsHomes c s t ∧
      s.Puts t (s.homeAt c (tagAsid q.asid q.va) q.va) m ∧ m.asid = tagAsid q.asid q.va ∧ m.va = q.va / 128 ∧
      m.data = l.data ∧ t.mem.areas = s.mem.areas := by
  obtain ⟨ha, hv⟩ := s.findLine_at hl
  have hlines := s.findLine_homeDie c (tagAsid q.asid q.va) q.va
  let s₁ := (s.homeDie (some c) (tagAsid q.asid q.va) q.va).2
  have hdie : KeepsHomes c s s₁ := .of_homeDie s hva
  have hslice : (s.homeDie (some c) (tagAsid q.asid q.va) q.va).2.sliceOn
      (s.homeDie (some c) (tagAsid q.asid q.va) q.va).1 q.va = s.homeAt c (tagAsid q.asid q.va) q.va := by
    rw [State.sliceOn_of_terrain hdie.terrain, State.homeAt]
  let m : Line := { l with used := s₁.seq, retain := l.retain || q.retain, stream := l.stream && q.filled l }
  have hstamp : Still c s₁ s₁.stamp.2 := .of_stamp s₁
  have hfound : s₁.stamp.2.findLine (s.homeAt c (tagAsid q.asid q.va) q.va) m.asid m.va = some l := by
    rw [hstamp.lines, hlines, show m.asid = _ from ha, show m.va = _ from hv, hl]
  refine ⟨m, s₁.stamp.2.putLine (s.homeAt c (tagAsid q.asid q.va) q.va) m, ?_,
    (hdie.trans hstamp.toKeepsHomes).trans (.of_putLine _ _ _), ?_, ha, hv, rfl,
    (State.areas_putLine _ _ _).trans (s.areas_homeDie _ _ _)⟩
  · unfold State.access
    dsimp only
    rw [if_neg (by omega), hq, if_neg (by simp [hd]), hslice, hlines, hl]
    dsimp only
    rw [if_neg (by simp [hg]), if_neg (by simp [hp])]
    rfl
  · intro sl' asid' line
    rw [State.puts_putLine hfound, hstamp.lines, hlines]

/-- A line put back with the bytes that it had leaves every byte. -/
theorem State.Puts.sameBytes {t : State} {sl : Nat} {l m : Line} (h : s.Puts t sl m)
    (hl : s.findLine sl m.asid m.va = some l) (hd : m.data = l.data) (hphys : t.mem.phys = s.mem.phys) :
    SameBytes s t := by
  refine ⟨hphys, fun sl' asid va => ?_⟩
  unfold State.byteIn
  rw [h]
  split
  next hsame =>
    obtain ⟨rfl, rfl, hline⟩ := hsame
    rw [hline, hl, Option.map_some, Option.map_some, hd]
  next => rfl

/-- Bytes that no damaged record area of a draw touches read as they are. -/
theorem State.blur_of_plain {asid va : Nat} {bs : List Byte} (h : s.Plain asid va bs.length) :
    s.blur asid va bs = (bs, s) := by
  unfold State.blur
  rw [if_neg]
  intro hany
  obtain ⟨a, ha, ht⟩ := List.any_eq_true.mp hany
  obtain ⟨htaint, htouch⟩ := Bool.and_eq_true_iff.mp ht
  rw [h a ha htaint] at htouch
  cases htouch

/-- A read that hits answers the bytes that its home slice holds, and changes no byte. -/
theorem State.readHome_of_reqReads {bs : List Byte} (hq : q.core = some c) (hw : q.w = false) (hx : q.x = false)
    (h : s.ReqReads q bs) :
    ∃ t, s.readHome q bs.length = (.bytes bs, t) ∧ SameBytes s t ∧ t.outside = s.outside := by
  obtain ⟨hva, hfit, hhome, hplain, l, hl, hlen, hr, hp, hbs⟩ := h
  have hline : s.findLine (s.homeAt c (tagAsid q.asid q.va) q.va) (tagAsid q.asid q.va) (q.va / 128) = some l := by
    rw [State.homeAt, ← hq]
    exact hl
  obtain ⟨m, t, hacc, hkeep, hput, hasid, hmva, hdata, hareas⟩ := State.access_of_held (q := { q with r := true }) hq hva
    (by simpa only [State.Homed, hq] using hhome) hline (by simp [Attr.grants, hr, hw, hx]) (by simp [hp])
  have hread : t.lineBytesAt q m bs.length = (bs, t) := by
    unfold State.lineBytesAt
    rw [hdata, hasid, ← hbs, State.blur_of_plain]
    exact fun a ha => hplain a (hareas ▸ ha)
  refine ⟨t, ?_, hput.sameBytes (by rw [hasid, hmva]; exact hline) hdata (congrArg Prod.fst hkeep.terrain),
    State.outside_of_eq hacc (s.outside_access _)⟩
  simp only [State.readHome, hacc, hread]

/-- What a slice holds for a request of a core does not turn on the sequencers. -/
theorem State.ReqReads.setMsq {bs : List Byte} (h : s.ReqReads q bs) (hq : q.core = some c) (d : Nat)
    (m : Msq) : (s.setMsq d m).ReqReads q bs := by
  obtain ⟨hva, hfit, hhome, hplain, l, hl, hbytes⟩ := h
  have hkeep : KeepsHomes c s (s.setMsq d m) := .of_same rfl rfl (fun _ => rfl) fun _ _ _ h => h
  rw [State.Homed, hq] at hhome
  obtain ⟨hhome', hdie⟩ := hkeep.home _ _ hva hhome
  refine ⟨hva, hfit, by rw [State.Homed, hq]; exact hhome', hplain, l, ?_, hbytes⟩
  rw [← hl, State.reqLine, State.reqLine, State.reqSlice, State.reqSlice, hq, State.reqTag, State.reqTag]
  rw [State.sliceOn_of_terrain hkeep.terrain, show ((s.setMsq d m).homeDie (some c) (tagAsid q.asid q.va) q.va).1 = _ from hdie]
  rfl

/-- Nor does it turn on what else a request says than its core and its address. -/
theorem State.ReqReads.congr {q' : Req} {bs : List Byte} (h : s.ReqReads q bs) (hc : q'.core = q.core)
    (ha : q'.asid = q.asid) (hv : q'.va = q.va) : s.ReqReads q' bs := by
  simpa only [State.ReqReads, State.reqLine, State.reqSlice, State.reqTag, State.Homed, hc, ha, hv] using h

end read

/-! ## ICINV_COMPLETE (spec 08 R142) -/

/-- Code that is dropped: no cache of instructions or of matrix programs holds a line of the range, and each holds
every other line as before. -/
theorem State.get_dropCode (s : State) (asid va n key : Nat) :
    (s.dropCode asid va n).mem.icache.get [] key = (if codeIn asid va n key = true then [] else s.mem.icache.get [] key) ∧
    (s.dropCode asid va n).mem.msqCache.get [] key =
      if codeIn asid va n key = true then [] else s.mem.msqCache.get [] key := by
  unfold State.dropCode
  dsimp only
  rw [AMap.get_keep _ _ fun k => !codeIn asid va n k, AMap.get_keep _ _ fun k => !codeIn asid va n k]
  cases codeIn asid va n key <;> simp

theorem codeIn_iff {asid va n key : Nat} : codeIn asid va n key = true ↔
    key % 2 ^ 49 * 128 < va + n ∧ va < key % 2 ^ 49 * 128 + 128 ∧
      key / 2 ^ 49 % 2 ^ 16 = tagAsid asid (key % 2 ^ 49 * 128) := by
  simp [codeIn, and_assoc]

/-- What ICINV_COMPLETE leaves. -/
def State.icinvDone (s : State) (id asid va n : Nat) : State :=
  { s.dropCode asid va n with work := { s.work with
      icinvs := s.work.icinvs.filter fun e => e.1 ≠ id
      units := AMap.mapVals s.work.units {} fun _ w => { w with icinvs := w.icinvs.filter (· ≠ id) } } }

theorem execIcinvComplete_of_found {s : State} {id asid va n : Nat}
    (h : (s.work.icinvs.find? fun e => e.1 = id) = some (id, asid, va, n)) :
    execIcinvComplete id s = .next (s.icinvDone id asid va n) := by
  simp only [execIcinvComplete, h]
  rfl

/-- A unit that lives waits for the operation no longer. -/
theorem State.unit_icinvDone {s : State} {u : Nat} (id asid va n : Nat) (hu : (s.unit u).live = true) :
    (s.icinvDone id asid va n).unit u = { s.unit u with icinvs := (s.unit u).icinvs.filter (· ≠ id) } :=
  AMap.get_mapVals_of_ne (fun hd => by rw [State.unit, hd] at hu; cases hu)
    fun hd => by
      have hlive : (s.unit u).live = false := congrArg Wave.live hd
      rw [hu] at hlive
      cases hlive

/-! ## Matrix programs (spec 22 R313, R327, R330) -/

section msq

variable (s : State) (c : Nat)

@[simp] theorem State.setMsq_setMsq (m m' : Msq) : (s.setMsq c m).setMsq c m' = s.setMsq c m' := by
  unfold State.setMsq
  rw [State.setCore_setCore, State.core_setCore_same]

theorem State.outside_msq {t : State} (h : t.outside = s.outside) : t.msq c = s.msq c := by
  rw [State.msq, State.core, State.cores_of_outside h, State.msq, State.core]

/-- A sequencer without a word that was in flight. -/
def Msq.without (m : Msq) (seq : Nat) : Msq := { m with bg := m.bg.filter fun w => w.seq ≠ seq }

theorem State.execMatrixWordComplete_of_inWord (seq : Nat) (h : (s.msq c).inWord = true) :
    execMatrixWordComplete c seq s = .next (s.setMsq c ((s.msq c).without seq)) :=
  congrArg Host.Outcome.next (if_pos h)

theorem State.execMatrixWordComplete_of_between (seq : Nat) (h : (s.msq c).inWord = false) :
    execMatrixWordComplete c seq s = .next ((s.setMsq c ((s.msq c).without seq)).msqSettle c) :=
  congrArg Host.Outcome.next (if_neg (Bool.eq_false_iff.mp h))

/-- A word that is no longer in flight. -/
theorem State.msqSettle_setMsq {m : Msq} (hw : m.inWord = false) (hg : m.group = (s.msq c).group) :
    (s.setMsq c m).msqSettle c =
      s.setMsq c (if m.halted = true ∧ s.msqGone c = true ∧ m.bg = [] then m.stopped else m) := by
  have hm : ({ m with inWord := false } : Msq) = m := by rw [← hw]
  have hgone : (s.setMsq c m).msqGone c = s.msqGone c := by
    simp only [State.msqGone, State.msq_setMsq, hg]
    rfl
  simp only [State.msqSettle, State.msq_setMsq, State.setMsq_setMsq, hm, hgone, Bool.and_eq_true, decide_eq_true_eq,
    and_assoc]

/-- The counter of a program that begins is read. -/
theorem State.readC0_of_reqReads {bs : List Byte} (h : s.ReqReads (s.msqReq c (s.msq c).counter) bs)
    (hlen : bs.length = 8) :
    (s.readC0 c).msq c = { s.msq c with c0 := leNat bs, fresh := false } ∧ SameBytes s (s.readC0 c) := by
  obtain ⟨t, hread, hbytes, hout⟩ := State.readHome_of_reqReads (c := c) rfl rfl rfl h
  rw [hlen] at hread
  have hc0 : s.readC0 c = t.setMsq c { s.msq c with c0 := leNat bs, fresh := false } := by
    simp only [State.readC0, hread, s.outside_msq c hout]
  rw [hc0]
  exact ⟨State.msq_setMsq _ _ _, hbytes⟩

theorem State.msqReq_setMsq (m : Msq) (va : Nat) : (s.setMsq c m).msqReq c va =
    { core := some c, ctx := m.ctx, asid := (s.ctx m.ctx).asid, va := va, who := .msq c, lane := 0 } := by
  simp only [State.msqReq, State.msq_setMsq]
  rfl

end msq

/-- The program that a start begins, with the banks, the accumulators and the side memory that it finds. -/
def Msq.begun (m : Msq) (r : MStart) : Msq :=
  let same := m.prevCtx = r.ctx + 1 ∨ m.prevCtx = 0
  { m with
    running := true, fresh := true, halted := false, held := false
    starts := m.starts.erase r
    ctx := r.ctx, group := r.group, obj := r.obj
    m := AMap.set [] 0 0 (BitVec.ofNat 64 r.arg), pc := r.entry, counter := r.arg
    c0 := 0, j := 0, mflags := 0, prevCtx := r.ctx + 1
    banks := if same then m.banks else AMap.mapVals m.banks {} fun _ b => { b with loaded := false }
    acc := if same then m.acc else []
    side := if same then m.side else [] }

theorem Msq.begin_eq_begun (m : Msq) (r : MStart) :
    ({ m with starts := m.starts.erase r } : Msq).begin r = m.begun r := by
  unfold Msq.begun
  by_cases h : m.prevCtx = r.ctx + 1 ∨ m.prevCtx = 0
  · have hb : (m.prevCtx = r.ctx + 1 || m.prevCtx = 0) = true := by simpa using h
    simp [Msq.begin, hb, h]
  · have hb : (m.prevCtx = r.ctx + 1 || m.prevCtx = 0) = false := by simpa using h
    simp [Msq.begin, Msq.afresh, hb, h]

/-- The program that the oldest start with a resident group begins. -/
theorem execMsqProgramStart_of_found {s : State} {core : Nat} {r : MStart} (hrun : (s.msq core).running = false)
    (hbg : (s.msq core).bg = [])
    (hr : ((s.msq core).starts.find? fun r => (s.group r.group).phase = .resident) = some r) :
    execMsqProgramStart core s =
      .next ((s.setMsq core ({ s.msq core with starts := (s.msq core).starts.erase r }.begin r)).readC0 core) := by
  simp [execMsqProgramStart, hrun, hbg, hr]

/-! ## MSQ_STATE_SAVE (spec 22 R331) -/

section save

variable (s : State)

@[simp] theorem State.kept_localStore (pa : Nat) (bs : List Byte) : (s.localStore pa bs).kept = s.kept := by
  have hfold (cs : List (Nat × Nat)) (a : State × List Byte) :
      (cs.foldl (fun (a : State × List Byte) c => (a.1.localWrite c.1 (a.2.take c.2), a.2.drop c.2)) a).1.kept =
        a.1.kept := by
    induction cs generalizing a with
    | nil => rfl
    | cons c cs ih => exact (ih _).trans (a.1.kept_localWrite _ _)
  exact hfold _ _

/-- No request is honoured while each names a core that holds a group of its contexts. -/
theorem State.honour_of_residents (h : ∀ p ∈ s.work.preempts, ∃ c ∈ p.1, ∃ e ∈ s.residents c, e.2.ctx ∈ p.2) :
    s.honour = s := by
  have hwork : ∀ p ∈ s.work.preempts, (p.1.any fun c => s.holdsWork c p.2) = true := by
    intro p hp
    obtain ⟨c, hc, e, he, hctx⟩ := h p hp
    refine List.any_eq_true.mpr ⟨c, hc, Bool.or_eq_true_iff.mpr (.inl (List.any_eq_true.mpr ⟨e, he, ?_⟩))⟩
    simpa using hctx
  have hdone : (s.work.preempts.filter fun p => !p.1.any fun c => s.holdsWork c p.2) = [] :=
    List.filter_eq_nil_iff.mpr fun p hp => by simp [hwork p hp]
  have hstay : (s.work.preempts.filter fun p => !!p.1.any fun c => s.holdsWork c p.2) = s.work.preempts :=
    List.filter_eq_self.mpr fun p hp => by simp [hwork p hp]
  simp only [State.honour, hdone, hstay]
  rfl

/-- The record of a saved program. -/
def Msq.saved (m : Msq) : MsqSaved :=
  { group := m.group, ctx := m.ctx, obj := m.obj, m := m.m, pc := m.pc, counter := m.counter
    c0 := m.c0, j := m.j, mflags := m.mflags, banks := m.banks, acc := m.acc, poison := m.poison
    side := m.side, fresh := m.fresh }

/-- The save area with a place that is taken. -/
def Ctx.claimed (x : Ctx) (gi n : Nat) : Ctx :=
  { x with saves := x.saves ++ [{ group := gi, off := (x.savePlace n).getD 0, size := n }] }

/-- The state in which the image of a program that is saved has been written to its context's save area. -/
def State.imageStored (s : State) (c : Nat) : State :=
  let m := s.msq c
  let v := (s.claimSave m.ctx m.group matrixSize).2
  let v := v.localStore (s.claimSave m.ctx m.group matrixSize).1 (m.saveImage v.freeCount)
  State.forget { v with freeCount := v.freeCount + 65536 } fun w => w = .msq c

theorem State.saveMatrix_eq (c : Nat) :
    s.saveMatrix c = ((s.imageStored c).setCtx (s.msq c).ctx { (s.imageStored c).ctx (s.msq c).ctx with
      savedMsq := ((s.imageStored c).ctx (s.msq c).ctx).savedMsq ++ [(s.msq c).saved] }).setMsq c (s.msq c).stopped :=
  rfl

theorem State.outside_freeCount (n : Nat) : ({ s with freeCount := n } : State).outside = s.outside := rfl

/-- The writing of the image takes its place in the save area, and is otherwise of the memory system alone. -/
theorem State.outside_imageStored (c : Nat) : (s.imageStored c).outside =
    (s.setCtx (s.msq c).ctx ((s.ctx (s.msq c).ctx).claimed (s.msq c).group matrixSize)).outside := by
  unfold State.imageStored
  dsimp only
  rw [State.outside_forget, State.outside_freeCount, State.outside_of_kept (State.kept_localStore _ _ _)]
  rfl

/-- What the save of a matrix program leaves: it ends, and its context has its record. -/
theorem State.saveMatrix_spec (c : Nat) :
    (s.saveMatrix c).work = s.work ∧
    (s.saveMatrix c).ctxs = s.ctxs.set {} (s.msq c).ctx { (s.ctx (s.msq c).ctx).claimed (s.msq c).group matrixSize with
      savedMsq := (s.ctx (s.msq c).ctx).savedMsq ++ [(s.msq c).saved] } ∧
    (s.saveMatrix c).cores = s.cores.set {} c { s.core c with msq := (s.msq c).stopped } := by
  have ht := s.outside_imageStored c
  rw [s.saveMatrix_eq]
  generalize s.imageStored c = t at ht ⊢
  have hcores : t.cores = s.cores := (State.cores_of_outside ht).trans (State.cores_setCtx _ _ _)
  rw [State.ctx_of_outside ht, State.ctx_setCtx_same]
  have hcore : t.core c = s.core c := congrArg (fun m : AMap Core => m.get {} c) hcores
  refine ⟨?_, ?_, ?_⟩
  · rw [State.setMsq, State.work_setCore, State.work_setCtx, State.work_of_outside ht, State.work_setCtx]
  · rw [State.setMsq, State.ctxs_setCore]
    simp only [State.setCtx, State.ctxs_of_outside ht, AMap.set_set, Ctx.claimed]
  · unfold State.setMsq State.setCore
    rw [State.core_setCtx, State.cores_setCtx, hcore, hcores]

/-- A halted program with no word in flight, where a request in force stops it, is saved. -/
theorem State.execMsqStateSave_of_halted {c : Nat} (hrun : (s.msq c).running = true) (hhalt : (s.msq c).halted = true)
    (hquiet : s.msqQuiet (s.msq c).group = true) (hpre : s.preempting c (s.msq c).ctx = true)
    (hplace : ((s.ctx (s.msq c).ctx).savePlace matrixSize).isSome = true)
    (hcan : (s.launch (s.group (s.msq c).group).launch).cancelled = false) :
    execMsqStateSave c s = .next (s.saveMatrix c).honour :=
  congrArg Host.Outcome.next (if_pos (by rw [hrun, hhalt, hquiet, hpre, hplace, hcan]; rfl))

end save

/-- Settles O41: the lines of the range leave the caches by their keys alone; a word that completes, and a program that
begins, change their sequencer; and a save takes its place in the context before the memory system holds its image. -/
theorem codeAndMatrixEvents : Obligations.CodeAndMatrixEvents := by
  unfold Obligations.CodeAndMatrixEvents
  intro s core id m
  refine ⟨fun asid va n hfound => ?icinv, ?word, fun r bs hrun hbg hr => ?start,
    fun off hrun hhalt hbg hin herr hcore hpre hcan hplace hheld => ?save⟩
  case icinv =>
    intro hit
    have hkey := s.get_dropCode asid va n
    refine ⟨_, execIcinvComplete_of_found hfound, fun key hk => ?_, fun key hk => ?_, fun u hu => ?_,
      fun e he => ?_, rfl, fun _ _ _ => rfl⟩
    · obtain ⟨hi, hm⟩ := hkey key
      exact ⟨hi.trans (if_pos (codeIn_iff.mpr hk)), hm.trans (if_pos (codeIn_iff.mpr hk))⟩
    · obtain ⟨hi, hm⟩ := hkey key
      exact ⟨hi.trans (if_neg (mt codeIn_iff.mp hk)), hm.trans (if_neg (mt codeIn_iff.mp hk))⟩
    · exact s.unit_icinvDone id asid va n hu
    · simpa using (List.mem_filter.mp he).2
  case word =>
    intro m' becomes
    refine ⟨s.execMatrixWordComplete_of_inWord core id, fun hw => ?_⟩
    refine (s.execMatrixWordComplete_of_between core id hw).trans ?_
    rw [s.msqSettle_setMsq core (m := (s.msq core).without id) hw rfl]
    rfl
  case start =>
    intro same begun hreads hlen
    let v := s.setMsq core ((s.msq core).begun r)
    have hcounter : v.ReqReads (v.msqReq core (v.msq core).counter) bs := by
      rw [State.msq_setMsq, State.msqReq_setMsq]
      exact (hreads.setMsq rfl core _).congr rfl rfl rfl
    obtain ⟨hmsq, hbytes⟩ := v.readC0_of_reqReads core hcounter hlen
    refine ⟨v.readC0 core, ?_, ?_, hbytes⟩
    · rw [exec_MSQ_PROGRAM_START, execMsqProgramStart_of_found hrun hbg hr, Msq.begin_eq_begun]
    · rw [hmsq, State.msq_setMsq]
      rfl
  case save =>
    intro x
    have hfree : x.savePlace matrixSize = some off := hplace
    obtain ⟨hwork, hctxs, hcores⟩ := s.saveMatrix_spec core
    have hhonour : (s.saveMatrix core).honour = s.saveMatrix core := by
      refine State.honour_of_residents _ ?_
      simpa only [State.residents, hwork] using hheld
    have hquiet : s.msqQuiet (s.msq core).group = true := by
      simp [State.msqQuiet, hcore, show s.msq core = m from rfl, hbg, hin, herr]
    have hexec := s.execMsqStateSave_of_halted hrun hhalt hquiet hpre (by rw [hfree]; rfl) hcan
    rw [hhonour] at hexec
    refine ⟨s.saveMatrix core, hexec, ?_, hwork, ?_, fun c hc => ?_, fun c hc => ?_⟩
    · rw [State.msq, State.core, hcores, AMap.get_set_same]
    · rw [State.ctx, hctxs, AMap.get_set_same, Ctx.claimed, hfree]
      rfl
    · rw [State.ctx, hctxs, AMap.get_set_other _ _ _ _ _ hc, State.ctx]
    · rw [State.core, hcores, AMap.get_set_other _ _ _ _ _ hc, State.core]

end Sys2Proof.Machine
end

section
/-!
SUPPORT. The refutation of O28, by a launch whose place in the overflow ring is also the place of a spilled wait.
-/

namespace Sys2Proof.Machine

open Sys2Proof

/-! ## A ring record that overwrites a spilled wait

O28 says what the line of a ring place holds after the launch has written its record there. A write to a line is judged
against the spilled waits of its slice (spec 14 R216, R220), and one that ends is cleared in its context's spill segment
(spec 14 R219). No hypothesis keeps that segment apart from the ring: in `watchedRing` the spilled wait is for the word
at the ring's place and has its record at that place too, so that the bytes of the launch record do not stay there. -/

/-- A spilled wait for the word at 65,536 to be 0. -/
def ringWait : MonEntry :=
  { asid := 0, va := 65536, wide := false, signed := false, cmp := .eq, operand := 0, deadline := none, cls := 0, ctx := 0
    token := 0, core := 0, part := 0, slot := 0, stamp := 0, moved := true, fired := none }

/-- A unit at a launch record of zeros, whose context has the next place of its ring, and the first record of its spill
segment, at 65,536. A leaf of 1 GiB, behind tables at 0 and 4,096, maps these addresses to themselves. -/
def watchedRing : State :=
  { mem := { phys := [(0, 0x01), (1, 0x10), (4096, 0x01), (4097, 0x20), (8192, 0x1B)]
             homeRoots := [(0, 2 ^ 20)]
             l2 := [(0, [lineOfZeros 0]), (8, [lineOfZeros 512])]
             slices := [(0, { spilled := [{ entry := ringWait, index := 0 }] })] }
    work := { units := [(0, { live := true, nregs := 256, x := 1, o := 1, homes := [(0, 0)] })]
              groups := [(0, { phase := .resident })] }
    ctxs := [(0, { ring := { base := 65536, size := 128 }, ringRecs := [7], spill := { base := 65536, size := 32 } })]
    host := { slices0 := 1, slices1 := 0 } }

theorem acts_watchedRing : Acts watchedRing (.LAUNCH bareHead (bareFields none)) bareHead :=
  ⟨{ ready := by decide
     clear := rfl
     head := rfl
     rate := fun h => absurd h (by decide)
     fresh := by decide
     passes := by decide
     sound := by decide }, by decide⟩

/-- Its leader reads a record of zeros at address 0, of which L1 has no copy. -/
theorem reads_watchedRing : watchedRing.Reads 0 0 64 (List.replicate 64 0) := by
  refine ⟨⟨by decide, by decide, rfl, nofun, lineOfZeros 0, by decide, rfl, rfl, rfl, rfl⟩, fun m hm => ?_⟩
  have hnone : watchedRing.l1Find 0 0 0 = none := by decide
  cases hnone.symm.trans hm

/-- A slice holds the line of the ring's place. -/
theorem localLine_watchedRing : watchedRing.localLine 65536 = some (0, lineOfZeros 512) := by decide +kernel

/-- The launch leaves the cleared record of the wait at the ring's place, before the rest of its own record. -/
theorem exec_watchedRing : ∃ t, exec (.LAUNCH bareHead (bareFields none)) watchedRing = .next t ∧
    (t.findLine 0 0 512).map (fun m => (m.data.drop 0).take 64) =
      some (ringWait.record false ++ List.replicate 32 0) :=
  ⟨_, rfl, by decide +kernel⟩

/-- Refutes O28, by its part on a record in the overflow ring: in `watchedRing` the write of the record ends a spilled
wait, and the clearing of the wait's own record writes the same bytes again. -/
theorem not_creatingWork : ¬ Obligations.CreatingWork := by
  unfold Obligations.CreatingWork
  intro h
  obtain ⟨-, -, hlaunch⟩ := h watchedRing bareHead (bareFields none)
  obtain ⟨-, hring, -⟩ := hlaunch (List.replicate 64 0) acts_watchedRing reads_watchedRing
  obtain ⟨t, n, hx, -, -, -, -, -, hline⟩ := hring (.inr (by decide)) (by decide) (by decide)
  have hbytes := hline 0 (lineOfZeros 512) localLine_watchedRing rfl rfl
  obtain ⟨v, hv, hleft⟩ := exec_watchedRing
  obtain rfl : v = t := Host.Outcome.next.inj (hv.symm.trans hx)
  exact absurd (hleft.symm.trans hbytes) (by decide)

end Sys2Proof.Machine
end

section
/-!
SUPPORT. The refutation of O48, by a unit whose number a new wave takes.
-/

namespace Sys2Proof.Machine

open Sys2Proof

/-! ## A parked wave with a number that is still to be given out

O48 asks of the group that its number has been given out (`gi < s.seq`), but not of its units. In `numberedAhead` the
next stamps are 1 and 2, and the parked unit of group 0 is number 2: the request stops it, and then the core is offered
to its spawn pool (spec 07 R124), where another context's record has room, and the wave of that new group is unit 2. -/

/-- The record of a spawn pool with one group of one wave. -/
def oneWaveRec : PoolRec :=
  { launch := 5, entry := 0, regs := 8, scratch := 0, tiles := 0, waves := 1, next := 0, left := 1 }

/-- Group 0 of context 1 on core 0, which cannot be discarded, with its sleeping unit, and a record of context 0 in the
core's pool. -/
def numberedAhead : State :=
  { work := { units := [(2, { live := true, ctx := 1, group := 0, park := .sleep 5 })]
              groups := [(0, { phase := .resident, ctx := 1, idemEnded := true })]
              launches := [(5, { phase := .started, banked := [0] })] }
    cores := [(0, { pool := [oneWaveRec] })] }

/-- The unit is of no other group. -/
theorem group_of_mem_unitsOf_numberedAhead {g : Nat} (h : 2 ∈ numberedAhead.unitsOf g) : g = 0 := by
  by_contra hg
  have hnone : numberedAhead.unitsOf g = [] := by
    simp [State.unitsOf, AMap.findAll, AMap.keys, numberedAhead, Ne.symm hg]
  rw [hnone] at h
  cases h

/-- Unit 2 is afterwards the first wave of a new group, and runs. -/
theorem exec_numberedAhead : ∃ t, exec (.PREEMPT_REQUEST [0] [1]) numberedAhead = .next t ∧
    (t.unit 2).group = 1 ∧ (t.unit 2).stopped = false :=
  ⟨_, rfl, by decide +kernel⟩

/-- Refutes O48, by its part on the parked waves of a group that a request stops: in `numberedAhead` the wave of a group
that is placed within the same step has the number of such a wave. -/
theorem not_preemption : ¬ Obligations.Preemption := by
  unfold Obligations.Preemption
  intro h
  obtain ⟨hrequest, -⟩ := h numberedAhead 0 0 0 [0] [1]
  obtain ⟨t, hx, -, hstops⟩ := hrequest (by decide) (by decide) (by decide) (by decide)
  obtain ⟨-, -, hparked⟩ := hstops (by decide)
  have hstopped := hparked 2 (by decide) (by decide) (fun g => group_of_mem_unitsOf_numberedAhead) (by decide)
  obtain ⟨v, hv, -, hruns⟩ := exec_numberedAhead
  obtain rfl : v = t := Host.Outcome.next.inj (hv.symm.trans hx)
  exact Bool.false_ne_true (hruns.symm.trans hstopped)

end Sys2Proof.Machine
end

section
/-!
SUPPORT. The refutation of O54, by a state whose map of groups lists one group twice.
-/

namespace Sys2Proof.Machine

open Sys2Proof

/-! ## A rate wave behind an entry that no group shows

O54 speaks of every state, also of one whose map of groups lists a key twice and so is not in its canonical form
(`AMap.wf`). A read takes the first entry of a group, but the group in which a rate wave has just been placed is looked
for among all entries of its launch with a unit of no rate yet (spec 18 R263): in `shadowedGroup` the second entry of
group 7, which no read shows, comes before it. -/

/-- Draw 1, whose F element can start; and group 7, whose second entry alone is of launch 1, with a unit. -/
def shadowedGroup : State :=
  { work := { units := [(6, { live := true, group := 7 })]
              groups := [(7, { phase := .resident }), (7, { phase := .resident, launch := 1 })]
              launches := [(1, { phase := .started, form := { regs := 8, cores := 1 }, banked := [0] })]
              draws := [(1, { live := true, elems := [(3, { rate := .F, phase := .ready })] })] }
    seq := 9 }

/-- No group that can be read is of launch 1. -/
theorem launch_group_shadowedGroup (g : Nat) : (shadowedGroup.group g).launch = 0 := by
  by_cases hg : 7 = g <;> simp [State.group, shadowedGroup, AMap.get, hg]

/-- Its one element is of rate F. -/
theorem startables_shadowedGroup {q : Rate} (hq : q ≠ .F) : (shadowedGroup.draw 1).startables q = [] := by
  simp [State.draw, shadowedGroup, Draw.startables, AMap.findAll, AMap.keys, AMap.get, Ne.symm hq]

/-- The wave that has been placed stays without a rate. -/
theorem exec_shadowedGroup : ∃ t, exec (.RATE_WAVE_START 1 .F 0) shadowedGroup = .next t ∧ (t.unit 10).rate = .K :=
  ⟨_, rfl, by decide +kernel⟩

/-- Refutes O54, by its part on the wave that starts: in `shadowedGroup` the elements go to the unit of another group,
whose second entry in the map of groups is taken for the one that was placed. -/
theorem not_wavesAndPixels : ¬ Obligations.WavesAndPixels := by
  unfold Obligations.WavesAndPixels
  intro h
  obtain ⟨hstart, -⟩ := h shadowedGroup 1 0 0 .F
  obtain ⟨t, hx, -, -, -, ⟨-, -, hrate, -⟩, -⟩ := hstart [3] [{ part := 0, slot := 0, base := 0, unit := none }] 0
    (by decide) (by decide) (by decide) (by decide) (by decide)
    (fun q hq => startables_shadowedGroup fun hF => absurd (hF ▸ hq) (by decide)) (by decide) (by decide)
    (by decide) (by decide) (by decide) (fun g hg => absurd ((launch_group_shadowedGroup g).symm.trans hg) (by decide))
    (by decide) (by decide +kernel)
  obtain ⟨v, hv, hnone⟩ := exec_shadowedGroup
  obtain rfl : v = t := Host.Outcome.next.inj (hv.symm.trans hx)
  have hplaced : (v.unit 10).rate = .F := hrate
  rw [hnone] at hplaced
  cases hplaced

end Sys2Proof.Machine
end

section
/-!
SUPPORT. Comparisons, special registers, and wave-wide instructions whose guard lets no lane act: the proofs of O4, O12
and O19 (spec 08 R133, R138, R141, spec 10 R158).
-/

namespace Sys2Proof.Machine

open Sys2Proof

/-! ## Comparisons (spec 08 R138) -/

/-- A per-lane test that issues, where its sources do not turn on whether the unit was held. -/
theorem MaskResult.of_laneTest {s : State} {i : Instr} {h : Head} {f : AluF} {g : Wave → Nat → Bool × Word}
    (hi : Issues s i h) (hg : g { s.unit s.cur with held := false } = g (s.unit s.cur))
    (hx : exec i s = .next (laneTest i h f g s)) :
    MaskResult s i ((s.unit s.cur).acting h) f.d.toNat (fun l => (g (s.unit s.cur) l).1)
      fun l => (g (s.unit s.cur) l).2 := by
  refine .of_writes s i h _ (maskOf fun l => (g (s.unit s.cur) l).1) _ _ _ hi ?_ fun l hl _ => inMask_maskOf _ l hl
  rw [hx, laneTest, State.lanesOp_of_issues s i h _ hi, State.lanesOp_of_issues s i h _ hi]
  simp only [Wave.acting_held, hg]
  rw [Wave.setKLanes_eq]

/-- The truth of a comparison in a lane: of the integers of an integer type, of the values of a float type. -/
def cmpTruth (p : Int → Int → Bool) (q : Fl → Fl → Bool) (w : Wave) (_ : Head) (f : AluF) (l : Nat) : Bool :=
  match f.ty.fmt? with
  | none => p (f.ty.toInt (w.opA f l)) (f.ty.toInt (w.opB f l))
  | some t => q (t.unpack (w.opA f l)) (t.unpack (w.opB f l))

/-- The operands for which a comparison raises NV: any NaN, or, where it is quiet, a signalling one. -/
def raisesNV (quiet : Bool) (x y : Fl) : Bool :=
  if quiet then x.signalling || y.signalling else x.isNaN || y.isNaN

/-- The flags of a comparison in a lane: none of an integer type. -/
def cmpFlags (quiet : Bool) (w : Wave) (_ : Head) (f : AluF) (l : Nat) : Word :=
  match f.ty.fmt? with
  | none => 0
  | some t => flagIf (raisesNV quiet (t.unpack (w.opA f l)) (t.unpack (w.opB f l))) flagNV

/-- A comparison of which the integers and the floats are given completes with those truths and flags. -/
theorem TestLaw.of_laneCmp {mk : Head → AluF → Instr} {c : CmpOp} {p : Int → Int → Bool} {q : Fl → Fl → Bool}
    {quiet : Bool} (hx : ∀ s h f, exec (mk h f) s = .next (laneCmp (mk h f) h f c s)) (hp : ∀ a b, c.ints a b = p a b)
    (hq : ∀ t a b, c.floats t a b
      = (q (t.unpack a) (t.unpack b), flagIf (raisesNV quiet (t.unpack a) (t.unpack b)) flagNV)) :
    TestLaw mk (cmpTruth p q) (cmpFlags quiet) := by
  have htest (w : Wave) (h : Head) (f : AluF) (l : Nat) :
      c.test f.ty (w.opA f l) (w.opB f l) = (cmpTruth p q w h f l, cmpFlags quiet w h f l) := by
    unfold CmpOp.test cmpTruth cmpFlags
    cases f.ty.fmt? with
    | none => exact congrArg (·, 0) (hp _ _)
    | some t => exact hq t _ _
  intro s h f hi
  have hr := MaskResult.of_laneTest (g := fun w l => c.test f.ty (w.opA f l) (w.opB f l)) hi rfl (hx s h f)
  simpa only [htest _ h] using hr

/-- Settles O4: each comparison by its integers and its floats; the model says of each float comparison in its own words
where a NaN makes it false. -/
theorem comparisons : Obligations.Comparisons := by
  unfold Obligations.Comparisons
  intro onInts law num
  have hlaw : ∀ mk p q quiet, law mk p q quiet = TestLaw mk (cmpTruth p q) (cmpFlags quiet) := fun _ _ _ _ => rfl
  simp only [hlaw]
  refine ⟨.of_laneCmp (c := .eq) (fun _ _ _ => rfl) (fun _ _ => rfl) ?eq,
    .of_laneCmp (c := .ne) (fun _ _ _ => rfl) (fun _ _ => rfl) ?ne,
    .of_laneCmp (c := .lt) (fun _ _ _ => rfl) (fun _ _ => rfl) ?lt,
    .of_laneCmp (c := .le) (fun _ _ _ => rfl) (fun _ _ => rfl) ?le,
    .of_laneCmp (c := .gt) (fun _ _ _ => rfl) (fun _ _ => rfl) ?gt,
    .of_laneCmp (c := .ge) (fun _ _ _ => rfl) (fun _ _ => rfl) ?ge,
    .of_laneCmp (c := .num) (fun _ _ _ => rfl) (fun _ _ => rfl) ?num,
    .of_laneCmp (c := .nan) (fun _ _ _ => rfl) (fun _ _ => rfl) fun _ _ _ => rfl⟩
  case eq | ne => exact fun t a b => by simp only [CmpOp.floats, Fl.eq, num, raisesNV, if_true, Bool.and_assoc]
  case num => exact fun t a b => by simp only [CmpOp.floats, num, raisesNV, if_true, Bool.not_or, Bool.and_true]
  case lt | le | gt | ge =>
    exact fun t a b => by simp only [CmpOp.floats, num, raisesNV, Bool.false_eq_true, if_false, Bool.not_or]

/-! ## Wave-wide instructions that do not act (spec 08 R133) -/

section idle

variable {s : State} {h : Head} (hn : (s.unit s.cur).acts h = false)
include hn

theorem UnitTo.of_idle {i : Instr} {g : State → State} (hx : exec i s = .next (s.waveOp i h g)) (hi : Issues s i h) :
    UnitTo s i ((s.unit s.cur).after i) := by
  rw [UnitTo, hx, State.waveOp_of_idle s i h g hi hn]

/-- A branch whose guard does not pass records its outcome in a draw alone (spec 18 R265). -/
theorem UnitTo.of_idle_bra (hc : Computes s) {off : BitVec 32} (hi : Issues s (.BRA h off) h) :
    UnitTo s (.BRA h off) ((s.unit s.cur).after (.BRA h off)) := by
  have hrec := State.recordPath_of_computes h (fun _ => false) (hc.setUnit_movedTo (s.unit s.cur).pc)
  rw [State.cur_setUnit] at hrec
  rw [UnitTo, exec_BRA, execBra, State.issue_of_issues _ _ h _ hi]
  simp only [State.cur_setUnit, State.unit_setUnit_same, Wave.unheld_eq_movedTo, Wave.acts_movedTo, hrec, hn,
    Bool.false_eq_true, if_false, State.advance_setUnit_movedTo, Wave.after_eq_movedTo]

end idle

/-- Settles O12: every one of them but bra has the form `State.waveOp`, which asks whether it acts before any effect. -/
theorem notActingOnlyAdvances : Obligations.NotActingOnlyAdvances := by
  unfold Obligations.NotActingOnlyAdvances
  intro s h f g code base r q off sp obs hn hc
  simp only [List.forall_mem_cons, List.not_mem_nil, false_imp_iff, implies_true, and_true]
  refine ⟨?exit, ?trap, ?brk, ?icinv, UnitTo.of_idle_bra hn hc, ?call, ?jmp, ?ret, ?brx, ?sysr, ?sysw, ?kand, ?kor,
    ?kxor, ?knot, ?kmovKK, ?kmovKV, ?kmovVK, ?kpop, ?kffs, ?xget, ?xset, ?xand, ?fenceAcq, ?fenceRel, ?discard, ?waitu,
    ?sleep, ?spawn, ?launch, ?trig, ?waitp, ?cancel, ?ccnt, ?tarm, ?twait, ?trel, ?tstat, ?tcopy, ?mstart, ?coll⟩
  all_goals exact UnitTo.of_idle hn rfl

/-! ## Special registers (spec 08 R141) -/

/-- A special register reads of the state neither its units nor, of the reading one, the pc and whether it is held. -/
@[simp] theorem State.special_setUnit (s : State) (u : Nat) (v w : Wave) (sp : Special) (l : Nat) :
    (s.setUnit u v).special w sp l = s.special w sp l := rfl

@[simp] theorem State.special_movedTo (s : State) (w : Wave) (p : DWord) (sp : Special) (l : Nat) :
    s.special (w.movedTo p) sp l = s.special w sp l := by
  cases sp <;> rfl

/-- A unit with a value of its own written in each lane of a mask: what sysr makes of its unit. -/
def Wave.setLanes (w : Wave) (m : Mask) (wide : Bool) (d : Nat) (v : Nat → Nat) : Wave :=
  w.eachLane (lanesOf m) fun w l => w.setVal wide d l (v l)

theorem Wave.eachLane_setVal (w : Wave) (m : Mask) (wide : Bool) (d : Nat) (v : Nat → Nat) :
    (w.eachLane (lanesOf m) fun w l => w.setVal wide d l (v l)) = w.setLanes m wide d v := rfl

@[simp] theorem Wave.setLanes_movedTo (w : Wave) (p : DWord) (m : Mask) (wide : Bool) (d : Nat) (v : Nat → Nat) :
    (w.movedTo p).setLanes m wide d v = (w.setLanes m wide d v).movedTo p :=
  List.foldl_hom (Wave.movedTo · p) fun w l => w.setVal_movedTo p wide d l (v l)

/-- An instruction that writes a value of its own in each lane of a mask raises no flag. -/
theorem LaneResult.of_setLanes {s : State} {i : Instr} {m : Mask} {d : Nat} {wide : Bool} {v : Nat → Nat}
    {P : Nat → Nat → Prop} (hu : UnitTo s i (((s.unit s.cur).after i).setLanes m wide d v))
    (hP : ∀ l, P l (v l % 2 ^ destBits wide)) : LaneResult s i m d wide P fun _ => 0 := by
  have hflags : (lanesOf m).foldl (fun a _ => a ||| (0 : Word)) (s.unit s.cur).fflags = (s.unit s.cur).fflags := by
    simp
  refine ⟨_, hu, ?_, fun l hl hm => ?_, fun q l hl hn => ?_⟩
  · rw [hflags]
    exact Wave.foldl_setVal_eq wide d v _ _
  · rw [Wave.setLanes, Wave.eachLane, Wave.val_foldl wide d v _ _ (lanesOf_lt m) (lanesOf_nodup m) l
      ((mem_lanesOf m l).mpr ⟨hl, hm⟩)]
    exact hP l
  · exact Wave.reg_foldl_other wide d v _ _ (lanesOf_lt m) q l hl fun ⟨hmem, hq⟩ =>
      hn ⟨((mem_lanesOf m l).mp hmem).2, hq⟩

theorem UnitTo.of_sysr {s : State} {h : Head} {r : BitVec 8} {sp : Special} (ha : Acts s (.SYSR h r sp) h) :
    UnitTo s (.SYSR h r sp) (((s.unit s.cur).after (.SYSR h r sp)).setLanes ((s.unit s.cur).destMask h) sp.wide r.toNat
      (s.special (s.unit s.cur) sp)) := by
  rw [UnitTo, exec_SYSR, execSysr, State.waveOp_of_acts _ _ _ _ ha]
  simp only [State.cur_setUnit, State.unit_setUnit_same, State.setUnit_setUnit, Wave.unheld_eq_movedTo,
    Wave.destMask_movedTo, State.special_setUnit, State.special_movedTo, Wave.eachLane_setVal, Wave.setLanes_movedTo,
    State.advance_setUnit_movedTo, Wave.after_eq_movedTo]

/-- A value that sysw writes to %fflags keeps the defined flags alone (spec 10 R158). -/
theorem UnitTo.of_sysw_fflags {s : State} {h : Head} {r : BitVec 8} (ha : Acts s (.SYSW h .fflags r) h) :
    UnitTo s (.SYSW h .fflags r) { (s.unit s.cur).after (.SYSW h .fflags r) with
      fflags := (s.unit s.cur).reg r.toNat ((s.unit s.cur).leader h) &&& 0x3F } := by
  have hval (w : Wave) : BitVec.ofNat 32 (w.val Special.fflags.wide r.toNat (w.leader h)) &&& flagMask
      = w.reg r.toNat (w.leader h) &&& 0x3F := by
    rw [show w.val Special.fflags.wide r.toNat (w.leader h) = (w.reg r.toNat (w.leader h)).toNat from rfl,
      BitVec.ofNat_toNat, BitVec.setWidth_eq, flagMask]
  refine UnitTo.of_waveOp (f := fun w => { w with fflags := w.reg r.toNat (w.leader h) &&& 0x3F }) ha
    (fun _ _ => rfl) ?_
  rw [exec_SYSW, execSysw]
  simp only [reduceCtorEq, if_false, hval]

/-- Settles O19: in a compute launch `State.special` is the value of each special register, and sysw keeps the bits of
`flagMask`. -/
theorem specialRegisters : Obligations.SpecialRegisters := by
  unfold Obligations.SpecialRegisters
  intro s h r sp w g home value
  refine ⟨fun ha hc => .of_setLanes (.of_sysr ha) fun l => congrArg (· % _) ?_, .of_sysw_fflags⟩
  have hlive : (s.draw (s.unit s.cur).launch).live = false := hc
  cases sp with
  | wave | grp => simp [State.special, hlive, value, home, g, w]
  | gsize => simp [State.special, hlive, value, g, w, mul_comm]
  | elem => simp [State.special, hlive, value, home, g, w, mul_comm]
  | _ => rfl

end Sys2Proof.Machine
end

section
/-!
SUPPORT. Integers as patterns of W bits, and the per-lane instructions that write one register or pair: the proofs of
O1, O2, O3 and O5 (spec 10 R149 to R161).
-/

namespace Sys2Proof

/-! ## Integers as patterns (spec 10 R151) -/

theorem wrap_eq (w : Nat) (v : Int) : (wrap w v : Int) = v % 2 ^ w := by
  unfold wrap
  exact Int.toNat_of_nonneg (Int.emod_nonneg _ (by positivity))

theorem wrap_lt_two_pow (w : Nat) (v : Int) : wrap w v < 2 ^ w := by
  have h : (wrap w v : Int) < 2 ^ w := wrap_eq w v ▸ Int.emod_lt_of_pos _ (by positivity)
  exact_mod_cast h

@[simp] theorem wrap_mod (w : Nat) (v : Int) : wrap w v % 2 ^ w = wrap w v :=
  Nat.mod_eq_of_lt (wrap_lt_two_pow w v)

theorem wrap_natCast (w n : Nat) : wrap w n = n % 2 ^ w := by
  have h : (wrap w n : Int) = (n % 2 ^ w : Nat) := by
    rw [wrap_eq]
    push_cast
    rfl
  exact_mod_cast h

theorem Ty.width_pos (t : Ty) : 0 < t.width := by
  unfold Ty.width
  split <;> decide

/-- The patterns of a width, halved at the sign. -/
theorem Ty.two_pow_width (t : Ty) : 2 ^ t.width = 2 * 2 ^ (t.width - 1) := by
  rw [← Nat.pow_succ', Nat.succ_eq_add_one, Nat.sub_add_cancel t.width_pos]

/-- A pattern stands for an integer that is alike modulo 2^W. -/
theorem Ty.toInt_emod (t : Ty) (n : Nat) : t.toInt n % 2 ^ t.width = (n : Int) % 2 ^ t.width := by
  unfold Ty.toInt
  split
  · exact Int.sub_emod_right _ _
  · rfl

/-- The top bit of a number of two halves says in which it lies. -/
theorem div_mod_two_iff {n p : Nat} (hp : 0 < p) (h : n < 2 * p) : n / p % 2 = 1 ↔ p ≤ n := by
  have hdiv : n / p < 2 := Nat.div_lt_of_lt_mul (by omega)
  rw [← Nat.one_le_div_iff hp]
  generalize n / p = q at *
  omega

/-- The integer that a pattern of W bits stands for (spec 10 R151). -/
theorem Ty.toInt_of_lt (t : Ty) {n : Nat} (h : n < 2 ^ t.width) :
    t.toInt n = if t.signed = true ∧ 2 ^ (t.width - 1) ≤ n then (n : Int) - 2 ^ t.width else n := by
  rw [t.two_pow_width] at h
  unfold Ty.toInt
  simp only [Bool.and_eq_true, decide_eq_true_eq, div_mod_two_iff (Nat.two_pow_pos _) h]

/-- An integer of a type's range is what its pattern stands for. -/
theorem Ty.toInt_wrap_of_range (t : Ty) {v : Int} (hlo : t.minInt ≤ v) (hhi : v ≤ t.maxInt) :
    t.toInt (wrap t.width v) = v := by
  have hpow : (2 : Int) ^ t.width = 2 * 2 ^ (t.width - 1) := by exact_mod_cast t.two_pow_width
  have hpos : (0 : Int) < 2 ^ (t.width - 1) := by positivity
  have hw := wrap_eq t.width v
  have hcast : 2 ^ (t.width - 1) ≤ wrap t.width v ↔ (2 : Int) ^ (t.width - 1) ≤ wrap t.width v := by
    exact_mod_cast Iff.rfl
  simp only [t.toInt_of_lt (wrap_lt_two_pow _ _), hcast]
  unfold Ty.minInt Ty.maxInt at *
  cases hs : t.signed with
  | true =>
    simp only [hs, if_true] at hlo hhi
    rcases lt_or_ge v 0 with hv | hv
    · rw [← Int.add_emod_right, Int.emod_eq_of_lt (by omega) (by omega)] at hw
      rw [if_pos ⟨rfl, by omega⟩, hw]
      omega
    · rw [Int.emod_eq_of_lt hv (by omega)] at hw
      rw [if_neg (by omega), hw]
  | false =>
    simp only [hs, Bool.false_eq_true, if_false] at hlo hhi
    rw [if_neg nofun, hw, Int.emod_eq_of_lt hlo (by omega)]

theorem Ty.minInt_le_maxInt (t : Ty) : t.minInt ≤ t.maxInt := by
  have h1 : (1 : Int) ≤ 2 ^ (t.width - 1) := by exact_mod_cast Nat.one_le_two_pow
  have h2 : (1 : Int) ≤ 2 ^ t.width := by exact_mod_cast Nat.one_le_two_pow
  unfold Ty.minInt Ty.maxInt
  split <;> omega

/-- Clamping, case by case. -/
theorem Ty.clamp_of_range {t : Ty} {v : Int} (hlo : t.minInt ≤ v) (hhi : v ≤ t.maxInt) : t.clamp v = (v, false) := by
  rw [Ty.clamp, if_neg (by omega), if_neg (by omega)]

theorem Ty.clamp_of_lt {t : Ty} {v : Int} (h : v < t.minInt) : t.clamp v = (t.minInt, true) := by
  have := t.minInt_le_maxInt
  rw [Ty.clamp, if_neg (by omega), if_pos h]

theorem Ty.clamp_of_gt {t : Ty} {v : Int} (h : t.maxInt < v) : t.clamp v = (t.maxInt, true) := by
  rw [Ty.clamp, if_pos h]

theorem Ty.clamp_fst (t : Ty) (v : Int) : (t.clamp v).1 = max t.minInt (min t.maxInt v) := by
  have := t.minInt_le_maxInt
  rcases lt_or_ge v t.minInt with hlo | hlo
  · rw [Ty.clamp_of_lt hlo]
    omega
  · rcases lt_or_ge t.maxInt v with hhi | hhi
    · rw [Ty.clamp_of_gt hhi]
      omega
    · rw [Ty.clamp_of_range hlo hhi]
      omega

theorem Ty.toInt_wrap_clamp (t : Ty) (v : Int) :
    t.toInt (wrap t.width (t.clamp v).1) = max t.minInt (min t.maxInt v) := by
  have := t.minInt_le_maxInt
  rw [Ty.clamp_fst]
  exact t.toInt_wrap_of_range (by omega) (by omega)

end Sys2Proof

namespace Sys2Proof.Machine

open Sys2Proof

/-! ## Operands (spec 10 R149, R150) -/

theorem destBits_wide (t : Ty) : destBits t.wide = t.width := rfl

theorem Wave.val_lt (w : Wave) (wide : Bool) (r l : Nat) : w.val wide r l < 2 ^ destBits wide := by
  have hlo := (w.reg r l).isLt
  have hhi := (w.reg (r + 1) l).isLt
  unfold Wave.val destBits
  cases wide
  · simp only [Bool.false_eq_true, if_false]
    omega
  · simp only [if_true]
    omega

@[simp] theorem Wave.val_mod (w : Wave) (t : Ty) (r l : Nat) : w.val t.wide r l % 2 ^ t.width = w.val t.wide r l :=
  Nat.mod_eq_of_lt (w.val_lt t.wide r l)

theorem Wave.opA_lt (w : Wave) (f : AluF) (l : Nat) : w.opA f l < 2 ^ f.ty.width := w.val_lt f.ty.wide _ l

/-! ## Per-lane instructions with a register destination -/

/-- A per-lane instruction that issues, where its sources do not turn on whether the unit was held. -/
theorem LaneResult.of_laneOp {s : State} {i : Instr} {h : Head} {d : BitVec 8} {wide : Bool} {g : Wave → Nat → Res}
    {P : Nat → Nat → Prop} {fl : Nat → Word} (hi : Issues s i h)
    (hx : exec i s = .next (laneOp i h d wide g s)) (hg : g { s.unit s.cur with held := false } = g (s.unit s.cur))
    (hP : ∀ l, P l ((g (s.unit s.cur) l).val % 2 ^ destBits wide)) (hf : ∀ l, (g (s.unit s.cur) l).flags = fl l) :
    LaneResult s i ((s.unit s.cur).acting h) d.toNat wide P fl := by
  refine .of_writes s i h _ _ _ (g (s.unit s.cur)) _ _ hi ?_ (fun l _ _ => hP l) fun l _ _ => hf l
  rw [hx, laneOp, State.lanesOp_of_issues s i h _ hi, State.lanesOp_of_issues s i h _ hi]
  simp only [Wave.laneRes, Wave.acting_held, hg]

/-- A per-lane instruction whose lanes' results are given has the law of which they satisfy the conditions. -/
theorem LaneLaw.of_laneOp {mk : Head → AluF → Instr} {wide : AluF → Bool} {g : Head → AluF → Wave → Nat → Res}
    {P : Wave → Head → AluF → Nat → Nat → Prop} {fl : Wave → Head → AluF → Nat → Word}
    (hx : ∀ s h f, exec (mk h f) s = .next (laneOp (mk h f) h f.d (wide f) (g h f) s))
    (hg : ∀ h f w, g h f { w with held := false } = g h f w)
    (hP : ∀ w h f l, P w h f l ((g h f w l).val % 2 ^ destBits (wide f)))
    (hf : ∀ w h f l, (g h f w l).flags = fl w h f l) : LaneLaw mk wide P fl :=
  fun s h f hi => .of_laneOp hi (hx s h f) (hg h f _) (hP _ h f) (hf _ h f)

/-- The same of an instruction whose law gives the value alone. -/
theorem LaneLaw.of_values {mk : Head → AluF → Instr} {wide : AluF → Bool} {v : Head → AluF → Wave → Nat → Nat}
    {P : Wave → Head → AluF → Nat → Nat → Prop}
    (hx : ∀ s h f, exec (mk h f) s = .next (laneOp (mk h f) h f.d (wide f) (fun w l => pure (v h f w l)) s))
    (hg : ∀ h f w, v h f { w with held := false } = v h f w)
    (hP : ∀ w h f l, P w h f l (v h f w l % 2 ^ destBits (wide f))) : LaneLaw mk wide P noFlags :=
  .of_laneOp hx (fun h f w => by rw [hg h f w]) hP fun _ _ _ _ => rfl

end Sys2Proof.Machine
end

section
namespace Sys2Proof.Machine

open Sys2Proof

/-! ## Integer arithmetic (spec 10 R151) -/

theorem natCast_wrap_mod (w : Nat) (v : Int) : ((wrap w v % 2 ^ w : Nat) : Int) = v % 2 ^ w := by
  rw [wrap_mod, wrap_eq]

/-- A saturating result, and one that is reduced to the same pattern as another integer. -/
theorem toInt_intRes_true (t : Ty) (v : Int) :
    t.toInt ((intRes t true v).val % 2 ^ t.width) = max t.minInt (min t.maxInt v) := by
  rw [← t.toInt_wrap_clamp v]
  exact congrArg t.toInt (wrap_mod _ _)

theorem intRes_false_eq {t : Ty} {u v : Int} (h : u % 2 ^ t.width = v % 2 ^ t.width) :
    (((intRes t false u).val % 2 ^ t.width : Nat) : Int) = v % 2 ^ t.width :=
  (natCast_wrap_mod t.width u).trans h

theorem add_value (t : Ty) (sat : Bool) (a b : Nat) :
    if sat = true then t.toInt ((intRes t sat (t.toInt a + t.toInt b)).val % 2 ^ t.width)
        = max t.minInt (min t.maxInt (t.toInt a + t.toInt b))
      else (intRes t sat (t.toInt a + t.toInt b)).val % 2 ^ t.width = (a + b) % 2 ^ t.width := by
  cases sat
  · exact_mod_cast intRes_false_eq (v := a + b) (Int.ModEq.add (t.toInt_emod a) (t.toInt_emod b))
  · exact toInt_intRes_true t _

theorem sub_value (t : Ty) (sat : Bool) (a b : Nat) :
    if sat = true then t.toInt ((intRes t sat (t.toInt a - t.toInt b)).val % 2 ^ t.width)
        = max t.minInt (min t.maxInt (t.toInt a - t.toInt b))
      else (((intRes t sat (t.toInt a - t.toInt b)).val % 2 ^ t.width : Nat) : Int)
        = ((a : Int) - b) % 2 ^ t.width := by
  cases sat
  · exact intRes_false_eq (Int.ModEq.sub (t.toInt_emod a) (t.toInt_emod b))
  · exact toInt_intRes_true t _

/-! ## Sums and differences through a carry mask (spec 10 R152) -/

section setLanes

variable (w : Wave) (m : Mask) (wide : Bool) (d : Nat) (v : Nat → Nat)

theorem Wave.setLanes_eq : w.setLanes m wide d v = { w with regs := (w.setLanes m wide d v).regs } :=
  Wave.foldl_setVal_eq wide d v _ _

theorem Wave.val_setLanes {l : Nat} (hl : l < 32) (hm : inMask m l = true) :
    (w.setLanes m wide d v).val wide d l = v l % 2 ^ destBits wide :=
  Wave.val_foldl wide d v _ _ (lanesOf_lt m) (lanesOf_nodup m) l ((mem_lanesOf m l).mpr ⟨hl, hm⟩)

theorem Wave.reg_setLanes_other {q l : Nat} (hl : l < 32)
    (h : ¬(inMask m l = true ∧ (q = d ∨ wide = true ∧ q = d + 1))) :
    (w.setLanes m wide d v).reg q l = w.reg q l :=
  Wave.reg_foldl_other wide d v _ _ (lanesOf_lt m) q l hl fun ⟨hm, hq⟩ => h ⟨((mem_lanesOf m l).mp hm).2, hq⟩

/-- Values without flags are written alone. -/
theorem Wave.writeRes_pure :
    w.writeRes wide d ((lanesOf m).map fun l => (l, pure (v l))) = w.setLanes m wide d v := by
  have hflags : (lanesOf m).foldl (fun a l => a ||| (pure (v l)).flags) w.fflags = w.fflags := by simp [pure]
  rw [Wave.writeRes_eq, hflags]
  change { w.setLanes m wide d v with fflags := w.fflags } = w.setLanes m wide d v
  rw [Wave.setLanes_eq]

end setLanes

/-- An instruction completes with values in the active lanes of a destination of a type, and their carries in the same
lanes of a k register. -/
def CarryResult (s : State) (i : Instr) (h : Head) (f : AluF) (v : Nat → Int) (out : Nat → Bool) : Prop :=
  ∃ w' : Wave, exec i s = .next (s.setUnit s.cur w') ∧
    w' = { (s.unit s.cur).after i with regs := w'.regs, k := w'.k } ∧
    (∀ l, l < 32 → inMask ((s.unit s.cur).acting h) l = true →
      (w'.val f.ty.wide f.d.toNat l : Int) = v l % 2 ^ f.ty.width) ∧
    (∀ q l, l < 32 → ¬(inMask ((s.unit s.cur).acting h) l = true ∧
      (q = f.d.toNat ∨ f.ty.wide = true ∧ q = f.d.toNat + 1)) → w'.reg q l = (s.unit s.cur).reg q l) ∧
    (∀ j, j ≠ f.c.toNat → w'.kreg j = (s.unit s.cur).kreg j) ∧
    (f.c.toNat = 0 → w'.k = (s.unit s.cur).k) ∧
    (f.c.toNat ≠ 0 → ∀ l, l < 32 → inMask (w'.kreg f.c.toNat) l =
      if inMask ((s.unit s.cur).acting h) l then out l else inMask ((s.unit s.cur).kreg f.c.toNat) l)

/-- A per-lane instruction that issues, of which the effect on the unit turns neither on its pc nor on whether it was
held. -/
theorem State.lanesOp_of_movedTo {s : State} {i : Instr} {h : Head} {e : Wave → Wave} (hi : Issues s i h)
    (he : ∀ p, e ((s.unit s.cur).movedTo p) = (e (s.unit s.cur)).movedTo p) :
    s.lanesOp i e = s.setUnit s.cur ((e (s.unit s.cur)).movedTo ((s.unit s.cur).pc + BitVec.ofNat 64 i.size)) := by
  rw [State.lanesOp_of_issues s i h _ hi, Wave.unheld_eq_movedTo, he]
  rfl

theorem Wave.setKLanes_movedTo (w : Wave) (p : DWord) (d : Nat) (a m : Mask) :
    (w.movedTo p).setKLanes d a m = (w.setKLanes d a m).movedTo p := w.setK_movedTo p d _

/-- The carries are read before they are written, and the values and the carries go to different registers. -/
theorem CarryResult.of_laneCarry {s : State} {i : Instr} {h : Head} {f : AluF} {g : Nat → Nat → Nat → Int}
    {out : Int → Bool} {out' : Nat → Bool} (hi : Issues s i h) (hx : exec i s = .next (laneCarry i h f g out s)) :
    let w := s.unit s.cur
    let v := fun l => g (w.val f.ty.wide f.a.toNat l) (w.val f.ty.wide f.b.toNat l)
      (inMask (w.kreg f.c.toNat) l).toNat
    (∀ l, out (v l) = out' l) → CarryResult s i h f v out' := by
  intro w v hout
  have hw : laneCarry i h f g out s = s.setUnit s.cur
      (((w.setLanes (w.acting h) f.ty.wide f.d.toNat fun l => wrap f.ty.width (v l)).setKLanes f.c.toNat (w.acting h)
          (maskOf fun l => out (v l))).movedTo (w.pc + BitVec.ofNat 64 i.size)) := by
    rw [laneCarry]
    simp only [Wave.writeRes_pure]
    refine State.lanesOp_of_movedTo hi fun p => ?_
    rw [← Wave.setKLanes_movedTo, ← Wave.setLanes_movedTo]
    rfl
  rw [hw] at hx
  have hregs := Wave.setLanes_eq w (w.acting h) f.ty.wide f.d.toNat fun l => wrap f.ty.width (v l)
  refine ⟨_, hx, ?_, fun l hl hm => ?_, fun q l hl hn => ?_, fun j hj => ?_, fun h0 => ?_, fun h0 l hl => ?_⟩
  · rw [Wave.setKLanes_eq, hregs]
    rfl
  · rw [Wave.val_movedTo, Wave.setKLanes_eq]
    change ((w.setLanes _ _ _ _).val _ _ _ : Int) = _
    rw [Wave.val_setLanes _ _ _ _ _ hl hm, destBits_wide, natCast_wrap_mod]
  · rw [Wave.reg_movedTo, Wave.setKLanes_eq]
    exact Wave.reg_setLanes_other _ _ _ _ _ hl hn
  · refine (Wave.kreg_setKLanes_other _ _ _ _ _ hj).trans ?_
    rw [hregs]
    rfl
  · rw [h0, hregs]
    rfl
  · refine (Wave.inMask_setKLanes _ _ _ _ h0 l hl).trans ?_
    rw [inMask_maskOf _ l hl, hout, hregs]
    rfl

/-- Settles O1: sums, differences and products of patterns are those of the integers that they stand for, modulo 2^W. -/
theorem integerArithmetic : Obligations.IntegerArithmetic := by
  unfold Obligations.IntegerArithmetic
  refine ⟨.of_values (fun _ _ _ => rfl) (fun _ _ _ => rfl) fun w _ f l => add_value f.ty _ (w.opA f l) (w.opB f l),
    .of_values (fun _ _ _ => rfl) (fun _ _ _ => rfl) fun w _ f l => sub_value f.ty _ (w.opA f l) (w.opB f l),
    .of_values (fun _ _ _ => rfl) (fun _ _ _ => rfl) fun w _ f l =>
      intRes_false_eq (Int.ModEq.neg (f.ty.toInt_emod (w.opA f l))),
    .of_values (fun _ _ _ => rfl) (fun _ _ _ => rfl) fun w _ f l => ?abs,
    .of_values (fun _ _ _ => rfl) (fun _ _ _ => rfl) fun _ _ _ _ => rfl,
    .of_values (fun _ _ _ => rfl) (fun _ _ _ => rfl) fun _ _ _ _ => rfl,
    .of_values (fun _ _ _ => rfl) (fun _ _ _ => rfl) fun w _ f l => ?mulLo,
    .of_values (fun _ _ _ => rfl) (fun _ _ _ => rfl) fun w _ f l => natCast_wrap_mod _ _,
    .of_values (fun _ _ _ => rfl) (fun _ _ _ => rfl) fun w _ f l => ?mad,
    fun s h f => ⟨fun hi => CarryResult.of_laneCarry hi rfl fun l => decide_eq_decide.mpr ?carry,
      fun hi => CarryResult.of_laneCarry hi rfl fun l => decide_eq_decide.mpr ?borrow⟩⟩
  case abs =>
    rw [Int.abs_eq_natAbs]
    exact natCast_wrap_mod _ _
  case mulLo => exact_mod_cast natCast_wrap_mod f.ty.width (w.opA f l * w.opB f l)
  case mad => exact_mod_cast natCast_wrap_mod f.ty.width (w.opA f l * w.val f.ty.wide f.b.toNat l + w.opC f l)
  case carry =>
    beta_reduce
    exact_mod_cast Iff.rfl
  case borrow =>
    beta_reduce
    omega

end Sys2Proof.Machine
end

section
namespace Sys2Proof.Machine

open Sys2Proof

/-! ## Shifts (spec 10 R153) -/

theorem notRes_mod {w a : Nat} (ha : a < 2 ^ w) : (2 ^ w - 1 - a) % 2 ^ w + a = 2 ^ w - 1 := by
  rw [Nat.mod_eq_of_lt (by omega)]
  omega

theorem shlRes_mod (w a n : Nat) : shlRes w a n % 2 ^ w = a * 2 ^ n % 2 ^ w := by
  unfold shlRes
  split
  next => exact Nat.mod_mod _ _
  next h =>
    rw [Nat.zero_mod, Nat.mod_eq_zero_of_dvd]
    exact (Nat.pow_dvd_pow 2 (Nat.le_of_not_lt h)).trans (Nat.dvd_mul_left _ _)

theorem shrRes_mod {w a : Nat} (ha : a < 2 ^ w) (n : Nat) : shrRes w a n % 2 ^ w = a / 2 ^ n := by
  unfold shrRes
  split
  next => exact Nat.mod_eq_of_lt ((Nat.div_le_self _ _).trans_lt ha)
  next h =>
    have hle : 2 ^ w ≤ 2 ^ n := Nat.pow_le_pow_right Nat.two_pos (Nat.le_of_not_lt h)
    rw [Nat.zero_mod, Nat.div_eq_of_lt (ha.trans_le hle)]

/-- A shift by the width or more leaves copies of the sign. -/
theorem ediv_two_pow_min {w n : Nat} {v : Int} (hlo : -2 ^ w ≤ v) (hhi : v < 2 ^ w) :
    v / 2 ^ min n w = v / 2 ^ n := by
  rcases Nat.le_total n w with h | h
  · rw [Nat.min_eq_left h]
  · have hle : (2 : Int) ^ w ≤ 2 ^ n := by exact_mod_cast Nat.pow_le_pow_right Nat.two_pos h
    rw [Nat.min_eq_right h]
    rcases lt_or_ge v 0 with hv | hv
    · rw [Int.ediv_eq_neg_one_of_neg_of_le hv (by omega), Int.ediv_eq_neg_one_of_neg_of_le hv (by omega)]
    · rw [Int.ediv_eq_zero_of_lt hv hhi, Int.ediv_eq_zero_of_lt hv (by omega)]

theorem sraRes_mod {w a : Nat} (hw : 0 < w) (ha : a < 2 ^ w) (n : Nat) :
    ((sraRes w a n % 2 ^ w : Nat) : Int)
      = (if 2 ^ (w - 1) ≤ a then (a : Int) - 2 ^ w else a) / 2 ^ n % 2 ^ w := by
  have hpow : 2 ^ w = 2 * 2 ^ (w - 1) := by rw [← Nat.pow_succ', Nat.succ_eq_add_one, Nat.sub_add_cancel hw]
  have hcast : (2 : Int) ^ w = (2 ^ w : Nat) := by push_cast; rfl
  unfold sraRes
  rw [natCast_wrap_mod]
  simp only [div_mod_two_iff (Nat.two_pow_pos (w - 1)) (hpow ▸ ha)]
  rw [ediv_two_pow_min]
  · split <;> omega
  · split <;> omega

/-! ## Bit counts and reversal (spec 10 R153) -/

theorem popCount_eq (w a : Nat) : popCount w a = ((List.range w).filter fun i => a.testBit i).length := by
  unfold popCount
  simp only [Nat.testBit_eq_decide_div_mod_eq]

theorem popCount_le (w a : Nat) : popCount w a ≤ w := by
  conv_rhs => rw [← List.length_range (n := w)]
  exact List.length_filter_le _ _

theorem bitLen_le {a w : Nat} (ha : a < 2 ^ w) : bitLen a ≤ w := by
  by_cases h0 : a = 0
  · simp [bitLen, h0]
  · have h := (bitLen_bounds h0).1.trans_lt ha
    have := (Nat.pow_lt_pow_iff_right (by decide)).mp h
    omega

theorem lt_two_pow_bitLen (a : Nat) : a < 2 ^ bitLen a := by
  by_cases h0 : a = 0
  · simp [bitLen, h0]
  · exact (bitLen_bounds h0).2.1

/-- The zero bits above the highest set bit. -/
theorem clzRes_spec {w a : Nat} (ha : a < 2 ^ w) :
    clzRes w a ≤ w ∧ a < 2 ^ (w - clzRes w a) ∧ (clzRes w a < w → 2 ^ (w - clzRes w a - 1) ≤ a) := by
  have hlen := bitLen_le ha
  have hclz : clzRes w a = w - bitLen a := by rw [clzRes, Nat.mod_eq_of_lt ha]
  have hsub : w - (w - bitLen a) = bitLen a := by omega
  rw [hclz, hsub]
  refine ⟨Nat.sub_le _ _, lt_two_pow_bitLen a, fun h => (bitLen_bounds ?_).1⟩
  rintro rfl
  simp [bitLen] at h

theorem two_pow_dvd_of_testBit {a n : Nat} (h : ∀ j < n, a.testBit j = false) : 2 ^ n ∣ a := by
  refine Nat.dvd_of_mod_eq_zero (Nat.eq_of_testBit_eq fun j => ?_)
  rw [Nat.testBit_mod_two_pow, Nat.zero_testBit]
  by_cases hj : j < n
  · rw [h j hj, Bool.and_false]
  · rw [decide_eq_false hj, Bool.false_and]

/-- The zero bits below the lowest set bit. -/
theorem ctzRes_spec (w a : Nat) :
    ctzRes w a ≤ w ∧ 2 ^ ctzRes w a ∣ a ∧ (ctzRes w a < w → a.testBit (ctzRes w a) = true) := by
  have hctz : ctzRes w a = ((List.range w).find? fun i => a.testBit i).getD w := by
    simp only [ctzRes, Nat.testBit_eq_decide_div_mod_eq]
  rw [hctz]
  cases hfind : (List.range w).find? fun i => a.testBit i with
  | none =>
    rw [List.find?_range_eq_none] at hfind
    refine ⟨Nat.le_refl w, two_pow_dvd_of_testBit fun j hj => ?_, fun h => absurd h (Nat.lt_irrefl w)⟩
    simpa using hfind j hj
  | some n =>
    obtain ⟨hbit, hmem, hlow⟩ := List.find?_range_eq_some.mp hfind
    exact ⟨(List.mem_range.mp hmem).le, two_pow_dvd_of_testBit fun j hj => by simpa using hlow j hj, fun _ => hbit⟩

/-- After some steps of the reversal, the lowest bits stand at the top in reverse order. -/
theorem brev_steps (w a : Nat) {k : Nat} (hk : k ≤ w) : ∃ r,
    (List.range k).foldl (fun n i => n + if a / 2 ^ i % 2 = 1 then 2 ^ (w - 1 - i) else 0) 0 = 2 ^ (w - k) * r ∧
      r < 2 ^ k ∧ ∀ j < k, r.testBit j = a.testBit (k - 1 - j) := by
  induction k with
  | zero => exact ⟨0, by simp, by simp, nofun⟩
  | succ k ih =>
    obtain ⟨r, hsum, hlt, hbits⟩ := ih (by omega)
    have hstep : w - k = w - (k + 1) + 1 := by omega
    have hbit : (if a / 2 ^ k % 2 = 1 then 2 ^ (w - 1 - k) else 0) = 2 ^ (w - (k + 1)) * (a.testBit k).toNat := by
      rw [Nat.testBit_eq_decide_div_mod_eq, show w - 1 - k = w - (k + 1) by omega]
      split <;> simp_all
    refine ⟨2 ^ 1 * r + (a.testBit k).toNat, ?_, ?_, fun j hj => ?_⟩
    · rw [List.range_succ, List.foldl_concat, hsum, hbit, hstep]
      ring
    · have := (a.testBit k).toNat_lt
      rw [Nat.pow_succ]
      omega
    · rw [Nat.testBit_two_pow_mul_add _ (a.testBit k).toNat_lt]
      cases j with
      | zero =>
        rw [if_pos Nat.one_pos, Nat.sub_zero, Nat.add_sub_cancel]
        cases a.testBit k <;> rfl
      | succ j =>
        rw [if_neg (by omega), Nat.add_sub_cancel, hbits j (by omega)]
        congr 1
        omega

theorem testBit_brevRes (w a : Nat) {i : Nat} (hi : i < w) :
    (brevRes w a % 2 ^ w).testBit i = a.testBit (w - 1 - i) := by
  obtain ⟨r, hsum, hlt, hbits⟩ := brev_steps w a le_rfl
  have hrev : brevRes w a = r := by rw [brevRes, hsum, Nat.sub_self, Nat.pow_zero, Nat.one_mul]
  rw [hrev, Nat.mod_eq_of_lt hlt]
  exact hbits i hi

/-! ## Words of major 0x0D (spec 03 R46, spec 10 R153) -/

/-- The lowest bit of the first word is reported before all others. -/
theorem Cond.upTo_zero (c : Cond) : Cond.upTo (false, 0) c := by
  obtain ⟨x, k⟩ := c
  cases x
  · exact .inr ⟨rfl, Nat.zero_le _⟩
  · exact .inl ⟨rfl, rfl⟩

theorem decode_of_mod {w next : DWord} {mk : Head → AluF → Instr} {r : AluRow} (hM : bits w.toNat 58 6 ∈ aluMajors)
    (hmk : aluMk (bits w.toNat 58 6) (bits w.toNat 8 4) (bits w.toNat 0 3) = some mk)
    (hr : ∀ h f, (mk h f).alu? = some (r, h, f)) (hmod : r.mod = .zeroAt0) (h0 : bits w.toNat 0 3 ≠ 0) :
    decode w next = .error (.rsvField (false, 0)) := by
  have hlt : bits w.toNat 58 6 < 0x38 := (by decide : ∀ m ∈ aluMajors, m < 0x38) _ hM
  refine decode_of_lowestCond hlt ?_
  rw [decodeParts_alu _ hM, decodeAlu_of_alu? hmk hr]
  refine lowestCond_eq_some (List.mem_append_right _ ?_) fun c _ => Cond.upTo_zero c
  have hmem : (false, 0) ∈ modConds r.mod (bits w.toNat 0 3) := by
    rw [hmod]
    simp [modConds, condIf, h0]
  unfold aluConds
  exact List.mem_append_left _ (List.mem_append_right _ hmem)

/-- The minors of major 0x0D but bfe and bfi. -/
theorem aluMk_logic {m : Nat} (hm : m ∈ [0, 1, 2, 3, 4, 5, 6, 9, 10, 11, 12]) (mod : Nat) :
    ∃ mk r, aluMk 0x0D m mod = some mk ∧ (∀ h f, (mk h f).alu? = some (r, h, f)) ∧ r.mod = .zeroAt0 := by
  fin_cases hm <;> exact ⟨_, _, rfl, fun _ _ => rfl, rfl⟩

/-- Settles O2: each result by the bits or the power of two that it is about, and the words by the offending bit of
mod, before which there is none. -/
theorem logicAndShifts : Obligations.LogicAndShifts := by
  unfold Obligations.LogicAndShifts
  have hone {n : Nat} {t : Ty} (h : n ≤ t.width) : n % 2 ^ destBits false = n := by
    have hw : t.width ≤ 64 := by
      unfold Ty.width
      split <;> decide
    exact Nat.mod_eq_of_lt (lt_of_le_of_lt (h.trans hw) (by decide))
  refine ⟨.of_values (fun _ _ _ => rfl) (fun _ _ _ => rfl) fun _ _ _ _ => rfl,
    .of_values (fun _ _ _ => rfl) (fun _ _ _ => rfl) fun _ _ _ _ => rfl,
    .of_values (fun _ _ _ => rfl) (fun _ _ _ => rfl) fun _ _ _ _ => rfl,
    .of_values (fun _ _ _ => rfl) (fun _ _ _ => rfl) fun w _ f l => notRes_mod (w.opA_lt f l),
    .of_values (fun _ _ _ => rfl) (fun _ _ _ => rfl) fun w _ f l => shlRes_mod _ _ _,
    .of_values (fun _ _ _ => rfl) (fun _ _ _ => rfl) fun w _ f l => shrRes_mod (w.opA_lt f l) _,
    .of_values (fun _ _ _ => rfl) (fun _ _ _ => rfl) fun w _ f l => sraRes_mod f.ty.width_pos (w.opA_lt f l) _,
    .of_values (fun _ _ _ => rfl) (fun _ _ _ => rfl) fun w _ f l =>
      (hone (popCount_le _ _)).trans (popCount_eq f.ty.width (w.opA f l)),
    .of_values (fun _ _ _ => rfl) (fun _ _ _ => rfl) fun w _ f l => ?clz,
    .of_values (fun _ _ _ => rfl) (fun _ _ _ => rfl) fun w _ f l => ?ctz,
    .of_values (fun _ _ _ => rfl) (fun _ _ _ => rfl) fun w _ f l i hi => testBit_brevRes _ _ hi,
    fun w next hM hm h0 => ?words⟩
  case clz =>
    have h := clzRes_spec (w.opA_lt f l)
    rwa [← hone h.1] at h
  case ctz =>
    have h := ctzRes_spec f.ty.width (w.opA f l)
    rwa [← hone h.1] at h
  case words =>
    rw [← major_eq] at hM
    obtain ⟨mk, r, hmk, hr, hmod⟩ := aluMk_logic hm (bits w.toNat 0 3)
    have h0' : bits w.toNat 0 3 ≠ 0 := by rwa [bits, Nat.pow_zero, Nat.div_one]
    exact decode_of_mod (hM ▸ (by decide)) (hM ▸ hmk) hr hmod h0'

end Sys2Proof.Machine
end

section
namespace Sys2Proof.Machine

open Sys2Proof

/-! ## Bit fields (spec 10 R154) -/

theorem bfeRes_mod (t : Ty) (a b c : Nat) :
    let o := min b t.width
    let m := min c (t.width - o)
    let v := a / 2 ^ o % 2 ^ m
    ((bfeRes t a b c % 2 ^ t.width : Nat) : Int) = if m = 0 then 0
      else if t.signed = true ∧ 2 ^ (m - 1) ≤ v then ((v : Int) - 2 ^ m) % 2 ^ t.width else v := by
  intro o m v
  have hbfe : bfeRes t a b c = if m = 0 then 0
      else if t.signed && v / 2 ^ (m - 1) % 2 = 1 then wrap t.width ((v : Int) - 2 ^ m) else v := rfl
  rw [hbfe]
  by_cases h0 : m = 0
  · rw [if_pos h0, if_pos h0, Nat.zero_mod]
    rfl
  · have hpow : 2 ^ m = 2 * 2 ^ (m - 1) := by
      rw [← Nat.pow_succ', Nat.succ_eq_add_one, Nat.sub_add_cancel (Nat.pos_of_ne_zero h0)]
    have hv : v < 2 ^ m := Nat.mod_lt _ (Nat.two_pow_pos m)
    have hle : 2 ^ m ≤ 2 ^ t.width := Nat.pow_le_pow_right Nat.two_pos ((Nat.min_le_right _ _).trans (Nat.sub_le _ _))
    rw [if_neg h0, if_neg h0]
    simp only [Bool.and_eq_true, decide_eq_true_eq, div_mod_two_iff (Nat.two_pow_pos (m - 1)) (hpow ▸ hv)]
    split
    · exact natCast_wrap_mod _ _
    · rw [Nat.mod_eq_of_lt (hv.trans_le hle)]

/-- A number without the bits of a mask. -/
theorem testBit_sub_and (d m i : Nat) : (d - (d &&& m)).testBit i = (d.testBit i && !m.testBit i) := by
  induction i generalizing d m with
  | zero =>
    have hle := Nat.and_le_left (n := d) (m := m)
    have hlow := Nat.and_mod_two_eq_one (a := d) (b := m)
    rw [Bool.eq_iff_iff]
    simp only [Nat.testBit_zero, Bool.and_eq_true, Bool.not_eq_true', decide_eq_true_eq, decide_eq_false_iff_not]
    omega
  | succ i ih =>
    have hle := Nat.and_le_left (n := d) (m := m)
    have hlow := Nat.and_mod_two_eq_one (a := d) (b := m)
    have hhalf : (d &&& m) / 2 = d / 2 &&& m / 2 := Nat.and_div_two
    rw [Nat.testBit_succ, Nat.testBit_succ, Nat.testBit_succ, ← ih, ← hhalf]
    congr 1
    omega

/-- A field that is inserted, bit by bit. -/
theorem testBit_bfiRes (w d a b c : Nat) {i : Nat} (hi : i < w) :
    let o := min b w
    let m := min c (w - o)
    (bfiRes w d a b c % 2 ^ w).testBit i = if o ≤ i ∧ i < o + m then a.testBit (i - o) else d.testBit i := by
  intro o m
  have hmask : ((2 ^ m - 1) * 2 ^ o).testBit i = decide (o ≤ i ∧ i < o + m) := by
    rw [Nat.testBit_mul_two_pow, Nat.testBit_two_pow_sub_one, Bool.eq_iff_iff]
    simp only [Bool.and_eq_true, decide_eq_true_eq]
    omega
  have hbfi : bfiRes w d a b c =
    (d - (d &&& (2 ^ m - 1) * 2 ^ o)) ||| (a * 2 ^ o % 2 ^ w &&& (2 ^ m - 1) * 2 ^ o) := rfl
  rw [hbfi, Nat.testBit_mod_two_pow, Nat.testBit_or, testBit_sub_and, Nat.testBit_and, hmask,
    Nat.testBit_mod_two_pow, Nat.testBit_mul_two_pow]
  by_cases h : o ≤ i ∧ i < o + m
  · simp [h, hi]
  · simp [h, hi]

/-- Settles O3: a field by its bits, and each move by the value that it copies. -/
theorem fieldsAndMoves : Obligations.FieldsAndMoves := by
  unfold Obligations.FieldsAndMoves
  refine ⟨.of_values (fun _ _ _ => rfl) (fun _ _ _ => rfl) fun w _ f l => bfeRes_mod _ _ _ _,
    .of_values (fun _ _ _ => rfl) (fun _ _ _ => rfl) fun w _ f l i hi => testBit_bfiRes _ _ _ _ _ hi,
    .of_values (fun _ _ _ => rfl) (fun _ _ _ => rfl) fun w _ f l => w.val_mod f.ty _ l,
    .of_values (fun _ _ _ => rfl) (fun _ _ _ => rfl) fun _ _ _ _ => rfl,
    .of_values (fun _ _ _ => rfl) (fun _ _ _ => rfl) fun w _ f l => ?sel,
    .of_values (fun _ _ _ => rfl) (fun _ _ _ => rfl) fun w _ f l => Nat.mod_mod _ _,
    .of_values (fun _ _ _ => rfl) (fun _ _ _ => rfl) fun w _ f l => Nat.mod_eq_of_lt (f.ext.getD 0).isLt⟩
  case sel =>
    split
    · exact w.val_mod f.ty _ l
    · exact w.val_mod f.ty _ l

end Sys2Proof.Machine
end

section
namespace Sys2Proof.Machine

open Sys2Proof

/-! ## Floats in the lanes (spec 10 R157 to R161) -/

theorem ResLaw.of_laneOp {mk : Head → AluF → Instr} {wide : AluF → Bool} {r : Wave → AluF → Nat → Res}
    (hx : ∀ s h f, exec (mk h f) s = .next (laneOp (mk h f) h f.d (wide f) (fun w l => r w f l) s))
    (hg : Heldless r) : ResLaw mk wide r :=
  LaneLaw.of_laneOp hx (fun _ f w => funext fun l => hg w f l false) (fun _ _ _ _ => rfl) fun _ _ _ _ => rfl

/-- The sign of a format lies in the registers of the type. -/
theorem testBit_abs {a b k j : Nat} (hj : j < k) :
    (a % 2 ^ b % 2 ^ k).testBit j = (a.testBit j && decide (j < b)) := by
  rw [Nat.testBit_mod_two_pow, Nat.testBit_mod_two_pow, decide_eq_true hj, Bool.true_and, Bool.and_comm]

theorem testBit_neg {a b k j : Nat} (hj : j < k) :
    ((a ^^^ 2 ^ b) % 2 ^ k).testBit j = (a.testBit j ^^ decide (j = b)) := by
  rw [Nat.testBit_mod_two_pow, Nat.testBit_xor, Nat.testBit_two_pow, decide_eq_true hj, Bool.true_and]
  simp only [eq_comm]

/-- The halves of a register, and of an immediate that stands in both. -/
theorem hfma2_halves {g : Nat → Nat → Nat → Res} {x y z i : Nat} {imm : Bool} (hx : x < 2 ^ 32) (hy : y < 2 ^ 32)
    (hz : z < 2 ^ 32) :
    let c := if imm then i % 2 ^ 16 * (2 ^ 16 + 1) else z
    let half := fun x i : Nat => x / 2 ^ (16 * i) % 2 ^ 16
    let r := fun k => g (half x k) (half y k) (if imm then i % 2 ^ 16 else half z k)
    ({ val := (g (x / 2 ^ 16) (y / 2 ^ 16) (c / 2 ^ 16)).val * 2 ^ 16 + (g (x % 2 ^ 16) (y % 2 ^ 16) (c % 2 ^ 16)).val
       flags := (g (x / 2 ^ 16) (y / 2 ^ 16) (c / 2 ^ 16)).flags ||| (g (x % 2 ^ 16) (y % 2 ^ 16) (c % 2 ^ 16)).flags }
      : Res) = { val := (r 1).val * 2 ^ 16 + (r 0).val, flags := (r 0).flags ||| (r 1).flags } := by
  intro c half r
  have hhigh {x : Nat} (hx : x < 2 ^ 32) : half x 1 = x / 2 ^ 16 := Nat.mod_eq_of_lt (by omega)
  have hlow (x : Nat) : half x 0 = x % 2 ^ 16 := congrArg (· % 2 ^ 16) (Nat.div_one x)
  have hc : c / 2 ^ 16 = (if imm then i % 2 ^ 16 else half z 1) ∧
      c % 2 ^ 16 = if imm then i % 2 ^ 16 else half z 0 := by
    rw [hhigh hz, hlow z]
    cases imm
    · exact ⟨rfl, rfl⟩
    · simp only [c, if_true]
      omega
  rw [hc.1, hc.2, ← hhigh hx, ← hhigh hy, ← hlow x, ← hlow y, BitVec.or_comm]

/-- Settles O5: each instruction by the result that it writes; the two halves of hfma2 by those of its registers. -/
theorem floatInstructions : Obligations.FloatInstructions := by
  unfold Obligations.FloatInstructions
  refine ⟨.of_laneOp (fun _ _ _ => rfl) (fun _ _ _ _ => rfl), .of_laneOp (fun _ _ _ => rfl) (fun _ _ _ _ => rfl),
    .of_laneOp (fun _ _ _ => rfl) (fun _ _ _ _ => rfl), .of_laneOp (fun _ _ _ => rfl) (fun _ _ _ _ => rfl),
    .of_laneOp (fun _ _ _ => rfl) (fun _ _ _ _ => rfl), .of_laneOp (fun _ _ _ => rfl) (fun _ _ _ _ => rfl),
    .of_laneOp (fun _ _ _ => rfl) (fun _ _ _ _ => rfl), .of_laneOp (fun _ _ _ => rfl) (fun _ _ _ _ => rfl),
    .of_laneOp (fun _ _ _ => rfl) (fun _ _ _ _ => rfl), .of_laneOp (fun _ _ _ => rfl) (fun _ _ _ _ => rfl),
    .of_values (fun _ _ _ => rfl) (fun _ _ _ => rfl) fun _ _ _ _ _ hj => testBit_abs hj,
    .of_values (fun _ _ _ => rfl) (fun _ _ _ => rfl) fun _ _ _ _ _ hj => testBit_neg hj,
    .of_laneOp (fun _ _ _ => rfl) (fun _ _ _ _ => rfl), .of_laneOp (fun _ _ _ => rfl) (fun _ _ _ _ => rfl),
    .of_laneOp (fun _ _ _ => rfl) (fun _ _ _ _ => rfl), .of_laneOp (fun s h f => ?hfma2) (fun _ _ _ _ => rfl)⟩
  case hfma2 =>
    rw [exec_HFMA2, execHfma2]
    refine congrArg (fun g => Host.Outcome.next (laneOp (.HFMA2 h f) h f.d false g s))
      (funext fun w => funext fun l => ?_)
    exact hfma2_halves (w.val_lt false _ l) (w.val_lt false _ l) (w.val_lt false _ l)

end Sys2Proof.Machine
end

section
/-!
SUPPORT. Lanes that read lanes, and folds over the active lanes: the proofs of O7 and O8 (spec 10 R162 to R165).
-/

namespace Sys2Proof.Machine

open Sys2Proof

/-! ## shfl and bcast (spec 10 R163) -/

theorem LaneLaw.of_laneShuffle {mk : Head → AluF → Instr} {src : Head → AluF → Wave → Nat → Int}
    (hx : ∀ s h f, exec (mk h f) s = .next (laneShuffle (mk h f) h f (src h f) s))
    (hg : ∀ h f w, src h f { w with held := false } = src h f w) :
    LaneLaw mk asTyped (fun w h f l n =>
      (∀ j : Nat, src h f w l = j → j < 32 → inMask (w.acting h) j = true → n = w.opA f j) ∧
      ((¬∃ j : Nat, src h f w l = j ∧ j < 32 ∧ inMask (w.acting h) j = true) → n = w.opA f l)) noFlags := by
  refine .of_laneOp hx (fun h f w => by rw [hg]; rfl) (fun w h f l => ⟨fun j hj hlt hm => ?_, fun hn => ?_⟩)
    fun _ _ _ _ => rfl
  · refine (w.val_mod f.ty _ _).trans ?_
    simp only [hj]
    rw [if_pos (by simp [hm]; omega)]
    rfl
  · refine (w.val_mod f.ty _ _).trans ?_
    rw [if_neg]
    · rfl
    · intro hc
      simp only [Bool.and_eq_true, decide_eq_true_eq] at hc
      exact hn ⟨_, (Int.toNat_of_nonneg hc.1.1).symm, by omega, hc.2⟩

/-! ## Votes and matches (spec 10 R164) -/

theorem inMask_allLanes {l : Nat} (hl : l < 32) : inMask allLanes l = true := by
  interval_cases l <;> rfl

/-- A vote that issues writes one truth, where it does not turn on whether the unit was held. -/
theorem MaskResult.of_laneVote {s : State} {i : Instr} {h : Head} {f : AluF} {r : Wave → Bool} (hi : Issues s i h)
    (hx : exec i s = .next (laneVote i h f r s)) (hr : r { s.unit s.cur with held := false } = r (s.unit s.cur)) :
    MaskResult s i ((s.unit s.cur).acting h) f.d.toNat (fun _ => r (s.unit s.cur)) fun _ => 0 := by
  refine .of_writes s i h _ (if r (s.unit s.cur) then allLanes else 0) _ _ _ hi ?_ fun l hl _ => ?_
  · rw [hx, laneVote, State.lanesOp_of_issues s i h _ hi, State.lanesOp_of_issues s i h _ hi]
    have hflags (ls : List Nat) (m : Word) : ls.foldl (fun x _ => x ||| 0) m = m := by simp
    simp only [Wave.acting_held, hr, hflags]
    rw [Wave.setKLanes_eq]
  · cases r (s.unit s.cur)
    · simp [inMask]
    · exact inMask_allLanes hl

/-- All lanes of a set hold one value exactly where each holds that of the first. -/
theorem all_head_iff {α β : Type} [DecidableEq β] (ls : List α) (v : α → β) :
    ((ls.map v).all fun x => some x = (ls.map v).head?) = true ↔ ∀ p ∈ ls, ∀ q ∈ ls, v p = v q := by
  cases ls with
  | nil => simp
  | cons a ls =>
    simp only [List.map_cons, List.head?_cons, List.all_eq_true, List.mem_cons, List.mem_map, Option.some.injEq,
      decide_eq_true_eq]
    constructor
    · intro h p hp q hq
      have h' (p : α) (hp : p = a ∨ p ∈ ls) : v p = v a := h (v p) (hp.imp (congrArg v) fun hp => ⟨p, hp, rfl⟩)
      rw [h' p hp, h' q hq]
    · rintro h x (rfl | ⟨p, hp, rfl⟩)
      · rfl
      · exact h p (.inr hp) a (.inl rfl)

/-- Settles O7: each move by the lane that it names, and each vote and match by its mask. -/
theorem lanesReadLanes : Obligations.LanesReadLanes := by
  unfold Obligations.LanesReadLanes
  intro moves active
  refine ⟨.of_laneShuffle (fun _ _ _ => rfl) (fun _ _ _ => rfl), .of_laneShuffle (fun _ _ _ => rfl) (fun _ _ _ => rfl),
    .of_laneShuffle (fun _ _ _ => rfl) (fun _ _ _ => rfl), .of_laneShuffle (fun _ _ _ => rfl) (fun _ _ _ => rfl),
    .of_laneShuffle (fun _ _ _ => rfl) (fun _ _ _ => rfl), fun s h f hi => .of_laneVote hi rfl rfl,
    fun s h f hi => .of_laneVote hi rfl rfl, fun s h f hi => ⟨_, ?eq, .of_laneVote hi rfl rfl⟩,
    .of_values (fun _ _ _ => rfl) (fun _ _ _ => rfl) fun w h f l =>
      ⟨Nat.mod_lt _ (Nat.two_pow_pos 32), fun q hq => ?same⟩⟩
  case eq =>
    refine (all_head_iff _ _).trans ?_
    simp only [mem_lanesOf]
    exact ⟨fun h p q hp hq => h p hp q hq, fun h p hp q hq => h p q hp hq⟩
  case same =>
    have hbit (m : Mask) : (m.toNat % 2 ^ destBits false).testBit q = inMask m q :=
      congrArg (Nat.testBit · q) (Nat.mod_eq_of_lt m.isLt)
    refine (Bool.eq_iff_iff.mp ((hbit _).trans (inMask_maskOf _ q hq))).trans ?_
    simp only [Bool.and_eq_true, decide_eq_true_eq]
    exact ⟨fun ⟨hm, he⟩ => ⟨⟨hq, hm⟩, he⟩, fun ⟨⟨_, hm⟩, he⟩ => ⟨hm, he⟩⟩

/-! ## Folds over the active lanes (spec 10 R165) -/

/-- The fold of a list of values, first to last, with the flags of every step. -/
def foldAll (op : Nat → Nat → Res) (vs : List Nat) : Res :=
  vs.tail.foldl (fun r v => (op r.val v).raise r.flags) { val := vs.headD 0 }

theorem cons_foldSteps (o : FoldOp) (t : Ty) (acc : Res) (vs : List Nat) :
    acc :: foldSteps o t acc vs = vs.scanl (fun r v => (o.step t r.val v).raise r.flags) acc := by
  induction vs generalizing acc with
  | nil => rfl
  | cons v vs ih => rw [foldSteps, List.scanl_cons, ← ih]

/-- The prefixes of the values are the folds of their first ones. -/
theorem length_prefixes (o : FoldOp) (t : Ty) (vs : List Nat) : (prefixes o t vs).length = vs.length := by
  cases vs with
  | nil => rfl
  | cons v vs => rw [prefixes, cons_foldSteps, List.length_scanl, List.length_cons]

theorem getElem_prefixes {o : FoldOp} {t : Ty} {vs : List Nat} {i : Nat} (hi : i < (prefixes o t vs).length) :
    (prefixes o t vs)[i] = foldAll (o.step t) (vs.take (i + 1)) := by
  cases vs with
  | nil => cases hi
  | cons v vs =>
    simp only [prefixes, cons_foldSteps, List.getElem_scanl]
    rfl

theorem getLast_prefixes (o : FoldOp) (t : Ty) (vs : List Nat) :
    (prefixes o t vs).getLast?.getD (pure 0) = foldAll (o.step t) vs := by
  cases vs with
  | nil => rfl
  | cons v vs =>
    rw [prefixes, cons_foldSteps, List.getLast?_scanl]
    rfl

/-- A step of a fold gives, of values of a kind that each result is of too, what a function gives; the patterns of a
type are of that kind. -/
def FoldOp.StepsAs (o : FoldOp) (t : Ty) (op : Nat → Nat → Res) : Prop :=
  ∃ P : Nat → Prop, (∀ v, v < 2 ^ t.width → P v) ∧
    ∀ a b, P a → P b → o.step t a b = op a b ∧ P (op a b).val

theorem FoldOp.StepsAs.foldAll_eq {o : FoldOp} {t : Ty} {op : Nat → Nat → Res} (h : o.StepsAs t op) {vs : List Nat}
    (hvs : ∀ v ∈ vs, v < 2 ^ t.width) : foldAll (o.step t) vs = foldAll op vs := by
  obtain ⟨P, hP, hstep⟩ := h
  have hgo : ∀ (vs : List Nat) (acc : Res), P acc.val → (∀ v ∈ vs, P v) →
      vs.foldl (fun r v => (o.step t r.val v).raise r.flags) acc =
        vs.foldl (fun r v => (op r.val v).raise r.flags) acc := by
    intro vs
    induction vs with
    | nil => exact fun _ _ _ => rfl
    | cons v vs ih =>
      intro acc hacc hvs
      obtain ⟨heq, hres⟩ := hstep acc.val v hacc (hvs v List.mem_cons_self)
      rw [List.foldl_cons, List.foldl_cons, heq]
      exact ih _ hres fun v hv => hvs v (List.mem_cons_of_mem _ hv)
  cases vs with
  | nil => rfl
  | cons v vs =>
    exact hgo vs _ (hP v (hvs v List.mem_cons_self)) fun v hv => hP v (hvs v (List.mem_cons_of_mem _ hv))

/-- The values of lanes are patterns of the type. -/
theorem Wave.values_lt {w : Wave} {f : AluF} {ls : List Nat} : ∀ v ∈ ls.map fun l => w.opA f l, v < 2 ^ f.ty.width := by
  intro v hv
  obtain ⟨l, -, rfl⟩ := List.mem_map.mp hv
  exact w.opA_lt f l

theorem LaneResult.of_laneRed {s : State} {i : Instr} {h : Head} {f : AluF} {o : FoldOp} {op : Nat → Nat → Res}
    (hi : Issues s i h) (hx : exec i s = .next (laneRed i h f o s)) (hop : o.StepsAs f.ty op) :
    let all := foldAll op ((lanesOf ((s.unit s.cur).acting h)).map fun l => (s.unit s.cur).opA f l)
    LaneResult s i ((s.unit s.cur).acting h) f.d.toNat f.ty.wide (fun _ n => n = all.val % 2 ^ destBits f.ty.wide)
      fun _ => all.flags := by
  intro all
  refine .of_writes s i h _ _ _ (fun _ => all) _ _ hi ?_ (fun _ _ _ => rfl) fun _ _ _ => rfl
  rw [hx, laneRed, State.lanesOp_of_issues s i h _ hi, State.lanesOp_of_issues s i h _ hi]
  have hall : all = (prefixes o f.ty ((lanesOf ((s.unit s.cur).acting h)).map fun l =>
      (s.unit s.cur).val f.ty.wide f.a.toNat l)).getLast?.getD (pure 0) := by
    rw [getLast_prefixes]
    exact (hop.foldAll_eq Wave.values_lt).symm
  rw [hall]
  rfl

/-- The elements of a list that satisfy a condition are its first ones, where those do and the others do not. -/
theorem filter_eq_take {α : Type} {ls : List α} {p : α → Bool} {k : Nat}
    (h : ∀ j (hj : j < ls.length), p ls[j] = decide (j < k)) : ls.filter p = ls.take k := by
  conv_lhs => rw [← List.take_append_drop k ls]
  rw [List.filter_append, List.filter_eq_self.mpr, List.filter_eq_nil_iff.mpr, List.append_nil]
  · intro x hx
    obtain ⟨j, hj, rfl⟩ := List.getElem_of_mem hx
    rw [List.getElem_drop, h _ (by rw [List.length_drop] at hj; omega)]
    simp
  · intro x hx
    obtain ⟨j, hj, rfl⟩ := List.getElem_of_mem hx
    rw [List.length_take] at hj
    rw [List.getElem_take, h _ (by omega)]
    simp
    omega

/-- The lanes before one of an increasing list, and those up to it. -/
theorem filter_lt_getElem {ls : List Nat} (h : ls.Pairwise (· < ·)) {i : Nat} (hi : i < ls.length) :
    ls.filter (· < ls[i]) = ls.take i := by
  refine filter_eq_take fun j hj => decide_eq_decide.mpr ?_
  rcases Nat.lt_trichotomy j i with hlt | rfl | hgt
  · simp [hlt, List.pairwise_iff_getElem.mp h j i hj hi hlt]
  · simp
  · have := List.pairwise_iff_getElem.mp h i j hi hj hgt
    omega

theorem filter_le_getElem {ls : List Nat} (h : ls.Pairwise (· < ·)) {i : Nat} (hi : i < ls.length) :
    ls.filter (· ≤ ls[i]) = ls.take (i + 1) := by
  refine filter_eq_take fun j hj => decide_eq_decide.mpr ?_
  rcases Nat.lt_trichotomy j i with hlt | rfl | hgt
  · have := List.pairwise_iff_getElem.mp h j i hj hi hlt
    omega
  · simp
  · have := List.pairwise_iff_getElem.mp h i j hi hj hgt
    omega

/-- What a scan writes in a lane: the fold up to it, or that of the lanes before it, and where there are none the
identity. -/
def scanValue (op : Nat → Nat → Res) (ident : Nat) (ex : Bool) (ls : List Nat) (v : Nat → Nat) (l : Nat) : Res :=
  if ex = true ∧ ((ls.filter (· < l)).map v) = [] then pure ident
  else foldAll op (if ex then (ls.filter (· < l)).map v else (ls.filter (· ≤ l)).map v)

theorem zip_prefixes {o : FoldOp} {t : Ty} {op : Nat → Nat → Res} (hop : o.StepsAs t op) (ex : Bool) {ls : List Nat}
    (h : ls.Pairwise (· < ·)) {v : Nat → Nat} (hv : ∀ l, v l < 2 ^ t.width) :
    ls.zip (if ex = true then pure (o.identity t) :: (prefixes o t (ls.map v)).dropLast else prefixes o t (ls.map v))
      = ls.map fun l => (l, scanValue op (o.identity t) ex ls v l) := by
  have hlt (k : Nat) : ∀ x ∈ (ls.take k).map v, x < 2 ^ t.width := by
    intro x hx
    obtain ⟨l, -, rfl⟩ := List.mem_map.mp hx
    exact hv l
  have hpre {i : Nat} (hi : i < (prefixes o t (ls.map v)).length) :
      (prefixes o t (ls.map v))[i] = foldAll op ((ls.take (i + 1)).map v) := by
    rw [getElem_prefixes hi, ← List.map_take, hop.foldAll_eq (hlt _)]
  have hlen := length_prefixes o t (ls.map v)
  rw [List.length_map] at hlen
  cases ex with
  | false =>
    simp only [Bool.false_eq_true, if_false]
    refine List.ext_getElem (by simp [hlen]) fun i hi hi' => ?_
    rw [List.length_map] at hi'
    rw [List.getElem_zip, List.getElem_map, hpre, scanValue, filter_le_getElem h hi']
    simp
  | true =>
    simp only [if_true]
    refine List.ext_getElem (by simp [hlen]; omega) fun i hi hi' => ?_
    rw [List.length_map] at hi'
    rw [List.getElem_zip, List.getElem_map, scanValue, filter_lt_getElem h hi']
    cases i with
    | zero => simp
    | succ i =>
      rw [List.getElem_cons_succ, List.getElem_dropLast, hpre, if_neg, if_pos rfl]
      rintro ⟨-, hnil⟩
      have hls : ls = [] := by simpa using hnil
      simp [hls] at hi'

theorem LaneResult.of_laneScan {s : State} {i : Instr} {h : Head} {f : AluF} {o : FoldOp} {op : Nat → Nat → Res}
    (hi : Issues s i h) (hx : exec i s = .next (laneScan i h f o s)) (hop : o.StepsAs f.ty op) :
    let value := scanValue op (o.identity f.ty) (f.mod.getLsbD 1) (lanesOf ((s.unit s.cur).acting h))
      fun l => (s.unit s.cur).opA f l
    LaneResult s i ((s.unit s.cur).acting h) f.d.toNat f.ty.wide (fun l n => n = (value l).val % 2 ^ destBits f.ty.wide)
      fun l => (value l).flags := by
  intro value
  refine .of_writes s i h _ _ _ value _ _ hi ?_ (fun _ _ _ => rfl) fun _ _ _ => rfl
  rw [hx, laneScan, State.lanesOp_of_issues s i h _ hi, State.lanesOp_of_issues s i h _ hi]
  have hmod : f.mod.toNat / 2 % 2 = 1 ↔ f.mod.getLsbD 1 = true := by
    rw [← BitVec.testBit_toNat, Nat.testBit_eq_decide_div_mod_eq, decide_eq_true_eq, Nat.pow_one]
  have hzip := zip_prefixes hop (f.mod.getLsbD 1) (lanesOf_pairwise ((s.unit s.cur).acting h))
    fun l => (s.unit s.cur).opA_lt f l
  simp only [Wave.acting_held, hmod]
  rw [← hzip]
  rfl

/-! ## The steps of the folds -/

theorem FoldOp.StepsAs.of_float {o : FoldOp} {t : Ty} {op : Nat → Nat → Res} (h : ∀ a b, o.step t a b = op a b) :
    o.StepsAs t op :=
  ⟨fun _ => True, fun _ _ => trivial, fun a b _ _ => ⟨h a b, trivial⟩⟩

theorem FoldOp.StepsAs.of_int {o : FoldOp} {t : Ty} {g : Nat → Nat → Nat}
    (h : ∀ a b, a < 2 ^ t.width → b < 2 ^ t.width → o.step t a b = { val := g a b % 2 ^ t.width }) :
    o.StepsAs t fun a b => { val := g a b % 2 ^ t.width } :=
  ⟨(· < 2 ^ t.width), fun _ hv => hv, fun a b ha hb => ⟨h a b ha hb, Nat.mod_lt _ (Nat.two_pow_pos _)⟩⟩

section steps

variable {t : Ty} {a b : Nat}

theorem FoldOp.step_float {f : Fmt} (h : t.fmt? = some f) (a b : Nat) :
    FoldOp.add.step t a b = f.add .rn a b ∧ FoldOp.min.step t a b = f.minMax false a b ∧
      FoldOp.max.step t a b = f.minMax true a b := by
  simp [FoldOp.step, h]

theorem FoldOp.step_int (h : t.fmt? = none) (ha : a < 2 ^ t.width) (hb : b < 2 ^ t.width) :
    FoldOp.add.step t a b = { val := (a + b) % 2 ^ t.width } ∧
    FoldOp.min.step t a b = { val := (if t.toInt a ≤ t.toInt b then a else b) % 2 ^ t.width } ∧
    FoldOp.max.step t a b = { val := (if t.toInt a ≤ t.toInt b then b else a) % 2 ^ t.width } ∧
    FoldOp.and.step t a b = { val := (a &&& b) % 2 ^ t.width } ∧
    FoldOp.or.step t a b = { val := (a ||| b) % 2 ^ t.width } ∧
    FoldOp.xor.step t a b = { val := (a ^^^ b) % 2 ^ t.width } := by
  simp only [FoldOp.step, h, pure, Res.mk.injEq, and_true]
  refine ⟨by exact_mod_cast wrap_natCast t.width (a + b), ?_, ?_,
    (Nat.mod_eq_of_lt (Nat.and_lt_two_pow _ hb)).symm, (Nat.mod_eq_of_lt (Nat.or_lt_two_pow ha hb)).symm,
    (Nat.mod_eq_of_lt (Nat.xor_lt_two_pow ha hb)).symm⟩
  · unfold intMin
    split
    · exact (Nat.mod_eq_of_lt ha).symm
    · exact (Nat.mod_eq_of_lt hb).symm
  · unfold intMax
    split
    · exact (Nat.mod_eq_of_lt hb).symm
    · exact (Nat.mod_eq_of_lt ha).symm

end steps

theorem FoldOp.identity_add (t : Ty) : FoldOp.add.identity t = 0 := by
  unfold FoldOp.identity
  cases t.fmt? <;> rfl

theorem FoldOp.identity_min (t : Ty) :
    FoldOp.min.identity t = match t.fmt? with | some u => u.infBits | none => wrap t.width t.maxInt := by
  unfold FoldOp.identity
  cases t.fmt? <;> rfl

theorem FoldOp.identity_max (t : Ty) :
    FoldOp.max.identity t =
      match t.fmt? with | some u => u.infBits + 2 ^ u.signBit | none => wrap t.width t.minInt := by
  unfold FoldOp.identity
  cases t.fmt? with
  | none => rfl
  | some u => exact Nat.add_comm _ _

theorem FoldOp.identity_logic {t : Ty} (h : t.fmt? = none) :
    FoldOp.and.identity t = 2 ^ t.width - 1 ∧ FoldOp.or.identity t = 0 ∧ FoldOp.xor.identity t = 0 := by
  simp [FoldOp.identity, h]

/-- The step of a fold by the functions of the integers and of the floats. -/
def foldOp (ints : Ty → Nat → Nat → Nat) (floats : Option (Fmt → Nat → Nat → Res)) (t : Ty) (a b : Nat) : Res :=
  match t.fmt?, floats with
  | some u, some g => g u a b
  | _, _ => { val := ints t a b % 2 ^ t.width }

theorem FoldOp.StepsAs.of_foldOp {o : FoldOp} {ints : Ty → Nat → Nat → Nat} {floats : Option (Fmt → Nat → Nat → Res)}
    {t : Ty} (fits : t.fmt? = none ∨ floats.isSome = true)
    (hints : t.fmt? = none → ∀ a b, a < 2 ^ t.width → b < 2 ^ t.width →
      o.step t a b = { val := ints t a b % 2 ^ t.width })
    (hfloats : ∀ u g, t.fmt? = some u → floats = some g → ∀ a b, o.step t a b = g u a b) :
    o.StepsAs t (foldOp ints floats t) := by
  cases ht : t.fmt? with
  | none =>
    have hop : foldOp ints floats t = fun a b => { val := ints t a b % 2 ^ t.width } := by
      funext a b
      simp only [foldOp, ht]
    rw [hop]
    exact .of_int (hints ht)
  | some u =>
    obtain ⟨g, rfl⟩ := Option.isSome_iff_exists.mp (fits.resolve_left (by simp [ht]))
    refine .of_float fun a b => ?_
    simp only [foldOp, ht, hfloats u g ht rfl]

/-- What red and scan of an operation write, on the types that it has, by the functions of its steps and its
identity. -/
def FoldLaw (red scan : Head → AluF → Instr) (ints : Ty → Nat → Nat → Nat)
    (floats : Option (Fmt → Nat → Nat → Res)) (ident : Ty → Nat) : Prop :=
  (∀ (s : State) (h : Head) (f : AluF), f.ty.fmt? = none ∨ floats.isSome = true → Issues s (red h f) h →
    let w := s.unit s.cur
    let all := foldAll (foldOp ints floats f.ty) ((lanesOf (w.acting h)).map fun l => w.opA f l)
    LaneResult s (red h f) (w.acting h) f.d.toNat f.ty.wide (fun _ n => n = all.val % 2 ^ destBits f.ty.wide)
      fun _ => all.flags) ∧
  ∀ (s : State) (h : Head) (f : AluF), f.ty.fmt? = none ∨ floats.isSome = true → Issues s (scan h f) h →
    let w := s.unit s.cur
    let before := fun l => ((lanesOf (w.acting h)).filter (· < l)).map fun l => w.opA f l
    let upto := fun l => ((lanesOf (w.acting h)).filter (· ≤ l)).map fun l => w.opA f l
    let part := fun l => foldAll (foldOp ints floats f.ty) (if f.mod.getLsbD 1 then before l else upto l)
    LaneResult s (scan h f) (w.acting h) f.d.toNat f.ty.wide
      (fun l n => n = (if f.mod.getLsbD 1 = true ∧ before l = [] then ident f.ty else (part l).val)
        % 2 ^ destBits f.ty.wide)
      fun l => if f.mod.getLsbD 1 = true ∧ before l = [] then 0 else (part l).flags

theorem FoldLaw.of_foldOp {red scan : Head → AluF → Instr} (o : FoldOp) {ints : Ty → Nat → Nat → Nat}
    {floats : Option (Fmt → Nat → Nat → Res)} {ident : Ty → Nat}
    (hred : ∀ s h f, exec (red h f) s = .next (laneRed (red h f) h f o s))
    (hscan : ∀ s h f, exec (scan h f) s = .next (laneScan (scan h f) h f o s))
    (hident : ∀ t, t.fmt? = none ∨ floats.isSome = true → o.identity t = ident t)
    (hints : ∀ t, t.fmt? = none → ∀ a b, a < 2 ^ t.width → b < 2 ^ t.width →
      o.step t a b = { val := ints t a b % 2 ^ t.width })
    (hfloats : ∀ t u g, t.fmt? = some u → floats = some g → ∀ a b, o.step t a b = g u a b) :
    FoldLaw red scan ints floats ident := by
  refine ⟨fun s h f fits hi => .of_laneRed hi (hred s h f) (.of_foldOp fits (hints _) (hfloats _)),
    fun s h f fits hi => ?_⟩
  have hr := LaneResult.of_laneScan hi (hscan s h f) (.of_foldOp fits (hints _) (hfloats _))
  simp only [scanValue, hident f.ty fits, apply_ite Res.val, apply_ite Res.flags] at hr
  exact hr

/-! ## Words of major 0x23 (spec 03 R46, R50) -/

/-- The rows of red and scan. -/
theorem aluMk_fold_row {m mod : Nat} (hm : m ≤ 5) (hmod : mod ∈ [0, 1, 3]) :
    ∃ mk tys md, aluMk 0x23 m mod = some mk ∧
      (∀ h f, (mk h f).alu? = some (⟨0x23, m, .v, .v, .no, .no, tys, md, .never⟩, h, f)) ∧ modConds md mod = [] ∧
      (3 ≤ m → (tys.any fun t => t.code = 6) = false) := by
  fin_cases hmod <;> interval_cases m <;> exact ⟨_, _, _, rfl, fun _ _ => rfl, rfl, by decide⟩

theorem mem_condIf {p : Bool} {c e : Cond} : c ∈ condIf p e ↔ p = true ∧ c = e := by
  unfold condIf
  cases p <;> simp

theorem mem_mustZero {lo n : Nat} {c : Cond} (h : c ∈ mustZero false lo n) : c.1 = false ∧ lo ≤ c.2 := by
  unfold mustZero at h
  split at h
  · cases h
  · obtain rfl := List.mem_singleton.mp h
    exact ⟨rfl, Nat.le_add_right _ _⟩

/-- The conditions of a word that is red or scan otherwise: of imm, of its type, and of fields above both. -/
theorem mem_aluConds_fold {m : Nat} {tys : List Ty} {md : ModRule} {f : AluRaw} (hmod : modConds md f.mod = [])
    {c : Cond} (hc : c ∈ aluConds ⟨0x23, m, .v, .v, .no, .no, tys, md, .never⟩ f) :
    f.imm = true ∧ c = (false, 3) ∨ (tys.any fun t => t.code = f.ty) = false ∧ c = (false, 4) ∨
      c.1 = false ∧ 12 ≤ c.2 := by
  have hfield (p : Pos) (o : Opnd) : fieldConds ⟨0x23, m, .v, .v, .no, .no, tys, md, .never⟩ p o f =
      opndConds o p.lo (f.get p) f := rfl
  simp only [aluConds, hfield, opndConds, tyConds, immConds, hmod, List.mem_append, List.not_mem_nil, or_false,
    mem_condIf] at hc
  rcases hc with ((((⟨-, rfl⟩ | ⟨-, rfl⟩) | hb) | hc) | ⟨ht, rfl⟩) | ⟨hi, rfl⟩ | ⟨-, rfl⟩
  · exact .inr (.inr ⟨rfl, by decide⟩)
  · exact .inr (.inr ⟨rfl, by decide⟩)
  · exact .inr (.inr ((mem_mustZero hb).imp_right fun h => h.trans' (by decide)))
  · exact .inr (.inr (mem_mustZero hc))
  · exact .inr (.inl ⟨by simpa using ht, rfl⟩)
  · exact .inl ⟨hi, rfl⟩
  · exact .inr (.inr ⟨rfl, by decide⟩)

theorem decode_fold_offends {w next : DWord} (hM : bits w.toNat 58 6 = 0x23) (hm : bits w.toNat 8 4 ≤ 5)
    (hmod : bits w.toNat 0 3 ∈ [0, 1, 3]) :
    (bit w.toNat 3 = true → decode w next = .error (.rsvField (false, 3))) ∧
      (bit w.toNat 3 = false → bits w.toNat 4 4 = 6 → 3 ≤ bits w.toNat 8 4 →
        decode w next = .error (.rsvField (false, 4))) := by
  obtain ⟨mk, tys, md, hmk, hr, hmd, htys⟩ := aluMk_fold_row hm hmod
  have hlt : bits w.toNat 58 6 < 0x38 := by omega
  have hparts : (decodeParts w.toNat (extOf w next)).1 =
      aluConds ⟨0x23, bits w.toNat 8 4, .v, .v, .no, .no, tys, md, .never⟩ (aluRawOf w.toNat (extOf w next)) := by
    rw [decodeParts_alu _ (hM ▸ by decide), decodeAlu_of_alu? (hM ▸ hmk) hr]
    rfl
  have hall {c : Cond} (hc : c ∈ (decodeParts w.toNat (extOf w next)).1) := mem_aluConds_fold hmd (hparts ▸ hc)
  refine ⟨fun himm => decode_of_lowestCond hlt (lowestCond_eq_some ?_ fun c hc => ?_),
    fun himm hty h3 => decode_of_lowestCond hlt (lowestCond_eq_some ?_ fun c hc => ?_)⟩
  · rw [hparts]
    refine List.mem_append_right _ (List.mem_append_left _ (mem_condIf.mpr ⟨himm, rfl⟩))
  · rcases hall hc with ⟨-, rfl⟩ | ⟨-, rfl⟩ | ⟨h1, h2⟩
    · exact Cond.upTo_refl _
    · exact .inr ⟨rfl, by decide⟩
    · exact .inr ⟨h1.symm, h2.trans' (by decide)⟩
  · rw [hparts]
    refine List.mem_append_left _ (List.mem_append_left _ (List.mem_append_right _ (mem_condIf.mpr ⟨?_, rfl⟩)))
    simpa [aluRawOf, hty] using htys h3
  · rcases hall hc with ⟨hi, -⟩ | ⟨-, rfl⟩ | ⟨h1, h2⟩
    · exact absurd (hi.symm.trans himm) nofun
    · exact Cond.upTo_refl _
    · exact .inr ⟨h1.symm, h2.trans' (by decide)⟩

/-- Settles O8: red and scan write the prefixes of the values, each the fold of the lanes up to its own, and each
operation's steps are those of its integers and floats. -/
theorem foldsInLaneOrder : Obligations.FoldsInLaneOrder := by
  unfold Obligations.FoldsInLaneOrder
  intro foldl values upto before law ofInt
  have hlaw (red scan : Head → AluF → Instr) (ints : Ty → Nat → Nat → Nat) (floats : Option (Fmt → Nat → Nat → Res))
      (ident : Ty → Nat) : law red scan ints floats ident = FoldLaw red scan ints floats ident := rfl
  simp only [hlaw]
  have hnone {t : Ty} (h : t.fmt? = none ∨ (none : Option (Fmt → Nat → Nat → Res)).isSome = true) : t.fmt? = none :=
    h.resolve_right nofun
  refine ⟨.of_foldOp .add (fun _ _ _ => rfl) (fun _ _ _ => rfl) ?_
      (fun t ht a b ha hb => (FoldOp.step_int ht ha hb).1) ?_,
    .of_foldOp .min (fun _ _ _ => rfl) (fun _ _ _ => rfl) ?_
      (fun t ht a b ha hb => (FoldOp.step_int ht ha hb).2.1) ?_,
    .of_foldOp .max (fun _ _ _ => rfl) (fun _ _ _ => rfl) ?_
      (fun t ht a b ha hb => (FoldOp.step_int ht ha hb).2.2.1) ?_,
    .of_foldOp .and (fun _ _ _ => rfl) (fun _ _ _ => rfl) ?_
      (fun t ht a b ha hb => (FoldOp.step_int ht ha hb).2.2.2.1) nofun,
    .of_foldOp .or (fun _ _ _ => rfl) (fun _ _ _ => rfl) ?_
      (fun t ht a b ha hb => (FoldOp.step_int ht ha hb).2.2.2.2.1) nofun,
    .of_foldOp .xor (fun _ _ _ => rfl) (fun _ _ _ => rfl) ?_
      (fun t ht a b ha hb => (FoldOp.step_int ht ha hb).2.2.2.2.2) nofun,
    ?_, ?_⟩
  · exact fun t _ => FoldOp.identity_add t
  · rintro t u g ht ⟨⟩ a b
    exact (FoldOp.step_float ht a b).1
  · exact fun t _ => FoldOp.identity_min t
  · rintro t u g ht ⟨⟩ a b
    exact (FoldOp.step_float ht a b).2.1
  · exact fun t _ => FoldOp.identity_max t
  · rintro t u g ht ⟨⟩ a b
    exact (FoldOp.step_float ht a b).2.2
  · exact fun t ht => (FoldOp.identity_logic (hnone ht)).1
  · exact fun t ht => (FoldOp.identity_logic (hnone ht)).2.1
  · exact fun t ht => (FoldOp.identity_logic (hnone ht)).2.2
  · intro w next hM hm hmod
    obtain ⟨himm, hty⟩ := decode_fold_offends (next := next) ((major_eq w).trans hM) hm hmod
    rw [bit_eq_testBit] at himm hty
    exact ⟨himm, hty⟩
  · rfl

end Sys2Proof.Machine
end

section
/-!
SUPPORT. Sweeps: the scratchpad that a sweep writes, its check, and its segments: the proof of O36 (spec 10 R166 to
R168).
-/

namespace Sys2Proof.Machine

open Sys2Proof

/-! ## Ranges of bytes -/

theorem AMap.getRange_eq_map {β : Type} (m : AMap β) (d : β) (k n : Nat) :
    AMap.getRange m d k n = (List.range n).map fun i => m.get d (k + i) := by
  induction n generalizing k with
  | zero => rfl
  | succ n ih =>
    rw [AMap.getRange, ih, List.range_succ_eq_map, List.map_cons, List.map_map]
    refine congrArg₂ List.cons rfl (List.map_congr_left fun i _ => congrArg (m.get d) ?_)
    omega

/-- A place in a list of parts of one length is a place in one of the parts. -/
theorem getD_flatMap {α β : Type} {e : Nat} {g : α → List β} (hg : ∀ x, (g x).length = e) {d : β} {b : Nat}
    (hb : b < e) {xs : List α} {l : Nat} (hl : l < xs.length) :
    (xs.flatMap g).getD (l * e + b) d = (g xs[l]).getD b d := by
  induction xs generalizing l with
  | nil => cases hl
  | cons x xs ih =>
    rw [List.flatMap_cons]
    cases l with
    | zero => rw [Nat.zero_mul, Nat.zero_add, List.getD_append _ _ _ _ (by rw [hg]; exact hb), List.getElem_cons_zero]
    | succ l =>
      rw [List.getD_append_right _ _ _ _ (by rw [hg, Nat.succ_mul]; omega), hg,
        show (l + 1) * e + b - e = l * e + b by rw [Nat.succ_mul]; omega, List.getElem_cons_succ]
      exact ih (Nat.lt_of_succ_lt_succ hl)

/-- Parts of one length, written one after another, read back each at its place. -/
theorem AMap.getRange_setRange_flatMap {α β : Type} [DecidableEq β] {e : Nat} {g : α → List β}
    (hg : ∀ x, (g x).length = e) (m : AMap β) (d : β) (k : Nat) {xs : List α} {l : Nat} (hl : l < xs.length) :
    (AMap.setRange m d k (xs.flatMap g)).getRange d (k + l * e) e = g xs[l] := by
  have hlen : (xs.flatMap g).length = xs.length * e := by
    simp [List.length_flatMap, hg]
  refine List.ext_getElem (by rw [AMap.getRange_length, hg]) fun b hb hb' => ?_
  have hbe : b < e := by rwa [AMap.getRange_length] at hb
  have hin : l * e + b < xs.length * e :=
    calc l * e + b < l * e + e := by omega
      _ = (l + 1) * e := (Nat.succ_mul l e).symm
      _ ≤ xs.length * e := Nat.mul_le_mul_right e hl
  rw [← List.getD_eq_getElem _ d hb, AMap.getRange_getD _ _ _ _ _ hbe, Nat.add_assoc,
    AMap.get_setRange_same _ _ _ _ _ (hlen ▸ hin), getD_flatMap hg hbe hl, List.getD_eq_getElem _ d hb']

/-! ## What a write of scratchpad bytes leaves -/

/-- Of two states the second differs from the first in the scratchpad of one core alone. -/
structure ScratchOnly (c : Nat) (s t : State) : Prop where
  cur    : t.cur = s.cur
  units  : ∀ u, t.unit u = s.unit u
  mem    : t.mem = s.mem
  ctxs   : t.ctxs = s.ctxs
  others : ∀ k, k ≠ c → t.core k = s.core k
  core   : t.core c = { s.core c with scratch := (t.core c).scratch }

theorem ScratchOnly.refl (c : Nat) (s : State) : ScratchOnly c s s :=
  ⟨rfl, fun _ => rfl, rfl, rfl, fun _ _ => rfl, rfl⟩

theorem ScratchOnly.trans {c : Nat} {s t u : State} (h : ScratchOnly c s t) (h' : ScratchOnly c t u) :
    ScratchOnly c s u where
  cur := h'.cur.trans h.cur
  units n := (h'.units n).trans (h.units n)
  mem := h'.mem.trans h.mem
  ctxs := h'.ctxs.trans h.ctxs
  others k hk := (h'.others k hk).trans (h.others k hk)
  core := by rw [h'.core, h.core]

theorem State.writeScratch_only (s : State) (g : Group) (o : Nat) (bs : List Byte) :
    ScratchOnly g.core s (s.writeScratch g o bs) where
  cur := rfl
  units _ := rfl
  mem := rfl
  ctxs := rfl
  others k hk := State.core_setCore_other _ _ _ _ hk
  core := by simp [State.writeScratch]

/-- A scratchpad byte of a group's core. -/
def State.scratchAt (s : State) (g : Group) (k : Nat) : Byte := (s.core g.core).scratch.get 0 k

theorem State.scratchAt_writeScratch_other (s : State) (g : Group) {o k : Nat} {bs : List Byte}
    (h : k < g.base + o ∨ g.base + o + bs.length ≤ k) : (s.writeScratch g o bs).scratchAt g k = s.scratchAt g k := by
  simp only [State.scratchAt, State.writeScratch, State.core_setCore_same]
  exact AMap.get_setRange_other _ _ _ _ _ h

/-! ## The segments of a sweep (spec 10 R167) -/

theorem sweepBytes_eq (t : Ty) : sweepBytes t = if t = .f16 ∨ t = .bf16 then 2 else 4 := by
  simp [sweepBytes]

/-- An element of a segment. -/
def State.sweepElem (s : State) (g : Group) (e o l : Nat) : Nat :=
  leNat ((List.range e).map fun b => s.scratchAt g (g.base + o + l * e + b))

theorem State.leNat_readScratch (s : State) (g : Group) (e o l : Nat) :
    leNat (s.readScratch g (o + l * e) e) = s.sweepElem g e o l := by
  rw [State.readScratch, AMap.getRange_eq_map, ← Nat.add_assoc]
  rfl

/-- The result of an element of a segment. -/
def State.sweepRes (s : State) (g : Group) (op : SweepOp) (t : Ty) (d a b l : Nat) : Res :=
  let e := sweepBytes t
  sweepFn op t (s.sweepElem g e a l) (if op = .mov then 0 else s.sweepElem g e b l) (s.sweepElem g e d l)

/-- The bytes that a segment writes. -/
def State.sweepOut (s : State) (g : Group) (op : SweepOp) (t : Ty) (d a b : Nat) : List Byte :=
  (List.range 32).flatMap fun l => leBytes (s.sweepRes g op t d a b l).val (sweepBytes t)

theorem State.sweepSegment_eq (s : State) (g : Group) (op : SweepOp) (t : Ty) (d a b : Nat) :
    s.sweepSegment g op t d a b =
      ((List.range 32).foldl (fun m l => m ||| (s.sweepRes g op t d a b l).flags) 0,
        s.writeScratch g d (s.sweepOut g op t d a b)) := by
  have hres : (fun i => sweepFn op t (leNat (s.readScratch g (a + i * sweepBytes t) (sweepBytes t)))
      (if op = .mov then 0 else leNat (s.readScratch g (b + i * sweepBytes t) (sweepBytes t)))
      (leNat (s.readScratch g (d + i * sweepBytes t) (sweepBytes t)))) = s.sweepRes g op t d a b := by
    funext i
    rw [s.leNat_readScratch, s.leNat_readScratch, s.leNat_readScratch, State.sweepRes]
  rw [State.sweepSegment]
  dsimp only
  rw [hres, List.foldl_map, List.flatMap_map, State.sweepOut]

theorem State.sweepOut_length (s : State) (g : Group) (op : SweepOp) (t : Ty) (d a b : Nat) :
    (s.sweepOut g op t d a b).length = 32 * sweepBytes t := by
  rw [State.sweepOut, List.length_flatMap]
  simp only [leBytes_length, List.map_const', List.length_range, List.sum_replicate, smul_eq_mul]

/-- The elements of the destination are the results after a segment. -/
theorem State.sweepElem_sweepSegment (s : State) (g : Group) (op : SweepOp) (t : Ty) (d a b : Nat) {l : Nat}
    (hl : l < 32) :
    (s.sweepSegment g op t d a b).2.sweepElem g (sweepBytes t) d l =
      (s.sweepRes g op t d a b l).val % 2 ^ (8 * sweepBytes t) := by
  have hread : (s.sweepSegment g op t d a b).2.readScratch g (d + l * sweepBytes t) (sweepBytes t) =
      leBytes (s.sweepRes g op t d a b l).val (sweepBytes t) := by
    simp only [State.sweepSegment_eq, State.readScratch, State.writeScratch, State.core_setCore_same, ← Nat.add_assoc,
      State.sweepOut]
    rw [AMap.getRange_setRange_flatMap (fun _ => leBytes_length _ _) _ _ _ (by rwa [List.length_range]),
      List.getElem_range]
  rw [← State.leNat_readScratch, hread, leNat_leBytes]

/-- The segments write the scratchpad alone, and of it the segments of the destination. -/
theorem State.sweepFrom_only {g : Group} {op : SweepOp} {f : SweepF} (n : Nat) :
    ∀ {s : State} {d a b : Int} {fl : Word}, (∀ j, j < n → 0 ≤ d + j * f.stepD.toInt) →
      ScratchOnly g.core s (s.sweepFrom g op f d a b n fl).2 ∧
      ∀ k : Nat, (∀ j, j < n → ¬((g.base : Int) + (d + j * f.stepD.toInt) ≤ k ∧
          (k : Int) < g.base + (d + j * f.stepD.toInt) + (32 * sweepBytes f.ty : Nat))) →
        (s.sweepFrom g op f d a b n fl).2.scratchAt g k = s.scratchAt g k := by
  induction n with
  | zero => exact fun _ => ⟨.refl _ _, fun _ _ => rfl⟩
  | succ n ih =>
    intro s d a b fl hd
    have hnext (j : Nat) : d + f.stepD.toInt + j * f.stepD.toInt = d + (j + 1 : Nat) * f.stepD.toInt := by
      push_cast
      ring
    rw [State.sweepFrom, State.sweepSegment_eq]
    obtain ⟨honly, hbytes⟩ := ih (s := s.writeScratch g d.toNat (s.sweepOut g op f.ty d.toNat a.toNat b.toNat))
      (d := d + f.stepD.toInt) (a := a + f.stepA.toInt) (b := b + f.stepB.toInt)
      (fl := fl ||| (List.range 32).foldl (fun m l => m ||| (s.sweepRes g op f.ty d.toNat a.toNat b.toNat l).flags) 0)
      fun j hj => by rw [hnext]; exact hd (j + 1) (by omega)
    refine ⟨(s.writeScratch_only g _ _).trans honly, fun k hk => ?_⟩
    rw [hbytes k fun j hj => by rw [hnext]; exact hk (j + 1) (by omega)]
    refine s.scratchAt_writeScratch_other g ?_
    have h0 := hd 0 (by omega)
    have hk0 := hk 0 (by omega)
    rw [State.sweepOut_length]
    simp only [Nat.cast_zero, zero_mul, add_zero] at h0 hk0
    omega

/-! ## The check and the effect of a sweep (spec 10 R166) -/

/-- The registers and steps of the segments that a sweep reads. -/
def sweepReads (op : SweepOp) (f : SweepF) : List (BitVec 8 × BitVec 16) :=
  if op = .mov then [(f.a, f.stepA)] else [(f.a, f.stepA), (f.b, f.stepB)]

/-- Where segments with a step lie as R166 asks: from an aligned offset, aligned and within the scratchpad. -/
def SegmentsFine (g : Group) (e count o : Nat) (step : BitVec 16) : Prop :=
  o % e = 0 ∧ ∀ j, j < count →
    0 ≤ (o : Int) + j * step.toInt ∧ ((o : Int) + j * step.toInt) % (e : Int) = 0 ∧
      (o : Int) + j * step.toInt + (32 * e : Nat) ≤ g.scratch

/-- The model's test of the same. -/
def segmentsWrong (g : Group) (e count o : Nat) (step : BitVec 16) : Bool :=
  o % e ≠ 0 || (List.range count).any fun j =>
    g.outside (o + j * step.toInt) (32 * e) || ((o : Int) + j * step.toInt) % e ≠ 0

theorem segmentsWrong_eq_false_iff {g : Group} {e count o : Nat} {step : BitVec 16} :
    segmentsWrong g e count o step = false ↔ SegmentsFine g e count o step := by
  simp only [segmentsWrong, SegmentsFine, Group.outside, Bool.or_eq_false_iff, decide_eq_false_iff_not,
    List.any_eq_false, List.mem_range, Bool.or_eq_true, decide_eq_true_eq, not_or, not_not, not_lt]
  grind

/-- A register's offset in the lowest active lane. -/
def Wave.sweepOff (w : Wave) (h : Head) (r : BitVec 8) : Nat := (w.reg r.toNat (lowestLane (w.acting h))).toNat

/-- Where every segment of a sweep lies as R166 asks. -/
def State.SweepFine (s : State) (h : Head) (f : SweepF) (reads : List (BitVec 8 × BitVec 16)) : Prop :=
  let w := s.unit s.cur
  ∀ x ∈ (f.d, f.stepD) :: reads,
    SegmentsFine (s.group w.group) (sweepBytes f.ty) f.count.toNat (w.sweepOff h x.1) x.2

/-- The model's test of a sweep. -/
def State.sweepWrong (s : State) (h : Head) (op : SweepOp) (f : SweepF) : Bool :=
  let w := s.unit s.cur
  let wrong := segmentsWrong (s.group w.group) (sweepBytes f.ty) f.count.toNat
  wrong (w.sweepOff h f.d) f.stepD || wrong (w.sweepOff h f.a) f.stepA ||
    wrong (if op = .mov then w.sweepOff h f.a else w.sweepOff h f.b) (if op = .mov then f.stepA else f.stepB)

theorem State.sweepWrong_eq_false_iff {s : State} {h : Head} {op : SweepOp} {f : SweepF} :
    s.sweepWrong h op f = false ↔ s.SweepFine h f (sweepReads op f) := by
  simp only [State.sweepWrong, State.SweepFine, sweepReads, Bool.or_eq_false_iff, segmentsWrong_eq_false_iff]
  by_cases hop : op = .mov <;> simp [hop, and_assoc]

/-- The flags and the state that the segments of a sweep leave. -/
def State.sweepRun (s : State) (h : Head) (op : SweepOp) (f : SweepF) : Word × State :=
  let w := s.unit s.cur
  (s.setUnit s.cur (w.movedTo w.pc)).sweepFrom (s.group w.group) op f (w.sweepOff h f.d) (w.sweepOff h f.a)
    (if op = .mov then w.sweepOff h f.a else w.sweepOff h f.b : Nat) f.count.toNat 0

/-- A sweep that issues: with no active lane it goes on; else it traps, or has written its segments and goes on. -/
theorem State.sweep_of_issues {s : State} {i : Instr} {h : Head} (op : SweepOp) (f : SweepF) (hi : Issues s i h) :
    s.sweep i h op f =
      if (s.unit s.cur).acting h = 0 then s.setUnit s.cur ((s.unit s.cur).after i)
      else if s.sweepWrong h op f = true then (s.setUnit s.cur { s.unit s.cur with held := false }).trap i causeAlign
      else
        let (fl, t) := s.sweepRun h op f
        (t.setUnit t.cur { t.unit t.cur with fflags := (t.unit t.cur).fflags ||| fl }).advance i := by
  rw [State.sweep, State.issue_of_issues s i h _ hi, Wave.unheld_eq_movedTo]
  have hact (p : DWord) : ((s.unit s.cur).movedTo p).acting h = (s.unit s.cur).acting h := rfl
  simp only [State.cur_setUnit, State.unit_setUnit_same, hact, Wave.reg_movedTo, State.group_setUnit,
    State.advance_setUnit_movedTo, Wave.after_eq_movedTo]
  rfl

/-- What a sweep of segments that lie in the scratchpad leaves. -/
theorem State.sweepRun_only {s : State} {h : Head} {op : SweepOp} {f : SweepF} {reads : List (BitVec 8 × BitVec 16)}
    (hf : s.SweepFine h f reads) :
    let w := s.unit s.cur
    let g := s.group w.group
    let seg := fun j : Nat => (w.sweepOff h f.d : Int) + j * f.stepD.toInt
    ScratchOnly g.core (s.setUnit s.cur (w.movedTo w.pc)) (s.sweepRun h op f).2 ∧
      ∀ k : Nat, (∀ j, j < f.count.toNat →
          ¬((g.base : Int) + seg j ≤ k ∧ (k : Int) < g.base + seg j + (32 * sweepBytes f.ty : Nat))) →
        (s.sweepRun h op f).2.scratchAt g k = s.scratchAt g k := by
  intro w g seg
  have hd := (hf _ List.mem_cons_self).2
  exact State.sweepFrom_only _ fun j hj => (hd j hj).1

/-- What a sweep of one segment writes, and its flags. -/
theorem State.sweepRun_one {s : State} {h : Head} {op : SweepOp} {f : SweepF} (hc : f.count.toNat = 1) :
    let w := s.unit s.cur
    let g := s.group w.group
    let res := s.sweepRes g op f.ty (w.sweepOff h f.d) (w.sweepOff h f.a)
      (if op = .mov then w.sweepOff h f.a else w.sweepOff h f.b)
    (∀ l, l < 32 → (s.sweepRun h op f).2.sweepElem g (sweepBytes f.ty) (w.sweepOff h f.d) l =
        (res l).val % 2 ^ (8 * sweepBytes f.ty)) ∧
      (s.sweepRun h op f).1 = (List.range 32).foldl (fun m l => m ||| (res l).flags) 0 := by
  intro w g res
  let out := (s.setUnit s.cur (w.movedTo w.pc)).sweepSegment g op f.ty (w.sweepOff h f.d) (w.sweepOff h f.a)
    (if op = .mov then w.sweepOff h f.a else w.sweepOff h f.b)
  have hrun : s.sweepRun h op f = (0 ||| out.1, out.2) := by
    rw [State.sweepRun, hc]
    rfl
  rw [hrun]
  exact ⟨fun l hl => State.sweepElem_sweepSegment _ g op f.ty _ _ _ hl,
    BitVec.zero_or.trans (congrArg Prod.fst (State.sweepSegment_eq _ g op f.ty _ _ _))⟩

/-! ## The laws of the sweeps -/

/-- What R166 and R167 say of a sweep that reads segments of some registers and computes a function of the elements of
a, b and d. -/
def SweepLaw (s : State) (h : Head) (f : SweepF) (i : Instr) (reads : List (BitVec 8 × BitVec 16))
    (fn : Nat → Nat → Nat → Res) : Prop :=
  let w := s.unit s.cur
  let g := s.group w.group
  let e := if f.ty = .f16 ∨ f.ty = .bf16 then 2 else 4
  let seg := fun j : Nat => (w.sweepOff h f.d : Int) + j * f.stepD.toInt
  let elem := fun (v : State) (r : BitVec 8) => v.sweepElem g e (w.sweepOff h r)
  let res := fun l => fn (elem s f.a l) (elem s f.b l) (elem s f.d l)
  let fine := ∀ x ∈ (f.d, f.stepD) :: reads, SegmentsFine g e f.count.toNat (w.sweepOff h x.1) x.2
  (Issues s i h → w.acting h = 0 → UnitTo s i (w.after i)) ∧
  (Issues s i h → w.acting h ≠ 0 → ¬fine → TakesTrap s i causeAlign) ∧
  (Issues s i h → w.acting h ≠ 0 → fine →
    ∃ (v : State) (fl : Word), exec i s = .next v ∧ v.unit s.cur = { w.after i with fflags := w.fflags ||| fl } ∧
      (∀ u, u ≠ s.cur → v.unit u = s.unit u) ∧ v.mem = s.mem ∧ v.ctxs = s.ctxs ∧
      (∀ k, k ≠ g.core → v.core k = s.core k) ∧
      v.core g.core = { s.core g.core with scratch := (v.core g.core).scratch } ∧
      (∀ k : Nat, (∀ j, j < f.count.toNat →
          ¬((g.base : Int) + seg j ≤ k ∧ (k : Int) < g.base + seg j + (32 * e : Nat))) →
        v.scratchAt g k = s.scratchAt g k) ∧
      (f.count.toNat = 1 → (∀ l, l < 32 → elem v f.d l = (res l).val % 2 ^ (8 * e)) ∧
        fl = (List.range 32).foldl (fun m l => m ||| (res l).flags) 0))

/-- The result of an element, by the function of the elements of a, b and d; of swp.mov b is not read. -/
theorem State.sweepRes_eq {op : SweepOp} {t : Ty} {fn : Nat → Nat → Nat → Res}
    (hfn : ∀ x y z, sweepFn op t x (if op = .mov then 0 else y) z = fn x y z) (s : State) (g : Group) (d a b l : Nat) :
    s.sweepRes g op t d a (if op = .mov then a else b) l =
      fn (s.sweepElem g (sweepBytes t) a l) (s.sweepElem g (sweepBytes t) b l) (s.sweepElem g (sweepBytes t) d l) := by
  rw [← hfn, State.sweepRes]
  split <;> rfl

theorem SweepLaw.of_sweep {s : State} {h : Head} {f : SweepF} {i : Instr} (op : SweepOp) {fn : Nat → Nat → Nat → Res}
    (hx : exec i s = .next (s.sweep i h op f))
    (hfn : ∀ x y z, sweepFn op f.ty x (if op = .mov then 0 else y) z = fn x y z) :
    SweepLaw s h f i (sweepReads op f) fn := by
  unfold SweepLaw
  rw [← sweepBytes_eq]
  refine ⟨fun hi hm => ?_, fun hi hm hf => ?_, fun hi hm hf => ?_⟩
  · rw [UnitTo, hx, State.sweep_of_issues op f hi, if_pos hm]
  · have hw : s.sweepWrong h op f = true := by
      rw [← Bool.not_eq_false, State.sweepWrong_eq_false_iff]
      exact hf
    refine .of_trap_unheld (State.park_of_ready hi.ready) ?_
    rw [hx, State.sweep_of_issues op f hi, if_neg hm, if_pos hw]
  · have hw : ¬s.sweepWrong h op f = true := by
      rw [Bool.not_eq_true, State.sweepWrong_eq_false_iff]
      exact hf
    obtain ⟨hrun, hbytes⟩ := State.sweepRun_only (op := op) hf
    have hone := State.sweepRun_one (s := s) (h := h) (op := op) (f := f)
    rw [hx, State.sweep_of_issues op f hi, if_neg hm, if_neg hw]
    generalize s.sweepRun h op f = r at hrun hbytes hone
    obtain ⟨fl, t⟩ := r
    obtain ⟨hcur, hunits, hmem, hctxs, hothers, hcore⟩ := hrun
    simp only [State.cur_setUnit] at hcur
    have hunit : t.unit s.cur = (s.unit s.cur).movedTo (s.unit s.cur).pc := by rw [hunits, State.unit_setUnit_same]
    refine ⟨_, fl, rfl, ?_, fun u hu => ?_, hmem, hctxs, hothers, hcore, hbytes, fun hc => ?_⟩
    · simp only [State.advance, State.cur_setUnit, State.unit_setUnit_same, State.setUnit_setUnit, hcur, hunit]
      rfl
    · simp only [State.advance, State.cur_setUnit, State.setUnit_setUnit, hcur]
      rw [State.unit_setUnit_other _ _ _ _ hu, hunits, State.unit_setUnit_other _ _ _ _ hu]
    · obtain ⟨hval, hfl⟩ := hone hc
      simp only [State.sweepRes_eq hfn] at hval hfl
      exact ⟨hval, hfl⟩

/-- Settles O36: every sweep is `State.sweep` of its function. -/
theorem sweeps : Obligations.Sweeps := by
  unfold Obligations.Sweeps
  intro s h f w g e off law two ints
  have hlaw (i : Instr) (reads : List (BitVec 8 × BitVec 16)) (fn : Nat → Nat → Nat → Res) :
      law i reads fn = SweepLaw s h f i reads fn := rfl
  simp only [hlaw]
  refine ⟨.of_sweep .add rfl fun x y z => ?_, .of_sweep .sub rfl fun x y z => ?_, .of_sweep .mul rfl fun x y z => ?_,
    .of_sweep .fma rfl fun x y z => ?_, .of_sweep .min rfl fun x y z => ?_, .of_sweep .max rfl fun x y z => ?_,
    .of_sweep .mov rfl fun x y z => ?_⟩
  all_goals
    unfold sweepFn
    cases f.ty.fmt? <;> rfl

end Sys2Proof.Machine
end

section
/-!
SUPPORT. The values of a float format: its magnitude patterns in order, each with its value, and what a pattern unpacks
to: the first part of the proof of O6 (spec 10 R156, spec 21 R300, R301).
-/

namespace Sys2Proof

/-! ## The values of magnitude patterns (spec 21 R301) -/

/-- A format whose step is one pattern throughout: it has normal values, and fractions of one bit at least. -/
structure Fmt.Sound (f : Fmt) : Prop where
  frac_pos : 0 < f.frac
  normal   : 2 ^ f.frac ≤ f.maxFin
  bounded  : f.maxFin < 2 ^ f.signBit

/-- The exponent of the least step of a format's values. -/
def Fmt.unit (f : Fmt) : Int := 1 - f.bias - f.frac

/-- The value of a magnitude pattern, as if no pattern were an infinity or a NaN. -/
def Fmt.mval (f : Fmt) (mag : Nat) : ℚ :=
  if mag / 2 ^ f.frac = 0 then (mag % 2 ^ f.frac : Nat) * 2 ^ (1 - (f.bias : Int) - f.frac)
  else (2 ^ f.frac + mag % 2 ^ f.frac : Nat) * 2 ^ (((mag / 2 ^ f.frac : Nat) : Int) - f.bias - f.frac)

/-- A significand with a number of doublings of the unit is a pattern: a full one where there are any. -/
structure Fmt.Scaled (f : Fmt) (j n : Nat) : Prop where
  full : j ≠ 0 → 2 ^ f.frac ≤ n
  le   : n ≤ 2 ^ (f.frac + 1)

variable {f : Fmt}

theorem rat_zpow_add_nat (e : Int) (n : Nat) : (2 : ℚ) ^ (e + n) = 2 ^ n * 2 ^ e := by
  rw [zpow_add₀ two_ne_zero, zpow_natCast, mul_comm]

theorem Fmt.Scaled.mval_eq {j n : Nat} (h : f.Scaled j n) :
    f.mval (j * 2 ^ f.frac + n) = n * 2 ^ (f.unit + j) := by
  have hpow : 2 ^ (f.frac + 1) = 2 ^ f.frac * 2 := Nat.pow_succ _ _
  have hpos : 0 < 2 ^ f.frac := Nat.two_pow_pos _
  obtain ⟨hfull, hle⟩ := h
  unfold Fmt.mval Fmt.unit
  obtain hn | ⟨hlo, hhi⟩ | rfl : n < 2 ^ f.frac ∨ 2 ^ f.frac ≤ n ∧ n < 2 ^ (f.frac + 1) ∨ n = 2 ^ (f.frac + 1) := by
    omega
  · obtain rfl : j = 0 := by
      by_contra hj
      exact absurd (hfull hj) (by omega)
    rw [Nat.zero_mul, Nat.zero_add, if_pos (Nat.div_eq_of_lt hn), Nat.mod_eq_of_lt hn, Nat.cast_zero, add_zero]
  · obtain ⟨i, rfl⟩ := Nat.exists_eq_add_of_le hlo
    rw [show j * 2 ^ f.frac + (2 ^ f.frac + i) = (j + 1) * 2 ^ f.frac + i by ring,
      Nat.mul_comm (j + 1), Nat.mul_add_div hpos, Nat.mul_add_mod, Nat.mod_eq_of_lt (by omega),
      Nat.div_eq_of_lt (by omega), if_neg (by omega)]
    congr 2
    push_cast
    ring
  · rw [show j * 2 ^ f.frac + 2 ^ (f.frac + 1) = (j + 2) * 2 ^ f.frac by rw [hpow]; ring, Nat.mul_mod_left,
      Nat.mul_div_cancel _ hpos, if_neg (by omega), Nat.add_zero,
      show (((j + 2 : Nat) : Int) - f.bias - f.frac) = (1 - (f.bias : Int) - f.frac + j) + (1 : Nat) by push_cast; ring,
      rat_zpow_add_nat]
    push_cast
    ring

/-- Every pattern is a significand short of the next doubling. -/
theorem Fmt.exists_scaled (f : Fmt) (mag : Nat) :
    ∃ j n, mag = j * 2 ^ f.frac + n ∧ f.Scaled j n ∧ n < 2 ^ (f.frac + 1) := by
  have hpow : 2 ^ (f.frac + 1) = 2 ^ f.frac * 2 := Nat.pow_succ _ _
  have hmod := Nat.mod_lt mag (Nat.two_pow_pos f.frac)
  have hdiv := Nat.div_add_mod' mag (2 ^ f.frac)
  rcases hq : mag / 2 ^ f.frac with _ | j
  · rw [hq] at hdiv
    exact ⟨0, mag, by omega, ⟨by omega, by omega⟩, by omega⟩
  · rw [hq, Nat.succ_mul] at hdiv
    exact ⟨j, 2 ^ f.frac + mag % 2 ^ f.frac, by omega, ⟨by omega, by omega⟩, by omega⟩

/-- Patterns of one doubling are alike a step apart; from the last, the next is further. -/
theorem Fmt.Scaled.mval_succ {j n : Nat} (h : f.Scaled j n) (hn : n < 2 ^ (f.frac + 1)) :
    f.mval (j * 2 ^ f.frac + n + 1) = (n + 1) * 2 ^ (f.unit + j) := by
  have hs : f.Scaled j (n + 1) := ⟨fun hj => (h.full hj).trans (Nat.le_succ n), hn⟩
  rw [Nat.add_assoc, hs.mval_eq]
  push_cast
  rfl

theorem Fmt.strictMono_mval (f : Fmt) : StrictMono f.mval := by
  refine strictMono_nat_of_lt_succ fun mag => ?_
  obtain ⟨j, n, rfl, h, hn⟩ := f.exists_scaled mag
  rw [h.mval_succ hn, h.mval_eq]
  have : (0 : ℚ) < 2 ^ (f.unit + j) := zpow_pos two_pos _
  linarith

@[simp] theorem Fmt.mval_zero (f : Fmt) : f.mval 0 = 0 := by simp [Fmt.mval]

theorem Fmt.mval_nonneg (f : Fmt) (mag : Nat) : 0 ≤ f.mval mag :=
  f.mval_zero ▸ f.strictMono_mval.monotone (Nat.zero_le mag)

/-- The largest finite value, and the one a step further. -/
theorem Fmt.Sound.mval_maxFin (h : f.Sound) : f.mval f.maxFin = f.largest := by
  have hdiv : f.maxFin / 2 ^ f.frac ≠ 0 :=
    (Nat.div_pos h.normal (Nat.two_pow_pos _)).ne'
  rw [Fmt.mval, if_neg hdiv]
  rfl

theorem Fmt.Sound.mval_maxFin_succ (h : f.Sound) : f.mval (f.maxFin + 1) = f.largest + f.topStep := by
  have hpow : 2 ^ (f.frac + 1) = 2 ^ f.frac * 2 := Nat.pow_succ _ _
  have hmod := Nat.mod_lt f.maxFin (Nat.two_pow_pos f.frac)
  have hdiv := Nat.div_add_mod' f.maxFin (2 ^ f.frac)
  obtain ⟨j, hj⟩ := Nat.exists_eq_succ_of_ne_zero (Nat.div_pos h.normal (Nat.two_pow_pos _)).ne'
  have hs : f.Scaled j (2 ^ f.frac + f.maxFin % 2 ^ f.frac) := ⟨fun _ => by omega, by omega⟩
  have hmax : f.maxFin = j * 2 ^ f.frac + (2 ^ f.frac + f.maxFin % 2 ^ f.frac) := by
    rw [hj, Nat.succ_mul] at hdiv
    omega
  have hunit : f.topStep = 2 ^ (f.unit + j) := by
    rw [Fmt.topStep, Fmt.unit, hj]
    congr 1
    push_cast
    ring
  have hsucc := hs.mval_succ (by omega)
  rw [← hmax] at hsucc
  rw [hsucc, Fmt.largest, hunit]
  ring

/-! ## Patterns and what they unpack to -/

theorem Fmt.signed_eq (s : Bool) (mag : Nat) : f.signed s mag = s.toNat * 2 ^ f.signBit + mag := by
  cases s <;> simp [Fmt.signed]

theorem Fmt.signed_mod {s : Bool} {mag : Nat} (h : mag < 2 ^ f.signBit) : f.signed s mag % 2 ^ f.signBit = mag := by
  rw [Fmt.signed_eq, Nat.mul_add_mod', Nat.mod_eq_of_lt h]

theorem Fmt.signed_div {s : Bool} {mag : Nat} (h : mag < 2 ^ f.signBit) : f.signed s mag / 2 ^ f.signBit = s.toNat := by
  rw [Fmt.signed_eq, Nat.mul_comm, Nat.mul_add_div (Nat.two_pow_pos _), Nat.div_eq_of_lt h, Nat.add_zero]

theorem Fmt.Sound.signed_even (h : f.Sound) {s : Bool} {mag : Nat} (hm : mag % 2 = 0) : f.signed s mag % 2 = 0 := by
  have hdvd : 2 ∣ s.toNat * 2 ^ f.signBit :=
    Dvd.dvd.mul_left (dvd_pow_self 2 (by have := h.frac_pos; unfold Fmt.signBit; omega)) _
  rw [Fmt.signed_eq]
  omega

/-- Every pattern with no bits above the sign is a sign and a magnitude. -/
theorem Fmt.exists_signed {n : Nat} (h : n < 2 ^ (f.signBit + 1)) :
    ∃ s mag, mag < 2 ^ f.signBit ∧ n = f.signed s mag := by
  rw [Nat.pow_succ] at h
  have hmod := Nat.mod_lt n (Nat.two_pow_pos f.signBit)
  have hdiv := Nat.div_add_mod' n (2 ^ f.signBit)
  have hlt : n / 2 ^ f.signBit < 2 := Nat.div_lt_of_lt_mul h
  refine ⟨decide (n / 2 ^ f.signBit = 1), n % 2 ^ f.signBit, hmod, ?_⟩
  rw [Fmt.signed_eq]
  obtain hq | hq := Nat.le_one_iff_eq_zero_or_eq_one.mp (Nat.le_of_lt_succ hlt)
  · rw [hq] at hdiv ⊢
    simpa using hdiv.symm
  · rw [hq] at hdiv ⊢
    simpa using hdiv.symm

/-- The significand and exponent that a finite pattern unpacks to. -/
def Fmt.parts (f : Fmt) (mag : Nat) : Nat × Int :=
  if mag / 2 ^ f.frac = 0 then (mag % 2 ^ f.frac, 1 - (f.bias : Int) - f.frac)
  else (2 ^ f.frac + mag % 2 ^ f.frac, ((mag / 2 ^ f.frac : Nat) : Int) - f.bias - f.frac)

theorem Fmt.parts_value (f : Fmt) (mag : Nat) : ((f.parts mag).1 : ℚ) * 2 ^ (f.parts mag).2 = f.mval mag := by
  unfold Fmt.parts Fmt.mval
  split <;> rfl

theorem Fmt.unpack_signed {s : Bool} {mag : Nat} (h : mag < 2 ^ f.signBit) : f.unpack (f.signed s mag) =
    if f.maxFin < mag then
      if f.hasInf then
        if mag % 2 ^ f.frac = 0 then .inf s
        else .nan s (mag % 2 ^ f.frac) (mag % 2 ^ f.frac / 2 ^ (f.frac - 1) % 2 = 1)
      else .nan s 0 true
    else .fin s (f.parts mag).1 (f.parts mag).2 := by
  have hsign : decide (f.signed s mag / 2 ^ f.signBit % 2 = 1) = s := by
    rw [Fmt.signed_div h]
    cases s <;> rfl
  simp only [Fmt.unpack, Fmt.signed_mod h, hsign, Fmt.parts, gt_iff_lt]
  split
  next => rfl
  next => split <;> rfl

theorem Fmt.unpack_finite (h : f.Sound) {s : Bool} {mag : Nat} (hm : mag ≤ f.maxFin) :
    f.unpack (f.signed s mag) = .fin s (f.parts mag).1 (f.parts mag).2 := by
  rw [Fmt.unpack_signed (hm.trans_lt h.bounded), if_neg (Nat.not_lt.mpr hm)]

theorem Fmt.dyadic_parts (f : Fmt) (s : Bool) (mag : Nat) :
    dyadic s (f.parts mag).1 (f.parts mag).2 = ofSign s (f.mval mag) := by
  rw [dyadic_eq, f.parts_value]

/-- Unpacking reads the sign and the bits below it alone. -/
theorem Fmt.unpack_mod (f : Fmt) (n : Nat) : f.unpack (n % 2 ^ (f.signBit + 1)) = f.unpack n := by
  have hmag : n % 2 ^ (f.signBit + 1) % 2 ^ f.signBit = n % 2 ^ f.signBit :=
    Nat.mod_mod_of_dvd _ (pow_dvd_pow 2 (Nat.le_succ _))
  have hsign : n % 2 ^ (f.signBit + 1) / 2 ^ f.signBit % 2 = n / 2 ^ f.signBit % 2 := by
    rw [Nat.pow_succ, Nat.mod_mul_right_div_self, Nat.mod_mod]
  simp only [Fmt.unpack, hmag, hsign]

/-- A pattern that unpacks to a number is that of a finite magnitude, with its value. -/
theorem Fmt.exists_of_unpack_fin {n m : Nat} {s : Bool} {e : Int} (h : f.unpack n = .fin s m e) :
    ∃ mag, mag ≤ f.maxFin ∧ n % 2 ^ (f.signBit + 1) = f.signed s mag ∧ m = (f.parts mag).1 ∧ e = (f.parts mag).2 := by
  obtain ⟨t, mag, hmag, hn⟩ := Fmt.exists_signed (Nat.mod_lt n (Nat.two_pow_pos (f.signBit + 1)))
  rw [← f.unpack_mod, hn, Fmt.unpack_signed hmag] at h
  split at h
  next =>
    split at h
    next => split at h <;> cases h
    next => cases h
  next hle =>
    cases h
    exact ⟨mag, Nat.le_of_not_lt hle, hn, rfl, rfl⟩

theorem Fmt.has_iff (h : f.Sound) {z : ℚ} : f.Has z ↔ ∃ s mag, mag ≤ f.maxFin ∧ z = ofSign s (f.mval mag) := by
  constructor
  · rintro ⟨n, s, m, e, hn, rfl⟩
    obtain ⟨mag, hmag, -, rfl, rfl⟩ := Fmt.exists_of_unpack_fin hn
    exact ⟨s, mag, hmag, f.dyadic_parts s mag⟩
  · rintro ⟨s, mag, hmag, rfl⟩
    exact ⟨_, s, _, _, Fmt.unpack_finite h hmag, (f.dyadic_parts s mag).symm⟩

end Sys2Proof
end

section
/-!
SUPPORT. Rounding of magnitudes to nearest, down or up: to integers, and from there to the patterns of a format: the
second part of the proof of O6 (spec 03 R48, spec 10 R156).
-/

namespace Sys2Proof

/-! ## Directions, as they act on magnitudes -/

/-- What a direction does to the magnitude of a number of a sign. -/
inductive Way | near | down | up

def Rnd.way (rnd : Rnd) (sg : Bool) : Way :=
  match rnd with
  | .rn => .near
  | .rz => .down
  | .rm => if sg then .up else .down
  | .rp => if sg then .down else .up

/-- What holds of a magnitude, by what the direction does to it. -/
def Way.pick (way : Way) (near down up : Prop) : Prop :=
  match way with
  | .near => near
  | .down => down
  | .up => up

/-- Of the integers n is the one that a magnitude is rounded to. -/
def Way.ToNat (way : Way) (y : ℚ) (n : Nat) : Prop :=
  match way with
  | .near => |y - n| ≤ 1 / 2 ∧ (|y - n| = 1 / 2 → n % 2 = 0)
  | .down => n ≤ y ∧ y < n + 1
  | .up => (n : ℚ) - 1 < y ∧ y ≤ n

theorem Way.toNat_self (way : Way) (n : Nat) : way.ToNat n n := by
  cases way <;> norm_num [Way.ToNat]

theorem roundShift_eq (rnd : Rnd) (sg : Bool) (m k : Nat) : roundShift rnd sg m k = m / 2 ^ k +
    match rnd.way sg with
    | .near => if 2 ^ k < 2 * (m % 2 ^ k) ∨ 2 * (m % 2 ^ k) = 2 ^ k ∧ m / 2 ^ k % 2 = 1 then 1 else 0
    | .down => 0
    | .up => if m % 2 ^ k = 0 then 0 else 1 := by
  cases rnd with
  | rn =>
    simp only [roundShift, Rnd.way, gt_iff_lt, Bool.or_eq_true, Bool.and_eq_true, decide_eq_true_eq]
    split <;> rfl
  | rz => rfl
  | rm | rp =>
    by_cases hr : m % 2 ^ k = 0
    all_goals cases sg <;> simp [roundShift, Rnd.way, hr]

/-- A number between two integers is rounded to nearest to the greater one past the middle, and there where it is
even. -/
theorem Way.toNat_near_succ {q : Nat} {t : ℚ} (h1 : t < 1) (hup : 1 / 2 < t ∨ t = 1 / 2 ∧ q % 2 = 1) :
    Way.near.ToNat (q + t) (q + 1) := by
  have habs : |(q : ℚ) + t - (q + 1 : Nat)| = 1 - t := by
    rw [abs_of_neg (by push_cast; linarith)]
    push_cast
    ring
  have hge : 1 / 2 ≤ t := hup.elim le_of_lt fun h => h.1.ge
  dsimp only [Way.ToNat]
  rw [habs]
  refine ⟨by linarith, fun htie => ?_⟩
  obtain h | h := hup
  · linarith
  · omega

theorem Way.toNat_near_self {q : Nat} {t : ℚ} (h0 : 0 ≤ t) (hlo : t ≤ 1 / 2) (htie : t = 1 / 2 → ¬q % 2 = 1) :
    Way.near.ToNat (q + t) q := by
  dsimp only [Way.ToNat]
  rw [add_sub_cancel_left, abs_of_nonneg h0]
  exact ⟨hlo, fun he => by have := htie he; omega⟩

/-- A division by a power of two, rounded. -/
theorem toNat_roundShift (rnd : Rnd) (sg : Bool) (m k : Nat) :
    (rnd.way sg).ToNat ((m : ℚ) / 2 ^ k) (roundShift rnd sg m k) ∧
      (m % 2 ^ k ≠ 0 ↔ (roundShift rnd sg m k : ℚ) ≠ m / 2 ^ k) := by
  rw [roundShift_eq]
  have hp : (0 : ℚ) < 2 ^ k := by positivity
  have hm : (m : ℚ) = (m / 2 ^ k : Nat) * 2 ^ k + (m % 2 ^ k : Nat) := by
    exact_mod_cast (Nat.div_add_mod' m (2 ^ k)).symm
  have hlt : ((m % 2 ^ k : Nat) : ℚ) < 2 ^ k := by exact_mod_cast Nat.mod_lt m (Nat.two_pow_pos k)
  generalize m / 2 ^ k = q at *
  generalize m % 2 ^ k = r at *
  have hy : (m : ℚ) / 2 ^ k = q + r / 2 ^ k := by
    rw [hm, add_div, mul_div_cancel_right₀ _ hp.ne']
  rw [hy]
  have hr : (r : ℚ) = r / 2 ^ k * 2 ^ k := (div_mul_cancel₀ _ hp.ne').symm
  have hr0 : (0 : ℚ) ≤ r / 2 ^ k := by positivity
  have hr1 : (r : ℚ) / 2 ^ k < 1 := (div_lt_one hp).mpr hlt
  have hzero : r = 0 ↔ (r : ℚ) / 2 ^ k = 0 := by
    rw [div_eq_zero_iff, Nat.cast_eq_zero, or_iff_left hp.ne']
  have hhalf : 2 * r = 2 ^ k ↔ (r : ℚ) / 2 ^ k = 1 / 2 := by
    rw [div_eq_div_iff hp.ne' two_ne_zero, one_mul, mul_comm (r : ℚ)]
    exact_mod_cast Iff.rfl
  have hmore : 2 ^ k < 2 * r ↔ 1 / 2 < (r : ℚ) / 2 ^ k := by
    rw [div_lt_div_iff₀ two_pos hp, one_mul, mul_comm (r : ℚ)]
    exact_mod_cast Iff.rfl
  generalize (r : ℚ) / 2 ^ k = t at *
  rw [show r ≠ 0 ↔ t ≠ 0 from not_congr hzero]
  cases rnd.way sg with
  | near =>
    dsimp only
    split
    next hup =>
      rw [hhalf, hmore] at hup
      refine ⟨Way.toNat_near_succ hr1 hup, ?_⟩
      have hpos : 0 < t := hup.elim (fun h => by linarith) fun h => by linarith [h.1]
      push_cast
      exact ⟨fun _ => by linarith, fun _ => hpos.ne'⟩
    next hup =>
      rw [hhalf, hmore, not_or, not_lt, not_and] at hup
      exact ⟨Way.toNat_near_self hr0 hup.1 hup.2, by simp⟩
  | down =>
    simp only [Nat.add_zero]
    exact ⟨⟨by linarith, by linarith⟩, by simp⟩
  | up =>
    dsimp only
    split
    next h0 =>
      obtain rfl := hzero.mp h0
      rw [add_zero, Nat.add_zero]
      exact ⟨Way.toNat_self _ _, by simp⟩
    next h0 =>
      rw [hzero] at h0
      have hpos : 0 < t := lt_of_le_of_ne hr0 (Ne.symm h0)
      dsimp only [Way.ToNat]
      push_cast
      exact ⟨⟨by linarith, by linarith⟩, fun _ => by linarith, fun _ => h0⟩

/-- A number as a multiple of 2^q, rounded. -/
theorem toNat_quantize (rnd : Rnd) (sg : Bool) (m : Nat) (e q : Int) :
    (rnd.way sg).ToNat (m * 2 ^ (e - q)) (quantize rnd sg m e q).1 ∧
      ((quantize rnd sg m e q).2 = true ↔ ((quantize rnd sg m e q).1 : ℚ) ≠ m * 2 ^ (e - q)) := by
  unfold quantize pow2
  split
  next h =>
    have hy : (m : ℚ) * 2 ^ (e - q) = (m * 2 ^ (e - q).toNat : Nat) := by
      push_cast
      rw [← zpow_natCast, Int.toNat_of_nonneg (by omega)]
    rw [hy]
    exact ⟨Way.toNat_self _ _, by simp⟩
  next h =>
    have hy : (m : ℚ) * 2 ^ (e - q) = m / 2 ^ (q - e).toNat := by
      rw [div_eq_mul_inv, ← zpow_natCast, ← zpow_neg, Int.toNat_of_nonneg (by omega), neg_sub]
    rw [hy]
    obtain ⟨hto, hexact⟩ := toNat_roundShift rnd sg m (q - e).toNat
    exact ⟨hto, by rw [← hexact, decide_eq_true_eq]⟩

theorem Way.ToNat.le {way : Way} {y : ℚ} {n N : Nat} (h : way.ToNat y n) (hy : y ≤ N) : n ≤ N := by
  by_contra hn
  have hcast : (N : ℚ) + 1 ≤ n := by exact_mod_cast Nat.lt_of_not_le hn
  cases way with
  | near =>
    obtain ⟨hnear, -⟩ := h
    rw [abs_le] at hnear
    linarith
  | down => linarith [h.1]
  | up => linarith [h.1]

theorem Way.ToNat.ge {way : Way} {y : ℚ} {n N : Nat} (h : way.ToNat y n) (hy : N ≤ y) : N ≤ n := by
  by_contra hn
  have hcast : (n : ℚ) + 1 ≤ N := by exact_mod_cast Nat.lt_of_not_le hn
  cases way with
  | near =>
    obtain ⟨hnear, -⟩ := h
    rw [abs_le] at hnear
    linarith
  | down => linarith [h.2]
  | up => linarith [h.2]

/-! ## Roundings to the patterns of a format -/

/-- Of the magnitude patterns of a format one is that of the value that a magnitude is rounded to, the patterns of
infinities and NaNs standing for the values that would follow. -/
def Fmt.Picks (f : Fmt) (way : Way) (x : ℚ) (mag : Nat) : Prop :=
  match way with
  | .near => ∀ k, |x - f.mval mag| ≤ |x - f.mval k| ∧ (|x - f.mval mag| = |x - f.mval k| → k = mag ∨ mag % 2 = 0)
  | .down => f.mval mag ≤ x ∧ ∀ k, mag < k → x < f.mval k
  | .up => x ≤ f.mval mag ∧ ∀ k, k < mag → f.mval k < x

variable {f : Fmt}

/-- A pattern's value is rounded to itself alone. -/
theorem Fmt.picks_mval_iff {way : Way} {k mag : Nat} : f.Picks way (f.mval k) mag ↔ mag = k := by
  have hmono := f.strictMono_mval
  constructor
  · intro h
    cases way with
    | near =>
      have h0 := (h k).1
      rw [sub_self, abs_zero, abs_nonpos_iff, sub_eq_zero] at h0
      exact (hmono.injective h0).symm
    | down =>
      exact (hmono.le_iff_le.mp h.1).antisymm (Nat.le_of_not_lt fun hlt => lt_irrefl _ (h.2 k hlt))
    | up =>
      exact (Nat.le_of_not_lt fun hlt => lt_irrefl _ (h.2 k hlt)).antisymm (hmono.le_iff_le.mp h.1)
  · rintro rfl
    cases way with
    | near =>
      intro i
      rw [sub_self, abs_zero]
      exact ⟨abs_nonneg _, fun h => .inl (hmono.injective (sub_eq_zero.mp (abs_eq_zero.mp h.symm))).symm⟩
    | down => exact ⟨le_rfl, fun i hi => hmono hi⟩
    | up => exact ⟨le_rfl, fun i hi => hmono hi⟩

section scaled

variable {j n : Nat} (h : f.Scaled j n)
include h

/-- The patterns above one are a step away or more. -/
theorem Fmt.Scaled.le_mval_of_lt {k : Nat} (hk : j * 2 ^ f.frac + n < k) : (n + 1) * 2 ^ (f.unit + j) ≤ f.mval k := by
  have hpow : 2 ^ (f.frac + 1) = 2 ^ f.frac * 2 := Nat.pow_succ _ _
  have hpos : 0 < 2 ^ f.frac := Nat.two_pow_pos _
  refine le_trans ?_ (f.strictMono_mval.monotone (Nat.succ_le_of_lt hk))
  obtain hn | rfl : n < 2 ^ (f.frac + 1) ∨ n = 2 ^ (f.frac + 1) := h.le.lt_or_eq
  · exact (h.mval_succ hn).ge
  · have hs : f.Scaled (j + 1) (2 ^ f.frac + 1) := ⟨fun _ => by omega, by omega⟩
    have heq : (j * 2 ^ f.frac + 2 ^ (f.frac + 1)).succ = (j + 1) * 2 ^ f.frac + (2 ^ f.frac + 1) := by
      rw [hpow, Nat.succ_eq_add_one]
      ring
    rw [heq, hs.mval_eq, show f.unit + ((j + 1 : Nat) : Int) = f.unit + j + (1 : Nat) by push_cast; ring,
      rat_zpow_add_nat (f.unit + j) 1]
    have : (0 : ℚ) < 2 ^ (f.unit + j) := zpow_pos two_pos _
    have hone : (1 : ℚ) ≤ 2 ^ f.frac := one_le_pow₀ one_le_two
    push_cast
    rw [pow_succ]
    nlinarith

/-- The patterns below one are a step away or more, but for the first of a doubling. -/
theorem Fmt.Scaled.mval_le_of_lt {k : Nat} (hk : k < j * 2 ^ f.frac + n) (hn : j ≠ 0 → 2 ^ f.frac < n) :
    f.mval k ≤ (n - 1) * 2 ^ (f.unit + j) := by
  obtain ⟨i, rfl⟩ : ∃ i, n = i + 1 := by
    refine Nat.exists_eq_succ_of_ne_zero ?_
    rintro rfl
    obtain rfl : j = 0 := by
      by_contra hj
      exact absurd (hn hj) (Nat.not_lt_zero _)
    omega
  have hs : f.Scaled j i := ⟨fun hj => Nat.le_of_lt_succ (hn hj), (Nat.le_succ i).trans h.le⟩
  refine (f.strictMono_mval.monotone (show k ≤ j * 2 ^ f.frac + i by omega)).trans ?_
  rw [hs.mval_eq]
  push_cast
  rw [add_sub_cancel_right]

/-- A pattern below another is a step away or more from a number that is rounded to that one, or it is further from it
than the other is, which is the first of a doubling and not above the number. -/
theorem Fmt.Scaled.mval_below {k : Nat} (hk : k < j * 2 ^ f.frac + n) {y : ℚ} (hge : j ≠ 0 → 2 ^ f.frac ≤ y) :
    f.mval k ≤ (n - 1) * 2 ^ (f.unit + j) ∨ (n : ℚ) ≤ y ∧ f.mval k < n * 2 ^ (f.unit + j) := by
  by_cases hfull : j ≠ 0 → 2 ^ f.frac < n
  · exact .inl (h.mval_le_of_lt hk hfull)
  · obtain ⟨hj, hle⟩ := Classical.not_imp.mp hfull
    refine .inr ⟨le_trans ?_ (hge hj), h.mval_eq ▸ f.strictMono_mval hk⟩
    exact_mod_cast Nat.le_of_not_lt hle

/-- A number rounded to the nearest integer of the right size is rounded to the nearest value. -/
theorem Fmt.Scaled.picks_near (hf : 0 < f.frac) {y : ℚ} (hn : Way.near.ToNat y n) (hge : j ≠ 0 → 2 ^ f.frac ≤ y) :
    f.Picks .near (y * 2 ^ (f.unit + j)) (j * 2 ^ f.frac + n) := by
  have hu : (0 : ℚ) < 2 ^ (f.unit + j) := zpow_pos two_pos _
  obtain ⟨hhalf, htie⟩ := hn
  have habs : |y * 2 ^ (f.unit + j) - f.mval (j * 2 ^ f.frac + n)| = |y - n| * 2 ^ (f.unit + j) := by
    rw [h.mval_eq, ← sub_mul, abs_mul, abs_of_pos hu]
  have heven : |y - n| = 1 / 2 → (j * 2 ^ f.frac + n) % 2 = 0 := fun he => by
    have := htie he
    have hdvd : 2 ∣ j * 2 ^ f.frac := Dvd.dvd.mul_left (dvd_pow_self 2 hf.ne') j
    omega
  have hdist {d : ℚ} (hd : 2 ^ (f.unit + j) / 2 ≤ d) :
      |y - n| * 2 ^ (f.unit + j) ≤ d ∧ (|y - n| * 2 ^ (f.unit + j) = d → (j * 2 ^ f.frac + n) % 2 = 0) := by
    have hle : |y - n| * 2 ^ (f.unit + j) ≤ 2 ^ (f.unit + j) / 2 := by nlinarith
    refine ⟨hle.trans hd, fun he => heven ?_⟩
    have : |y - n| * 2 ^ (f.unit + j) = 1 / 2 * 2 ^ (f.unit + j) := by linarith
    exact mul_right_cancel₀ hu.ne' this
  have hy := abs_le.mp hhalf
  intro k
  rw [habs]
  obtain hk | rfl | hk := Nat.lt_trichotomy k (j * 2 ^ f.frac + n)
  · obtain hk | ⟨hny, hk⟩ := h.mval_below hk hge
    · have hd : 2 ^ (f.unit + j) / 2 ≤ |y * 2 ^ (f.unit + j) - f.mval k| := le_trans (by nlinarith) (le_abs_self _)
      exact ⟨(hdist hd).1, fun he => .inr ((hdist hd).2 he)⟩
    · have hd : |y - n| * 2 ^ (f.unit + j) < |y * 2 ^ (f.unit + j) - f.mval k| := by
        rw [abs_of_nonneg (sub_nonneg.mpr hny)]
        exact lt_of_lt_of_le (by nlinarith) (le_abs_self _)
      exact ⟨hd.le, fun he => absurd he hd.ne⟩
  · rw [habs]
    exact ⟨le_rfl, fun _ => .inl rfl⟩
  · have hk' := h.le_mval_of_lt hk
    have hd : 2 ^ (f.unit + j) / 2 ≤ |y * 2 ^ (f.unit + j) - f.mval k| := le_trans (by nlinarith) (neg_le_abs _)
    exact ⟨(hdist hd).1, fun he => .inr ((hdist hd).2 he)⟩

/-- A rounding to an integer of the right size is one to a pattern. -/
theorem Fmt.Scaled.picks (hf : 0 < f.frac) {way : Way} {y : ℚ} (hn : way.ToNat y n)
    (hge : j ≠ 0 → 2 ^ f.frac ≤ y) : f.Picks way (y * 2 ^ (f.unit + j)) (j * 2 ^ f.frac + n) := by
  have hu : (0 : ℚ) < 2 ^ (f.unit + j) := zpow_pos two_pos _
  have hval := h.mval_eq
  cases way with
  | near => exact h.picks_near hf hn hge
  | down =>
    obtain ⟨hlo, hhi⟩ := hn
    refine ⟨hval ▸ mul_le_mul_of_nonneg_right hlo hu.le, fun k hk => ?_⟩
    exact (mul_lt_mul_of_pos_right hhi hu).trans_le (h.le_mval_of_lt hk)
  | up =>
    obtain ⟨hlo, hhi⟩ := hn
    refine ⟨hval ▸ mul_le_mul_of_nonneg_right hhi hu.le, fun k hk => ?_⟩
    obtain hk | ⟨hny, hk⟩ := h.mval_below hk hge
    · exact hk.trans_lt (mul_lt_mul_of_pos_right hlo hu)
    · exact hk.trans_le (mul_le_mul_of_nonneg_right hny hu.le)

end scaled

end Sys2Proof
end

section
/-!
SUPPORT. The rounding of a number to a format, in every direction: the third part of the proof of O6 (spec 10 R156,
R161).
-/

namespace Sys2Proof

variable {f : Fmt}

/-! ## Overflow and the best value -/

theorem Fmt.overflows_iff {rnd : Rnd} {sg : Bool} {x : ℚ} : f.Overflows rnd sg x ↔
    (rnd.way sg).pick (f.largest + f.topStep / 2 < |x| ∨ f.largest + f.topStep / 2 = |x| ∧ f.maxFin % 2 = 1)
      (f.largest + f.topStep ≤ |x|) (f.largest < |x|) := by
  cases rnd <;> cases sg <;> simp [Fmt.Overflows, Rnd.toZero, Rnd.way, Way.pick]

theorem Rnd.toZero_iff {rnd : Rnd} {sg : Bool} : rnd.toZero sg ↔ rnd.way sg = .down := by
  cases rnd <;> cases sg <;> simp [Rnd.toZero, Rnd.way]

/-- To nearest, a rounding passes the largest finite pattern from the middle between it and the next. -/
theorem Fmt.Picks.near_lt_iff (hs : f.Sound) {x : ℚ} {mag : Nat} (h : f.Picks .near x mag) : f.maxFin < mag ↔
    f.largest + f.topStep / 2 < x ∨ f.largest + f.topStep / 2 = x ∧ f.maxFin % 2 = 1 := by
  have hmono := f.strictMono_mval
  have hmax := hs.mval_maxFin
  have hsucc := hs.mval_maxFin_succ
  have hstep : 0 < f.topStep := zpow_pos two_pos _
  constructor
  · intro hlt
    obtain ⟨hle, htie⟩ := h f.maxFin
    have hV : f.largest + f.topStep ≤ f.mval mag := hsucc ▸ hmono.monotone (Nat.succ_le_of_lt hlt)
    have habs : |x - f.mval mag| ≤ |x - f.largest| := hmax ▸ hle
    have hmid : f.mval mag + f.largest ≤ 2 * x := by
      have := sq_le_sq.mpr habs
      nlinarith
    refine (lt_or_eq_of_le (by linarith : f.largest + f.topStep / 2 ≤ x)).imp_right fun he => ⟨he, ?_⟩
    have hmag : mag = f.maxFin + 1 := hmono.injective (by rw [hsucc]; linarith)
    have heq : |x - f.mval mag| = |x - f.mval f.maxFin| := by
      rw [hmag, hsucc, hmax, ← he, abs_of_neg (by linarith), abs_of_pos (by linarith)]
      ring
    rcases htie heq with hc | hc <;> omega
  · intro ho
    by_contra hle
    have hV : f.mval mag ≤ f.largest := hmax ▸ hmono.monotone (Nat.le_of_not_lt hle)
    obtain ⟨hnear, htie⟩ := h (f.maxFin + 1)
    rw [hsucc] at hnear htie
    have hx' : f.largest + f.topStep / 2 ≤ x := ho.elim le_of_lt fun hc => hc.1.le
    have hmid : 2 * x ≤ f.mval mag + (f.largest + f.topStep) := by
      have := sq_le_sq.mpr hnear
      nlinarith
    obtain hc | ⟨he, hodd⟩ := ho
    · linarith
    · have hmag : mag = f.maxFin := hmono.injective (by rw [hmax]; linarith)
      have heq : |x - f.mval mag| = |x - (f.largest + f.topStep)| := by
        rw [hmag, hmax, ← he, abs_of_pos (by linarith), abs_of_neg (by linarith)]
        ring
      rcases htie heq with hc | hc <;> omega

/-- A rounding passes the largest finite pattern where the number overflows. -/
theorem Fmt.Picks.lt_iff_overflows (hs : f.Sound) {rnd : Rnd} {sg : Bool} {x : ℚ} {mag : Nat} (hx : 0 ≤ x)
    (h : f.Picks (rnd.way sg) x mag) : f.maxFin < mag ↔ f.Overflows rnd sg (ofSign sg x) := by
  have hmono := f.strictMono_mval
  have hmax := hs.mval_maxFin
  have hsucc := hs.mval_maxFin_succ
  rw [Fmt.overflows_iff, abs_ofSign sg hx]
  cases hw : rnd.way sg with
  | near =>
    rw [hw] at h
    exact h.near_lt_iff hs
  | down =>
    rw [hw] at h
    obtain ⟨hlo, hhi⟩ := h
    dsimp only [Way.pick]
    rw [← hsucc]
    refine ⟨fun hlt => (hmono.monotone (Nat.succ_le_of_lt hlt)).trans hlo, fun hle => ?_⟩
    by_contra hlt
    exact absurd (hhi (f.maxFin + 1) (by omega)) (not_lt.mpr hle)
  | up =>
    rw [hw] at h
    obtain ⟨hhi, hlo⟩ := h
    dsimp only [Way.pick]
    rw [← hmax]
    refine ⟨fun hlt => hlo _ hlt, fun hlt => hmono.lt_iff_lt.mp (hlt.trans_le hhi)⟩

/-- Every value of a format is one of a magnitude pattern, to a sign or the other. -/
theorem Fmt.Has.exists_mval (hs : f.Sound) (sg : Bool) {z : ℚ} (hz : f.Has z) :
    ∃ k, z = ofSign sg (f.mval k) ∨ z = ofSign sg (-f.mval k) := by
  obtain ⟨t, k, -, rfl⟩ := (Fmt.has_iff hs).mp hz
  refine ⟨k, ?_⟩
  cases sg <;> cases t
  · exact .inl rfl
  · exact .inr rfl
  · exact .inr (neg_neg _).symm
  · exact .inl rfl

theorem Fmt.Has.neg (hs : f.Sound) {z : ℚ} (hz : f.Has z) : f.Has (-z) := by
  obtain ⟨t, k, hk, rfl⟩ := (Fmt.has_iff hs).mp hz
  refine (Fmt.has_iff hs).mpr ⟨!t, k, hk, ?_⟩
  cases t
  · rfl
  · exact neg_neg _

/-- Rounded down, a magnitude is that of the greatest value that does not exceed it. -/
theorem Fmt.Picks.le_of_down (hs : f.Sound) {x z : ℚ} {mag : Nat} (h : f.Picks .down x mag) (hz : f.Has z)
    (hzx : z ≤ x) : z ≤ f.mval mag := by
  obtain ⟨k, rfl | rfl⟩ := hz.exists_mval hs false
  · exact f.strictMono_mval.monotone (Nat.le_of_not_lt fun hlt => absurd (h.2 k hlt) (not_lt.mpr hzx))
  · exact (neg_nonpos.mpr (f.mval_nonneg k)).trans (f.mval_nonneg mag)

/-- Rounded up, a magnitude is that of the least value that it does not exceed. -/
theorem Fmt.Picks.le_of_up (hs : f.Sound) {x z : ℚ} {mag : Nat} (hx : 0 ≤ x) (h : f.Picks .up x mag) (hz : f.Has z)
    (hxz : x ≤ z) : f.mval mag ≤ z := by
  have hle {k : Nat} (hk : x ≤ f.mval k) : f.mval mag ≤ f.mval k :=
    f.strictMono_mval.monotone (Nat.le_of_not_lt fun hlt => absurd (h.2 k hlt) (not_lt.mpr hk))
  obtain ⟨k, rfl | rfl⟩ := hz.exists_mval hs false
  · exact hle hxz
  · have hk := f.mval_nonneg k
    have hneg : x ≤ -f.mval k := hxz
    have h0 := hle (k := 0) (by rw [f.mval_zero]; linarith)
    rw [f.mval_zero] at h0
    exact h0.trans (hx.trans hxz)

/-- A number that does not overflow is rounded to the best value. -/
theorem Fmt.Picks.best (hs : f.Sound) {rnd : Rnd} {sg : Bool} {x : ℚ} {mag : Nat} {even : Prop} (hx : 0 ≤ x)
    (h : f.Picks (rnd.way sg) x mag) (heven : mag % 2 = 0 → even) :
    f.Best rnd (ofSign sg x) (ofSign sg (f.mval mag)) even := by
  have hy := f.mval_nonneg mag
  cases rnd with
  | rn =>
    intro z hz
    obtain ⟨k, rfl | rfl⟩ := hz.exists_mval hs sg
    · rw [abs_ofSign_sub, abs_ofSign_sub, ofSign_inj]
      obtain ⟨hle, htie⟩ := h k
      exact ⟨hle, fun he => (htie he).imp (congrArg f.mval) heven⟩
    · -- a number of the other sign is no nearer than zero
      rw [abs_ofSign_sub, abs_ofSign_sub, ofSign_inj]
      obtain ⟨hle, htie⟩ := h 0
      have hk := f.mval_nonneg k
      rw [f.mval_zero, sub_zero, abs_of_nonneg hx] at hle htie
      rw [sub_neg_eq_add, abs_of_nonneg (add_nonneg hx hk)]
      refine ⟨by linarith, fun he => ?_⟩
      have hk0 : f.mval k = 0 := by linarith
      refine (htie (by linarith)).imp (fun h0 => ?_) heven
      rw [hk0, neg_zero, ← h0, f.mval_zero]
  | rz =>
    refine ⟨by rw [abs_ofSign sg hx, abs_ofSign sg hy]; exact h.1, fun z hz => ?_⟩
    obtain ⟨t, k, hk, rfl⟩ := (Fmt.has_iff hs).mp hz
    rw [abs_ofSign sg hx, abs_ofSign sg hy, abs_ofSign t (f.mval_nonneg k)]
    exact Fmt.Picks.le_of_down hs h ((Fmt.has_iff hs).mpr ⟨false, k, hk, rfl⟩)
  | rm =>
    cases sg with
    | false => exact ⟨h.1, fun z hz => Fmt.Picks.le_of_down hs h hz⟩
    | true =>
      exact ⟨neg_le_neg h.1, fun z hz hzx => le_neg.mp (Fmt.Picks.le_of_up hs hx h (hz.neg hs) (le_neg.mp hzx))⟩
  | rp =>
    cases sg with
    | false => exact ⟨h.1, fun z hz => Fmt.Picks.le_of_up hs hx h hz⟩
    | true =>
      exact ⟨neg_le_neg h.1, fun z hz hxz => neg_le.mp (Fmt.Picks.le_of_down hs h (hz.neg hs) (neg_le.mp hxz))⟩

/-! ## Tiny numbers -/

theorem Fmt.tiny_iff {rnd : Rnd} {sg : Bool} {x : ℚ} : f.Tiny rnd sg x ↔ |x| < f.leastNormal ∧
    (rnd.way sg).pick (|x| < f.leastNormal - f.leastNormal / 2 ^ (f.frac + 1) / 2) True
      (|x| ≤ f.leastNormal - f.leastNormal / 2 ^ (f.frac + 1)) := by
  have hstep : 0 < f.leastNormal / 2 ^ (f.frac + 1) := div_pos (zpow_pos two_pos _) (by positivity)
  cases rnd <;> cases sg <;> simp [Fmt.Tiny, Rnd.toZero, Rnd.way, Way.pick]

theorem rat_bounds {m : Nat} (hm : m ≠ 0) (e : Int) :
    (2 : ℚ) ^ (e + bitLen m - 1) ≤ m * 2 ^ e ∧ (m : ℚ) * 2 ^ e < 2 ^ (e + bitLen m) := by
  obtain ⟨hlo, hhi, hlen⟩ := bitLen_bounds hm
  have hpos : (0 : ℚ) < 2 ^ e := zpow_pos two_pos _
  rw [show e + (bitLen m : Int) - 1 = e + (bitLen m - 1 : Nat) by omega, rat_zpow_add_nat, rat_zpow_add_nat]
  exact ⟨mul_le_mul_of_nonneg_right (by exact_mod_cast hlo) hpos.le,
    mul_lt_mul_of_pos_right (by exact_mod_cast hhi) hpos⟩

/-- Which numbers below an even integer are not rounded to it. -/
theorem Way.ToNat.ne_iff {way : Way} {y : ℚ} {n N : Nat} (h : way.ToNat y n) (hy : y < N) (hN : N % 2 = 0) :
    n ≠ N ↔ way.pick (y < N - 1 / 2) True (y ≤ N - 1) := by
  have hn := h.le hy.le
  have hlt (hne : n ≠ N) : (n : ℚ) + 1 ≤ N := by exact_mod_cast Nat.lt_of_le_of_ne hn hne
  unfold Way.pick
  cases way with
  | near =>
    obtain ⟨hhalf, htie⟩ := h
    have hhalf' := abs_le.mp hhalf
    refine ⟨fun hne => ?_, ?_⟩
    · have := hlt hne
      by_contra hc
      rw [not_lt] at hc
      have heq : y - n = 1 / 2 := by linarith
      have heven := htie (by rw [heq, abs_of_pos one_half_pos])
      have hsucc : n + 1 = N := by
        have : (n : ℚ) + 1 = N := by linarith
        exact_mod_cast this
      omega
    · rintro (hc : y < _) rfl
      linarith
  | down =>
    refine ⟨fun _ => trivial, ?_⟩
    rintro - rfl
    exact absurd h.1 (not_le.mpr hy)
  | up =>
    obtain ⟨hlo, hhi⟩ := h
    refine ⟨fun hne => (by linarith [hlt hne] : y ≤ N - 1), ?_⟩
    · rintro (hc : y ≤ _) rfl
      linarith

/-- The test of the rounding for a tiny number, which asks where its highest bit is, and what it would be rounded to
with more exponents. -/
theorem Fmt.tiny_test (f : Fmt) (rnd : Rnd) (sg : Bool) {m : Nat} (hm : m ≠ 0) (e : Int) :
    let top : Int := e + (bitLen m : Int) - 1
    let emin : Int := 1 - (f.bias : Int)
    (decide (top < emin) && !(decide (top = emin - 1) &&
      decide ((quantize rnd sg m e (top - f.frac)).1 = 2 ^ (f.frac + 1)))) = true ↔
        f.Tiny rnd sg (ofSign sg (m * 2 ^ e)) := by
  intro top emin
  obtain ⟨hlo, hhi⟩ := rat_bounds hm e
  have hpow : (0 : ℚ) < 2 ^ (f.frac + 1) := by positivity
  have hleast : (0 : ℚ) < f.leastNormal := zpow_pos two_pos _
  have hhalf : f.leastNormal = 2 * 2 ^ (emin - 1) := by
    rw [Fmt.leastNormal, show (1 - (f.bias : Int)) = emin - 1 + (1 : Nat) by push_cast; ring, rat_zpow_add_nat, pow_one]
  rw [Fmt.tiny_iff, abs_ofSign sg (by positivity)]
  obtain hbig | hone | hsmall : emin ≤ top ∨ top = emin - 1 ∨ top ≤ emin - 2 := by omega
  · have hle : f.leastNormal ≤ 2 ^ top := zpow_le_zpow_right₀ one_le_two hbig
    rw [decide_eq_false (by omega), Bool.false_and]
    exact ⟨nofun, fun h => absurd h.1 (not_lt.mpr (hle.trans hlo))⟩
  · -- with more exponents the step would be half of the least one of a normal value
    obtain ⟨hto, -⟩ := toNat_quantize rnd sg m e (top - f.frac)
    have hstep : f.leastNormal / 2 ^ (f.frac + 1) = 2 ^ (top - f.frac) := by
      rw [div_eq_iff hpow.ne', mul_comm, ← rat_zpow_add_nat, Fmt.leastNormal]
      congr 1
      push_cast
      omega
    have hu : (0 : ℚ) < 2 ^ (top - f.frac) := zpow_pos two_pos _
    have hx : (m : ℚ) * 2 ^ e = m * 2 ^ (e - (top - f.frac)) * 2 ^ (top - f.frac) := by
      rw [mul_assoc, ← zpow_add₀ two_ne_zero, sub_add_cancel]
    have hL : f.leastNormal = 2 ^ (f.frac + 1) * 2 ^ (top - f.frac) := by
      rw [← hstep, mul_div_cancel₀ _ hpow.ne']
    have hbelow : (m : ℚ) * 2 ^ e < f.leastNormal := by
      refine hhi.trans_le (zpow_le_zpow_right₀ one_le_two ?_)
      omega
    rw [hstep]
    rw [hx, hL] at hbelow ⊢
    have hy := lt_of_mul_lt_mul_right hbelow hu.le
    have hne := hto.ne_iff (N := 2 ^ (f.frac + 1)) (by exact_mod_cast hy) (by rw [Nat.pow_succ]; omega)
    rw [decide_eq_true (by omega : top < emin), decide_eq_true hone, Bool.true_and, Bool.true_and, Bool.not_eq_true',
      decide_eq_false_iff_not, ← ne_eq, hne, and_iff_right hbelow]
    generalize (m : ℚ) * 2 ^ (e - (top - f.frac)) = y at *
    cases rnd.way sg with
    | near =>
      dsimp only [Way.pick]
      push_cast
      rw [← mul_lt_mul_iff_left₀ hu, sub_mul, one_div_mul_eq_div]
    | down => exact Iff.rfl
    | up =>
      dsimp only [Way.pick]
      push_cast
      rw [← mul_le_mul_iff_left₀ hu, sub_mul, one_mul]
  · have hquarter : (m : ℚ) * 2 ^ e < 2 ^ (emin - 1) :=
      hhi.trans_le (zpow_le_zpow_right₀ one_le_two (by omega))
    have hstep : f.leastNormal / 2 ^ (f.frac + 1) ≤ 2 ^ (emin - 1) := by
      rw [div_le_iff₀ hpow, hhalf, mul_comm]
      exact mul_le_mul_of_nonneg_left (by exact_mod_cast Nat.le_self_pow (Nat.succ_ne_zero _) 2) (by positivity)
    have hstep0 : 0 < f.leastNormal / 2 ^ (f.frac + 1) := div_pos hleast hpow
    rw [decide_eq_true (by omega : top < emin), decide_eq_false (by omega : ¬top = emin - 1), Bool.false_and]
    refine iff_of_true rfl ⟨by linarith, ?_⟩
    cases rnd.way sg with
    | near =>
      dsimp only [Way.pick]
      linarith
    | down => trivial
    | up =>
      dsimp only [Way.pick]
      linarith

/-! ## The rounding of the model -/

/-- The result of a magnitude pattern: itself, or what stands for a number that passes the largest. -/
def Fmt.outcome (f : Fmt) (ov : Over) (rnd : Rnd) (sg : Bool) (mag : Nat) (fl : Word) : Res :=
  if f.maxFin < mag then
    match ov with
    | .saturate => { val := f.signed sg f.maxFin, flags := flagOF ||| flagNX ||| flagSAT }
    | .ieee =>
      { val := f.signed sg (match rnd.way sg with | .down => f.maxFin | _ => f.infBits), flags := flagOF ||| flagNX }
  else { val := f.signed sg mag, flags := fl }

theorem Fmt.outcome_of_le {ov : Over} {rnd : Rnd} {sg : Bool} {mag : Nat} {fl : Word} (h : mag ≤ f.maxFin) :
    f.outcome ov rnd sg mag fl = { val := f.signed sg mag, flags := fl } := if_neg (Nat.not_lt.mpr h)

/-- The flags of a rounding that does not overflow. -/
def Fmt.FlagsOf (f : Fmt) (rnd : Rnd) (sg : Bool) (x y : ℚ) (fl : Word) : Prop :=
  (y = x → fl = 0) ∧
    (y ≠ x → (f.Tiny rnd sg x → fl = flagNX ||| flagUF) ∧ (¬f.Tiny rnd sg x → fl = flagNX))

/-- Flags as the rounding gathers them, from whether it is inexact and whether the number is tiny. -/
theorem Fmt.FlagsOf.of_flagIf {rnd : Rnd} {sg : Bool} {x y : ℚ} {inexact tiny : Bool} (hi : inexact = true ↔ y ≠ x)
    (ht : tiny = true ↔ f.Tiny rnd sg x) :
    f.FlagsOf rnd sg x y (flagIf inexact flagNX ||| flagIf (tiny && inexact) flagUF) := by
  unfold Fmt.FlagsOf
  rw [← ht, ← hi, ← not_iff_not.mpr hi |>.trans not_not]
  cases inexact <;> cases tiny <;> simp [flagIf]

theorem Fmt.round_zero (f : Fmt) (ov : Over) (rnd : Rnd) (sg : Bool) (e : Int) :
    f.round ov rnd sg 0 e = { val := f.signed sg 0 } := rfl

theorem Fmt.round_of_ne_zero (f : Fmt) (ov : Over) (rnd : Rnd) (sg : Bool) {m : Nat} (hm : m ≠ 0) (e : Int) :
    let top : Int := e + (bitLen m : Int) - 1
    let q : Int := max (top - f.frac) f.unit
    let tiny := decide (top < 1 - (f.bias : Int)) && !(decide (top = 1 - (f.bias : Int) - 1) &&
      decide ((quantize rnd sg m e (top - f.frac)).1 = 2 ^ (f.frac + 1)))
    f.round ov rnd sg m e = f.outcome ov rnd sg ((q - f.unit).toNat * 2 ^ f.frac + (quantize rnd sg m e q).1)
      (flagIf (quantize rnd sg m e q).2 flagNX ||| flagIf (tiny && (quantize rnd sg m e q).2) flagUF) := by
  intro top q tiny
  simp only [Fmt.round, if_neg hm, Fmt.outcome, gt_iff_lt]
  refine ite_congr rfl (fun _ => ?_) fun _ => rfl
  cases ov with
  | saturate => rfl
  | ieee => cases rnd <;> cases sg <;> rfl

/-- A rounding gives the pattern that its direction picks, and the flags of its difference. -/
theorem Fmt.exists_round_eq (hf : 0 < f.frac) (rnd : Rnd) (sg : Bool) (m : Nat) (e : Int) :
    ∃ mag fl, f.Picks (rnd.way sg) (m * 2 ^ e) mag ∧
      f.FlagsOf rnd sg (ofSign sg (m * 2 ^ e)) (ofSign sg (f.mval mag)) fl ∧
      ∀ ov, f.round ov rnd sg m e = f.outcome ov rnd sg mag fl := by
  by_cases hm : m = 0
  · subst hm
    have h0 : ((0 : Nat) : ℚ) * 2 ^ e = f.mval 0 := by simp
    rw [h0]
    exact ⟨0, 0, Fmt.picks_mval_iff.mpr rfl, ⟨fun _ => rfl, fun h => absurd rfl h⟩,
      fun ov => (f.round_zero ov rnd sg e).trans (Fmt.outcome_of_le (Nat.zero_le _)).symm⟩
  · have hround := fun ov => f.round_of_ne_zero ov rnd sg hm e
    have htiny := f.tiny_test rnd sg hm e
    obtain ⟨hlo, hhi⟩ := rat_bounds hm e
    dsimp only at hround htiny
    obtain ⟨q, hq⟩ : ∃ q, q = max (e + (bitLen m : Int) - 1 - f.frac) f.unit := ⟨_, rfl⟩
    rw [← hq] at hround
    obtain ⟨j, hj⟩ : ∃ j : Nat, q = f.unit + j := ⟨(q - f.unit).toNat, by omega⟩
    subst hj
    rw [show (f.unit + j - f.unit).toNat = j by omega] at hround
    obtain ⟨hto, hexact⟩ := toNat_quantize rnd sg m e (f.unit + j)
    have hx : (m : ℚ) * 2 ^ e = m * 2 ^ (e - (f.unit + j)) * 2 ^ (f.unit + j) := by
      rw [mul_assoc, ← zpow_add₀ two_ne_zero, sub_add_cancel]
    obtain ⟨hlo', hhi'⟩ := rat_bounds hm (e - (f.unit + j))
    have hlt : (m : ℚ) * 2 ^ (e - (f.unit + j)) < (2 ^ (f.frac + 1) : Nat) := by
      refine hhi'.trans_le ?_
      push_cast
      rw [← zpow_natCast]
      exact zpow_le_zpow_right₀ one_le_two (by push_cast; omega)
    have hge (h0 : j ≠ 0) : ((2 ^ f.frac : Nat) : ℚ) ≤ m * 2 ^ (e - (f.unit + j)) := by
      refine le_trans ?_ hlo'
      push_cast
      rw [← zpow_natCast]
      exact zpow_le_zpow_right₀ one_le_two (by omega)
    have hs : f.Scaled j (quantize rnd sg m e (f.unit + j)).1 := ⟨fun h0 => hto.ge (hge h0), hto.le hlt.le⟩
    refine ⟨_, _, ?_, ?_, hround⟩
    · rw [hx]
      exact hs.picks hf hto fun h0 => by exact_mod_cast hge h0
    · refine .of_flagIf ?_ htiny
      rw [hexact, ne_eq, ne_eq, ofSign_inj, hs.mval_eq, hx, mul_left_inj' (zpow_ne_zero _ two_ne_zero)]

/-- Rounding is to what `RoundsTo` says, in every format of the spec. -/
theorem Fmt.roundsTo_round (hs : f.Sound) (ov : Over) (rnd : Rnd) (sg : Bool) (m : Nat) (e : Int) :
    RoundsTo f ov rnd sg (dyadic sg m e) (f.round ov rnd sg m e) := by
  obtain ⟨mag, fl, hpick, ⟨hexact, hinexact⟩, hround⟩ := Fmt.exists_round_eq hs.frac_pos rnd sg m e
  have hx : (0 : ℚ) ≤ m * 2 ^ e := by positivity
  have hover := hpick.lt_iff_overflows hs hx
  rw [dyadic_eq, hround]
  constructor
  · intro ho
    unfold Fmt.outcome
    rw [if_pos (hover.mpr ho)]
    refine ⟨?_, ?_⟩
    · rintro rfl
      rfl
    · rintro rfl
      rw [Rnd.toZero_iff]
      cases rnd.way sg
      · exact ⟨rfl, nofun, fun _ => rfl⟩
      · exact ⟨rfl, fun _ => rfl, fun h => absurd rfl h⟩
      · exact ⟨rfl, nofun, fun _ => rfl⟩
  · intro ho
    have hle : mag ≤ f.maxFin := Nat.le_of_not_lt fun hlt => ho (hover.mp hlt)
    rw [Fmt.outcome_of_le hle]
    refine ⟨_, _, Fmt.unpack_finite hs hle, Fmt.signed_lt (hle.trans_lt hs.bounded), ?_⟩
    rw [Fmt.dyadic_parts]
    exact ⟨hpick.best hs hx fun heven => hs.signed_even heven, hexact, hinexact⟩

/-- A number that a format holds is its own rounding. -/
theorem Fmt.round_of_mval (hf : 0 < f.frac) {ov : Over} {rnd : Rnd} {sg : Bool} {m mag : Nat} {e : Int}
    (hm : mag ≤ f.maxFin) (h : (m : ℚ) * 2 ^ e = f.mval mag) : f.round ov rnd sg m e = { val := f.signed sg mag } := by
  obtain ⟨k, fl, hpick, ⟨hexact, -⟩, hround⟩ := Fmt.exists_round_eq hf rnd sg m e
  rw [h, Fmt.picks_mval_iff] at hpick
  subst hpick
  rw [hround, Fmt.outcome_of_le hm, hexact (by rw [h])]

end Sys2Proof
end

section
/-!
SUPPORT. Sums, products and integral values of a format, its NaNs and infinities, and its order: the fourth part of the
proof of O6 (spec 03 R48, spec 10 R156 to R159).
-/

namespace Sys2Proof

/-! ## The formats -/

/-- A format with infinities and NaNs above its largest finite value, whose values hold every integer of as many bits
as its significands. -/
structure Fmt.Arith (f : Fmt) : Prop where
  inf      : f.maxFin + 1 = f.infBits
  hasInf   : f.hasInf = true
  frac     : 4 ≤ f.frac
  bias     : 1 ≤ f.bias
  reach    : f.bias + f.frac ≤ f.maxFin / 2 ^ f.frac

theorem Fmt.arith_of_mem {f : Fmt} (h : f ∈ [fmt16, fmtB16, fmt32, fmt64]) : f.Arith := by
  fin_cases h <;> exact ⟨by decide +kernel, rfl, by decide +kernel, by decide +kernel, by decide +kernel⟩

theorem Fmt.sound_of_narrow {f : Fmt} (h : f ∈ [fmtE4M3, fmtE5M2, fmtE2M1]) : f.Sound := by
  fin_cases h <;> exact ⟨by decide +kernel, by decide +kernel, by decide +kernel⟩

variable {f : Fmt}

theorem Fmt.Arith.sound (h : f.Arith) : f.Sound where
  frac_pos := by have := h.frac; omega
  normal := by
    have hpos : 0 < f.maxFin / 2 ^ f.frac := by
      have := h.reach
      have := h.frac
      omega
    by_contra hc
    rw [Nat.div_eq_of_lt (Nat.lt_of_not_le hc)] at hpos
    exact absurd hpos (lt_irrefl _)
  bounded := (Nat.lt_of_succ_le h.inf.le).trans f.infBits_lt

theorem Ty.sound_of_fmt? {t : Ty} (h : t.fmt? = some f) : f.Sound := by
  cases t <;> cases h
  · exact (Fmt.arith_of_mem (by simp)).sound
  · exact (Fmt.arith_of_mem (by simp)).sound
  · exact (Fmt.arith_of_mem (by simp)).sound
  · exact (Fmt.arith_of_mem (by simp)).sound
  · exact Fmt.sound_of_narrow (by simp)
  · exact Fmt.sound_of_narrow (by simp)
  · exact Fmt.sound_of_narrow (by simp)

theorem Fmt.infBits_mod (f : Fmt) : f.infBits % 2 ^ f.frac = 0 := Nat.mul_mod_left _ _

/-! ## What patterns of an arithmetic format unpack to -/

/-- The patterns of an arithmetic format: numbers, infinities and NaNs. -/
theorem Fmt.Arith.unpack_signed (h : f.Arith) {s : Bool} {mag : Nat} (hm : mag < 2 ^ f.signBit) :
    f.unpack (f.signed s mag) =
      if mag < f.infBits then .fin s (f.parts mag).1 (f.parts mag).2
      else if mag = f.infBits then .inf s
      else .nan s (mag - f.infBits) ((mag - f.infBits) / 2 ^ (f.frac - 1) % 2 = 1) := by
  have hinf := h.inf
  have hadd := f.infBits_add
  rw [Fmt.unpack_signed hm]
  by_cases hlt : mag < f.infBits
  · rw [if_neg (by omega), if_pos hlt]
  · obtain ⟨i, rfl⟩ := Nat.exists_eq_add_of_le (Nat.le_of_not_lt hlt)
    have hmod : (f.infBits + i) % 2 ^ f.frac = i := by
      rw [Nat.add_mod, Fmt.infBits_mod, Nat.zero_add, Nat.mod_mod, Nat.mod_eq_of_lt (by omega)]
    rw [if_pos (by omega), if_pos h.hasInf, if_neg hlt, hmod, Nat.add_sub_cancel_left]
    by_cases hi : i = 0
    · rw [if_pos hi, if_pos (by omega)]
    · rw [if_neg hi, if_neg (by omega)]

theorem Fmt.Arith.unpack_inf (h : f.Arith) (s : Bool) : f.unpack (f.signed s f.infBits) = .inf s := by
  rw [h.unpack_signed f.infBits_lt, if_neg (lt_irrefl _), if_pos rfl]

theorem Fmt.Arith.exists_of_unpack_inf (h : f.Arith) {n : Nat} {s : Bool} (hn : n < 2 ^ (f.signBit + 1))
    (hu : f.unpack n = .inf s) : n = f.signed s f.infBits := by
  obtain ⟨t, mag, hmag, rfl⟩ := Fmt.exists_signed hn
  rw [h.unpack_signed hmag] at hu
  split at hu
  next => cases hu
  next =>
    split at hu
    next heq =>
      cases hu
      rw [heq]
    next => cases hu

/-- A NaN is quieted by its quiet bit, its sign and the rest of its fraction kept. -/
theorem Fmt.Arith.qnan_of_unpack (h : f.Arith) {n fr : Nat} {s q : Bool} (hn : n < 2 ^ (f.signBit + 1))
    (hu : f.unpack n = .nan s fr q) : f.qnan s fr = n ||| 2 ^ (f.frac - 1) := by
  obtain ⟨t, mag, hmag, rfl⟩ := Fmt.exists_signed hn
  have hadd := f.infBits_add
  have hfrac : f.frac - 1 + 1 = f.frac := Nat.sub_add_cancel ((by decide : 1 ≤ 4).trans h.frac)
  rw [h.unpack_signed hmag] at hu
  split at hu
  next => cases hu
  next hge =>
    split at hu
    next => cases hu
    next hne =>
      obtain ⟨i, rfl⟩ := Nat.exists_eq_add_of_le (Nat.le_of_not_lt hge)
      cases hu
      have hi : i < 2 ^ f.frac := by omega
      have hhead : f.signed s (f.infBits + i) = 2 ^ f.frac * (s.toNat * 2 ^ f.exp + (2 ^ f.exp - 1)) + i := by
        rw [Fmt.signed_eq, Fmt.infBits, Fmt.signBit, pow_add]
        ring
      have hlow : (2 ^ f.frac * (s.toNat * 2 ^ f.exp + (2 ^ f.exp - 1)) + i) % 2 ^ (f.frac - 1) =
          i % 2 ^ (f.frac - 1) := by
        rw [Nat.add_mod, Nat.mod_eq_zero_of_dvd ((pow_dvd_pow 2 (Nat.sub_le _ 1)).mul_right _), Nat.zero_add,
          Nat.mod_mod]
      rw [Machine.or_two_pow, hfrac, hhead, Nat.mul_add_div (Nat.two_pow_pos _), Nat.div_eq_of_lt hi, hlow,
        Nat.add_sub_cancel_left, Fmt.qnan, Fmt.signed_eq, Fmt.infBits, Fmt.signBit, pow_add]
      ring

/-! ## NaNs and invalid operations (spec 10 R157) -/

theorem Fmt.nanOf_cons_nan (f : Fmt) (s : Bool) (fr : Nat) (q : Bool) (ops : List Fl) :
    f.nanOf (.nan s fr q :: ops) =
      some { val := f.qnan s fr, flags := flagIf (!q || ops.any Fl.signalling) flagNV } := rfl

theorem Fmt.nanOf_cons_of_not {x : Fl} (hx : x.isNaN = false) (ops : List Fl) : f.nanOf (x :: ops) = f.nanOf ops := by
  cases x with
  | nan => cases hx
  | inf | fin => rfl

theorem Fl.signalling_of_not_isNaN {x : Fl} (hx : x.isNaN = false) : x.signalling = false := by
  cases x with
  | nan => cases hx
  | inf | fin => rfl

/-- The first NaN of two operands, or neither. -/
theorem Fmt.nanOf_pair (h : f.Arith) {a b : Nat} :
    ((f.unpack a).isNaN = true → a < 2 ^ (f.signBit + 1) → f.nanOf [f.unpack a, f.unpack b] =
      some { val := a ||| 2 ^ (f.frac - 1)
             flags := flagIf ((f.unpack a).signalling || (f.unpack b).signalling) flagNV }) ∧
    ((f.unpack a).isNaN = false → (f.unpack b).isNaN = true → b < 2 ^ (f.signBit + 1) →
      f.nanOf [f.unpack a, f.unpack b] =
        some { val := b ||| 2 ^ (f.frac - 1), flags := flagIf (f.unpack b).signalling flagNV }) := by
  constructor
  · intro hnan ha
    rcases hu : f.unpack a with ⟨s, fr, q⟩ | s | ⟨s, m, e⟩
    · rw [Fmt.nanOf_cons_nan, h.qnan_of_unpack ha hu, List.any_cons, List.any_nil, Bool.or_false]
      rfl
    all_goals simp [hu, Fl.isNaN] at hnan
  · intro hnot hnan hb
    rw [Fmt.nanOf_cons_of_not hnot]
    rcases hu : f.unpack b with ⟨s, fr, q⟩ | s | ⟨s, m, e⟩
    · rw [Fmt.nanOf_cons_nan, h.qnan_of_unpack hb hu, List.any_nil, Bool.or_false]
      rfl
    all_goals simp [hu, Fl.isNaN] at hnan

theorem Fmt.Arith.genNaN_eq (h : f.Arith) {cause : Nat} (hc : cause < 8) :
    f.genNaN cause = f.infBits + 2 ^ (f.frac - 1) + cause := by
  have hlt : cause < 2 ^ (f.frac - 1) :=
    hc.trans_le (Nat.pow_le_pow_right two_pos (by have := h.frac; omega) : 2 ^ 3 ≤ 2 ^ (f.frac - 1))
  rw [Fmt.genNaN, Fmt.qnan, Nat.mod_eq_of_lt hlt]
  rfl

/-! ## Exact sums and products (spec 10 R156) -/

theorem dyadic_eq_signedInt (s : Bool) (m : Nat) (e : Int) : dyadic s m e = (signedInt s m : ℚ) * 2 ^ e := by
  cases s <;> simp [dyadic, signedInt]

/-- A number at a smaller exponent. -/
theorem dyadic_lower {k e : Int} (h : k ≤ e) (s : Bool) (m : Nat) :
    dyadic s m e = (signedInt s (m * pow2 (e - k)) : ℚ) * 2 ^ k := by
  have hpow : (2 : ℚ) ^ e = 2 ^ (e - k).toNat * 2 ^ k := by
    rw [← rat_zpow_add_nat]
    congr 1
    omega
  rw [dyadic_eq_signedInt, hpow, pow2]
  cases s <;> simp [signedInt, mul_assoc]

theorem dyadic_not (s : Bool) (m : Nat) (e : Int) : dyadic (!s) m e = -dyadic s m e := by
  cases s <;> simp [dyadic]

theorem dyadic_eq_zero_iff {s : Bool} {m : Nat} {e : Int} : dyadic s m e = 0 ↔ m = 0 := by
  have hpow : (2 : ℚ) ^ e ≠ 0 := zpow_ne_zero e two_ne_zero
  cases s <;> simp [dyadic, hpow]

/-- A signed number, as a sign and a magnitude. -/
theorem dyadic_natAbs (v : Int) (e : Int) : dyadic (decide (v < 0)) v.natAbs e = v * 2 ^ e := by
  have hv : signedInt (decide (v < 0)) v.natAbs = v := by
    unfold signedInt
    split
    next h =>
      rw [decide_eq_true_eq] at h
      omega
    next h =>
      rw [decide_eq_true_eq] at h
      omega
  rw [dyadic_eq_signedInt, hv]

theorem Fmt.roundsTo_zero (hs : f.Sound) (ov : Over) (rnd : Rnd) (sg : Bool) :
    RoundsTo f ov rnd sg 0 { val := f.signed sg 0 } := by
  have h := Fmt.roundsTo_round hs ov rnd sg 0 0
  rwa [dyadic_eq_zero_iff.mpr rfl, Fmt.round_zero] at h

/-- The sign of a sum, of which an exact zero has one by the direction. -/
def sumSign (rnd : Rnd) (s t : Bool) (u v : ℚ) : Bool :=
  if u + v = 0 then (if u = 0 ∧ s = t then s else decide (rnd = .rm)) else decide (u + v < 0)

/-- The exact sum of two numbers is rounded once. -/
theorem Fmt.roundsTo_sumFin (hs : f.Sound) (rnd : Rnd) (s t : Bool) (m n : Nat) (e g : Int) :
    RoundsTo f .ieee rnd (sumSign rnd s t (dyadic s m e) (dyadic t n g)) (dyadic s m e + dyadic t n g)
      (f.sumFin rnd s m e t n g) := by
  obtain ⟨k, hk⟩ : ∃ k, k = min e g := ⟨_, rfl⟩
  obtain ⟨v, hv⟩ : ∃ v, v = signedInt s (m * pow2 (e - k)) + signedInt t (n * pow2 (g - k)) := ⟨_, rfl⟩
  have hu : (0 : ℚ) < 2 ^ k := zpow_pos two_pos _
  have hsum : dyadic s m e + dyadic t n g = v * 2 ^ k := by
    rw [dyadic_lower (by omega : k ≤ e), dyadic_lower (by omega : k ≤ g), hv]
    push_cast
    ring
  have hrun : f.sumFin rnd s m e t n g = f.roundInt .ieee rnd
      (if m = 0 && n = 0 && s = t then s else rnd = .rm) v k := by
    rw [hv, hk]
    rfl
  unfold sumSign
  rw [hrun, Fmt.roundInt]
  by_cases h0 : v = 0
  · have hzero : dyadic s m e + dyadic t n g = 0 := by rw [hsum, h0, Int.cast_zero, zero_mul]
    have hboth : m = 0 ∧ n = 0 ↔ m = 0 := by
      refine ⟨fun h => h.1, fun h => ⟨h, ?_⟩⟩
      rw [dyadic_eq_zero_iff.mpr h, zero_add] at hzero
      exact dyadic_eq_zero_iff.mp hzero
    have hsign : (if m = 0 && n = 0 && s = t then s else decide (rnd = .rm)) =
        if dyadic s m e = 0 ∧ s = t then s else decide (rnd = .rm) := by
      simp only [dyadic_eq_zero_iff, Bool.and_eq_true, decide_eq_true_eq, hboth]
    rw [if_pos h0, if_pos hzero, hzero, hsign]
    exact Fmt.roundsTo_zero hs .ieee rnd _
  · have hne : dyadic s m e + dyadic t n g ≠ 0 := by
      rw [hsum]
      exact mul_ne_zero (Int.cast_ne_zero.mpr h0) hu.ne'
    have hneg : decide (dyadic s m e + dyadic t n g < 0) = decide (v < 0) := by
      rw [hsum, decide_eq_decide, mul_neg_iff]
      simp [hu, hu.not_gt]
    rw [if_neg h0, if_neg hne, hneg, hsum, ← dyadic_natAbs]
    exact Fmt.roundsTo_round hs .ieee rnd _ _ _

/-- Sums, differences, products and fused products of numbers are rounded once. -/
theorem Fmt.roundsTo_ops (hs : f.Sound) (rnd : Rnd) {a b c : Nat} {sa sb sc : Bool} {ma mb mc : Nat} {ea eb ec : Int}
    (ha : f.unpack a = .fin sa ma ea) (hb : f.unpack b = .fin sb mb eb) (hc : f.unpack c = .fin sc mc ec) :
    let x := dyadic sa ma ea
    let y := dyadic sb mb eb
    let z := dyadic sc mc ec
    RoundsTo f .ieee rnd (sumSign rnd sa sb x y) (x + y) (f.add rnd a b) ∧
    RoundsTo f .ieee rnd (sumSign rnd sa (!sb) x (-y)) (x - y) (f.sub rnd a b) ∧
    RoundsTo f .ieee rnd (sa != sb) (x * y) (f.mul rnd a b) ∧
    RoundsTo f .ieee rnd (sumSign rnd (sa != sb) sc (x * y) z) (x * y + z) (f.fma rnd a b c) := by
  intro x y z
  have hadd : f.add rnd a b = f.sumFin rnd sa ma ea sb mb eb := by
    rw [Fmt.add, ha, hb]
    rfl
  have hsub : f.sub rnd a b = f.sumFin rnd sa ma ea (!sb) mb eb := by
    rw [Fmt.sub, ha, hb]
    rfl
  have hmul : f.mul rnd a b = f.round .ieee rnd (sa != sb) (ma * mb) (ea + eb) := by
    rw [Fmt.mul, ha, hb]
    rfl
  have hfma : f.fma rnd a b c = f.sumFin rnd (sa != sb) (ma * mb) (ea + eb) sc mc ec := by
    rw [Fmt.fma, ha, hb, hc]
    rfl
  have hxy : x * y = dyadic (sa != sb) (ma * mb) (ea + eb) := dyadic_mul ..
  rw [hadd, hsub, hmul, hfma, hxy, sub_eq_add_neg, ← dyadic_not]
  exact ⟨Fmt.roundsTo_sumFin hs .., Fmt.roundsTo_sumFin hs .., Fmt.roundsTo_round hs .., Fmt.roundsTo_sumFin hs ..⟩

/-! ## The order of values (spec 08 R138, spec 10 R159) -/

theorem lt_fin_eq (s t : Bool) (m n : Nat) (e g : Int) :
    Fl.lt (.fin s m e) (.fin t n g) = decide (dyadic s m e < dyadic t n g) := by
  have hu : (0 : ℚ) < 2 ^ min e g := zpow_pos two_pos _
  have hlt : dyadic s m e < dyadic t n g ↔
      signedInt s (m * pow2 (e - min e g)) < signedInt t (n * pow2 (g - min e g)) := by
    rw [dyadic_lower (min_le_left e g), dyadic_lower (min_le_right e g), mul_lt_mul_iff_left₀ hu, Int.cast_lt]
  rw [decide_eq_decide.mpr hlt]
  rfl

/-- Signed magnitudes are ordered as their values. -/
theorem Fmt.ofSign_mval_lt_iff (f : Fmt) {s t : Bool} {j k : Nat} :
    ofSign s (f.mval j) < ofSign t (f.mval k) ↔ signedInt s j < signedInt t k := by
  have hmono := f.strictMono_mval
  have hj := f.mval_nonneg j
  have hk := f.mval_nonneg k
  have hpos {i : Nat} : 0 < f.mval i ↔ 0 < i := by rw [← f.mval_zero, hmono.lt_iff_lt, Nat.pos_iff_ne_zero]
  have hjk : f.mval j < f.mval k ↔ j < k := hmono.lt_iff_lt
  have hkj : f.mval k < f.mval j ↔ k < j := hmono.lt_iff_lt
  cases s <;> cases t
  · simpa [ofSign, signedInt] using hjk
  · simp only [ofSign, signedInt, Bool.false_eq_true, if_false, if_true]
    exact iff_of_false (by linarith) (by omega)
  · simp only [ofSign, signedInt, Bool.false_eq_true, if_false, if_true]
    have hj' := hpos (i := j)
    have hk' := hpos (i := k)
    constructor
    · intro h
      by_contra hc
      obtain ⟨rfl, rfl⟩ : j = 0 ∧ k = 0 := by omega
      simp at h
    · intro h
      obtain h0 | h0 : 0 < j ∨ 0 < k := by omega
      · linarith [hj'.mpr h0]
      · linarith [hk'.mpr h0]
  · simpa [ofSign, signedInt] using hkj

/-- The sign and magnitude of a pattern that is no NaN. -/
theorem Fmt.Arith.exists_of_not_isNaN (h : f.Arith) {n : Nat} (hn : n < 2 ^ (f.signBit + 1))
    (hnot : (f.unpack n).isNaN = false) : ∃ s mag, mag ≤ f.infBits ∧ n = f.signed s mag := by
  obtain ⟨s, mag, hmag, rfl⟩ := Fmt.exists_signed hn
  refine ⟨s, mag, Nat.le_of_not_lt fun hlt => ?_, rfl⟩
  rw [h.unpack_signed hmag, if_neg (by omega), if_neg (by omega)] at hnot
  cases hnot

theorem Fmt.Arith.lt_unpack (h : f.Arith) {s t : Bool} {j k : Nat} (hj : j ≤ f.infBits) (hk : k ≤ f.infBits) :
    (f.unpack (f.signed s j)).lt (f.unpack (f.signed t k)) = decide (signedInt s j < signedInt t k) := by
  have hlt := f.infBits_lt
  have hfin {u : Bool} {i : Nat} (hi : i < f.infBits) :
      f.unpack (f.signed u i) = .fin u (f.parts i).1 (f.parts i).2 := by
    rw [h.unpack_signed (by omega), if_pos hi]
  obtain hj | rfl := hj.lt_or_eq <;> obtain hk | rfl := hk.lt_or_eq
  · rw [hfin hj, hfin hk, lt_fin_eq, f.dyadic_parts, f.dyadic_parts, decide_eq_decide, f.ofSign_mval_lt_iff]
  · rw [hfin hj, h.unpack_inf]
    cases s <;> cases t <;> simp [Fl.lt, signedInt] <;> omega
  · rw [hfin hk, h.unpack_inf]
    cases s <;> cases t <;> simp [Fl.lt, signedInt] <;> omega
  · rw [h.unpack_inf, h.unpack_inf]
    have := Nat.pos_of_ne_zero (h.inf ▸ Nat.succ_ne_zero f.maxFin : f.infBits ≠ 0)
    cases s <;> cases t <;> simp [Fl.lt, signedInt]
    omega

/-- The place of a signed magnitude in the order of fmin and fmax, −0 below +0. -/
def signKey (s : Bool) (mag : Nat) : Int := if s then -1 - mag else mag

theorem Fmt.Arith.sign_unpack (h : f.Arith) {s : Bool} {j : Nat} (hj : j ≤ f.infBits) :
    (f.unpack (f.signed s j)).sign = s := by
  rw [h.unpack_signed (hj.trans_lt f.infBits_lt)]
  split
  · rfl
  · split <;> rfl

theorem Fmt.Arith.isNaN_unpack (h : f.Arith) {s : Bool} {j : Nat} (hj : j ≤ f.infBits) :
    (f.unpack (f.signed s j)).isNaN = false := by
  rw [h.unpack_signed (hj.trans_lt f.infBits_lt)]
  split
  · rfl
  · rw [if_pos (by omega)]
    rfl

section ordered

variable (h : f.Arith) {s t : Bool} {j k : Nat} (hj : j ≤ f.infBits) (hk : k ≤ f.infBits)
include h hj hk

theorem Fmt.Arith.minMax_signed :
    f.minMax false (f.signed s j) (f.signed t k) =
        { val := if signKey s j ≤ signKey t k then f.signed s j else f.signed t k } ∧
      f.minMax true (f.signed s j) (f.signed t k) =
        { val := if signKey s j ≤ signKey t k then f.signed t k else f.signed s j } := by
  have hless : ((f.unpack (f.signed s j)).lt (f.unpack (f.signed t k)) ||
      (!(f.unpack (f.signed t k)).lt (f.unpack (f.signed s j)) && (f.unpack (f.signed s j)).sign &&
        !(f.unpack (f.signed t k)).sign)) = decide (signKey s j < signKey t k) := by
    rw [h.lt_unpack hj hk, h.lt_unpack hk hj, h.sign_unpack hj, h.sign_unpack hk, Bool.eq_iff_iff]
    cases s <;> cases t <;> simp [signedInt, signKey] <;> omega
  have hsame (he : signKey s j = signKey t k) : f.signed s j = f.signed t k := by
    have : s = t ∧ j = k := by
      cases s <;> cases t <;> simp [signKey] at he ⊢ <;> omega
    rw [this.1, this.2]
  simp only [Fmt.minMax, h.isNaN_unpack hj, h.isNaN_unpack hk, hless]
  obtain hlt | heq | hgt := lt_trichotomy (signKey s j) (signKey t k)
  · simp [hlt, hlt.le]
  · simp [heq, hsame heq]
  · simp [hgt.not_gt, hgt.not_ge]

theorem Fmt.Arith.order_signed :
    f.order (f.signed s j) (f.signed t k) =
      { val := if signedInt s j = signedInt t k then 0 else if signedInt s j < signedInt t k then 1 else 2 } := by
  have hx := h.isNaN_unpack (s := s) hj
  have hy := h.isNaN_unpack (s := t) hk
  simp only [Fmt.order, hx, hy, h.lt_unpack hj hk, h.lt_unpack hk hj, Fl.signalling_of_not_isNaN hx,
    Fl.signalling_of_not_isNaN hy]
  obtain hlt | heq | hgt := lt_trichotomy (signedInt s j) (signedInt t k)
  · simp [hlt, hlt.ne, flagIf]
  · simp [heq, flagIf]
  · simp [hgt, hgt.not_gt, hgt.ne', flagIf]

end ordered

/-- fmin, fmax and fcmp of operands of which one is a NaN. -/
theorem Fmt.Arith.minMax_nan (h : f.Arith) (up : Bool) {a b : Nat} (ha : a < 2 ^ (f.signBit + 1)) :
    let nv := flagIf ((f.unpack a).signalling || (f.unpack b).signalling) flagNV
    ((f.unpack a).isNaN = true → (f.unpack b).isNaN = false → f.minMax up a b = { val := b, flags := nv }) ∧
    ((f.unpack a).isNaN = false → (f.unpack b).isNaN = true → f.minMax up a b = { val := a, flags := nv }) ∧
    ((f.unpack a).isNaN = true → (f.unpack b).isNaN = true →
      f.minMax up a b = { val := a ||| 2 ^ (f.frac - 1), flags := nv }) ∧
    ((f.unpack a).isNaN = true ∨ (f.unpack b).isNaN = true → f.order a b = { val := 3, flags := nv }) := by
  intro nv
  refine ⟨fun hx hy => ?_, fun hx hy => ?_, fun hx hy => ?_, fun hxy => ?_⟩
  · simp only [Fmt.minMax, hx, hy, nv]
  · simp only [Fmt.minMax, hx, hy, nv]
  · simp only [Fmt.minMax, hx, hy, (Fmt.nanOf_pair h).1 hx ha, Option.getD_some, nv]
  · rw [← Bool.or_eq_true] at hxy
    simp only [Fmt.order, hxy, if_true, nv]

end Sys2Proof
end

section
/-!
SUPPORT. Integral values and conversions of floats, and the proof of O6 (spec 03 R48, spec 10 R156 to R161).
-/

namespace Sys2Proof

variable {f : Fmt}

/-! ## Integral values (spec 10 R159) -/

/-- A magnitude rounded to an integer is a number of its sign rounded to one. -/
theorem Way.ToNat.intRounds {rnd : Rnd} {s : Bool} {y : ℚ} {n : Nat} (hy : 0 ≤ y) (h : (rnd.way s).ToNat y n) :
    IntRounds rnd (ofSign s y) (signedInt s n) := by
  have hcast : ((signedInt s n : Int) : ℚ) = ofSign s n := by cases s <;> simp [signedInt, ofSign]
  have hn : (0 : ℚ) ≤ n := Nat.cast_nonneg n
  unfold IntRounds
  rw [hcast]
  cases rnd with
  | rn =>
    obtain ⟨hhalf, htie⟩ := h
    dsimp only
    rw [abs_ofSign_sub]
    refine ⟨hhalf, fun he => ?_⟩
    have heven := htie he
    unfold signedInt
    split <;> omega
  | rz =>
    obtain ⟨hlo, hhi⟩ := h
    dsimp only
    rw [abs_ofSign s hy, abs_ofSign s hn]
    have hprod := mul_nonneg hy hn
    refine ⟨hlo, hhi, ?_⟩
    cases s <;> simpa [ofSign] using hprod
  | rm | rp =>
    cases s
    all_goals
      obtain ⟨h1, h2⟩ := h
      simp only [ofSign, Bool.false_eq_true, if_false, if_true]
      exact ⟨by linarith, by linarith⟩

/-- The rounding of a number to an integer. -/
theorem roundToInt_spec (rnd : Rnd) (s : Bool) (m : Nat) (e : Int) :
    (rnd.way s).ToNat (m * 2 ^ e) (quantize rnd s m e 0).1 ∧
      IntRounds rnd (dyadic s m e) (roundToInt rnd s m e).1 ∧
      ((roundToInt rnd s m e).2 = true ↔ dyadic s m e ≠ (roundToInt rnd s m e).1) := by
  obtain ⟨hto, hexact⟩ := toNat_quantize rnd s m e 0
  rw [sub_zero] at hto hexact
  have hcast : (((roundToInt rnd s m e).1 : Int) : ℚ) = ofSign s (quantize rnd s m e 0).1 := by
    cases s <;> simp [roundToInt, signedInt, ofSign]
  have hint := hto.intRounds (s := s) (by positivity)
  rw [hcast, dyadic_eq, ne_eq, ofSign_inj, eq_comm (a := (m : ℚ) * 2 ^ e)]
  exact ⟨hto, hint, hexact⟩

/-- The significand of a pattern has at most one bit above its fraction. -/
theorem Fmt.parts_lt (f : Fmt) (mag : Nat) : (f.parts mag).1 < 2 ^ (f.frac + 1) := by
  have hmod := Nat.mod_lt mag (Nat.two_pow_pos f.frac)
  unfold Fmt.parts
  rw [Nat.pow_succ]
  split <;> (dsimp only; omega)

/-- An arithmetic format holds the integers up to that of its fraction's length. -/
theorem Fmt.Arith.exists_mval_eq (h : f.Arith) {n : Nat} (hn : n ≤ 2 ^ f.frac) :
    ∃ mag, mag ≤ f.maxFin ∧ f.mval mag = n := by
  have hs := h.sound
  by_cases h0 : n = 0
  · exact ⟨0, Nat.zero_le _, by rw [h0, f.mval_zero, Nat.cast_zero]⟩
  obtain ⟨hlo, hhi, hlen⟩ := bitLen_bounds h0
  have hbias := h.bias
  have hfrac : bitLen n ≤ f.frac + 1 := by
    have := (Nat.pow_le_pow_iff_right (by decide)).mp (hlo.trans hn)
    omega
  obtain ⟨i, hi⟩ : ∃ i, bitLen n + i = f.frac + 1 := ⟨f.frac + 1 - bitLen n, by omega⟩
  have hscaled : f.Scaled (f.bias + bitLen n - 2) (n * 2 ^ i) := by
    constructor
    · intro _
      calc 2 ^ f.frac = 2 ^ (bitLen n - 1) * 2 ^ i := by
            rw [← Nat.pow_add]
            congr 1
            omega
        _ ≤ n * 2 ^ i := Nat.mul_le_mul_right _ hlo
    · calc n * 2 ^ i ≤ 2 ^ bitLen n * 2 ^ i := Nat.mul_le_mul_right _ hhi.le
        _ = 2 ^ (f.frac + 1) := by rw [← Nat.pow_add, hi]
  have hval : f.mval ((f.bias + bitLen n - 2) * 2 ^ f.frac + n * 2 ^ i) = n := by
    rw [hscaled.mval_eq, Fmt.unit]
    push_cast
    rw [← zpow_natCast (2 : ℚ) i, mul_assoc, ← zpow_add₀ two_ne_zero,
      show (i : Int) + (1 - f.bias - f.frac + (f.bias + bitLen n - 2 : Nat)) = 0 by omega, zpow_zero, mul_one]
  refine ⟨_, f.strictMono_mval.le_iff_le.mp ?_, hval⟩
  have hstep : (1 : ℚ) ≤ f.topStep := one_le_zpow₀ one_le_two (by have := h.reach; omega)
  have hnq : (n : ℚ) ≤ 2 ^ f.frac := by exact_mod_cast hn
  have hmod : (0 : ℚ) ≤ (f.maxFin % 2 ^ f.frac : Nat) := Nat.cast_nonneg _
  have hpos : (0 : ℚ) < 2 ^ f.frac := by positivity
  rw [hval, hs.mval_maxFin, Fmt.largest]
  push_cast at hmod ⊢
  nlinarith

/-- A number of the format rounded to an integer is a number of the format. -/
theorem Fmt.Arith.exists_mval_quantize (h : f.Arith) (rnd : Rnd) (s : Bool) {mag : Nat} (hm : mag ≤ f.maxFin) :
    ∃ k, k ≤ f.maxFin ∧ f.mval k = (quantize rnd s (f.parts mag).1 (f.parts mag).2 0).1 := by
  obtain ⟨hto, -, -⟩ := roundToInt_spec rnd s (f.parts mag).1 (f.parts mag).2
  by_cases he : 0 ≤ (f.parts mag).2
  · refine ⟨mag, hm, ?_⟩
    rw [quantize, if_pos he, ← f.parts_value, pow2, Nat.cast_mul, Nat.cast_pow, ← zpow_natCast,
      Int.toNat_of_nonneg (by omega), sub_zero, Nat.cast_two]
  · refine h.exists_mval_eq (hto.le ?_)
    have hlt : ((f.parts mag).1 : ℚ) ≤ 2 ^ f.frac * 2 := by exact_mod_cast (f.parts_lt mag).le
    have hhalf : (2 : ℚ) ^ (f.parts mag).2 ≤ 2 ^ (-1 : Int) := zpow_le_zpow_right₀ one_le_two (by omega)
    have hpos : (0 : ℚ) ≤ (f.parts mag).1 := Nat.cast_nonneg _
    have hinv : (2 : ℚ) ^ (-1 : Int) = 1 / 2 := by norm_num
    rw [hinv] at hhalf
    push_cast
    nlinarith

theorem Fmt.Arith.rint_fin (h : f.Arith) (rnd : Rnd) {a m : Nat} {s : Bool} {e : Int} (hu : f.unpack a = .fin s m e) :
    ∃ k j i, f.unpack (f.rint rnd a).val = .fin s k j ∧ dyadic s k j = (i : Int) ∧ IntRounds rnd (dyadic s m e) i ∧
      (f.rint rnd a).flags = 0 := by
  obtain ⟨mag, hm, -, rfl, rfl⟩ := Fmt.exists_of_unpack_fin hu
  obtain ⟨k, hk, hval⟩ := h.exists_mval_quantize rnd s hm
  have hnat : (roundToInt rnd s (f.parts mag).1 (f.parts mag).2).1.natAbs =
      (quantize rnd s (f.parts mag).1 (f.parts mag).2 0).1 := by
    cases s <;> simp [roundToInt, signedInt]
  have hrint : f.rint rnd a = { val := f.signed s k } := by
    rw [Fmt.rint, hu]
    dsimp only
    rw [hnat, Fmt.round_of_mval h.sound.frac_pos hk (by rw [zpow_zero, mul_one, hval])]
  rw [hrint]
  refine ⟨_, _, _, Fmt.unpack_finite h.sound hk, ?_, (roundToInt_spec ..).2.1, rfl⟩
  rw [f.dyadic_parts, hval]
  cases s <;> simp [roundToInt, signedInt, ofSign]

/-! ## Conversions (spec 10 R160, R161) -/

/-- An integer clamped to a type's range, and its flags. -/
def Ty.Clamps (t : Ty) (r : Res) (i : Int) (out exact : Word) : Prop :=
  (t.minInt ≤ i → i ≤ t.maxInt → t.toInt r.val = i ∧ r.flags = exact) ∧
    (i < t.minInt → t.toInt r.val = t.minInt ∧ r.flags = out) ∧
    (t.maxInt < i → t.toInt r.val = t.maxInt ∧ r.flags = out)

theorem Ty.clamps_clamp (t : Ty) (i : Int) (out exact : Word) :
    t.Clamps { val := wrap t.width (t.clamp i).1, flags := if (t.clamp i).2 then out else exact } i out exact := by
  have hle := t.minInt_le_maxInt
  unfold Ty.Clamps
  dsimp only
  rw [t.toInt_wrap_clamp]
  refine ⟨fun hlo hhi => ?_, fun hlo => ?_, fun hhi => ?_⟩
  · rw [Ty.clamp_of_range hlo hhi]
    exact ⟨by omega, rfl⟩
  · rw [Ty.clamp_of_lt hlo]
    exact ⟨by omega, rfl⟩
  · rw [Ty.clamp_of_gt hhi]
    exact ⟨by omega, rfl⟩

theorem convert_int_int {dst src : Ty} (hd : dst.fmt? = none) (hs : src.fmt? = none) (rnd : Rnd) (a : Nat) :
    dst.Clamps (convert dst src rnd a) (src.toInt a) flagSAT 0 := by
  have hconv : convert dst src rnd a =
      { val := wrap dst.width (dst.clamp (src.toInt a)).1
        flags := if (dst.clamp (src.toInt a)).2 then flagSAT else 0 } := by
    simp only [convert, hd, hs]
    rfl
  rw [hconv]
  exact dst.clamps_clamp _ _ _

theorem Fmt.toIntRes_fin (t : Ty) (rnd : Rnd) {a m : Nat} {s : Bool} {e : Int} (hu : f.unpack a = .fin s m e) :
    ∃ i : Int, IntRounds rnd (dyadic s m e) i ∧
      (dyadic s m e = i → t.Clamps (f.toIntRes t rnd a) i flagNV 0) ∧
      (dyadic s m e ≠ i → t.Clamps (f.toIntRes t rnd a) i flagNV flagNX) := by
  obtain ⟨-, hint, hexact⟩ := roundToInt_spec rnd s m e
  refine ⟨_, hint, fun he => ?_, fun he => ?_⟩
  · have h2 : (roundToInt rnd s m e).2 = false := Bool.eq_false_iff.mpr fun hc => hexact.mp hc he
    have hres : f.toIntRes t rnd a = { val := wrap t.width (t.clamp (roundToInt rnd s m e).1).1
                                       flags := if (t.clamp (roundToInt rnd s m e).1).2 then flagNV else 0 } := by
      simp only [Fmt.toIntRes, hu, h2]
      rfl
    rw [hres]
    exact t.clamps_clamp _ _ _
  · have h2 := hexact.mpr he
    have hres : f.toIntRes t rnd a = { val := wrap t.width (t.clamp (roundToInt rnd s m e).1).1
                                       flags := if (t.clamp (roundToInt rnd s m e).1).2 then flagNV else flagNX } := by
      simp only [Fmt.toIntRes, hu, h2]
      rfl
    rw [hres]
    exact t.clamps_clamp _ _ _

theorem Fmt.toIntRes_inf (t : Ty) (rnd : Rnd) {a : Nat} {s : Bool} (hu : f.unpack a = .inf s) :
    t.toInt (f.toIntRes t rnd a).val = (if s then t.minInt else t.maxInt) ∧ (f.toIntRes t rnd a).flags = flagNV := by
  have hle := t.minInt_le_maxInt
  simp only [Fmt.toIntRes, hu, and_true]
  refine t.toInt_wrap_of_range ?_ ?_
  · split <;> omega
  · split <;> omega

theorem Fmt.toIntRes_nan (t : Ty) (rnd : Rnd) {a : Nat} (hu : (f.unpack a).isNaN = true) :
    f.toIntRes t rnd a = { val := 0, flags := flagNV } := by
  rw [Fmt.toIntRes]
  rcases hx : f.unpack a with ⟨s, fr, q⟩ | s | ⟨s, m, e⟩
  · rfl
  all_goals simp [hx, Fl.isNaN] at hu

/-- Which formats of values in registers are narrow, and how those that are not are. -/
theorem Ty.narrow_of_fmt? {t : Ty} {d : Fmt} (h : t.fmt? = some d) :
    d.narrow = decide (d ∈ [fmtE4M3, fmtE5M2, fmtE2M1]) := by
  cases t <;> cases h <;> rfl

section toFloat

variable {dst src : Ty} {d t : Fmt} (hd : dst.fmt? = some d) (rnd : Rnd) (a : Nat)

/-- What a conversion to a format does with a number beyond its largest. -/
def Fmt.ends (d : Fmt) : Over := if d ∈ [fmtE4M3, fmtE5M2, fmtE2M1] then .saturate else .ieee

include hd

theorem Ty.ends_of_fmt? : (if d.narrow then Over.saturate else Over.ieee) = d.ends := by
  rw [Ty.narrow_of_fmt? hd, Fmt.ends]
  simp only [decide_eq_true_eq]

theorem roundsTo_convert_int (hs : src.fmt? = none) :
    RoundsTo d d.ends rnd (decide (src.toInt a < 0)) (src.toInt a) (convert dst src rnd a) := by
  have hconv : convert dst src rnd a =
      d.round d.ends rnd (decide (src.toInt a < 0)) (src.toInt a).natAbs 0 := by
    simp only [convert, hd, hs, Ty.ends_of_fmt? hd]
  have hval := dyadic_natAbs (src.toInt a) 0
  rw [zpow_zero, mul_one] at hval
  rw [hconv, ← hval]
  exact Fmt.roundsTo_round (Ty.sound_of_fmt? hd) ..

theorem roundsTo_convert_fin (hs : src.fmt? = some t) {s : Bool} {m : Nat} {e : Int} (hu : t.unpack a = .fin s m e) :
    RoundsTo d d.ends rnd s (dyadic s m e) (convert dst src rnd a) := by
  have hconv : convert dst src rnd a = d.round d.ends rnd s m e := by
    simp only [convert, hd, hs, Fmt.convert, hu, Bool.or_false, Ty.ends_of_fmt? hd]
  rw [hconv]
  exact Fmt.roundsTo_round (Ty.sound_of_fmt? hd) ..

theorem convert_inf (hs : src.fmt? = some t) {s : Bool} (hu : t.unpack a = .inf s) :
    (d ∉ [fmtE4M3, fmtE5M2, fmtE2M1] → convert dst src rnd a = { val := d.signed s d.infBits }) ∧
      (d ∈ [fmtE4M3, fmtE5M2, fmtE2M1] → convert dst src rnd a = { val := d.signed s d.maxFin, flags := flagSAT }) := by
  simp only [convert, hd, hs, Fmt.convert, hu, Bool.or_false, Ty.narrow_of_fmt? hd, decide_eq_true_eq]
  exact ⟨fun h => if_neg h, fun h => if_pos h⟩

/-- A NaN keeps the highest bits of its payload, or all of them, in a format that is not narrow. -/
theorem Fmt.convNaN_eq (hs : src.fmt? = some t) (s : Bool) (p : Nat) : t.convNaN d false s p =
    d.signed s (d.infBits + 2 ^ (d.frac - 1) +
      if t.frac ≤ d.frac then p % 2 ^ (t.frac - 1) * 2 ^ (d.frac - t.frac)
      else p % 2 ^ (t.frac - 1) / 2 ^ (t.frac - d.frac)) := by
  have hd0 := (Ty.sound_of_fmt? hd).frac_pos
  have ht0 := (Ty.sound_of_fmt? hs).frac_pos
  have hpay : p % 2 ^ (t.frac - 1) < 2 ^ (t.frac - 1) := Nat.mod_lt _ (Nat.two_pow_pos _)
  simp only [Fmt.convNaN, Fmt.qnan, ge_iff_le, Bool.false_eq_true, if_false]
  rw [Nat.mod_eq_of_lt]
  split
  next hle =>
    calc p % 2 ^ (t.frac - 1) * 2 ^ (d.frac - t.frac) < 2 ^ (t.frac - 1) * 2 ^ (d.frac - t.frac) :=
          Nat.mul_lt_mul_of_pos_right hpay (Nat.two_pow_pos _)
      _ = 2 ^ (d.frac - 1) := by
          rw [← Nat.pow_add]
          congr 1
          omega
  next hlt =>
    refine Nat.div_lt_of_lt_mul (hpay.trans_eq ?_)
    rw [← Nat.pow_add]
    congr 1
    omega

theorem convert_nan (hs : src.fmt? = some t) {s q : Bool} {p : Nat} (hu : t.unpack a = .nan s p q) :
    let nv := flagIf (!q) flagNV
    let pay := p % 2 ^ (t.frac - 1)
    let r := convert dst src rnd a
    (d ∉ [fmtE4M3, fmtE5M2, fmtE2M1] → r = { val := d.signed s (d.infBits + 2 ^ (d.frac - 1)
        + (if t.frac ≤ d.frac then pay * 2 ^ (d.frac - t.frac) else pay / 2 ^ (t.frac - d.frac)))
                                             flags := nv }) ∧
    (d = fmtE4M3 → r = { val := d.signed s 0x7F, flags := nv }) ∧
    (d = fmtE5M2 → 2 ≤ t.frac → r = { val := d.signed s (0x7E + p / 2 ^ (t.frac - 2) % 2), flags := nv }) ∧
    (d = fmtE2M1 → r = { val := 0, flags := flagNV }) := by
  intro nv pay r
  have hr : r = if d ∈ [fmtE4M3, fmtE5M2, fmtE2M1] then t.narrowNaN d s p q
      else { val := t.convNaN d false s p, flags := nv } := by
    simp only [r, convert, hd, hs, Fmt.convert, hu, Ty.narrow_of_fmt? hd, decide_eq_true_eq, nv]
  refine ⟨fun h => ?_, fun h => ?_, fun h h2 => ?_, fun h => ?_⟩
  · rw [hr, if_neg h, Fmt.convNaN_eq hd hs]
  · subst h
    rw [hr, if_pos (by simp)]
    rfl
  · subst h
    rw [hr, if_pos (by simp), Fmt.narrowNaN, if_neg (by decide), if_pos rfl, if_neg (by omega)]
  · subst h
    rw [hr, if_pos (by simp)]
    rfl

end toFloat

/-! ## The laws of O6 -/

/-- The NaN that a sum, a difference or a product of a NaN gives. -/
theorem Fmt.Arith.nan_operand (h : f.Arith) (rnd : Rnd) {g : Nat → Nat → Res}
    (hg : g ∈ [f.add rnd, f.sub rnd, f.mul rnd]) (a b : Nat) :
    ((f.unpack a).isNaN = true → a < 2 ^ (f.signBit + 1) → (g a b).val = a ||| 2 ^ (f.frac - 1) ∧
      (g a b).flags = flagIf ((f.unpack a).signalling || (f.unpack b).signalling) flagNV) ∧
    ((f.unpack a).isNaN = false → (f.unpack b).isNaN = true → b < 2 ^ (f.signBit + 1) →
      (g a b).val = b ||| 2 ^ (f.frac - 1) ∧ (g a b).flags = flagIf (f.unpack b).signalling flagNV) := by
  have hres : ∃ r, g a b = (f.nanOf [f.unpack a, f.unpack b]).getD r := by
    simp only [List.mem_cons, List.not_mem_nil, or_false] at hg
    obtain rfl | rfl | rfl := hg <;> exact ⟨_, rfl⟩
  obtain ⟨r, hr⟩ := hres
  obtain ⟨hfirst, hsecond⟩ := Fmt.nanOf_pair h (a := a) (b := b)
  rw [hr]
  refine ⟨fun ha hlt => ?_, fun ha hb hlt => ?_⟩
  · rw [hfirst ha hlt]
    exact ⟨rfl, rfl⟩
  · rw [hsecond ha hb hlt]
    exact ⟨rfl, rfl⟩

theorem Fmt.parts_zero (f : Fmt) : (f.parts 0).1 = 0 := by
  simp [Fmt.parts]

section invalid

variable (h : f.Arith)
include h

theorem Fmt.Arith.unpack_infBits : f.unpack f.infBits = .inf false := h.unpack_inf false

theorem Fmt.Arith.unpack_neg_inf : f.unpack (f.infBits + 2 ^ f.signBit) = .inf true := by
  rw [Nat.add_comm]
  exact h.unpack_inf true

theorem Fmt.Arith.unpack_zero : f.unpack 0 = .fin false (f.parts 0).1 (f.parts 0).2 :=
  Fmt.unpack_finite h.sound (s := false) (Nat.zero_le _)

theorem Fmt.Arith.invalid_eq {cause : Nat} (hc : cause < 8) :
    f.invalid cause = { val := f.infBits + 2 ^ (f.frac - 1) + cause, flags := flagNV } := by
  rw [Fmt.invalid, h.genNaN_eq hc]

/-- Infinity less infinity, and zero times infinity. -/
theorem Fmt.Arith.invalid_ops (rnd : Rnd) :
    f.add rnd f.infBits (f.infBits + 2 ^ f.signBit) = f.invalid 3 ∧ f.sub rnd f.infBits f.infBits = f.invalid 3 ∧
      f.mul rnd 0 f.infBits = f.invalid 4 ∧ f.mul rnd f.infBits 0 = f.invalid 4 := by
  simp only [Fmt.add, Fmt.sub, Fmt.mul, h.unpack_infBits, h.unpack_neg_inf, h.unpack_zero, f.parts_zero]
  exact ⟨rfl, rfl, rfl, rfl⟩

/-- A fused product of zero and infinity is invalid, whatever is added. -/
theorem Fmt.Arith.fma_invalid (rnd : Rnd) (c : Nat) :
    ((f.unpack c).isNaN = false → f.fma rnd 0 f.infBits c = f.invalid 4) ∧
      ((f.unpack c).isNaN = true → c < 2 ^ (f.signBit + 1) →
        f.fma rnd 0 f.infBits c = { val := c ||| 2 ^ (f.frac - 1), flags := flagNV }) := by
  simp only [Fmt.fma, h.unpack_infBits, h.unpack_zero, f.parts_zero]
  have hops (z : Fl) : f.nanOf [.fin false 0 (f.parts 0).2, .inf false, z] = f.nanOf [z] := rfl
  rw [hops]
  rcases hu : f.unpack c with ⟨s, fr, q⟩ | s | ⟨s, m, e⟩
  · refine ⟨nofun, fun _ hc => ?_⟩
    rw [Fmt.nanOf_cons_nan, h.qnan_of_unpack hc hu]
    cases q <;> simp [Fl.mul, Fl.isNaN, Res.raise, flagIf]
  · exact ⟨fun _ => rfl, nofun⟩
  · exact ⟨fun _ => rfl, nofun⟩

/-- A number that a pattern stands for is its own rounding. -/
theorem Fmt.Arith.round_unpack (rnd : Rnd) {n m : Nat} {sg : Bool} {e : Int} (hn : n < 2 ^ (f.signBit + 1))
    (hu : f.unpack n = .fin sg m e) : f.round .ieee rnd sg m e = { val := n } := by
  obtain ⟨mag, hmag, hmod, rfl, rfl⟩ := Fmt.exists_of_unpack_fin hu
  rw [Nat.mod_eq_of_lt hn] at hmod
  rw [Fmt.round_of_mval h.sound.frac_pos hmag (f.parts_value mag), hmod]

theorem Fmt.Arith.rint_special (rnd : Rnd) {a : Nat} (ha : a < 2 ^ (f.signBit + 1)) :
    ((f.unpack a).isInf = true → f.rint rnd a = { val := a }) ∧
      ((f.unpack a).isNaN = true → f.rint rnd a =
        { val := a ||| 2 ^ (f.frac - 1), flags := flagIf (f.unpack a).signalling flagNV }) := by
  rw [Fmt.rint]
  rcases hu : f.unpack a with ⟨s, fr, q⟩ | s | ⟨s, m, e⟩
  · refine ⟨nofun, fun _ => ?_⟩
    dsimp only
    rw [h.qnan_of_unpack ha hu]
    rfl
  · refine ⟨fun _ => ?_, nofun⟩
    dsimp only
    rw [← h.exists_of_unpack_inf ha hu]
  · exact ⟨nofun, nofun⟩

end invalid

/-- The value of a signed pattern's magnitude, and its place in the order of fmin and fmax. -/
theorem Fmt.signed_order (f : Fmt) (s : Bool) {j : Nat} (hj : j < 2 ^ f.signBit) :
    (if 2 ^ f.signBit ≤ f.signed s j then -((f.signed s j : Int) % 2 ^ f.signBit)
      else (f.signed s j : Int) % 2 ^ f.signBit) = signedInt s j ∧
    (if 2 ^ f.signBit ≤ f.signed s j then -1 - (f.signed s j : Int) % 2 ^ f.signBit
      else (f.signed s j : Int) % 2 ^ f.signBit) = signKey s j := by
  have hmod : (f.signed s j : Int) % 2 ^ f.signBit = j := by exact_mod_cast Fmt.signed_mod hj
  have hneg : 2 ^ f.signBit ≤ f.signed s j ↔ s = true := by
    cases s <;> simp [Fmt.signed, hj]
  simp only [hmod, hneg]
  cases s <;> simp [signedInt, signKey]

/-- Settles O6: rounding is by `Fmt.exists_round_eq`, which says of every format and direction which pattern it gives;
the rest says what each operation rounds, and what it does with NaNs and infinities. -/
theorem nansAndExactResults : Obligations.NaNsAndExactResults := by
  unfold Obligations.NaNsAndExactResults
  intro arith narrow
  refine ⟨fun f hf rnd a b c => ?_, fun f hf rnd n m sg e hn hu => (Fmt.arith_of_mem hf).round_unpack rnd hn hu,
    fun rnd sg m e => ⟨fun f hf => Fmt.roundsTo_round (Fmt.arith_of_mem hf).sound .., fun f hf =>
      Fmt.roundsTo_round (Fmt.sound_of_narrow hf) ..⟩,
    fun f hf rnd a b c sa sb sc ma mb mc ea eb ec ha hb hc =>
      Fmt.roundsTo_ops (Fmt.arith_of_mem hf).sound rnd ha hb hc,
    fun f hf a b ha hb => ?_, fun f hf rnd a ha => ⟨fun s m e hu => (Fmt.arith_of_mem hf).rint_fin rnd hu,
      (Fmt.arith_of_mem hf).rint_special rnd ha⟩, fun dst src rnd a => ?_⟩
  · have h := Fmt.arith_of_mem hf
    obtain ⟨hadd, hsub, hmul, hmul'⟩ := h.invalid_ops rnd
    obtain ⟨hfma, hfma'⟩ := h.fma_invalid rnd c
    rw [h.invalid_eq (by decide)] at hadd hsub hmul hmul'
    rw [h.invalid_eq (by decide)] at hfma
    exact ⟨fun g hg => h.nan_operand rnd hg a b, hadd, hsub, hmul, hmul', hfma, hfma'⟩
  · have h := Fmt.arith_of_mem hf
    intro neg mag key value nan nv quiet
    refine ⟨fun hx hy => ?_, fun up => ?_⟩
    · obtain ⟨s, j, hj, rfl⟩ := h.exists_of_not_isNaN ha (Bool.eq_false_iff.mpr hx)
      obtain ⟨t, k, hk, rfl⟩ := h.exists_of_not_isNaN hb (Bool.eq_false_iff.mpr hy)
      obtain ⟨hvj, hkj⟩ := f.signed_order s (hj.trans_lt f.infBits_lt)
      obtain ⟨hvk, hkk⟩ := f.signed_order t (hk.trans_lt f.infBits_lt)
      have hvalue : value (f.signed s j) = signedInt s j ∧ value (f.signed t k) = signedInt t k := ⟨hvj, hvk⟩
      have hkey : key (f.signed s j) = signKey s j ∧ key (f.signed t k) = signKey t k := ⟨hkj, hkk⟩
      rw [hvalue.1, hvalue.2, hkey.1, hkey.2]
      exact ⟨h.lt_unpack hj hk, (h.minMax_signed hj hk).1, (h.minMax_signed hj hk).2, h.order_signed hj hk⟩
    · obtain ⟨hleft, hright, hboth, horder⟩ := h.minMax_nan up (b := b) ha
      exact ⟨fun hx hy => hleft hx (Bool.eq_false_iff.mpr hy), fun hx hy => hright (Bool.eq_false_iff.mpr hx) hy,
        hboth, horder⟩
  · intro r clamps ends
    refine ⟨fun hd hs => convert_int_int hd hs rnd a, fun d hd hs => roundsTo_convert_int hd rnd a hs,
      fun t hd hs => ?_, fun d t hd hs => ⟨fun s m e hu => roundsTo_convert_fin hd rnd a hs hu,
        fun s hu => convert_inf hd rnd a hs hu, fun s p q hu => convert_nan hd rnd a hs hu⟩⟩
    have hr : r = t.toIntRes dst rnd a := by
      simp only [r, convert, hd, hs]
    have hclamps (i : Int) (out exact : Word) :
        clamps i out exact = dst.Clamps (t.toIntRes dst rnd a) i out exact := by
      rw [← hr]
      rfl
    simp only [hclamps]
    rw [hr]
    exact ⟨fun s m e hu => Fmt.toIntRes_fin dst rnd hu, fun s hu => Fmt.toIntRes_inf dst rnd hu,
      Fmt.toIntRes_nan dst rnd⟩

end Sys2Proof
end
